-- ==== Sys2Proof/Word.lean ====
section
/-! DEFINITION. The word types of the part (R5, R6, R16) and the plain data that an event of the part can carry. -/

namespace Sys2Proof

/-- Eight bits of memory. -/
abbrev Byte := BitVec 8

/-- A scalar register, a CSR or a fat pointer: 64 bits (R16, R29, R44). -/
abbrev Word := BitVec 64

/-- An instruction word: 32 bits (R66). -/
abbrev Word32 := BitVec 32

/-- A vector register: 512 bits (R16). -/
abbrev Vec := BitVec 512

/-- Where a parity error was found (R278, R279). The first seven are repaired by a re-run; the last two are not. -/
inductive ParityPlace where
  | transitSpad (line : Nat)
  | transitVault (line : Nat)
  | deltaPool
  | pointerTable
  | regFile
  | queue
  | accumulator
  | retainedKept
  | reservedArea
  deriving DecidableEq, Repr

/-- A fabric packet (R350): the header fields that the spec lays out, the op list still to act, and the data flits
as elements. `body` is what a packet of another kind than COLL carries, kept unchanged. -/
structure Packet where
  kind : BitVec 3
  vc : BitVec 2
  ord : Bool
  ovf : Bool
  det : Bool
  nhop : Nat
  part : Nat
  job : Nat
  gen : BitVec 8
  ingress : Nat
  srcDie : Nat
  srcTile : Nat
  tag : BitVec 16
  count : Nat
  leaves : Nat
  total : Nat
  contrib : BitVec 16
  ctype : BitVec 3
  red : BitVec 2
  dst : BitVec 32
  path : BitVec 32
  ops : List (BitVec 32)
  elems : List (BitVec 64)
  target : Word
  op : Nat
  /-- REDUCE entries met, one nibble of PATH each. -/
  depth : Nat
  /-- THE MODEL'S OWN: the tile and the operation of each issuer, to which acknowledgements return (R364). -/
  issuers : List (Nat × Nat)
  body : List Byte
  deriving DecidableEq, Repr

end Sys2Proof
end

