-- ==== Sys2Proof/Syntax.lean ====
section
/-! DEFINITION. Instr: one constructor for each row of spec/opcode_table.json. The rows with bits are the
instruction words of chapters 03 to 07; their operands are the fields of the word, as R67 lays them out. The rows
without bits are the steps that the part takes of itself or that another party makes it take (95_what_each_step_holds);
their operands name the agent that steps and carry what arrives. The order is that of the table within each kind; steps
that only another party causes come after those that the part raises itself, and words without fields come last. -/

namespace Sys2Proof

/-- The instructions and the steps of the part. Keys of events: `die` is a physical die, `tile` a TILEID, `ctx` a
context 0 to 10, `part` a partition, `launch` a launch, `modl` a module, `fn` a function, `sw` a switch. -/
inductive Instr where
  /-- ADD (R106). Integer add of two scalar registers, modulo 2^w, with the result extended to 64 bits. -/
  | add (d : BitVec 5) (a : BitVec 5) (b : BitVec 5) (t : BitVec 4)
  /-- SUB (R106). Integer subtract modulo 2^w. -/
  | sub (d : BitVec 5) (a : BitVec 5) (b : BitVec 5) (t : BitVec 4)
  /-- MUL (R106). Low w bits of the integer product. -/
  | mul (d : BitVec 5) (a : BitVec 5) (b : BitVec 5) (t : BitVec 4)
  /-- MULH (R106). High w bits of the signed product. -/
  | mulh (d : BitVec 5) (a : BitVec 5) (b : BitVec 5) (t : BitVec 4)
  /-- MULHN (R106). High w bits of the unsigned product. -/
  | mulhn (d : BitVec 5) (a : BitVec 5) (b : BitVec 5) (t : BitVec 4)
  /-- DIV (R108). Signed division truncating toward zero, with fixed edge cases and no trap. -/
  | div (d : BitVec 5) (a : BitVec 5) (b : BitVec 5) (t : BitVec 4)
  /-- DIVN (R108). Unsigned division with fixed edge cases. -/
  | divn (d : BitVec 5) (a : BitVec 5) (b : BitVec 5) (t : BitVec 4)
  /-- REM (R108). Signed remainder with the sign of the dividend. -/
  | rem (d : BitVec 5) (a : BitVec 5) (b : BitVec 5) (t : BitVec 4)
  /-- REMN (R108). Unsigned remainder. -/
  | remn (d : BitVec 5) (a : BitVec 5) (b : BitVec 5) (t : BitVec 4)
  /-- AND (R106). Bitwise AND of two scalar registers. -/
  | and (d : BitVec 5) (a : BitVec 5) (b : BitVec 5) (t : BitVec 4)
  /-- OR (R106). Bitwise OR of two scalar registers. -/
  | or (d : BitVec 5) (a : BitVec 5) (b : BitVec 5) (t : BitVec 4)
  /-- XOR (R106). Bitwise XOR of two scalar registers. -/
  | xor (d : BitVec 5) (a : BitVec 5) (b : BitVec 5) (t : BitVec 4)
  /-- ANDN (R106). x AND NOT y. -/
  | andn (d : BitVec 5) (a : BitVec 5) (b : BitVec 5) (t : BitVec 4)
  /-- SHL (R107). Logical left shift by the whole count register. -/
  | shl (d : BitVec 5) (a : BitVec 5) (b : BitVec 5) (t : BitVec 4)
  /-- SHR (R107). Logical right shift. -/
  | shr (d : BitVec 5) (a : BitVec 5) (b : BitVec 5) (t : BitVec 4)
  /-- SRA (R107). Arithmetic right shift. -/
  | sra (d : BitVec 5) (a : BitVec 5) (b : BitVec 5) (t : BitVec 4)
  /-- ROT (R107). Rotate left by the count modulo w. -/
  | rot (d : BitVec 5) (a : BitVec 5) (b : BitVec 5) (t : BitVec 4)
  /-- MIN (R106). Signed minimum. -/
  | min (d : BitVec 5) (a : BitVec 5) (b : BitVec 5) (t : BitVec 4)
  /-- MAX (R106). Signed maximum. -/
  | max (d : BitVec 5) (a : BitVec 5) (b : BitVec 5) (t : BitVec 4)
  /-- MINN (R106). Unsigned minimum. -/
  | minn (d : BitVec 5) (a : BitVec 5) (b : BitVec 5) (t : BitVec 4)
  /-- MAXN (R106). Unsigned maximum. -/
  | maxn (d : BitVec 5) (a : BitVec 5) (b : BitVec 5) (t : BitVec 4)
  /-- SLT (R106). Set to 1 if signed less than. -/
  | slt (d : BitVec 5) (a : BitVec 5) (b : BitVec 5) (t : BitVec 4)
  /-- SLTN (R106). Set to 1 if unsigned less than. -/
  | sltn (d : BitVec 5) (a : BitVec 5) (b : BitVec 5) (t : BitVec 4)
  /-- SEQ (R106). Set to 1 if equal. -/
  | seq (d : BitVec 5) (a : BitVec 5) (b : BitVec 5) (t : BitVec 4)
  /-- CLZ (R106). Count leading zeros within w bits. -/
  | clz (d : BitVec 5) (a : BitVec 5) (t : BitVec 4)
  /-- CTZ (R106). Count trailing zeros. -/
  | ctz (d : BitVec 5) (a : BitVec 5) (t : BitVec 4)
  /-- POPC (R106). Count ones. -/
  | popc (d : BitVec 5) (a : BitVec 5) (t : BitVec 4)
  /-- SEXT (R106). Sign-extend the low w bits. -/
  | sext (d : BitVec 5) (a : BitVec 5) (t : BitVec 4)
  /-- ZEXT (R106). Zero-extend the low w bits. -/
  | zext (d : BitVec 5) (a : BitVec 5) (t : BitVec 4)
  /-- ADDI (R109). Add a sign-extended 16-bit immediate to a 64-bit register. -/
  | addi (d : BitVec 5) (a : BitVec 5) (i : BitVec 16)
  /-- ANDI (R109). AND with a sign-extended immediate. -/
  | andi (d : BitVec 5) (a : BitVec 5) (i : BitVec 16)
  /-- ORI (R109). OR with a zero-extended immediate. -/
  | ori (d : BitVec 5) (a : BitVec 5) (i : BitVec 16)
  /-- XORI (R109). XOR with a zero-extended immediate. -/
  | xori (d : BitVec 5) (a : BitVec 5) (i : BitVec 16)
  /-- SHLI (R110). Shift the 64-bit register left by an immediate count. -/
  | shli (d : BitVec 5) (a : BitVec 5) (c : BitVec 6)
  /-- SHRI (R110). Logical right shift by an immediate count. -/
  | shri (d : BitVec 5) (a : BitVec 5) (c : BitVec 6)
  /-- SRAI (R110). Arithmetic right shift by an immediate count. -/
  | srai (d : BitVec 5) (a : BitVec 5) (c : BitVec 6)
  /-- LIL (R111). Load a sign-extended 16-bit immediate. -/
  | lil (d : BitVec 5) (i : BitVec 16)
  /-- LIH (R111). Replace halfword h of the register with the immediate. -/
  | lih (d : BitVec 5) (h : BitVec 5) (i : BitVec 16)
  /-- PADD (R112). Add a signed register to a pointer's offset, trapping PTROVF on leaving 2^40. -/
  | padd (d : BitVec 5) (a : BitVec 5) (b : BitVec 5)
  /-- PSET (R112). Set one pointer field from a register. -/
  | pset (d : BitVec 5) (a : BitVec 5) (b : BitVec 5) (t : BitVec 4)
  /-- PGET (R112). Extract one pointer field. -/
  | pget (d : BitVec 5) (a : BitVec 5) (t : BitVec 4)
  /-- PDIE (R112). Replace DIE 0xFFFF by the issuing die's index. -/
  | pdie (d : BitVec 5) (a : BitVec 5)
  /-- PDIFF (R112). Offset difference of two pointers on one die, or a sentinel. -/
  | pdiff (d : BitVec 5) (a : BitVec 5) (b : BitVec 5)
  /-- PADDI (R113). Add a signed immediate to a pointer's offset. -/
  | paddi (d : BitVec 5) (a : BitVec 5) (i : BitVec 16)
  /-- BR (R114). Compare two 64-bit registers and branch on the condition. -/
  | br (c : BitVec 4) (a : BitVec 5) (b : BitVec 5) (o : BitVec 12)
  /-- JMP (R115). PC-relative jump. -/
  | jmp (o : BitVec 26)
  /-- JAL (R115). Write the link to s31 and jump PC-relative. -/
  | jal (o : BitVec 26)
  /-- JALR (R116). Jump to a register pointer plus a word offset, writing the link. -/
  | jalr (d : BitVec 5) (a : BitVec 5) (i : BitVec 16)
  /-- LOOP (R118). Open a hardware loop level with the count from a register. -/
  | loop (c : BitVec 5) (l : BitVec 10) (v : BitVec 2)
  /-- LOOPI (R118). Open a hardware loop level with an immediate count. -/
  | loopi (c : BitVec 5) (l : BitVec 10) (v : BitVec 2) (h : BitVec 8)
  /-- RPT (R84). Capture n following words and replay them k times with shifting register fields. -/
  | rpt (n : BitVec 4) (k : BitVec 6) (d : BitVec 4) (a : BitVec 4) (b : BitVec 4)
  /-- CSRR (R123). Read a CSR into a scalar register. -/
  | csrr (d : BitVec 5) (c : BitVec 12)
  /-- CSRW (R124). Write a CSR, returning the old value. -/
  | csrw (d : BitVec 5) (a : BitVec 5) (c : BitVec 12)
  /-- CSRS (R124). Set CSR bits, returning the old value. -/
  | csrs (d : BitVec 5) (a : BitVec 5) (c : BitVec 12)
  /-- CSRC (R124). Clear CSR bits, returning the old value. -/
  | csrc (d : BitVec 5) (a : BitVec 5) (c : BitVec 12)
  /-- TRAP (R128). Raise cause TRAP with a 16-bit code. -/
  | trap (a : BitVec 5) (b : BitVec 5) (c : BitVec 6)
  /-- VADD_FLT (R138). Float vector add. -/
  | vaddFlt (d : BitVec 5) (a : BitVec 5) (b : BitVec 5) (k : BitVec 3) (t : BitVec 4)
  /-- VSUB_FLT (R138). Float vector subtract. -/
  | vsubFlt (d : BitVec 5) (a : BitVec 5) (b : BitVec 5) (k : BitVec 3) (t : BitVec 4)
  /-- VMUL_FLT (R138). Float vector multiply. -/
  | vmulFlt (d : BitVec 5) (a : BitVec 5) (b : BitVec 5) (k : BitVec 3) (t : BitVec 4)
  /-- VDIV (R138). Correctly rounded float vector divide. -/
  | vdiv (d : BitVec 5) (a : BitVec 5) (b : BitVec 5) (k : BitVec 3) (t : BitVec 4)
  /-- VSQRT (R138). Correctly rounded float square root. -/
  | vsqrt (d : BitVec 5) (a : BitVec 5) (k : BitVec 3) (t : BitVec 4)
  /-- VMIN_FLT (R139). Float vector minimum. -/
  | vminFlt (d : BitVec 5) (a : BitVec 5) (b : BitVec 5) (k : BitVec 3) (t : BitVec 4)
  /-- VMAX_FLT (R139). Float vector maximum. -/
  | vmaxFlt (d : BitVec 5) (a : BitVec 5) (b : BitVec 5) (k : BitVec 3) (t : BitVec 4)
  /-- VABS (R139). Clear the sign bit of each float element. -/
  | vabs (d : BitVec 5) (a : BitVec 5) (k : BitVec 3) (t : BitVec 4)
  /-- VNEG (R139). Invert the sign bit of each float element. -/
  | vneg (d : BitVec 5) (a : BitVec 5) (k : BitVec 3) (t : BitVec 4)
  /-- VADD_INT (R140). Integer vector add, wrapping. -/
  | vaddInt (d : BitVec 5) (a : BitVec 5) (b : BitVec 5) (k : BitVec 3) (t : BitVec 4)
  /-- VSUB_INT (R140). Integer vector subtract. -/
  | vsubInt (d : BitVec 5) (a : BitVec 5) (b : BitVec 5) (k : BitVec 3) (t : BitVec 4)
  /-- VMUL_INT (R140). Low bits of integer vector product. -/
  | vmulInt (d : BitVec 5) (a : BitVec 5) (b : BitVec 5) (k : BitVec 3) (t : BitVec 4)
  /-- VMIN_INT (R140). Integer vector minimum. -/
  | vminInt (d : BitVec 5) (a : BitVec 5) (b : BitVec 5) (k : BitVec 3) (t : BitVec 4)
  /-- VMAX_INT (R140). Integer vector maximum. -/
  | vmaxInt (d : BitVec 5) (a : BitVec 5) (b : BitVec 5) (k : BitVec 3) (t : BitVec 4)
  /-- VAND (R140). Vector bitwise AND. -/
  | vand (d : BitVec 5) (a : BitVec 5) (b : BitVec 5) (k : BitVec 3) (t : BitVec 4)
  /-- VOR (R140). Vector bitwise OR. -/
  | vor (d : BitVec 5) (a : BitVec 5) (b : BitVec 5) (k : BitVec 3) (t : BitVec 4)
  /-- VXOR (R140). Vector bitwise XOR. -/
  | vxor (d : BitVec 5) (a : BitVec 5) (b : BitVec 5) (k : BitVec 3) (t : BitVec 4)
  /-- VSHL (R141). Per-element left shift. -/
  | vshl (d : BitVec 5) (a : BitVec 5) (b : BitVec 5) (k : BitVec 3) (t : BitVec 4)
  /-- VSHR (R141). Per-element logical right shift. -/
  | vshr (d : BitVec 5) (a : BitVec 5) (b : BitVec 5) (k : BitVec 3) (t : BitVec 4)
  /-- VSRA (R141). Per-element arithmetic right shift. -/
  | vsra (d : BitVec 5) (a : BitVec 5) (b : BitVec 5) (k : BitVec 3) (t : BitVec 4)
  /-- VFMA (R142). Fused va times vb plus vc, rounded once. -/
  | vfma (d : BitVec 5) (a : BitVec 5) (b : BitVec 5) (c : BitVec 5) (k : BitVec 3) (t : BitVec 1)
  /-- VFMS (R142). Fused va times vb minus vc. -/
  | vfms (d : BitVec 5) (a : BitVec 5) (b : BitVec 5) (c : BitVec 5) (k : BitVec 3) (t : BitVec 1)
  /-- VFNMA (R142). Fused minus va times vb plus vc. -/
  | vfnma (d : BitVec 5) (a : BitVec 5) (b : BitVec 5) (c : BitVec 5) (k : BitVec 3) (t : BitVec 1)
  /-- VCMP (R144). Compare elements and write a whole predicate. -/
  | vcmp (d : BitVec 5) (a : BitVec 5) (b : BitVec 5) (k : BitVec 3) (c : BitVec 4) (t : BitVec 4)
  /-- VSEL (R145). Select elements of va or vb by predicate. -/
  | vsel (d : BitVec 5) (a : BitVec 5) (b : BitVec 5) (k : BitVec 3) (t : BitVec 4)
  /-- VCVT (R147). Convert elements between types with the chosen rounding and saturation. -/
  | vcvt (d : BitVec 5) (a : BitVec 5) (x : BitVec 1) (r : BitVec 3) (s : BitVec 1) (k : BitVec 3) (f : BitVec 4) (t : BitVec 4)
  /-- VPERM (R148). Permute elements of va by indices in vb. -/
  | vperm (d : BitVec 5) (a : BitVec 5) (b : BitVec 5) (k : BitVec 3) (t : BitVec 4)
  /-- VBCAST (R148). Broadcast a scalar into active elements. -/
  | vbcast (d : BitVec 5) (a : BitVec 5) (k : BitVec 3) (t : BitVec 4)
  /-- VMOVS (R148). Move one vector element to a scalar register. -/
  | vmovs (d : BitVec 5) (a : BitVec 5) (b : BitVec 5) (t : BitVec 4)
  /-- VINS (R148). Insert a scalar into one vector element. -/
  | vins (d : BitVec 5) (a : BitVec 5) (b : BitVec 5) (t : BitVec 4)
  /-- VIOTA (R148). Write each element's index. -/
  | viota (d : BitVec 5) (k : BitVec 3) (t : BitVec 4)
  /-- VPACK (R148). Concatenate low halves of two registers. -/
  | vpack (d : BitVec 5) (a : BitVec 5) (b : BitVec 5)
  /-- VUNPK (R148). Move one half of va to the low half of vd. -/
  | vunpk (d : BitVec 5) (a : BitVec 5) (h : BitVec 1)
  /-- VREDUCE (R151). Reduce elements in the fixed tree into lane 0. -/
  | vreduce (d : BitVec 5) (a : BitVec 5) (k : BitVec 3) (o : BitVec 3) (t : BitVec 4)
  /-- VSCAN (R152). Inclusive prefix combination in element order. -/
  | vscan (d : BitVec 5) (a : BitVec 5) (k : BitVec 3) (o : BitVec 3) (t : BitVec 4)
  /-- TLOAD (R155). Load an interpolation table into a table slot. -/
  | tload (s : BitVec 5) (a : BitVec 5)
  /-- TINTERP (R156). Piecewise quadratic interpolation of each element through a table slot. -/
  | tinterp (d : BitVec 5) (a : BitVec 5) (s : BitVec 5) (k : BitVec 3) (t : BitVec 4)
  /-- VQDQ (R157). Decode 16 Q4 codes with a subscale to unscaled FP32. -/
  | vqdq (d : BitVec 5) (a : BitVec 5) (b : BitVec 5) (k : BitVec 3) (t : BitVec 4)
  /-- QSCALE (R158). Apply the Q4 super-scale step to each lane. -/
  | qscale (d : BitVec 5) (a : BitVec 5) (b : BitVec 5) (k : BitVec 3) (t : BitVec 4)
  /-- KAND (R159). Predicate AND. -/
  | kand (d : BitVec 5) (a : BitVec 5) (b : BitVec 5)
  /-- KOR (R159). Predicate OR. -/
  | kor (d : BitVec 5) (a : BitVec 5) (b : BitVec 5)
  /-- KXOR (R159). Predicate XOR. -/
  | kxor (d : BitVec 5) (a : BitVec 5) (b : BitVec 5)
  /-- KNOT (R159). Predicate NOT. -/
  | knot (d : BitVec 5) (a : BitVec 5)
  /-- KPOP (R159). Count ones of a predicate into a scalar. -/
  | kpop (d : BitVec 5) (a : BitVec 5)
  /-- KFIRST (R159). Index of the lowest set predicate bit, or 16. -/
  | kfirst (d : BitVec 5) (a : BitVec 5)
  /-- KSET (R159). Set a predicate from a scalar. -/
  | kset (d : BitVec 5) (a : BitVec 5)
  /-- SBIND_IN (R161). Bind a vector register to an input ring in the scratchpad. -/
  | sbindIn (d : BitVec 5) (a : BitVec 5) (b : BitVec 5) (e : BitVec 3)
  /-- SBIND_OUT (R161). Bind a vector register to an output ring. -/
  | sbindOut (d : BitVec 5) (a : BitVec 5) (b : BitVec 5) (e : BitVec 3)
  /-- SBIND_COPY (R161). Bind a vector register to a copy stream port. -/
  | sbindCopy (d : BitVec 5) (e : BitVec 3)
  /-- SUNBIND (R163). Remove a stream binding and restore the register. -/
  | sunbind (d : BitVec 5)
  /-- SSTAT (R164). Read the state of a stream binding. -/
  | sstat (d : BitVec 5) (a : BitVec 5)
  /-- LD (R172). Scalar load with displacement. -/
  | ld (d : BitVec 5) (b : BitVec 5) (f : BitVec 3) (i : BitVec 12)
  /-- LD_ACQ (R172). Scalar load that acquires at scope e. -/
  | ldAcq (d : BitVec 5) (b : BitVec 5) (f : BitVec 3) (e : BitVec 5)
  /-- ST (R172). Scalar store with displacement, optionally non-temporal. -/
  | st (d : BitVec 5) (b : BitVec 5) (n : BitVec 1) (w : BitVec 2) (i : BitVec 12)
  /-- ST_REL (R172). Scalar store that releases at scope e. -/
  | stRel (d : BitVec 5) (b : BitVec 5) (n : BitVec 1) (w : BitVec 2) (e : BitVec 5)
  /-- LDV (R173). Load 64 contiguous bytes into a vector register. -/
  | ldv (d : BitVec 5) (b : BitVec 5) (n : BitVec 1) (i : BitVec 12)
  /-- LDV_ACQ (R173). Vector load that acquires. -/
  | ldvAcq (d : BitVec 5) (b : BitVec 5) (n : BitVec 1) (e : BitVec 5)
  /-- STV (R173). Store a vector register to 64 contiguous bytes. -/
  | stv (d : BitVec 5) (b : BitVec 5) (n : BitVec 1) (i : BitVec 12)
  /-- STV_REL (R173). Vector store that releases. -/
  | stvRel (d : BitVec 5) (b : BitVec 5) (n : BitVec 1) (e : BitVec 5)
  /-- LDVS (R174). Strided vector load. -/
  | ldvs (d : BitVec 5) (a : BitVec 5) (b : BitVec 5) (t : BitVec 4)
  /-- LDVS_ACQ (R174). Strided vector load that acquires. -/
  | ldvsAcq (d : BitVec 5) (a : BitVec 5) (b : BitVec 5) (e : BitVec 5) (t : BitVec 4)
  /-- STVS (R174). Strided vector store. -/
  | stvs (d : BitVec 5) (a : BitVec 5) (b : BitVec 5) (t : BitVec 4)
  /-- STVS_REL (R174). Strided vector store that releases. -/
  | stvsRel (d : BitVec 5) (a : BitVec 5) (b : BitVec 5) (e : BitVec 5) (t : BitVec 4)
  /-- GATH (R176). Gather elements by index or pointer, each routed on its own. -/
  | gath (d : BitVec 5) (b : BitVec 5) (x : BitVec 5) (k : BitVec 3) (i : BitVec 2) (g : BitVec 1) (c : BitVec 3) (z : BitVec 2)
  /-- SCAT (R176). Scatter elements by index or pointer. -/
  | scat (d : BitVec 5) (b : BitVec 5) (x : BitVec 5) (k : BitVec 3) (i : BitVec 2) (g : BitVec 1) (c : BitVec 3) (z : BitVec 2)
  /-- LDFE (R179). Wait for full, read the word and set empty. -/
  | ldfe (d : BitVec 5) (b : BitVec 5) (i : BitVec 13)
  /-- LDFF (R179). Wait for full and read, leaving full. -/
  | ldff (d : BitVec 5) (b : BitVec 5) (i : BitVec 13)
  /-- STE (R179). Wait for empty, write the word and set full. -/
  | ste (d : BitVec 5) (b : BitVec 5) (i : BitVec 13)
  /-- STF (R179). Write the word and set full without waiting. -/
  | stf (d : BitVec 5) (b : BitVec 5) (i : BitVec 13)
  /-- FEGET (R179). Read a word's full/empty bit. -/
  | feget (d : BitVec 5) (b : BitVec 5) (i : BitVec 13)
  /-- FESET (R179). Set a word's full/empty bit. -/
  | feset (d : BitVec 5) (b : BitVec 5) (i : BitVec 13)
  /-- AMO_ADD (R182). Atomic add at the home bank, returning the old value. -/
  | amoAdd (d : BitVec 5) (a : BitVec 5) (b : BitVec 5) (r : BitVec 2) (e : BitVec 5) (w : BitVec 1)
  /-- AMO_MIN (R182). Atomic signed minimum. -/
  | amoMin (d : BitVec 5) (a : BitVec 5) (b : BitVec 5) (r : BitVec 2) (e : BitVec 5) (w : BitVec 1)
  /-- AMO_MAX (R182). Atomic signed maximum. -/
  | amoMax (d : BitVec 5) (a : BitVec 5) (b : BitVec 5) (r : BitVec 2) (e : BitVec 5) (w : BitVec 1)
  /-- AMO_AND (R182). Atomic AND. -/
  | amoAnd (d : BitVec 5) (a : BitVec 5) (b : BitVec 5) (r : BitVec 2) (e : BitVec 5) (w : BitVec 1)
  /-- AMO_OR (R182). Atomic OR. -/
  | amoOr (d : BitVec 5) (a : BitVec 5) (b : BitVec 5) (r : BitVec 2) (e : BitVec 5) (w : BitVec 1)
  /-- AMO_XOR (R182). Atomic XOR. -/
  | amoXor (d : BitVec 5) (a : BitVec 5) (b : BitVec 5) (r : BitVec 2) (e : BitVec 5) (w : BitVec 1)
  /-- AMO_SWAP (R182). Atomic swap. -/
  | amoSwap (d : BitVec 5) (a : BitVec 5) (b : BitVec 5) (r : BitVec 2) (e : BitVec 5) (w : BitVec 1)
  /-- AMO_CAS (R182). Atomic compare-and-swap against S[d]. -/
  | amoCas (d : BitVec 5) (a : BitVec 5) (b : BitVec 5) (r : BitVec 2) (e : BitVec 5) (w : BitVec 1)
  /-- FENCE (R184). Order the context's accesses at scope e by kind. -/
  | fence (k : BitVec 2) (e : BitVec 5)
  /-- SEAL (R185). Make an HBM range read-only, as a system-scope release. -/
  | seal (a : BitVec 5) (b : BitVec 5)
  /-- UNSEAL (R185). Make an HBM range writable again and drop its replicas. -/
  | unseal (a : BitVec 5) (b : BitVec 5)
  /-- ARRIVE (R189). Arrive at the current phase of a group and return a token. -/
  | arrive (d : BitVec 5) (e : BitVec 5)
  /-- WAITB (R190). Wait until the token's group leaves its phase. -/
  | waitb (a : BitVec 5)
  /-- TESTB (R190). Test without waiting whether WAITB would complete. -/
  | testb (d : BitVec 5) (a : BitVec 5)
  /-- JOIN (R188). Join or create a group, possibly pending. -/
  | join (d : BitVec 5) (a : BitVec 5)
  /-- LEAVE (R188). Leave a group and re-examine phase completion. -/
  | leave (d : BitVec 5) (a : BitVec 5)
  /-- SCOPESET (R191). Set a programmable scope entry to a group or INVALID. -/
  | scopeset (a : BitVec 5) (e : BitVec 5)
  /-- ENQ (R194). Enqueue a value on a ring in HBM through the queue controller. -/
  | enq (d : BitVec 5) (a : BitVec 5) (b : BitVec 5) (tr : BitVec 1)
  /-- DEQ (R194). Dequeue a value from a ring in HBM. -/
  | deq (d : BitVec 5) (a : BitVec 5) (b : BitVec 5) (tr : BitVec 1)
  /-- INBOXR (R195). Remove the oldest inbox entry, waiting if empty unless .try. -/
  | inboxr (d : BitVec 5) (b : BitVec 5) (tr : BitVec 1)
  /-- INBOXP (R195). Return the oldest inbox entry without removing it. -/
  | inboxp (d : BitVec 5) (b : BitVec 5)
  /-- SSB (R196). Wait for helpers and tokens, then vote at the barrier with a reduction operand. -/
  | ssb (a : BitVec 5) (b : BitVec 5) (r : BitVec 3)
  /-- SSVOTE (R197). Set ABPEND.PEND when the operand is non-zero. -/
  | ssvote (a : BitVec 5)
  /-- PFL (R199). Append a page-fetch descriptor to the superstep's list. -/
  | pfl (d : BitVec 5) (a : BitVec 5)
  /-- CONT (R200). Save the helper as a continuation record and yield its slot. -/
  | cont (a : BitVec 5) (b : BitVec 5)
  /-- WAITP (R203). Wait for selected producer launches to trigger or end. -/
  | waitp (d : BitVec 5) (a : BitVec 5)
  /-- MMA (R211). Fetch A and B tiles and accumulate a 16x16 product into an accumulator slot. -/
  | mma (s : BitVec 3) (a : BitVec 5) (b : BitVec 5) (t : BitVec 4) (u : BitVec 4) (c : BitVec 2) (m : BitVec 3)
  /-- MWAIT (R215). Wait until no MMA to the slot is in flight. -/
  | mwait (s : BitVec 3)
  /-- ACCRD (R215). Read one accumulator row into a vector register. -/
  | accrd (d : BitVec 5) (s : BitVec 3) (r : BitVec 4)
  /-- ACCWR (R215). Write one accumulator row from a vector register. -/
  | accwr (a : BitVec 5) (s : BitVec 3) (r : BitVec 4)
  /-- MZERO (R215). Zero an accumulator slot. -/
  | mzero (s : BitVec 3)
  /-- EPCFG (R218). Load an epilogue configuration descriptor into a register. -/
  | epcfg (a : BitVec 5) (c : BitVec 2)
  /-- EPI (R219). Hand the head accumulator slot to the epilogue with a configuration. -/
  | epi (a : BitVec 5) (b : BitVec 5) (w : BitVec 3) (c : BitVec 2)
  /-- COPY (R222). Start a linear copy, optionally delivered to a stream. -/
  | copy (d : BitVec 5) (a : BitVec 5) (b : BitVec 5) (w : BitVec 3) (s : BitVec 1)
  /-- COPY2D (R223). Start a two-dimensional copy from a descriptor. -/
  | copy2d (d : BitVec 5) (a : BitVec 5) (w : BitVec 3) (s : BitVec 1)
  /-- COPYG (R224). Start a gather-on-fill row copy. -/
  | copyg (a : BitVec 5) (b : BitVec 5) (w : BitVec 3)
  /-- COPYR (R225). Start an element-wise reducing copy. -/
  | copyr (d : BitVec 5) (a : BitVec 5) (b : BitVec 5) (w : BitVec 3) (o : BitVec 2) (y : BitVec 3)
  /-- WAITT (R226). Wait until masked token counts are zero, then acquire. -/
  | waitt (m : BitVec 8)
  /-- START (R229). Start an idle helper at a target PC with arguments and live mask. -/
  | start (d : BitVec 5) (a : BitVec 5) (b : BitVec 5) (h : BitVec 4)
  /-- START_B (R230). Tie an idle helper to a BOOKED handle. -/
  | startB (d : BitVec 5) (a : BitVec 5) (b : BitVec 5) (h : BitVec 4) (n : BitVec 4)
  /-- HWAIT (R231). Wait until named helpers are neither LIVE nor tied, returning the faulted mask. -/
  | hwait (d : BitVec 5) (a : BitVec 5)
  /-- BOOK (R233). Reserve the earliest free calendar window for declared resources. -/
  | book (d : BitVec 5) (a : BitVec 5) (b : BitVec 5)
  /-- BOOKQ (R233). Report what BOOK would return without reserving. -/
  | bookq (d : BitVec 5) (a : BitVec 5) (b : BitVec 5)
  /-- UNBOOK (R234). Free a BOOKED or LAPSED handle and release its tie. -/
  | unbook (d : BitVec 5) (a : BitVec 5)
  /-- CALQ (R235). Read the resources booked in one calendar slot. -/
  | calq (d : BitVec 5) (a : BitVec 5)
  /-- PUT (R236). Send up to 1,024 local bytes to a remote destination in one packet. -/
  | put (d : BitVec 5) (a : BitVec 5) (b : BitVec 5) (w : BitVec 3)
  /-- GET (R236). Fetch up to 1,024 remote bytes to local memory. -/
  | get (d : BitVec 5) (a : BitVec 5) (b : BitVec 5) (w : BitVec 3)
  /-- COLL (R237). Inject one collective packet from a descriptor. -/
  | coll (a : BitVec 5) (w : BitVec 3)
  /-- MSG (R240). Hold a program message for posting at the sender's commit. -/
  | msg (d : BitVec 5) (a : BitVec 5) (b : BitVec 5)
  /-- PUBV (R241). Ask that the learner's version be published at the next commit. -/
  | pubv (d : BitVec 5)
  /-- VSW (R242). Ask the partition to switch policy version at its next commit. -/
  | vsw (d : BitVec 5) (a : BitVec 5)
  /-- TKREC (R243). Write one token record to a ring in kept memory. -/
  | tkrec (a : BitVec 5) (b : BitVec 5)
  /-- STREAM_WAKE (R162). A stream access that waited for a full or empty slot or a delivered group completes. -/
  | streamWake (die tile ctx : Nat)
  /-- GATHER_ELEMENT_REPLAY (R177). A waiting gather or scatter element is replayed when its own tag or target answers. -/
  | gatherElementReplay (die tile ctx elem : Nat)
  /-- FE_WAITER_WAKE (R180). A queued full/empty waiter whose condition now holds completes in arrival order. -/
  | feWaiterWake (key : Nat)
  /-- GROUP_WAIT_WAKE (R189). A waiting ARRIVE or WAITB completes once its phase has completed. -/
  | groupWaitWake (die tile ctx : Nat)
  /-- QC_WAITER_SERVE (R194). A waiting ENQ or DEQ is served first-come first-served when room or an entry appears. -/
  | qcWaiterServe (block : Nat)
  /-- INBOX_WAIT_WAKE (R195). A waiting INBOXR or INBOXP completes when an entry arrives. -/
  | inboxWaitWake (die tile ctx : Nat)
  /-- INBOX_HELD_DELIVER (R25). A message held by the sender's die agent is posted when an inbox entry frees. -/
  | inboxHeldDeliver (die tile : Nat)
  /-- SSB_ARRIVE (R196). Once its waits end, the SSB arrives at the barrier tree with its vote. -/
  | ssbArrive (die tile : Nat)
  /-- WAITP_COMPLETE (R203). A waiting WAITP completes when its producers have triggered or ended. -/
  | waitpComplete (die tile ctx : Nat)
  /-- MMA_COMPLETE (R211). An MMA in flight writes its last row and completes. -/
  | mmaComplete (die tile : Nat)
  /-- EPI_DRAIN_START (R214). The oldest queued slot with no MMA in flight starts draining. -/
  | epiDrainStart (die tile : Nat)
  /-- EPI_DRAIN_END (R214). A job's last row is written; the slot becomes FREE and its token falls. -/
  | epiDrainEnd (die tile : Nat)
  /-- TOKEN_WAIT_WAKE (R226). A WAITT, SSB or HALT waiting on tokens resumes when the counts reach zero. -/
  | tokenWaitWake (die tile ctx : Nat)
  /-- COPY_COMPLETE (R222). A copy, PUT or GET has every byte performed and its token falls. -/
  | copyComplete (die tile op : Nat)
  /-- COPYG_COMPLETE (R224). All gathered rows have arrived; token falls and a TYPE 0x02 entry is posted. -/
  | copygComplete (die tile op : Nat)
  /-- GATHER_ROW_ARRIVE (R315). A row returned by an owner is placed by its index. -/
  | gatherRowArrive (die tile op row : Nat)
  /-- ENGINE_FAULT (R205). An operation in flight meets a fault, stops, sets PEND and posts a TYPE 0x01 entry. -/
  | engineFault (die tile op : Nat) (cause : BitVec 8) (off : BitVec 40)
  /-- HWAIT_COMPLETE (R231). A waiting HWAIT completes when its helpers have stopped. -/
  | hwaitComplete (die tile ctx : Nat)
  /-- QUEUE_WAKE (R19). A context blocked on an empty or full tile queue proceeds once the queue changes. -/
  | queueWake (die tile ctx : Nat)
  /-- WORK_UNIT_START (R15). A placed unit's control context starts with its initial registers. -/
  | workUnitStart (die tile : Nat)
  /-- CON_LAUNCH_START (R331). All control contexts of a CON launch start in one cycle with CALNOW 0. -/
  | conLaunchStart (launch : Nat)
  /-- UNIT_PLACE (R330). The dispatcher places the next WP or PAR unit on the lowest free tile. -/
  | unitPlace (launch : Nat)
  /-- DISPATCH_CHECK (R326). The dispatcher checks a consumed block and rejects or begins placement. -/
  | dispatchCheck (launch : Nat)
  /-- CONTINUATION_READY (R314). A continuation record becomes ready when its tag is answered or its target serviced. -/
  | continuationReady (part : Nat) (rec : BitVec 64)
  /-- CONTINUATION_RESUME (R335). The dispatcher resumes the head ready record on an idle helper. -/
  | continuationResume (part : Nat)
  /-- BARRIER_RECORD (R283). A barrier node merges an arriving record and forwards when complete or a vote bit appears. -/
  | barrierRecord (part level node child : Nat) (rec : BitVec 128)
  /-- COMMIT (R284). A tile merges deltas, writes its retained frame and applies the commit column. -/
  | commit (die tile : Nat)
  /-- ABORT (R286). A tile stops its contexts, drops deltas, clears transit bits and reloads its frame. -/
  | abort (die tile : Nat)
  /-- CONTROLLER_COMMIT (R284). An HBM controller clears the partition's undo log and reports done. -/
  | controllerCommit (part die : Nat)
  /-- CONTROLLER_ABORT (R276). An HBM controller replays the partition's undo log and reports done. -/
  | controllerAbort (part die : Nat)
  /-- REPORT_DONE (R267). A done report reaches the root; when all are in, the resume broadcast is sent. -/
  | reportDone (part who : Nat)
  /-- RESUME_BROADCAST (R267). The resume broadcast reaches a tile, which may then issue the next superstep. -/
  | resumeBroadcast (die tile : Nat)
  /-- REMOTE_KEPT_WRITE (R271). A remote write to a kept line lands in a remote delta or is dropped with RDELTA. -/
  | remoteKeptWrite (die tile : Nat) (vault : Bool) (off : Nat) (bytes : List (BitVec 8))
  /-- STAGING_ENTRY_COMPLETE (R290). A page-fetch entry finishes fetching and becomes PRESENT or FAILED. -/
  | stagingEntryComplete (die tile entry : Nat)
  /-- REQUEST_APPEND_RESUME (R312). A miss held for a free tag or ring slot is appended once one frees. -/
  | requestAppendResume (die : Nat)
  /-- TINV_COMPLETE (R308). An invalidation finishes and TINVST.BUSY falls when none remain. -/
  | tinvComplete (die : Nat)
  /-- RING_SCAN_RESUME (R322). A paused ring scan resumes once the dispatcher begins placing a held launch. -/
  | ringScanResume (modl fn ring : Nat)
  /-- RESTORE (R423). Restore the job from the highest complete checkpoint. -/
  | restore (modl ptr : Nat)
  /-- CHECKPOINT_PHASE2_DONE (R421). All pending granules have been copied to the buddy; the manifest gains BUDDY. -/
  | checkpointPhase2Done (job modl : Nat)
  /-- CHECKPOINT_PHASE3_DONE (R421). The buddy has written the shard to host storage; the manifest gains HOST. -/
  | checkpointPhase3Done (job modl : Nat)
  /-- SWITCH_QUIET (R389). Once the job is quiet a DRAIN or ABORT-SWITCH save begins its sweep. -/
  | switchQuiet (job : Nat)
  /-- SWITCH_ESCALATE (R388). LIMIT expires and unheld partitions are escalated. -/
  | switchEscalate (job : Nat)
  /-- MARK_ARRIVE (R370). A sweep MARK arrives on a port, closing the switch once all are marked. -/
  | markArrive (sw port job : Nat)
  /-- SWEEP_PACKET_ARRIVE (R370). A job packet arriving during a sweep joins the main, late or overflow segment. -/
  | sweepPacketArrive (sw port : Nat) (pkt : Packet)
  /-- THROTTLE_APPLY (R347). Every member tile changes clock at a slot boundary or within 1 µs. -/
  | throttleApply (part : Nat)
  /-- PACKET_ROUTE (R352). A REQ or RSP packet is routed at a switch by its target address, detouring past a down link. -/
  | packetRoute (sw port vc : Nat)
  /-- COLL_HOP (R353). A collective packet performs its op-list entries at a switch. -/
  | collHop (sw port : Nat)
  /-- COLL_ENDPOINT_ARRIVAL (R361). A contribution arrives at its endpoint context and delivers when TOTAL is reached. -/
  | collEndpointArrival (die : Nat) (pkt : Packet)
  /-- COLL_COMPLETE (R364). Acknowledgements return and the issuer's COLL token falls. -/
  | collComplete (die tile op : Nat)
  /-- MCAST_BRANCH_SEND (R365). A stored multicast packet is sent on a branch once it has buffer space. -/
  | mcastBranchSend (sw port entry : Nat)
  /-- LINK_FLIT_RECEIVE (R355). A receiver accepts or discards a flit and acknowledges. -/
  | linkFlitReceive (sw port : Nat) (seq : BitVec 16) (good : Bool) (pkt : Option Packet)
  /-- PAIR_COMPARE (R417). The comparator matches the twins' packets and forwards one or raises PAIR. -/
  | pairCompare (die tile : Nat)
  /-- TEST_KERNEL_PLACE (R345). Firmware places a signed test kernel in a hidden context of a tile, where it takes units and banks that no booking declares. -/
  | testKernelPlace (die tile : Nat)
  /-- MESH_DRAINED (R391). During a sweep, a die's mesh finishes delivering the job's packets, and the die switch's own-mesh port then counts as marked. -/
  | meshDrained (die job : Nat)
  /-- SERVICED (R367). A parked access is performed and the requester receives its response. -/
  | serviced (die parked : Nat)
  /-- LINK_REPLAY (R355). The sender replays from the flit named by the receiver. -/
  | linkReplay (sw port : Nat) (seq : BitVec 16)
  /-- DEQ_LONG_WAIT (R194). After 1,024 cycles of waiting, an unbooked helper's DEQ becomes a continuation. -/
  | deqLongWait (die tile ctx : Nat)
  /-- MODULE_LOSS (R424). A module is lost; firmware shrinks the job or restores it. -/
  | moduleLoss (modl : Nat)
  /-- BOOT (R435). At power-on the boot ROM verifies firmware and reports BOOTST. -/
  | boot (modl : Nat)
  /-- SLOT_BOUNDARY (R340). At each 512-cycle slot boundary the tile ends, compacts, lapses and starts bookings. -/
  | slotBoundary (die tile : Nat)
  /-- OVERRUN_LATENCY (R342). A booked helper's remote access still incomplete at cycle 2,049 raises OVERRUN subcause 4. -/
  | overrunLatency (die tile ctx : Nat)
  /-- FORCED_EVENT (R279). A forced event sets PEND and sends the tile's abort vote at once. -/
  | forcedEvent (die tile : Nat) (code : BitVec 8)
  /-- PARITY_ERROR (R278). A parity error detected in tile state raises the forced event PARITY. -/
  | parityError (die tile : Nat) (place : ParityPlace)
  /-- TCTX_WRITE (R300). A write to a translation context, refused if resident, drops that context's cached entries. -/
  | tctxWrite (die off : Nat) (value : BitVec 64)
  /-- TINV (R308). A write to TINV starts invalidation of cached translations. -/
  | tinv (die : Nat) (value : BitVec 64)
  /-- PRESP_RETRY (R311). A RETRY answer restarts every access waiting on the tag and frees it. -/
  | prespRetry (die : Nat) (value : BitVec 64)
  /-- PRESP_REFUSE (R311). A REFUSE answer makes every access waiting on the tag trap PAGE. -/
  | prespRefuse (die : Nat) (value : BitVec 64)
  /-- DIRTY_BITMAP_READ (R319). A 64-bit read of a dirty bitmap word returns and clears it. -/
  | dirtyBitmapRead (die controller word : Nat)
  /-- POLGRP_WRITE (R372). A write of a group descriptor pointer, ignored while the group is resident. -/
  | polgrpWrite (die group : Nat) (value : BitVec 64)
  /-- TAILR_WRITE (R322). A tail write raises TAIL to the maximum and scans the ring for published slots. -/
  | tailrWrite (modl fn ring : Nat) (value : BitVec 64)
  /-- RINGBASE_WRITE (R320). A write enables or disables a launch ring after checking its control block. -/
  | ringbaseWrite (modl fn ring : Nat) (value : BitVec 64)
  /-- MERRC_WRITE (R430). A write of 1 to bit 0 clears MERR. -/
  | merrcWrite (modl fn : Nat) (value : BitVec 64)
  /-- REGISTER_WRITE (R8). A host write to a management register without behaviour of its own, refused if it sets reserved bits. -/
  | registerWrite (modl fn bar off : Nat) (value : BitVec 64)
  /-- HOST_READ (R429). A host BAR4 read of device memory through the function's translation. `fn` is the port and the function, `addr` the BAR and
  the offset; BAR 0 and 2 are reads of registers, 6 of function 0's configuration space (R440). -/
  | hostRead (modl : Nat) (fn addr : Nat × Nat) (size : Nat)
  /-- HOST_WRITE (R429). A host BAR4 write to device memory, a kept region landing as a remote delta. `fn` and `addr` are as in HOST_READ, and
  `bytes` is whether the write has the RO attribute, whether it is poisoned, and its bytes. BAR 0 and 2 are writes of registers; 8 is the host's write of
  its own memory, which poisoned bytes leave unreadable to the module. -/
  | hostWrite (modl : Nat) (fn addr : Nat × Nat) (bytes : Bool × Bool × List (BitVec 8))
  /-- HOST_ATOMIC_FETCHADD (R257). A host AtomicOp FetchAdd performed at the home slice as an AMO add. `fn` is as in HOST_READ, and `value` is
  the operation, 0 FetchAdd, 1 Swap, 2 CAS, and its operand (R427). -/
  | hostAtomicFetchadd (modl : Nat) (fn : Nat × Nat) (addr size : Nat) (value : Nat × BitVec 64)
  /-- CLOVE_SWITCH_DRAIN (R386). Switch the job off at the next commits of its partitions. -/
  | cloveSwitchDrain (modl ptr : Nat)
  /-- CLOVE_ABORT_SWITCH (R387). Switch the job off by aborting running supersteps. -/
  | cloveAbortSwitch (modl ptr : Nat)
  /-- CLOVE_SWITCH_FORCED (R391). Switch the job off mid-superstep, saving live state and swept packets. -/
  | cloveSwitchForced (modl ptr : Nat)
  /-- CLOVE_RESUME (R404). Load a saved job and release its tiles. -/
  | cloveResume (modl ptr : Nat)
  /-- CHECKPOINT (R421). Hold the job at its next commit and record a shard in the buddy and host storage. -/
  | checkpoint (modl ptr : Nat)
  /-- CONTAIN_RELEASE (R415). Release a frozen context and resume the held partition. -/
  | containRelease (modl ptr : Nat)
  /-- CONTAIN_EXCLUDE (R415). Quarantine the tile and remove its unit. -/
  | containExclude (modl ptr : Nat)
  /-- CONTAIN_KILL (R415). End the launch KILLED and zero its tiles. -/
  | containKill (modl ptr : Nat)
  /-- READCTX (R431). Copy a frozen context frame to host memory. -/
  | readctx (modl ptr : Nat)
  /-- THROTTLE (R347). Set a partition's tile clock step. -/
  | throttle (modl ptr : Nat)
  /-- KILL (R327). End a launch through the management interface with status KILLED. -/
  | kill (modl ptr : Nat)
  /-- IMAGE (R436). Verify and stage a signed firmware or test-kernel image. -/
  | image (modl ptr : Nat)
  /-- ATTEST (R438). Write a signed attestation report and the certificate chain. -/
  | attest (modl ptr : Nat)
  /-- KEYWRAP (R439). Wrap the per-save key for a target module into the save header. -/
  | keywrap (modl ptr : Nat)
  /-- SWCFG (R431). Set the fabric switch's COLLTO limit. -/
  | swcfg (modl ptr : Nat)
  /-- POWER_LIMIT_STEP (R433). Each 1 ms of excess power or temperature lowers every partition one throttle step. -/
  | powerLimitStep (modl : Nat)
  /-- POWER_RESTORE_STEP (R433). Each 10 ms after the excess ends restores one step. -/
  | powerRestoreStep (modl : Nat)
  /-- THERMAL_CUTOFF (R433). A junction at 105 °C at 1.2 GHz cuts power; every job ends UNRECOVERABLE. -/
  | thermalCutoff (modl : Nat)
  /-- TEST_KERNEL_END (R346). A test kernel ends and a signature mismatch quarantines the tile at the next commit. -/
  | testKernelEnd (die tile : Nat) (agrees : Bool)
  /-- COLL_SLOT_TIMEOUT (R360). An open reduction slot's timer expires and its partial moves on. -/
  | collSlotTimeout (sw slot : Nat)
  /-- LINK_DOWN (R357). After 8 replays or 100 µs without ack the link goes down and affected partitions vote abort. -/
  | linkDown (sw port : Nat)
  /-- LINK_RETRAIN (R355). Firmware retrains a down link and it takes traffic again. -/
  | linkRetrain (sw port : Nat)
  /-- KEEPWAIT (R367). Every 4,096 cycles a target sends a keep-waiting notice for a parked access. -/
  | keepwait (die parked : Nat)
  /-- WITHDRAWN (R367). A withdrawal granted before the access began; the requester drops it. -/
  | withdrawn (die parked : Nat)
  /-- BEGUN (R367). A withdrawal arrived too late; the requester keeps waiting. -/
  | begun (die parked : Nat)
  /-- REMOTETO (R368). After 8 silent intervals the requester raises REMOTETO and sends a withdrawal. -/
  | remoteto (die tile ctx : Nat)
  /-- PAIR_TIMEOUT (R417). A copy waiting 8,192 cycles for its partner is a mismatch. -/
  | pairTimeout (die tile : Nat)
  /-- MIGRATION_COPY (R408). System software copies a granule through the management controller's migration engine, re-encrypting it under the target's key and tweak. -/
  | migrationCopy (modl src dst : Nat)
  /-- FUNCTION_RESET (R415). The hypervisor resets a frozen function, which ends its freeze. -/
  | functionReset (modl fn : Nat)
  /-- JOB_START (R348). Firmware starts a job, fixing its fabric job tag, its box of modules and its die map. -/
  | jobStart (job : Nat) (box : List Nat) (entries : List (BitVec 64))
  /-- GANG_ALLOT (R328). System software allots a gang of tiles to a partition of the job, which configures that partition. -/
  | gangAllot (part : Nat) (tiles : List (Nat × Nat))
  /-- QUARANTINE_CLEAR (R419). Firmware clears a tile from the module's quarantine list after service. -/
  | quarantineClear (modl die tile : Nat)
  /-- MODULE_POWER_LOSS (R433). Module power is lost, nothing runs, and only the fuses and the quarantine list persist. -/
  | modulePowerLoss (modl : Nat)
  /-- BADOP (R431). A write to MBCMD that carries an opcode the mailbox does not know completes with ST BADOP. -/
  | badop (modl : Nat) (value : BitVec 64)
  /-- MODULE_RELEASE (R410). System software releases modules of a job, whose key slots are then destroyed and whose tiles are zeroed. -/
  | moduleRelease (job modl : Nat)
  /-- NOP (R127). Advance the PC only. -/
  | nop
  /-- TRET (R130). Return from a trap handler, resuming a frame or an MMA where marked. -/
  | tret
  /-- HALT (R132). End a helper, or end or barrier the control context's work unit. -/
  | halt
  /-- BKPT (R129). Raise cause BKPT. -/
  | bkpt
  /-- TRIG (R202). Mark the work unit triggered for dependants. -/
  | trig
  /-- MNEXT (R215). Hand the head slot over with a null epilogue job. -/
  | mnext
  deriving DecidableEq, Repr

end Sys2Proof
end

