-- ==== Sys2Proof/Decode.lean ====
section
/-! DEFINITION. Decode and encode (R66 to R77). The decoder makes steps 1 to 3 of R77: a word that is no row of the
instruction set is refused by name, and the machine raises ILLEGAL for it. Steps 4 to 7 (a field value that names
nothing, a privilege, a combination that is missing) belong to the meaning of each instruction, which raises the cause. -/

namespace Sys2Proof

/-- Why a word is no instruction (R77, steps 1 to 3). -/
inductive DecodeError where
  /-- Step 1: the major opcode is 0x00 or reserved. -/
  | reservedMajor
  /-- Steps 2 and 3: the function is not listed, or a bit that the entry reserves is 1. -/
  | unlistedFunction
  /-- Fewer than four bytes were given. -/
  | truncated
  deriving DecidableEq, Repr

/-- The field of `len` bits of `w` whose lowest bit is `lo` (R7). -/
def fieldOf (w : Word32) (lo len : Nat) : BitVec len := w.extractLsb' lo len

/-- A word with `x` in the field whose lowest bit is `lo`, and zeros elsewhere. -/
def place {n : Nat} (lo : Nat) (x : BitVec n) : Word32 := x.setWidth 32 <<< lo

/-- Words of major 0x01. -/
def decodeIntR (w : Word32) : Except DecodeError Instr :=
  if w &&& 0xFC0007F0#32 = 0x04000000#32 then .ok (.add (fieldOf w 21 5) (fieldOf w 16 5) (fieldOf w 11 5) (fieldOf w 0 4)) else
  if w &&& 0xFC0007F0#32 = 0x04000010#32 then .ok (.sub (fieldOf w 21 5) (fieldOf w 16 5) (fieldOf w 11 5) (fieldOf w 0 4)) else
  if w &&& 0xFC0007F0#32 = 0x04000020#32 then .ok (.mul (fieldOf w 21 5) (fieldOf w 16 5) (fieldOf w 11 5) (fieldOf w 0 4)) else
  if w &&& 0xFC0007F0#32 = 0x04000030#32 then .ok (.mulh (fieldOf w 21 5) (fieldOf w 16 5) (fieldOf w 11 5) (fieldOf w 0 4)) else
  if w &&& 0xFC0007F0#32 = 0x04000040#32 then .ok (.mulhn (fieldOf w 21 5) (fieldOf w 16 5) (fieldOf w 11 5) (fieldOf w 0 4)) else
  if w &&& 0xFC0007F0#32 = 0x04000050#32 then .ok (.div (fieldOf w 21 5) (fieldOf w 16 5) (fieldOf w 11 5) (fieldOf w 0 4)) else
  if w &&& 0xFC0007F0#32 = 0x04000060#32 then .ok (.divn (fieldOf w 21 5) (fieldOf w 16 5) (fieldOf w 11 5) (fieldOf w 0 4)) else
  if w &&& 0xFC0007F0#32 = 0x04000070#32 then .ok (.rem (fieldOf w 21 5) (fieldOf w 16 5) (fieldOf w 11 5) (fieldOf w 0 4)) else
  if w &&& 0xFC0007F0#32 = 0x04000080#32 then .ok (.remn (fieldOf w 21 5) (fieldOf w 16 5) (fieldOf w 11 5) (fieldOf w 0 4)) else
  if w &&& 0xFC0007F0#32 = 0x04000100#32 then .ok (.and (fieldOf w 21 5) (fieldOf w 16 5) (fieldOf w 11 5) (fieldOf w 0 4)) else
  if w &&& 0xFC0007F0#32 = 0x04000110#32 then .ok (.or (fieldOf w 21 5) (fieldOf w 16 5) (fieldOf w 11 5) (fieldOf w 0 4)) else
  if w &&& 0xFC0007F0#32 = 0x04000120#32 then .ok (.xor (fieldOf w 21 5) (fieldOf w 16 5) (fieldOf w 11 5) (fieldOf w 0 4)) else
  if w &&& 0xFC0007F0#32 = 0x04000130#32 then .ok (.andn (fieldOf w 21 5) (fieldOf w 16 5) (fieldOf w 11 5) (fieldOf w 0 4)) else
  if w &&& 0xFC0007F0#32 = 0x04000180#32 then .ok (.shl (fieldOf w 21 5) (fieldOf w 16 5) (fieldOf w 11 5) (fieldOf w 0 4)) else
  if w &&& 0xFC0007F0#32 = 0x04000190#32 then .ok (.shr (fieldOf w 21 5) (fieldOf w 16 5) (fieldOf w 11 5) (fieldOf w 0 4)) else
  if w &&& 0xFC0007F0#32 = 0x040001A0#32 then .ok (.sra (fieldOf w 21 5) (fieldOf w 16 5) (fieldOf w 11 5) (fieldOf w 0 4)) else
  if w &&& 0xFC0007F0#32 = 0x040001B0#32 then .ok (.rot (fieldOf w 21 5) (fieldOf w 16 5) (fieldOf w 11 5) (fieldOf w 0 4)) else
  if w &&& 0xFC0007F0#32 = 0x04000200#32 then .ok (.min (fieldOf w 21 5) (fieldOf w 16 5) (fieldOf w 11 5) (fieldOf w 0 4)) else
  if w &&& 0xFC0007F0#32 = 0x04000210#32 then .ok (.max (fieldOf w 21 5) (fieldOf w 16 5) (fieldOf w 11 5) (fieldOf w 0 4)) else
  if w &&& 0xFC0007F0#32 = 0x04000220#32 then .ok (.minn (fieldOf w 21 5) (fieldOf w 16 5) (fieldOf w 11 5) (fieldOf w 0 4)) else
  if w &&& 0xFC0007F0#32 = 0x04000230#32 then .ok (.maxn (fieldOf w 21 5) (fieldOf w 16 5) (fieldOf w 11 5) (fieldOf w 0 4)) else
  if w &&& 0xFC0007F0#32 = 0x04000280#32 then .ok (.slt (fieldOf w 21 5) (fieldOf w 16 5) (fieldOf w 11 5) (fieldOf w 0 4)) else
  if w &&& 0xFC0007F0#32 = 0x04000290#32 then .ok (.sltn (fieldOf w 21 5) (fieldOf w 16 5) (fieldOf w 11 5) (fieldOf w 0 4)) else
  if w &&& 0xFC0007F0#32 = 0x040002A0#32 then .ok (.seq (fieldOf w 21 5) (fieldOf w 16 5) (fieldOf w 11 5) (fieldOf w 0 4)) else
  if w &&& 0xFC00FFF0#32 = 0x04000300#32 then .ok (.clz (fieldOf w 21 5) (fieldOf w 16 5) (fieldOf w 0 4)) else
  if w &&& 0xFC00FFF0#32 = 0x04000310#32 then .ok (.ctz (fieldOf w 21 5) (fieldOf w 16 5) (fieldOf w 0 4)) else
  if w &&& 0xFC00FFF0#32 = 0x04000320#32 then .ok (.popc (fieldOf w 21 5) (fieldOf w 16 5) (fieldOf w 0 4)) else
  if w &&& 0xFC00FFF0#32 = 0x04000380#32 then .ok (.sext (fieldOf w 21 5) (fieldOf w 16 5) (fieldOf w 0 4)) else
  if w &&& 0xFC00FFF0#32 = 0x04000390#32 then .ok (.zext (fieldOf w 21 5) (fieldOf w 16 5) (fieldOf w 0 4)) else
  .error .unlistedFunction

/-- Words of major 0x02. -/
def decodeAddi (w : Word32) : Except DecodeError Instr :=
  if w &&& 0xFC000000#32 = 0x08000000#32 then .ok (.addi (fieldOf w 21 5) (fieldOf w 16 5) (fieldOf w 0 16)) else
  .error .unlistedFunction

/-- Words of major 0x03. -/
def decodeAndi (w : Word32) : Except DecodeError Instr :=
  if w &&& 0xFC000000#32 = 0x0C000000#32 then .ok (.andi (fieldOf w 21 5) (fieldOf w 16 5) (fieldOf w 0 16)) else
  .error .unlistedFunction

/-- Words of major 0x04. -/
def decodeOri (w : Word32) : Except DecodeError Instr :=
  if w &&& 0xFC000000#32 = 0x10000000#32 then .ok (.ori (fieldOf w 21 5) (fieldOf w 16 5) (fieldOf w 0 16)) else
  .error .unlistedFunction

/-- Words of major 0x05. -/
def decodeXori (w : Word32) : Except DecodeError Instr :=
  if w &&& 0xFC000000#32 = 0x14000000#32 then .ok (.xori (fieldOf w 21 5) (fieldOf w 16 5) (fieldOf w 0 16)) else
  .error .unlistedFunction

/-- Words of major 0x06. -/
def decodeShifti (w : Word32) : Except DecodeError Instr :=
  if w &&& 0xFC00FFC0#32 = 0x18000000#32 then .ok (.shli (fieldOf w 21 5) (fieldOf w 16 5) (fieldOf w 0 6)) else
  if w &&& 0xFC00FFC0#32 = 0x18004000#32 then .ok (.shri (fieldOf w 21 5) (fieldOf w 16 5) (fieldOf w 0 6)) else
  if w &&& 0xFC00FFC0#32 = 0x18008000#32 then .ok (.srai (fieldOf w 21 5) (fieldOf w 16 5) (fieldOf w 0 6)) else
  .error .unlistedFunction

/-- Words of major 0x07. -/
def decodeLi (w : Word32) : Except DecodeError Instr :=
  if w &&& 0xFC1F0000#32 = 0x1C000000#32 then .ok (.lil (fieldOf w 21 5) (fieldOf w 0 16)) else
  if w &&& 0xFC000000#32 = 0x1C000000#32 then .ok (.lih (fieldOf w 21 5) (fieldOf w 16 5) (fieldOf w 0 16)) else
  .error .unlistedFunction

/-- Words of major 0x08. -/
def decodePtr (w : Word32) : Except DecodeError Instr :=
  if w &&& 0xFC0007FF#32 = 0x20000000#32 then .ok (.padd (fieldOf w 21 5) (fieldOf w 16 5) (fieldOf w 11 5)) else
  if w &&& 0xFC0007F0#32 = 0x20000010#32 then .ok (.pset (fieldOf w 21 5) (fieldOf w 16 5) (fieldOf w 11 5) (fieldOf w 0 4)) else
  if w &&& 0xFC00FFF0#32 = 0x20000020#32 then .ok (.pget (fieldOf w 21 5) (fieldOf w 16 5) (fieldOf w 0 4)) else
  if w &&& 0xFC00FFFF#32 = 0x20000030#32 then .ok (.pdie (fieldOf w 21 5) (fieldOf w 16 5)) else
  if w &&& 0xFC0007FF#32 = 0x20000040#32 then .ok (.pdiff (fieldOf w 21 5) (fieldOf w 16 5) (fieldOf w 11 5)) else
  .error .unlistedFunction

/-- Words of major 0x09. -/
def decodePaddi (w : Word32) : Except DecodeError Instr :=
  if w &&& 0xFC000000#32 = 0x24000000#32 then .ok (.paddi (fieldOf w 21 5) (fieldOf w 16 5) (fieldOf w 0 16)) else
  .error .unlistedFunction

/-- Words of major 0x0A. -/
def decodeBr (w : Word32) : Except DecodeError Instr :=
  if w &&& 0xFC000000#32 = 0x28000000#32 then .ok (.br (fieldOf w 22 4) (fieldOf w 17 5) (fieldOf w 12 5) (fieldOf w 0 12)) else
  .error .unlistedFunction

/-- Words of major 0x0B. -/
def decodeJmp (w : Word32) : Except DecodeError Instr :=
  if w &&& 0xFC000000#32 = 0x2C000000#32 then .ok (.jmp (fieldOf w 0 26)) else
  .error .unlistedFunction

/-- Words of major 0x0C. -/
def decodeJal (w : Word32) : Except DecodeError Instr :=
  if w &&& 0xFC000000#32 = 0x30000000#32 then .ok (.jal (fieldOf w 0 26)) else
  .error .unlistedFunction

/-- Words of major 0x0D. -/
def decodeJalr (w : Word32) : Except DecodeError Instr :=
  if w &&& 0xFC000000#32 = 0x34000000#32 then .ok (.jalr (fieldOf w 21 5) (fieldOf w 16 5) (fieldOf w 0 16)) else
  .error .unlistedFunction

/-- Words of major 0x0E. -/
def decodeLoop (w : Word32) : Except DecodeError Instr :=
  if w &&& 0xFC0001FF#32 = 0x38000000#32 then .ok (.loop (fieldOf w 21 5) (fieldOf w 11 10) (fieldOf w 9 2)) else
  if w &&& 0xFC000100#32 = 0x38000100#32 then .ok (.loopi (fieldOf w 21 5) (fieldOf w 11 10) (fieldOf w 9 2) (fieldOf w 0 8)) else
  .error .unlistedFunction

/-- Words of major 0x0F. -/
def decodeRpt (w : Word32) : Except DecodeError Instr :=
  if w &&& 0xFC00000F#32 = 0x3C000000#32 then .ok (.rpt (fieldOf w 22 4) (fieldOf w 16 6) (fieldOf w 12 4) (fieldOf w 8 4) (fieldOf w 4 4)) else
  .error .unlistedFunction

/-- Words of major 0x10. -/
def decodeCsr (w : Word32) : Except DecodeError Instr :=
  if w &&& 0xFC1FF000#32 = 0x40000000#32 then .ok (.csrr (fieldOf w 21 5) (fieldOf w 0 12)) else
  if w &&& 0xFC00F000#32 = 0x40004000#32 then .ok (.csrw (fieldOf w 21 5) (fieldOf w 16 5) (fieldOf w 0 12)) else
  if w &&& 0xFC00F000#32 = 0x40008000#32 then .ok (.csrs (fieldOf w 21 5) (fieldOf w 16 5) (fieldOf w 0 12)) else
  if w &&& 0xFC00F000#32 = 0x4000C000#32 then .ok (.csrc (fieldOf w 21 5) (fieldOf w 16 5) (fieldOf w 0 12)) else
  .error .unlistedFunction

/-- Words of major 0x11. -/
def decodeSys (w : Word32) : Except DecodeError Instr :=
  if w &&& 0xFFFFFFFF#32 = 0x44000000#32 then .ok (.nop) else
  if w &&& 0xFFE007C0#32 = 0x44000100#32 then .ok (.trap (fieldOf w 16 5) (fieldOf w 11 5) (fieldOf w 0 6)) else
  if w &&& 0xFFFFFFFF#32 = 0x44000200#32 then .ok (.tret) else
  if w &&& 0xFFFFFFFF#32 = 0x44000300#32 then .ok (.halt) else
  if w &&& 0xFFFFFFFF#32 = 0x44000400#32 then .ok (.bkpt) else
  .error .unlistedFunction

/-- Words of major 0x18. -/
def decodeVflt (w : Word32) : Except DecodeError Instr :=
  if w &&& 0xFC0000F0#32 = 0x60000000#32 then .ok (.vaddFlt (fieldOf w 21 5) (fieldOf w 16 5) (fieldOf w 11 5) (fieldOf w 8 3) (fieldOf w 0 4)) else
  if w &&& 0xFC0000F0#32 = 0x60000010#32 then .ok (.vsubFlt (fieldOf w 21 5) (fieldOf w 16 5) (fieldOf w 11 5) (fieldOf w 8 3) (fieldOf w 0 4)) else
  if w &&& 0xFC0000F0#32 = 0x60000020#32 then .ok (.vmulFlt (fieldOf w 21 5) (fieldOf w 16 5) (fieldOf w 11 5) (fieldOf w 8 3) (fieldOf w 0 4)) else
  if w &&& 0xFC0000F0#32 = 0x60000030#32 then .ok (.vdiv (fieldOf w 21 5) (fieldOf w 16 5) (fieldOf w 11 5) (fieldOf w 8 3) (fieldOf w 0 4)) else
  if w &&& 0xFC00F8F0#32 = 0x60000040#32 then .ok (.vsqrt (fieldOf w 21 5) (fieldOf w 16 5) (fieldOf w 8 3) (fieldOf w 0 4)) else
  if w &&& 0xFC0000F0#32 = 0x60000050#32 then .ok (.vminFlt (fieldOf w 21 5) (fieldOf w 16 5) (fieldOf w 11 5) (fieldOf w 8 3) (fieldOf w 0 4)) else
  if w &&& 0xFC0000F0#32 = 0x60000060#32 then .ok (.vmaxFlt (fieldOf w 21 5) (fieldOf w 16 5) (fieldOf w 11 5) (fieldOf w 8 3) (fieldOf w 0 4)) else
  if w &&& 0xFC00F8F0#32 = 0x60000070#32 then .ok (.vabs (fieldOf w 21 5) (fieldOf w 16 5) (fieldOf w 8 3) (fieldOf w 0 4)) else
  if w &&& 0xFC00F8F0#32 = 0x60000080#32 then .ok (.vneg (fieldOf w 21 5) (fieldOf w 16 5) (fieldOf w 8 3) (fieldOf w 0 4)) else
  .error .unlistedFunction

/-- Words of major 0x19. -/
def decodeVint (w : Word32) : Except DecodeError Instr :=
  if w &&& 0xFC0000F0#32 = 0x64000000#32 then .ok (.vaddInt (fieldOf w 21 5) (fieldOf w 16 5) (fieldOf w 11 5) (fieldOf w 8 3) (fieldOf w 0 4)) else
  if w &&& 0xFC0000F0#32 = 0x64000010#32 then .ok (.vsubInt (fieldOf w 21 5) (fieldOf w 16 5) (fieldOf w 11 5) (fieldOf w 8 3) (fieldOf w 0 4)) else
  if w &&& 0xFC0000F0#32 = 0x64000020#32 then .ok (.vmulInt (fieldOf w 21 5) (fieldOf w 16 5) (fieldOf w 11 5) (fieldOf w 8 3) (fieldOf w 0 4)) else
  if w &&& 0xFC0000F0#32 = 0x64000030#32 then .ok (.vminInt (fieldOf w 21 5) (fieldOf w 16 5) (fieldOf w 11 5) (fieldOf w 8 3) (fieldOf w 0 4)) else
  if w &&& 0xFC0000F0#32 = 0x64000040#32 then .ok (.vmaxInt (fieldOf w 21 5) (fieldOf w 16 5) (fieldOf w 11 5) (fieldOf w 8 3) (fieldOf w 0 4)) else
  if w &&& 0xFC0000F0#32 = 0x64000050#32 then .ok (.vand (fieldOf w 21 5) (fieldOf w 16 5) (fieldOf w 11 5) (fieldOf w 8 3) (fieldOf w 0 4)) else
  if w &&& 0xFC0000F0#32 = 0x64000060#32 then .ok (.vor (fieldOf w 21 5) (fieldOf w 16 5) (fieldOf w 11 5) (fieldOf w 8 3) (fieldOf w 0 4)) else
  if w &&& 0xFC0000F0#32 = 0x64000070#32 then .ok (.vxor (fieldOf w 21 5) (fieldOf w 16 5) (fieldOf w 11 5) (fieldOf w 8 3) (fieldOf w 0 4)) else
  if w &&& 0xFC0000F0#32 = 0x64000080#32 then .ok (.vshl (fieldOf w 21 5) (fieldOf w 16 5) (fieldOf w 11 5) (fieldOf w 8 3) (fieldOf w 0 4)) else
  if w &&& 0xFC0000F0#32 = 0x64000090#32 then .ok (.vshr (fieldOf w 21 5) (fieldOf w 16 5) (fieldOf w 11 5) (fieldOf w 8 3) (fieldOf w 0 4)) else
  if w &&& 0xFC0000F0#32 = 0x640000A0#32 then .ok (.vsra (fieldOf w 21 5) (fieldOf w 16 5) (fieldOf w 11 5) (fieldOf w 8 3) (fieldOf w 0 4)) else
  .error .unlistedFunction

/-- Words of major 0x1A. -/
def decodeVfma (w : Word32) : Except DecodeError Instr :=
  if w &&& 0xFC000006#32 = 0x68000000#32 then .ok (.vfma (fieldOf w 21 5) (fieldOf w 16 5) (fieldOf w 11 5) (fieldOf w 6 5) (fieldOf w 3 3) (fieldOf w 0 1)) else
  if w &&& 0xFC000006#32 = 0x68000002#32 then .ok (.vfms (fieldOf w 21 5) (fieldOf w 16 5) (fieldOf w 11 5) (fieldOf w 6 5) (fieldOf w 3 3) (fieldOf w 0 1)) else
  if w &&& 0xFC000006#32 = 0x68000004#32 then .ok (.vfnma (fieldOf w 21 5) (fieldOf w 16 5) (fieldOf w 11 5) (fieldOf w 6 5) (fieldOf w 3 3) (fieldOf w 0 1)) else
  .error .unlistedFunction

/-- Words of major 0x1B. -/
def decodeVcmp (w : Word32) : Except DecodeError Instr :=
  if w &&& 0xFC0000F0#32 = 0x6C000080#32 then .ok (.vsel (fieldOf w 21 5) (fieldOf w 16 5) (fieldOf w 11 5) (fieldOf w 8 3) (fieldOf w 0 4)) else
  if w &&& 0xFC000000#32 = 0x6C000000#32 then .ok (.vcmp (fieldOf w 21 5) (fieldOf w 16 5) (fieldOf w 11 5) (fieldOf w 8 3) (fieldOf w 4 4) (fieldOf w 0 4)) else
  .error .unlistedFunction

/-- Words of major 0x1C. -/
def decodeVcvt (w : Word32) : Except DecodeError Instr :=
  if w &&& 0xFC000000#32 = 0x70000000#32 then .ok (.vcvt (fieldOf w 21 5) (fieldOf w 16 5) (fieldOf w 15 1) (fieldOf w 12 3) (fieldOf w 11 1) (fieldOf w 8 3) (fieldOf w 4 4) (fieldOf w 0 4)) else
  .error .unlistedFunction

/-- Words of major 0x1D. -/
def decodeVperm (w : Word32) : Except DecodeError Instr :=
  if w &&& 0xFC0000F0#32 = 0x74000000#32 then .ok (.vperm (fieldOf w 21 5) (fieldOf w 16 5) (fieldOf w 11 5) (fieldOf w 8 3) (fieldOf w 0 4)) else
  if w &&& 0xFC00F8F0#32 = 0x74000010#32 then .ok (.vbcast (fieldOf w 21 5) (fieldOf w 16 5) (fieldOf w 8 3) (fieldOf w 0 4)) else
  if w &&& 0xFC0007F0#32 = 0x74000020#32 then .ok (.vmovs (fieldOf w 21 5) (fieldOf w 16 5) (fieldOf w 11 5) (fieldOf w 0 4)) else
  if w &&& 0xFC0007F0#32 = 0x74000030#32 then .ok (.vins (fieldOf w 21 5) (fieldOf w 16 5) (fieldOf w 11 5) (fieldOf w 0 4)) else
  if w &&& 0xFC1FF8F0#32 = 0x74000040#32 then .ok (.viota (fieldOf w 21 5) (fieldOf w 8 3) (fieldOf w 0 4)) else
  if w &&& 0xFC0007FF#32 = 0x74000050#32 then .ok (.vpack (fieldOf w 21 5) (fieldOf w 16 5) (fieldOf w 11 5)) else
  if w &&& 0xFC00F7FF#32 = 0x74000060#32 then .ok (.vunpk (fieldOf w 21 5) (fieldOf w 16 5) (fieldOf w 11 1)) else
  .error .unlistedFunction

/-- Words of major 0x1E. -/
def decodeVred (w : Word32) : Except DecodeError Instr :=
  if w &&& 0xFC00F880#32 = 0x78000000#32 then .ok (.vreduce (fieldOf w 21 5) (fieldOf w 16 5) (fieldOf w 8 3) (fieldOf w 4 3) (fieldOf w 0 4)) else
  if w &&& 0xFC00F880#32 = 0x78000080#32 then .ok (.vscan (fieldOf w 21 5) (fieldOf w 16 5) (fieldOf w 8 3) (fieldOf w 4 3) (fieldOf w 0 4)) else
  .error .unlistedFunction

/-- Words of major 0x1F. -/
def decodeTbl (w : Word32) : Except DecodeError Instr :=
  if w &&& 0xFC00FFFF#32 = 0x7C000000#32 then .ok (.tload (fieldOf w 21 5) (fieldOf w 16 5)) else
  if w &&& 0xFC0000F0#32 = 0x7C000010#32 then .ok (.tinterp (fieldOf w 21 5) (fieldOf w 16 5) (fieldOf w 11 5) (fieldOf w 8 3) (fieldOf w 0 4)) else
  if w &&& 0xFC0000F0#32 = 0x7C000020#32 then .ok (.vqdq (fieldOf w 21 5) (fieldOf w 16 5) (fieldOf w 11 5) (fieldOf w 8 3) (fieldOf w 0 4)) else
  if w &&& 0xFC0000F0#32 = 0x7C000030#32 then .ok (.qscale (fieldOf w 21 5) (fieldOf w 16 5) (fieldOf w 11 5) (fieldOf w 8 3) (fieldOf w 0 4)) else
  .error .unlistedFunction

/-- Words of major 0x20. -/
def decodeKops (w : Word32) : Except DecodeError Instr :=
  if w &&& 0xFC0007FF#32 = 0x80000000#32 then .ok (.kand (fieldOf w 21 5) (fieldOf w 16 5) (fieldOf w 11 5)) else
  if w &&& 0xFC0007FF#32 = 0x80000001#32 then .ok (.kor (fieldOf w 21 5) (fieldOf w 16 5) (fieldOf w 11 5)) else
  if w &&& 0xFC0007FF#32 = 0x80000002#32 then .ok (.kxor (fieldOf w 21 5) (fieldOf w 16 5) (fieldOf w 11 5)) else
  if w &&& 0xFC00FFFF#32 = 0x80000003#32 then .ok (.knot (fieldOf w 21 5) (fieldOf w 16 5)) else
  if w &&& 0xFC00FFFF#32 = 0x80000004#32 then .ok (.kpop (fieldOf w 21 5) (fieldOf w 16 5)) else
  if w &&& 0xFC00FFFF#32 = 0x80000005#32 then .ok (.kfirst (fieldOf w 21 5) (fieldOf w 16 5)) else
  if w &&& 0xFC00FFFF#32 = 0x80000006#32 then .ok (.kset (fieldOf w 21 5) (fieldOf w 16 5)) else
  .error .unlistedFunction

/-- Words of major 0x21. -/
def decodeStream (w : Word32) : Except DecodeError Instr :=
  if w &&& 0xFC0000FF#32 = 0x84000000#32 then .ok (.sbindIn (fieldOf w 21 5) (fieldOf w 16 5) (fieldOf w 11 5) (fieldOf w 8 3)) else
  if w &&& 0xFC0000FF#32 = 0x84000040#32 then .ok (.sbindOut (fieldOf w 21 5) (fieldOf w 16 5) (fieldOf w 11 5) (fieldOf w 8 3)) else
  if w &&& 0xFC1FF8FF#32 = 0x84000080#32 then .ok (.sbindCopy (fieldOf w 21 5) (fieldOf w 8 3)) else
  if w &&& 0xFC1FFFFF#32 = 0x84000001#32 then .ok (.sunbind (fieldOf w 21 5)) else
  if w &&& 0xFC00FFFF#32 = 0x84000002#32 then .ok (.sstat (fieldOf w 21 5) (fieldOf w 16 5)) else
  .error .unlistedFunction

/-- Words of major 0x24. -/
def decodeLd (w : Word32) : Except DecodeError Instr :=
  if w &&& 0xFC001000#32 = 0x90000000#32 then .ok (.ld (fieldOf w 21 5) (fieldOf w 16 5) (fieldOf w 13 3) (fieldOf w 0 12)) else
  if w &&& 0xFC001FE0#32 = 0x90001000#32 then .ok (.ldAcq (fieldOf w 21 5) (fieldOf w 16 5) (fieldOf w 13 3) (fieldOf w 0 5)) else
  .error .unlistedFunction

/-- Words of major 0x25. -/
def decodeSt (w : Word32) : Except DecodeError Instr :=
  if w &&& 0xFC001000#32 = 0x94000000#32 then .ok (.st (fieldOf w 21 5) (fieldOf w 16 5) (fieldOf w 15 1) (fieldOf w 13 2) (fieldOf w 0 12)) else
  if w &&& 0xFC001FE0#32 = 0x94001000#32 then .ok (.stRel (fieldOf w 21 5) (fieldOf w 16 5) (fieldOf w 15 1) (fieldOf w 13 2) (fieldOf w 0 5)) else
  .error .unlistedFunction

/-- Words of major 0x26. -/
def decodeLdv (w : Word32) : Except DecodeError Instr :=
  if w &&& 0xFC00D000#32 = 0x98000000#32 then .ok (.ldv (fieldOf w 21 5) (fieldOf w 16 5) (fieldOf w 13 1) (fieldOf w 0 12)) else
  if w &&& 0xFC00DFE0#32 = 0x98001000#32 then .ok (.ldvAcq (fieldOf w 21 5) (fieldOf w 16 5) (fieldOf w 13 1) (fieldOf w 0 5)) else
  .error .unlistedFunction

/-- Words of major 0x27. -/
def decodeStv (w : Word32) : Except DecodeError Instr :=
  if w &&& 0xFC00D000#32 = 0x9C000000#32 then .ok (.stv (fieldOf w 21 5) (fieldOf w 16 5) (fieldOf w 13 1) (fieldOf w 0 12)) else
  if w &&& 0xFC00DFE0#32 = 0x9C001000#32 then .ok (.stvRel (fieldOf w 21 5) (fieldOf w 16 5) (fieldOf w 13 1) (fieldOf w 0 5)) else
  .error .unlistedFunction

/-- Words of major 0x28. -/
def decodeLdvs (w : Word32) : Except DecodeError Instr :=
  if w &&& 0xFC0007F0#32 = 0xA0000000#32 then .ok (.ldvs (fieldOf w 21 5) (fieldOf w 16 5) (fieldOf w 11 5) (fieldOf w 0 4)) else
  if w &&& 0xFC000600#32 = 0xA0000200#32 then .ok (.ldvsAcq (fieldOf w 21 5) (fieldOf w 16 5) (fieldOf w 11 5) (fieldOf w 4 5) (fieldOf w 0 4)) else
  if w &&& 0xFC0007F0#32 = 0xA0000400#32 then .ok (.stvs (fieldOf w 21 5) (fieldOf w 16 5) (fieldOf w 11 5) (fieldOf w 0 4)) else
  if w &&& 0xFC000600#32 = 0xA0000600#32 then .ok (.stvsRel (fieldOf w 21 5) (fieldOf w 16 5) (fieldOf w 11 5) (fieldOf w 4 5) (fieldOf w 0 4)) else
  .error .unlistedFunction

/-- Words of major 0x29. -/
def decodeGath (w : Word32) : Except DecodeError Instr :=
  if w &&& 0xFC000000#32 = 0xA4000000#32 then .ok (.gath (fieldOf w 21 5) (fieldOf w 16 5) (fieldOf w 11 5) (fieldOf w 8 3) (fieldOf w 6 2) (fieldOf w 5 1) (fieldOf w 2 3) (fieldOf w 0 2)) else
  .error .unlistedFunction

/-- Words of major 0x2A. -/
def decodeScat (w : Word32) : Except DecodeError Instr :=
  if w &&& 0xFC000000#32 = 0xA8000000#32 then .ok (.scat (fieldOf w 21 5) (fieldOf w 16 5) (fieldOf w 11 5) (fieldOf w 8 3) (fieldOf w 6 2) (fieldOf w 5 1) (fieldOf w 2 3) (fieldOf w 0 2)) else
  .error .unlistedFunction

/-- Words of major 0x2B. -/
def decodeFe (w : Word32) : Except DecodeError Instr :=
  if w &&& 0xFC00E000#32 = 0xAC000000#32 then .ok (.ldfe (fieldOf w 21 5) (fieldOf w 16 5) (fieldOf w 0 13)) else
  if w &&& 0xFC00E000#32 = 0xAC002000#32 then .ok (.ldff (fieldOf w 21 5) (fieldOf w 16 5) (fieldOf w 0 13)) else
  if w &&& 0xFC00E000#32 = 0xAC004000#32 then .ok (.ste (fieldOf w 21 5) (fieldOf w 16 5) (fieldOf w 0 13)) else
  if w &&& 0xFC00E000#32 = 0xAC006000#32 then .ok (.stf (fieldOf w 21 5) (fieldOf w 16 5) (fieldOf w 0 13)) else
  if w &&& 0xFC00E000#32 = 0xAC008000#32 then .ok (.feget (fieldOf w 21 5) (fieldOf w 16 5) (fieldOf w 0 13)) else
  if w &&& 0xFC00E000#32 = 0xAC00A000#32 then .ok (.feset (fieldOf w 21 5) (fieldOf w 16 5) (fieldOf w 0 13)) else
  .error .unlistedFunction

/-- Words of major 0x2C. -/
def decodeAmo (w : Word32) : Except DecodeError Instr :=
  if w &&& 0xFC00000E#32 = 0xB0000000#32 then .ok (.amoAdd (fieldOf w 21 5) (fieldOf w 16 5) (fieldOf w 11 5) (fieldOf w 9 2) (fieldOf w 4 5) (fieldOf w 0 1)) else
  if w &&& 0xFC00000E#32 = 0xB0000002#32 then .ok (.amoMin (fieldOf w 21 5) (fieldOf w 16 5) (fieldOf w 11 5) (fieldOf w 9 2) (fieldOf w 4 5) (fieldOf w 0 1)) else
  if w &&& 0xFC00000E#32 = 0xB0000004#32 then .ok (.amoMax (fieldOf w 21 5) (fieldOf w 16 5) (fieldOf w 11 5) (fieldOf w 9 2) (fieldOf w 4 5) (fieldOf w 0 1)) else
  if w &&& 0xFC00000E#32 = 0xB0000006#32 then .ok (.amoAnd (fieldOf w 21 5) (fieldOf w 16 5) (fieldOf w 11 5) (fieldOf w 9 2) (fieldOf w 4 5) (fieldOf w 0 1)) else
  if w &&& 0xFC00000E#32 = 0xB0000008#32 then .ok (.amoOr (fieldOf w 21 5) (fieldOf w 16 5) (fieldOf w 11 5) (fieldOf w 9 2) (fieldOf w 4 5) (fieldOf w 0 1)) else
  if w &&& 0xFC00000E#32 = 0xB000000A#32 then .ok (.amoXor (fieldOf w 21 5) (fieldOf w 16 5) (fieldOf w 11 5) (fieldOf w 9 2) (fieldOf w 4 5) (fieldOf w 0 1)) else
  if w &&& 0xFC00000E#32 = 0xB000000C#32 then .ok (.amoSwap (fieldOf w 21 5) (fieldOf w 16 5) (fieldOf w 11 5) (fieldOf w 9 2) (fieldOf w 4 5) (fieldOf w 0 1)) else
  if w &&& 0xFC00000E#32 = 0xB000000E#32 then .ok (.amoCas (fieldOf w 21 5) (fieldOf w 16 5) (fieldOf w 11 5) (fieldOf w 9 2) (fieldOf w 4 5) (fieldOf w 0 1)) else
  .error .unlistedFunction

/-- Words of major 0x2D. -/
def decodeFence (w : Word32) : Except DecodeError Instr :=
  if w &&& 0xFFFFFF20#32 = 0xB4000000#32 then .ok (.fence (fieldOf w 6 2) (fieldOf w 0 5)) else
  if w &&& 0xFFE007FF#32 = 0xB4000100#32 then .ok (.seal (fieldOf w 16 5) (fieldOf w 11 5)) else
  if w &&& 0xFFE007FF#32 = 0xB4000200#32 then .ok (.unseal (fieldOf w 16 5) (fieldOf w 11 5)) else
  .error .unlistedFunction

/-- Words of major 0x2E. -/
def decodeGroup (w : Word32) : Except DecodeError Instr :=
  if w &&& 0xFC1FFFE0#32 = 0xB8000000#32 then .ok (.arrive (fieldOf w 21 5) (fieldOf w 0 5)) else
  if w &&& 0xFFE0FFFF#32 = 0xB8000100#32 then .ok (.waitb (fieldOf w 16 5)) else
  if w &&& 0xFC00FFFF#32 = 0xB8000200#32 then .ok (.testb (fieldOf w 21 5) (fieldOf w 16 5)) else
  if w &&& 0xFC00FFFF#32 = 0xB8000300#32 then .ok (.join (fieldOf w 21 5) (fieldOf w 16 5)) else
  if w &&& 0xFC00FFFF#32 = 0xB8000400#32 then .ok (.leave (fieldOf w 21 5) (fieldOf w 16 5)) else
  if w &&& 0xFFE0FFE0#32 = 0xB8000500#32 then .ok (.scopeset (fieldOf w 16 5) (fieldOf w 0 5)) else
  .error .unlistedFunction

/-- Words of major 0x2F. -/
def decodeQueue (w : Word32) : Except DecodeError Instr :=
  if w &&& 0xFC00077F#32 = 0xBC000000#32 then .ok (.enq (fieldOf w 21 5) (fieldOf w 16 5) (fieldOf w 11 5) (fieldOf w 7 1)) else
  if w &&& 0xFC00077F#32 = 0xBC000100#32 then .ok (.deq (fieldOf w 21 5) (fieldOf w 16 5) (fieldOf w 11 5) (fieldOf w 7 1)) else
  if w &&& 0xFC1F077F#32 = 0xBC000200#32 then .ok (.inboxr (fieldOf w 21 5) (fieldOf w 11 5) (fieldOf w 7 1)) else
  if w &&& 0xFC1F07FF#32 = 0xBC000300#32 then .ok (.inboxp (fieldOf w 21 5) (fieldOf w 11 5)) else
  .error .unlistedFunction

/-- Words of major 0x30. -/
def decodeSstep (w : Word32) : Except DecodeError Instr :=
  if w &&& 0xFFE007F8#32 = 0xC0000000#32 then .ok (.ssb (fieldOf w 16 5) (fieldOf w 11 5) (fieldOf w 0 3)) else
  if w &&& 0xFFE0FFFF#32 = 0xC0000100#32 then .ok (.ssvote (fieldOf w 16 5)) else
  if w &&& 0xFC00FFFF#32 = 0xC0000200#32 then .ok (.pfl (fieldOf w 21 5) (fieldOf w 16 5)) else
  .error .unlistedFunction

/-- Words of major 0x31. -/
def decodeTask (w : Word32) : Except DecodeError Instr :=
  if w &&& 0xFFE007FF#32 = 0xC4000000#32 then .ok (.cont (fieldOf w 16 5) (fieldOf w 11 5)) else
  if w &&& 0xFFFFFFFF#32 = 0xC4000100#32 then .ok (.trig) else
  if w &&& 0xFC00FFFF#32 = 0xC4000200#32 then .ok (.waitp (fieldOf w 21 5) (fieldOf w 16 5)) else
  .error .unlistedFunction

/-- Words of major 0x32. -/
def decodeMma (w : Word32) : Except DecodeError Instr :=
  if w &&& 0xFC000000#32 = 0xC8000000#32 then .ok (.mma (fieldOf w 23 3) (fieldOf w 18 5) (fieldOf w 13 5) (fieldOf w 9 4) (fieldOf w 5 4) (fieldOf w 3 2) (fieldOf w 0 3)) else
  .error .unlistedFunction

/-- Words of major 0x33. -/
def decodeAcc (w : Word32) : Except DecodeError Instr :=
  if w &&& 0xFFFFFF1F#32 = 0xCC000000#32 then .ok (.mwait (fieldOf w 5 3)) else
  if w &&& 0xFFFFFFFF#32 = 0xCC000100#32 then .ok (.mnext) else
  if w &&& 0xFC1FFF10#32 = 0xCC000200#32 then .ok (.accrd (fieldOf w 21 5) (fieldOf w 5 3) (fieldOf w 0 4)) else
  if w &&& 0xFFE0FF10#32 = 0xCC000300#32 then .ok (.accwr (fieldOf w 16 5) (fieldOf w 5 3) (fieldOf w 0 4)) else
  if w &&& 0xFFFFFF1F#32 = 0xCC000400#32 then .ok (.mzero (fieldOf w 5 3)) else
  .error .unlistedFunction

/-- Words of major 0x34. -/
def decodeEpi (w : Word32) : Except DecodeError Instr :=
  if w &&& 0xFFE0FFFC#32 = 0xD0000000#32 then .ok (.epcfg (fieldOf w 16 5) (fieldOf w 0 2)) else
  if w &&& 0xFFE0071C#32 = 0xD0000100#32 then .ok (.epi (fieldOf w 16 5) (fieldOf w 11 5) (fieldOf w 5 3) (fieldOf w 0 2)) else
  .error .unlistedFunction

/-- Words of major 0x35. -/
def decodeCopy (w : Word32) : Except DecodeError Instr :=
  if w &&& 0xFC00070F#32 = 0xD4000000#32 then .ok (.copy (fieldOf w 21 5) (fieldOf w 16 5) (fieldOf w 11 5) (fieldOf w 5 3) (fieldOf w 4 1)) else
  if w &&& 0xFC00FF0F#32 = 0xD4000100#32 then .ok (.copy2d (fieldOf w 21 5) (fieldOf w 16 5) (fieldOf w 5 3) (fieldOf w 4 1)) else
  if w &&& 0xFFE0071F#32 = 0xD4000200#32 then .ok (.copyg (fieldOf w 16 5) (fieldOf w 11 5) (fieldOf w 5 3)) else
  if w &&& 0xFC000700#32 = 0xD4000300#32 then .ok (.copyr (fieldOf w 21 5) (fieldOf w 16 5) (fieldOf w 11 5) (fieldOf w 5 3) (fieldOf w 3 2) (fieldOf w 0 3)) else
  if w &&& 0xFFFFFF00#32 = 0xD4000400#32 then .ok (.waitt (fieldOf w 0 8)) else
  .error .unlistedFunction

/-- Words of major 0x36. -/
def decodeHelper (w : Word32) : Except DecodeError Instr :=
  if w &&& 0xFC00070F#32 = 0xD8000000#32 then .ok (.start (fieldOf w 21 5) (fieldOf w 16 5) (fieldOf w 11 5) (fieldOf w 4 4)) else
  if w &&& 0xFC000700#32 = 0xD8000100#32 then .ok (.startB (fieldOf w 21 5) (fieldOf w 16 5) (fieldOf w 11 5) (fieldOf w 4 4) (fieldOf w 0 4)) else
  if w &&& 0xFC00FFFF#32 = 0xD8000200#32 then .ok (.hwait (fieldOf w 21 5) (fieldOf w 16 5)) else
  .error .unlistedFunction

/-- Words of major 0x37. -/
def decodeBook (w : Word32) : Except DecodeError Instr :=
  if w &&& 0xFC0007FF#32 = 0xDC000000#32 then .ok (.book (fieldOf w 21 5) (fieldOf w 16 5) (fieldOf w 11 5)) else
  if w &&& 0xFC0007FF#32 = 0xDC000100#32 then .ok (.bookq (fieldOf w 21 5) (fieldOf w 16 5) (fieldOf w 11 5)) else
  if w &&& 0xFC00FFFF#32 = 0xDC000200#32 then .ok (.unbook (fieldOf w 21 5) (fieldOf w 16 5)) else
  if w &&& 0xFC00FFFF#32 = 0xDC000300#32 then .ok (.calq (fieldOf w 21 5) (fieldOf w 16 5)) else
  .error .unlistedFunction

/-- Words of major 0x38. -/
def decodeNet (w : Word32) : Except DecodeError Instr :=
  if w &&& 0xFC00071F#32 = 0xE0000000#32 then .ok (.put (fieldOf w 21 5) (fieldOf w 16 5) (fieldOf w 11 5) (fieldOf w 5 3)) else
  if w &&& 0xFC00071F#32 = 0xE0000100#32 then .ok (.get (fieldOf w 21 5) (fieldOf w 16 5) (fieldOf w 11 5) (fieldOf w 5 3)) else
  if w &&& 0xFFE0FF1F#32 = 0xE0000200#32 then .ok (.coll (fieldOf w 16 5) (fieldOf w 5 3)) else
  if w &&& 0xFC0007FF#32 = 0xE0000300#32 then .ok (.msg (fieldOf w 21 5) (fieldOf w 16 5) (fieldOf w 11 5)) else
  .error .unlistedFunction

/-- Words of major 0x39. -/
def decodePolicy (w : Word32) : Except DecodeError Instr :=
  if w &&& 0xFC1FFFFF#32 = 0xE4000000#32 then .ok (.pubv (fieldOf w 21 5)) else
  if w &&& 0xFC00FFFF#32 = 0xE4000100#32 then .ok (.vsw (fieldOf w 21 5) (fieldOf w 16 5)) else
  if w &&& 0xFFE007FF#32 = 0xE4000200#32 then .ok (.tkrec (fieldOf w 16 5) (fieldOf w 11 5)) else
  .error .unlistedFunction

/-- The instruction that a word stands for (R67, R75, R77 steps 1 to 3). [log 17 DEDUCED] -/
def decode (w : Word32) : Except DecodeError Instr :=
  match (fieldOf w 26 6).toNat with
  | 1 => decodeIntR w
  | 2 => decodeAddi w
  | 3 => decodeAndi w
  | 4 => decodeOri w
  | 5 => decodeXori w
  | 6 => decodeShifti w
  | 7 => decodeLi w
  | 8 => decodePtr w
  | 9 => decodePaddi w
  | 10 => decodeBr w
  | 11 => decodeJmp w
  | 12 => decodeJal w
  | 13 => decodeJalr w
  | 14 => decodeLoop w
  | 15 => decodeRpt w
  | 16 => decodeCsr w
  | 17 => decodeSys w
  | 24 => decodeVflt w
  | 25 => decodeVint w
  | 26 => decodeVfma w
  | 27 => decodeVcmp w
  | 28 => decodeVcvt w
  | 29 => decodeVperm w
  | 30 => decodeVred w
  | 31 => decodeTbl w
  | 32 => decodeKops w
  | 33 => decodeStream w
  | 36 => decodeLd w
  | 37 => decodeSt w
  | 38 => decodeLdv w
  | 39 => decodeStv w
  | 40 => decodeLdvs w
  | 41 => decodeGath w
  | 42 => decodeScat w
  | 43 => decodeFe w
  | 44 => decodeAmo w
  | 45 => decodeFence w
  | 46 => decodeGroup w
  | 47 => decodeQueue w
  | 48 => decodeSstep w
  | 49 => decodeTask w
  | 50 => decodeMma w
  | 51 => decodeAcc w
  | 52 => decodeEpi w
  | 53 => decodeCopy w
  | 54 => decodeHelper w
  | 55 => decodeBook w
  | 56 => decodeNet w
  | 57 => decodePolicy w
  | _ => .error .reservedMajor

/-- Four bytes as a word: the byte at the lowest address holds bits 7:0 (R7, R66). -/
def wordOfBytes (b0 b1 b2 b3 : Byte) : Word32 := place 0 b0 ||| place 8 b1 ||| place 16 b2 ||| place 24 b3

/-- The bytes of a word, lowest address first (R7, R66). -/
def bytesOfWord (w : Word32) : List Byte := [fieldOf w 0 8, fieldOf w 8 8, fieldOf w 16 8, fieldOf w 24 8]

/-- Decoding of a run of bytes: the instruction that begins it, and the bytes after it. -/
def decodeBytes : List Byte → Except DecodeError (Instr × List Byte)
  | b0 :: b1 :: b2 :: b3 :: rest =>
    match decode (wordOfBytes b0 b1 b2 b3) with
    | .ok i => .ok (i, rest)
    | .error e => .error e
  | _ => .error .truncated

/-- The instruction of a row of the opcode table whose bits are `w`; every instruction is one word of 32 bits (R66). -/
def decodeTableWord (nbits w : Nat) : Option Instr :=
  match decodeBytes (bytesOfWord (BitVec.ofNat 32 (w % 2 ^ nbits))) with
  | .ok (i, _) => some i
  | .error _ => none

/-- The word of an instruction, from the encodings of chapters 04 to 07; a step of the part that is no instruction has
no word. -/
def encode : Instr → Option Word32
  | .add d a b t => some (0x04000000#32 ||| place 21 d ||| place 16 a ||| place 11 b ||| place 0 t)
  | .sub d a b t => some (0x04000010#32 ||| place 21 d ||| place 16 a ||| place 11 b ||| place 0 t)
  | .mul d a b t => some (0x04000020#32 ||| place 21 d ||| place 16 a ||| place 11 b ||| place 0 t)
  | .mulh d a b t => some (0x04000030#32 ||| place 21 d ||| place 16 a ||| place 11 b ||| place 0 t)
  | .mulhn d a b t => some (0x04000040#32 ||| place 21 d ||| place 16 a ||| place 11 b ||| place 0 t)
  | .div d a b t => some (0x04000050#32 ||| place 21 d ||| place 16 a ||| place 11 b ||| place 0 t)
  | .divn d a b t => some (0x04000060#32 ||| place 21 d ||| place 16 a ||| place 11 b ||| place 0 t)
  | .rem d a b t => some (0x04000070#32 ||| place 21 d ||| place 16 a ||| place 11 b ||| place 0 t)
  | .remn d a b t => some (0x04000080#32 ||| place 21 d ||| place 16 a ||| place 11 b ||| place 0 t)
  | .and d a b t => some (0x04000100#32 ||| place 21 d ||| place 16 a ||| place 11 b ||| place 0 t)
  | .or d a b t => some (0x04000110#32 ||| place 21 d ||| place 16 a ||| place 11 b ||| place 0 t)
  | .xor d a b t => some (0x04000120#32 ||| place 21 d ||| place 16 a ||| place 11 b ||| place 0 t)
  | .andn d a b t => some (0x04000130#32 ||| place 21 d ||| place 16 a ||| place 11 b ||| place 0 t)
  | .shl d a b t => some (0x04000180#32 ||| place 21 d ||| place 16 a ||| place 11 b ||| place 0 t)
  | .shr d a b t => some (0x04000190#32 ||| place 21 d ||| place 16 a ||| place 11 b ||| place 0 t)
  | .sra d a b t => some (0x040001A0#32 ||| place 21 d ||| place 16 a ||| place 11 b ||| place 0 t)
  | .rot d a b t => some (0x040001B0#32 ||| place 21 d ||| place 16 a ||| place 11 b ||| place 0 t)
  | .min d a b t => some (0x04000200#32 ||| place 21 d ||| place 16 a ||| place 11 b ||| place 0 t)
  | .max d a b t => some (0x04000210#32 ||| place 21 d ||| place 16 a ||| place 11 b ||| place 0 t)
  | .minn d a b t => some (0x04000220#32 ||| place 21 d ||| place 16 a ||| place 11 b ||| place 0 t)
  | .maxn d a b t => some (0x04000230#32 ||| place 21 d ||| place 16 a ||| place 11 b ||| place 0 t)
  | .slt d a b t => some (0x04000280#32 ||| place 21 d ||| place 16 a ||| place 11 b ||| place 0 t)
  | .sltn d a b t => some (0x04000290#32 ||| place 21 d ||| place 16 a ||| place 11 b ||| place 0 t)
  | .seq d a b t => some (0x040002A0#32 ||| place 21 d ||| place 16 a ||| place 11 b ||| place 0 t)
  | .clz d a t => some (0x04000300#32 ||| place 21 d ||| place 16 a ||| place 0 t)
  | .ctz d a t => some (0x04000310#32 ||| place 21 d ||| place 16 a ||| place 0 t)
  | .popc d a t => some (0x04000320#32 ||| place 21 d ||| place 16 a ||| place 0 t)
  | .sext d a t => some (0x04000380#32 ||| place 21 d ||| place 16 a ||| place 0 t)
  | .zext d a t => some (0x04000390#32 ||| place 21 d ||| place 16 a ||| place 0 t)
  | .addi d a i => some (0x08000000#32 ||| place 21 d ||| place 16 a ||| place 0 i)
  | .andi d a i => some (0x0C000000#32 ||| place 21 d ||| place 16 a ||| place 0 i)
  | .ori d a i => some (0x10000000#32 ||| place 21 d ||| place 16 a ||| place 0 i)
  | .xori d a i => some (0x14000000#32 ||| place 21 d ||| place 16 a ||| place 0 i)
  | .shli d a c => some (0x18000000#32 ||| place 21 d ||| place 16 a ||| place 0 c)
  | .shri d a c => some (0x18004000#32 ||| place 21 d ||| place 16 a ||| place 0 c)
  | .srai d a c => some (0x18008000#32 ||| place 21 d ||| place 16 a ||| place 0 c)
  | .lil d i => some (0x1C000000#32 ||| place 21 d ||| place 0 i)
  | .lih d h i => some (0x1C000000#32 ||| place 21 d ||| place 16 h ||| place 0 i)
  | .padd d a b => some (0x20000000#32 ||| place 21 d ||| place 16 a ||| place 11 b)
  | .pset d a b t => some (0x20000010#32 ||| place 21 d ||| place 16 a ||| place 11 b ||| place 0 t)
  | .pget d a t => some (0x20000020#32 ||| place 21 d ||| place 16 a ||| place 0 t)
  | .pdie d a => some (0x20000030#32 ||| place 21 d ||| place 16 a)
  | .pdiff d a b => some (0x20000040#32 ||| place 21 d ||| place 16 a ||| place 11 b)
  | .paddi d a i => some (0x24000000#32 ||| place 21 d ||| place 16 a ||| place 0 i)
  | .br c a b o => some (0x28000000#32 ||| place 22 c ||| place 17 a ||| place 12 b ||| place 0 o)
  | .jmp o => some (0x2C000000#32 ||| place 0 o)
  | .jal o => some (0x30000000#32 ||| place 0 o)
  | .jalr d a i => some (0x34000000#32 ||| place 21 d ||| place 16 a ||| place 0 i)
  | .loop c l v => some (0x38000000#32 ||| place 21 c ||| place 11 l ||| place 9 v)
  | .loopi c l v h => some (0x38000100#32 ||| place 21 c ||| place 11 l ||| place 9 v ||| place 0 h)
  | .rpt n k d a b => some (0x3C000000#32 ||| place 22 n ||| place 16 k ||| place 12 d ||| place 8 a ||| place 4 b)
  | .csrr d c => some (0x40000000#32 ||| place 21 d ||| place 0 c)
  | .csrw d a c => some (0x40004000#32 ||| place 21 d ||| place 16 a ||| place 0 c)
  | .csrs d a c => some (0x40008000#32 ||| place 21 d ||| place 16 a ||| place 0 c)
  | .csrc d a c => some (0x4000C000#32 ||| place 21 d ||| place 16 a ||| place 0 c)
  | .nop => some (0x44000000#32)
  | .trap a b c => some (0x44000100#32 ||| place 16 a ||| place 11 b ||| place 0 c)
  | .tret => some (0x44000200#32)
  | .halt => some (0x44000300#32)
  | .bkpt => some (0x44000400#32)
  | .vaddFlt d a b k t => some (0x60000000#32 ||| place 21 d ||| place 16 a ||| place 11 b ||| place 8 k ||| place 0 t)
  | .vsubFlt d a b k t => some (0x60000010#32 ||| place 21 d ||| place 16 a ||| place 11 b ||| place 8 k ||| place 0 t)
  | .vmulFlt d a b k t => some (0x60000020#32 ||| place 21 d ||| place 16 a ||| place 11 b ||| place 8 k ||| place 0 t)
  | .vdiv d a b k t => some (0x60000030#32 ||| place 21 d ||| place 16 a ||| place 11 b ||| place 8 k ||| place 0 t)
  | .vsqrt d a k t => some (0x60000040#32 ||| place 21 d ||| place 16 a ||| place 8 k ||| place 0 t)
  | .vminFlt d a b k t => some (0x60000050#32 ||| place 21 d ||| place 16 a ||| place 11 b ||| place 8 k ||| place 0 t)
  | .vmaxFlt d a b k t => some (0x60000060#32 ||| place 21 d ||| place 16 a ||| place 11 b ||| place 8 k ||| place 0 t)
  | .vabs d a k t => some (0x60000070#32 ||| place 21 d ||| place 16 a ||| place 8 k ||| place 0 t)
  | .vneg d a k t => some (0x60000080#32 ||| place 21 d ||| place 16 a ||| place 8 k ||| place 0 t)
  | .vaddInt d a b k t => some (0x64000000#32 ||| place 21 d ||| place 16 a ||| place 11 b ||| place 8 k ||| place 0 t)
  | .vsubInt d a b k t => some (0x64000010#32 ||| place 21 d ||| place 16 a ||| place 11 b ||| place 8 k ||| place 0 t)
  | .vmulInt d a b k t => some (0x64000020#32 ||| place 21 d ||| place 16 a ||| place 11 b ||| place 8 k ||| place 0 t)
  | .vminInt d a b k t => some (0x64000030#32 ||| place 21 d ||| place 16 a ||| place 11 b ||| place 8 k ||| place 0 t)
  | .vmaxInt d a b k t => some (0x64000040#32 ||| place 21 d ||| place 16 a ||| place 11 b ||| place 8 k ||| place 0 t)
  | .vand d a b k t => some (0x64000050#32 ||| place 21 d ||| place 16 a ||| place 11 b ||| place 8 k ||| place 0 t)
  | .vor d a b k t => some (0x64000060#32 ||| place 21 d ||| place 16 a ||| place 11 b ||| place 8 k ||| place 0 t)
  | .vxor d a b k t => some (0x64000070#32 ||| place 21 d ||| place 16 a ||| place 11 b ||| place 8 k ||| place 0 t)
  | .vshl d a b k t => some (0x64000080#32 ||| place 21 d ||| place 16 a ||| place 11 b ||| place 8 k ||| place 0 t)
  | .vshr d a b k t => some (0x64000090#32 ||| place 21 d ||| place 16 a ||| place 11 b ||| place 8 k ||| place 0 t)
  | .vsra d a b k t => some (0x640000A0#32 ||| place 21 d ||| place 16 a ||| place 11 b ||| place 8 k ||| place 0 t)
  | .vfma d a b c k t => some (0x68000000#32 ||| place 21 d ||| place 16 a ||| place 11 b ||| place 6 c ||| place 3 k ||| place 0 t)
  | .vfms d a b c k t => some (0x68000002#32 ||| place 21 d ||| place 16 a ||| place 11 b ||| place 6 c ||| place 3 k ||| place 0 t)
  | .vfnma d a b c k t => some (0x68000004#32 ||| place 21 d ||| place 16 a ||| place 11 b ||| place 6 c ||| place 3 k ||| place 0 t)
  | .vcmp d a b k c t => some (0x6C000000#32 ||| place 21 d ||| place 16 a ||| place 11 b ||| place 8 k ||| place 4 c ||| place 0 t)
  | .vsel d a b k t => some (0x6C000080#32 ||| place 21 d ||| place 16 a ||| place 11 b ||| place 8 k ||| place 0 t)
  | .vcvt d a x r s k f t => some (0x70000000#32 ||| place 21 d ||| place 16 a ||| place 15 x ||| place 12 r ||| place 11 s ||| place 8 k ||| place 4 f ||| place 0 t)
  | .vperm d a b k t => some (0x74000000#32 ||| place 21 d ||| place 16 a ||| place 11 b ||| place 8 k ||| place 0 t)
  | .vbcast d a k t => some (0x74000010#32 ||| place 21 d ||| place 16 a ||| place 8 k ||| place 0 t)
  | .vmovs d a b t => some (0x74000020#32 ||| place 21 d ||| place 16 a ||| place 11 b ||| place 0 t)
  | .vins d a b t => some (0x74000030#32 ||| place 21 d ||| place 16 a ||| place 11 b ||| place 0 t)
  | .viota d k t => some (0x74000040#32 ||| place 21 d ||| place 8 k ||| place 0 t)
  | .vpack d a b => some (0x74000050#32 ||| place 21 d ||| place 16 a ||| place 11 b)
  | .vunpk d a h => some (0x74000060#32 ||| place 21 d ||| place 16 a ||| place 11 h)
  | .vreduce d a k o t => some (0x78000000#32 ||| place 21 d ||| place 16 a ||| place 8 k ||| place 4 o ||| place 0 t)
  | .vscan d a k o t => some (0x78000080#32 ||| place 21 d ||| place 16 a ||| place 8 k ||| place 4 o ||| place 0 t)
  | .tload s a => some (0x7C000000#32 ||| place 21 s ||| place 16 a)
  | .tinterp d a s k t => some (0x7C000010#32 ||| place 21 d ||| place 16 a ||| place 11 s ||| place 8 k ||| place 0 t)
  | .vqdq d a b k t => some (0x7C000020#32 ||| place 21 d ||| place 16 a ||| place 11 b ||| place 8 k ||| place 0 t)
  | .qscale d a b k t => some (0x7C000030#32 ||| place 21 d ||| place 16 a ||| place 11 b ||| place 8 k ||| place 0 t)
  | .kand d a b => some (0x80000000#32 ||| place 21 d ||| place 16 a ||| place 11 b)
  | .kor d a b => some (0x80000001#32 ||| place 21 d ||| place 16 a ||| place 11 b)
  | .kxor d a b => some (0x80000002#32 ||| place 21 d ||| place 16 a ||| place 11 b)
  | .knot d a => some (0x80000003#32 ||| place 21 d ||| place 16 a)
  | .kpop d a => some (0x80000004#32 ||| place 21 d ||| place 16 a)
  | .kfirst d a => some (0x80000005#32 ||| place 21 d ||| place 16 a)
  | .kset d a => some (0x80000006#32 ||| place 21 d ||| place 16 a)
  | .sbindIn d a b e => some (0x84000000#32 ||| place 21 d ||| place 16 a ||| place 11 b ||| place 8 e)
  | .sbindOut d a b e => some (0x84000040#32 ||| place 21 d ||| place 16 a ||| place 11 b ||| place 8 e)
  | .sbindCopy d e => some (0x84000080#32 ||| place 21 d ||| place 8 e)
  | .sunbind d => some (0x84000001#32 ||| place 21 d)
  | .sstat d a => some (0x84000002#32 ||| place 21 d ||| place 16 a)
  | .streamWake _ _ _ => none
  | .ld d b f i => some (0x90000000#32 ||| place 21 d ||| place 16 b ||| place 13 f ||| place 0 i)
  | .ldAcq d b f e => some (0x90001000#32 ||| place 21 d ||| place 16 b ||| place 13 f ||| place 0 e)
  | .st d b n w i => some (0x94000000#32 ||| place 21 d ||| place 16 b ||| place 15 n ||| place 13 w ||| place 0 i)
  | .stRel d b n w e => some (0x94001000#32 ||| place 21 d ||| place 16 b ||| place 15 n ||| place 13 w ||| place 0 e)
  | .ldv d b n i => some (0x98000000#32 ||| place 21 d ||| place 16 b ||| place 13 n ||| place 0 i)
  | .ldvAcq d b n e => some (0x98001000#32 ||| place 21 d ||| place 16 b ||| place 13 n ||| place 0 e)
  | .stv d b n i => some (0x9C000000#32 ||| place 21 d ||| place 16 b ||| place 13 n ||| place 0 i)
  | .stvRel d b n e => some (0x9C001000#32 ||| place 21 d ||| place 16 b ||| place 13 n ||| place 0 e)
  | .ldvs d a b t => some (0xA0000000#32 ||| place 21 d ||| place 16 a ||| place 11 b ||| place 0 t)
  | .ldvsAcq d a b e t => some (0xA0000200#32 ||| place 21 d ||| place 16 a ||| place 11 b ||| place 4 e ||| place 0 t)
  | .stvs d a b t => some (0xA0000400#32 ||| place 21 d ||| place 16 a ||| place 11 b ||| place 0 t)
  | .stvsRel d a b e t => some (0xA0000600#32 ||| place 21 d ||| place 16 a ||| place 11 b ||| place 4 e ||| place 0 t)
  | .gath d b x k i g c z => some (0xA4000000#32 ||| place 21 d ||| place 16 b ||| place 11 x ||| place 8 k ||| place 6 i ||| place 5 g ||| place 2 c ||| place 0 z)
  | .scat d b x k i g c z => some (0xA8000000#32 ||| place 21 d ||| place 16 b ||| place 11 x ||| place 8 k ||| place 6 i ||| place 5 g ||| place 2 c ||| place 0 z)
  | .gatherElementReplay _ _ _ _ => none
  | .ldfe d b i => some (0xAC000000#32 ||| place 21 d ||| place 16 b ||| place 0 i)
  | .ldff d b i => some (0xAC002000#32 ||| place 21 d ||| place 16 b ||| place 0 i)
  | .ste d b i => some (0xAC004000#32 ||| place 21 d ||| place 16 b ||| place 0 i)
  | .stf d b i => some (0xAC006000#32 ||| place 21 d ||| place 16 b ||| place 0 i)
  | .feget d b i => some (0xAC008000#32 ||| place 21 d ||| place 16 b ||| place 0 i)
  | .feset d b i => some (0xAC00A000#32 ||| place 21 d ||| place 16 b ||| place 0 i)
  | .feWaiterWake _ => none
  | .amoAdd d a b r e w => some (0xB0000000#32 ||| place 21 d ||| place 16 a ||| place 11 b ||| place 9 r ||| place 4 e ||| place 0 w)
  | .amoMin d a b r e w => some (0xB0000002#32 ||| place 21 d ||| place 16 a ||| place 11 b ||| place 9 r ||| place 4 e ||| place 0 w)
  | .amoMax d a b r e w => some (0xB0000004#32 ||| place 21 d ||| place 16 a ||| place 11 b ||| place 9 r ||| place 4 e ||| place 0 w)
  | .amoAnd d a b r e w => some (0xB0000006#32 ||| place 21 d ||| place 16 a ||| place 11 b ||| place 9 r ||| place 4 e ||| place 0 w)
  | .amoOr d a b r e w => some (0xB0000008#32 ||| place 21 d ||| place 16 a ||| place 11 b ||| place 9 r ||| place 4 e ||| place 0 w)
  | .amoXor d a b r e w => some (0xB000000A#32 ||| place 21 d ||| place 16 a ||| place 11 b ||| place 9 r ||| place 4 e ||| place 0 w)
  | .amoSwap d a b r e w => some (0xB000000C#32 ||| place 21 d ||| place 16 a ||| place 11 b ||| place 9 r ||| place 4 e ||| place 0 w)
  | .amoCas d a b r e w => some (0xB000000E#32 ||| place 21 d ||| place 16 a ||| place 11 b ||| place 9 r ||| place 4 e ||| place 0 w)
  | .fence k e => some (0xB4000000#32 ||| place 6 k ||| place 0 e)
  | .seal a b => some (0xB4000100#32 ||| place 16 a ||| place 11 b)
  | .unseal a b => some (0xB4000200#32 ||| place 16 a ||| place 11 b)
  | .arrive d e => some (0xB8000000#32 ||| place 21 d ||| place 0 e)
  | .waitb a => some (0xB8000100#32 ||| place 16 a)
  | .testb d a => some (0xB8000200#32 ||| place 21 d ||| place 16 a)
  | .join d a => some (0xB8000300#32 ||| place 21 d ||| place 16 a)
  | .leave d a => some (0xB8000400#32 ||| place 21 d ||| place 16 a)
  | .scopeset a e => some (0xB8000500#32 ||| place 16 a ||| place 0 e)
  | .groupWaitWake _ _ _ => none
  | .enq d a b tr => some (0xBC000000#32 ||| place 21 d ||| place 16 a ||| place 11 b ||| place 7 tr)
  | .deq d a b tr => some (0xBC000100#32 ||| place 21 d ||| place 16 a ||| place 11 b ||| place 7 tr)
  | .qcWaiterServe _ => none
  | .deqLongWait _ _ _ => none
  | .inboxr d b tr => some (0xBC000200#32 ||| place 21 d ||| place 11 b ||| place 7 tr)
  | .inboxp d b => some (0xBC000300#32 ||| place 21 d ||| place 11 b)
  | .inboxWaitWake _ _ _ => none
  | .inboxHeldDeliver _ _ => none
  | .ssb a b r => some (0xC0000000#32 ||| place 16 a ||| place 11 b ||| place 0 r)
  | .ssbArrive _ _ => none
  | .ssvote a => some (0xC0000100#32 ||| place 16 a)
  | .pfl d a => some (0xC0000200#32 ||| place 21 d ||| place 16 a)
  | .cont a b => some (0xC4000000#32 ||| place 16 a ||| place 11 b)
  | .trig => some (0xC4000100#32)
  | .waitp d a => some (0xC4000200#32 ||| place 21 d ||| place 16 a)
  | .waitpComplete _ _ _ => none
  | .mma s a b t u c m => some (0xC8000000#32 ||| place 23 s ||| place 18 a ||| place 13 b ||| place 9 t ||| place 5 u ||| place 3 c ||| place 0 m)
  | .mmaComplete _ _ => none
  | .mwait s => some (0xCC000000#32 ||| place 5 s)
  | .mnext => some (0xCC000100#32)
  | .accrd d s r => some (0xCC000200#32 ||| place 21 d ||| place 5 s ||| place 0 r)
  | .accwr a s r => some (0xCC000300#32 ||| place 16 a ||| place 5 s ||| place 0 r)
  | .mzero s => some (0xCC000400#32 ||| place 5 s)
  | .epcfg a c => some (0xD0000000#32 ||| place 16 a ||| place 0 c)
  | .epi a b w c => some (0xD0000100#32 ||| place 16 a ||| place 11 b ||| place 5 w ||| place 0 c)
  | .epiDrainStart _ _ => none
  | .epiDrainEnd _ _ => none
  | .copy d a b w s => some (0xD4000000#32 ||| place 21 d ||| place 16 a ||| place 11 b ||| place 5 w ||| place 4 s)
  | .copy2d d a w s => some (0xD4000100#32 ||| place 21 d ||| place 16 a ||| place 5 w ||| place 4 s)
  | .copyg a b w => some (0xD4000200#32 ||| place 16 a ||| place 11 b ||| place 5 w)
  | .copyr d a b w o y => some (0xD4000300#32 ||| place 21 d ||| place 16 a ||| place 11 b ||| place 5 w ||| place 3 o ||| place 0 y)
  | .waitt m => some (0xD4000400#32 ||| place 0 m)
  | .tokenWaitWake _ _ _ => none
  | .copyComplete _ _ _ => none
  | .copygComplete _ _ _ => none
  | .gatherRowArrive _ _ _ _ => none
  | .engineFault _ _ _ _ _ => none
  | .start d a b h => some (0xD8000000#32 ||| place 21 d ||| place 16 a ||| place 11 b ||| place 4 h)
  | .startB d a b h n => some (0xD8000100#32 ||| place 21 d ||| place 16 a ||| place 11 b ||| place 4 h ||| place 0 n)
  | .hwait d a => some (0xD8000200#32 ||| place 21 d ||| place 16 a)
  | .hwaitComplete _ _ _ => none
  | .book d a b => some (0xDC000000#32 ||| place 21 d ||| place 16 a ||| place 11 b)
  | .bookq d a b => some (0xDC000100#32 ||| place 21 d ||| place 16 a ||| place 11 b)
  | .unbook d a => some (0xDC000200#32 ||| place 21 d ||| place 16 a)
  | .calq d a => some (0xDC000300#32 ||| place 21 d ||| place 16 a)
  | .put d a b w => some (0xE0000000#32 ||| place 21 d ||| place 16 a ||| place 11 b ||| place 5 w)
  | .get d a b w => some (0xE0000100#32 ||| place 21 d ||| place 16 a ||| place 11 b ||| place 5 w)
  | .coll a w => some (0xE0000200#32 ||| place 16 a ||| place 5 w)
  | .msg d a b => some (0xE0000300#32 ||| place 21 d ||| place 16 a ||| place 11 b)
  | .pubv d => some (0xE4000000#32 ||| place 21 d)
  | .vsw d a => some (0xE4000100#32 ||| place 21 d ||| place 16 a)
  | .tkrec a b => some (0xE4000200#32 ||| place 16 a ||| place 11 b)
  | .queueWake _ _ _ => none
  | .workUnitStart _ _ => none
  | .conLaunchStart _ => none
  | .unitPlace _ => none
  | .dispatchCheck _ => none
  | .continuationReady _ _ => none
  | .continuationResume _ => none
  | .slotBoundary _ _ => none
  | .overrunLatency _ _ _ => none
  | .barrierRecord _ _ _ _ _ => none
  | .commit _ _ => none
  | .abort _ _ => none
  | .controllerCommit _ _ => none
  | .controllerAbort _ _ => none
  | .reportDone _ _ => none
  | .resumeBroadcast _ _ => none
  | .forcedEvent _ _ _ => none
  | .parityError _ _ _ => none
  | .remoteKeptWrite _ _ _ _ _ => none
  | .stagingEntryComplete _ _ _ => none
  | .requestAppendResume _ => none
  | .tctxWrite _ _ _ => none
  | .tinv _ _ => none
  | .tinvComplete _ => none
  | .prespRetry _ _ => none
  | .prespRefuse _ _ => none
  | .dirtyBitmapRead _ _ _ => none
  | .polgrpWrite _ _ _ => none
  | .tailrWrite _ _ _ _ => none
  | .ringScanResume _ _ _ => none
  | .ringbaseWrite _ _ _ _ => none
  | .merrcWrite _ _ _ => none
  | .registerWrite _ _ _ _ _ => none
  | .hostRead _ _ _ _ => none
  | .hostWrite _ _ _ _ => none
  | .hostAtomicFetchadd _ _ _ _ _ => none
  | .cloveSwitchDrain _ _ => none
  | .cloveAbortSwitch _ _ => none
  | .cloveSwitchForced _ _ => none
  | .cloveResume _ _ => none
  | .checkpoint _ _ => none
  | .restore _ _ => none
  | .checkpointPhase2Done _ _ => none
  | .checkpointPhase3Done _ _ => none
  | .switchQuiet _ => none
  | .switchEscalate _ => none
  | .markArrive _ _ _ => none
  | .sweepPacketArrive _ _ _ => none
  | .containRelease _ _ => none
  | .containExclude _ _ => none
  | .containKill _ _ => none
  | .readctx _ _ => none
  | .throttle _ _ => none
  | .throttleApply _ => none
  | .kill _ _ => none
  | .image _ _ => none
  | .attest _ _ => none
  | .keywrap _ _ => none
  | .swcfg _ _ => none
  | .boot _ => none
  | .powerLimitStep _ => none
  | .powerRestoreStep _ => none
  | .thermalCutoff _ => none
  | .testKernelEnd _ _ _ => none
  | .packetRoute _ _ _ => none
  | .collHop _ _ => none
  | .collSlotTimeout _ _ => none
  | .collEndpointArrival _ _ => none
  | .collComplete _ _ _ => none
  | .mcastBranchSend _ _ _ => none
  | .linkFlitReceive _ _ _ _ _ => none
  | .linkReplay _ _ _ => none
  | .linkDown _ _ => none
  | .linkRetrain _ _ => none
  | .keepwait _ _ => none
  | .serviced _ _ => none
  | .withdrawn _ _ => none
  | .begun _ _ => none
  | .remoteto _ _ _ => none
  | .pairCompare _ _ => none
  | .pairTimeout _ _ => none
  | .moduleLoss _ => none
  | .testKernelPlace _ _ => none
  | .migrationCopy _ _ _ => none
  | .meshDrained _ _ => none
  | .functionReset _ _ => none
  | .jobStart _ _ _ => none
  | .gangAllot _ _ => none
  | .quarantineClear _ _ _ => none
  | .modulePowerLoss _ => none
  | .badop _ _ => none
  | .moduleRelease _ _ => none

/-- The word of an instruction, or zero for a step that has none; TVAL of ILLEGAL, CTXPRIV and UNIMPL (R34). -/
def wordOf (i : Instr) : Word32 := (encode i).getD 0#32

end Sys2Proof
end

