-- ==== Sys2Proof/Config.lean ====
section
/-! DEFINITION. What the part fixes (capacities, R2 and the chapters that own them) and the free values: what the spec
leaves open. A free value has no body, so
nothing can be proved of it but that it is a value. -/

namespace Sys2Proof.Config

/-- Tiles of a die (R2). -/
def tilesPerDie : Nat := 1024
/-- Compute dies of a module (R1). -/
def diesPerModule : Nat := 8
/-- Bytes of a scratchpad, 384 KiB (R292). -/
def spadBytes : Nat := 0x60000
/-- Bytes of a vault, 1,664 KiB (R294). -/
def vaultBytes : Nat := 0x1A0000
/-- First byte of the reserved area of a scratchpad (R26). -/
def reservedBase : Nat := 0x5F000
/-- Entries of an inbox (R24). -/
def inboxDepth : Nat := 32
/-- Remote requests of a tile that have no answer yet (R398). -/
def remoteRequests : Nat := 128
/-- Operations that a copy engine holds (R398). -/
def copyOps : Nat := 32
/-- Unposted program messages of a tile (R240). -/
def heldMessages : Nat := 64
/-- Entries of a page-fetch list (R199). -/
def fetchEntries : Nat := 64
/-- Groups of a partition's group table (R187). -/
def groupRoom : Nat := 1024
/-- Records of a gang's continuation FIFO (R335). -/
def fifoRoom : Nat := 4096
/-- Slots of a switch, and endpoint contexts of a die, for unordered reductions (R360, R361). -/
def reduceSlots : Nat := 256
/-- Ordered contexts of a die (R362). -/
def orderedContexts : Nat := 16
/-- Packets of a multicast store, for each ingress VC (R365). -/
def mcastRoom : Nat := 16
/-- Flits that a sender keeps until they are acknowledged (R355). -/
def linkWindow : Nat := 2048
/-- Requests of a fault queue (R367). -/
def faultQueueRoom : Nat := 256
/-- Bytes of the overflow area of a switch (R370). -/
def overflowBytes : Nat := 65536
/-- Frames of 2 MiB that a stack offers to translation end at this offset of the stack (R309). -/
def stackFrameEnd : Nat := 0x165A000000

/-- FREE VALUE. Bits 8:0 of CALNOW, the cycle in the slot: the model keeps slots and no cycles. [log 11 DESIGN CHOICE] -/
opaque freeCycle : Nat → BitVec 9
/-- FREE VALUE. Whether the die slots of a WP or PAR unit begin together with its tile's slots (R339). [log 12 DESIGN CHOICE] -/
opaque freeAligned : Nat → Bool
/-- FREE VALUE. The vendor of the part (0), the revision and the identifier of its capability (1, 2) and the version of its records (3) (R440). [log 82 DESIGN CHOICE] -/
opaque partId : Nat → BitVec 16
/-- FREE VALUE. The numbers of virtual functions that firmware enables on the ports of a module: port A under 2 × module, port B after it (R428). [log 5 DESIGN CHOICE] -/
opaque freeFns : Nat → Nat
/-- FREE VALUE. Whether modules outside the box of a job give the survivors of a loss a route (R424). [log 47 DEDUCED] -/
opaque freeOrder : Nat → Bool
/-- FREE VALUE. Which of several resources that the spec does not tell apart is taken: a booking handle (R233), a tag of a
page request (R312), a continuation frame (R335). [log 13 DESIGN CHOICE] -/
opaque freePick : Nat → Nat
/-- FREE VALUE. A byte of memory that another owner's key deciphers (R318), of an initial image that cannot be read any more (R330),
or of what the model does not count (R384). [log 33 DESIGN CHOICE, 56 DESIGN CHOICE] -/
opaque freeByte : Nat → BitVec 8
/-- FREE VALUE. The public key of Hokuelm, as the boot ROM of the part holds it, and the hash that is fused (R434). [log 34 DESIGN CHOICE] -/
opaque makerKey : Nat × Nat
opaque makerHash : List Byte
/-- FREE VALUE. The fused secret of a module, and the private key that the controller derives from a secret (R437). [log 34 DESIGN CHOICE] -/
opaque fusedSecret : Nat → List Byte
opaque identityKey : List Byte → Nat
/-- FREE VALUE. Whether a certificate chain leads to the Hokuelm root, and the public key that it certifies, as an uncompressed point: the spec gives its
format nowhere (R437, R439). [log 34 DESIGN CHOICE] -/
opaque chainGood : List Byte → Bool
opaque chainKey : List Byte → List Byte
/-- FREE VALUE. The certificate chain that is stored on a module (R437). [log 34 DESIGN CHOICE] -/
opaque certificate : Nat → List Byte
/-- FREE VALUE. The nonce of a signature of bytes that a private key makes (R394, R438). [log 34 DESIGN CHOICE] -/
opaque nonce : Nat → List Byte → Nat
/-- FREE VALUE. The two keys of XTS that a save key of 32 bytes gives (R394, R439). [log 34 DESIGN CHOICE] -/
opaque xtsKeys : List Byte → List Byte
/-- FREE VALUE. The firmware image that a module has from its maker (R435), and whether training finds a failure of the hardware. [log 44 DEDUCED] -/
opaque makerImage : Nat → List Byte
opaque freeFail : Nat → Bool
/-- FREE VALUE. The hash of a packet that the comparator of a pair forms (R417). [log 35 DEDUCED] -/
opaque packetHash : List Byte → Nat

end Sys2Proof.Config
end

