-- ==== Sys2Proof/Machine/State.lean ====
section
/-! DEFINITION. The state of a system of modules, as plain data (01_machine_state and the chapters that own the rest).
Physical agents are keyed by numbers: module m, die d = 8 m + position (R348, R411), tile d × 1,024 + TILEID, partition
job × 256 + number. A key that a map does not list stands for an agent in its state after reset. -/

namespace Sys2Proof.Machine

/-- A finite map: keys strictly rising. -/
abbrev Map (α : Type) := List (Nat × α)

/-- Memory: the bytes that differ from zero, addresses strictly rising. An unlisted byte reads as zero. -/
abbrev Memory := List Host.Cell

/-- Why the machine stops. No rule of the spec lets an instruction stop the machine, so nothing raises it: every cause
of the spec is an exception that is taken. Safe. -/
inductive Fault where
  /-- Raised by nobody. Safe. -/
  | none
  deriving DecidableEq, Repr

/-- Why an instruction has no meaning. -/
inductive Refusal where
  /-- Raised by an arm of `exec` whose instruction has no meaning yet. Safe. -/
  | notModelled (mnemonic : String)
  deriving DecidableEq, Repr

/-- The trap causes, with the codes and priorities of R34. -/
inductive Cause where
  | illegal | ctxpriv | unimpl | badscope | illfmt | ptrovf | straddle | misalign | nomem | perm | page | sealed
  | tagmm | accbusy | scale | deltaovf | remoteto | overrun | trap | bkpt
  deriving DecidableEq, Repr

/-- The states of a context (R13). -/
inductive CtxState where
  | idle | live | faulted | frozen | resident | stopped
  deriving DecidableEq, Repr

/-- One hardware loop level (R18, R27). -/
structure LoopLevel where
  count : BitVec 32 := 0
  start : BitVec 22 := 0
  len : BitVec 10 := 0
  deriving DecidableEq, Repr

/-- A repeat frame that runs: the address of its RPT, the RPT word, the words captured, replay and position (R84). -/
structure FrameRun where
  base : Word
  rpt : Word32
  words : List Word32
  i : Nat
  j : Nat
  deriving DecidableEq, Repr

/-- An access that waits on a page request (R167, R177, R310): its element, the die, function, stage and tag it waits
on, its pointer, whether it writes `size` bytes of `data`, its number in a remote fault queue (R367), and whether the
whole instruction runs again when the answer comes. -/
structure PageWait where
  elem : Nat
  die : Nat
  fn : Nat
  stage : Nat
  tag : Nat
  addr : Word
  write : Bool
  size : Nat
  data : Word
  parked : Option Nat
  solo : Bool
  deriving DecidableEq, Repr

/-- What a context waits for (R13, R167 and the entries of the waiting instructions). -/
inductive Wait where
  /-- The instruction cannot issue yet: a staged range, an engine slot or an earlier write holds it. -/
  | issue
  /-- A tile queue that is empty or full (R19). -/
  | queue
  /-- A bound register's ring or port (R162). -/
  | stream
  /-- A full/empty function waiting at a word: physical key, function, register, and the value that it stores (R180). -/
  | fe (key : Nat) (fn : BitVec 3) (d : BitVec 5) (v : BitVec 32)
  /-- ARRIVE or WAITB (R189, R190). -/
  | group
  /-- ENQ or DEQ at a ring control block (R194). -/
  | ring (block : Nat)
  /-- INBOXR or INBOXP on an empty inbox (R195). -/
  | inbox
  /-- SSB before its arrival, with its fields (R196). -/
  | ssb (a b : BitVec 5) (r : BitVec 3)
  /-- A tile that has arrived at its barrier (R196, R132). -/
  | barrier
  /-- WAITP (R203). -/
  | producers
  /-- WAITT on the tokens of a mask, or HALT, where `quiet`, on every token and every helper (R132, R226). -/
  | tokens (mask : BitVec 8) (quiet : Bool)
  /-- HWAIT on the helpers of a mask (R231). -/
  | helpers (mask : BitVec 11)
  /-- Accesses referred to a page service or parked at a remote target: what waits, the elements that are complete and
  their values (R177, R310, R367, R392). -/
  | pages (waits : List PageWait) (done : BitVec 64) (part : Vec)
  /-- An access that never completes: its data cannot be corrected (R317). -/
  | never
  deriving DecidableEq, Repr

/-- The origin of a continuation record that a context resumed (R14, R201). -/
structure Origin where
  tile : Nat
  ssn : BitVec 32
  deriving DecidableEq, Repr

/-- A context: PC, registers, loop state, per-context CSRs (R12, R15 to R18, R29, R31). -/
structure Ctx where
  st : CtxState := .idle
  pc : Word := 0
  s : Vector Word 32 := Vector.replicate 32 0
  v : Vector Vec 32 := Vector.replicate 32 0
  k : Vector (BitVec 16) 8 := Vector.replicate 8 0
  loops : Vector LoopLevel 4 := Vector.replicate 4 {}
  depth : Nat := 0
  qmap : BitVec 8 := 0
  frm : BitVec 8 := 0
  tcause : BitVec 8 := 0
  tpc : Word := 0
  tval : Word := 0
  tstat : BitVec 12 := 0
  rptidx : BitVec 14 := 0
  mrow : BitVec 8 := 0
  /-- Entries 0 to 31 of the scope table, coded as R191; entries 0 to 4 are fixed and hold 0 (R31). -/
  scopes : Vector (BitVec 32) 32 := Vector.replicate 32 0
  /-- The stream map: bit 3 bound, bits 2:0 descriptor, for v24 to v31 (R27). -/
  binds : Vector (BitVec 4) 8 := Vector.replicate 8 0
  /-- The draw counter C (R53). -/
  draws : BitVec 64 := 0
  /-- The live mask that START gave (R229). -/
  liveMask : Word := 0
  /-- The booking that runs in this helper (R230). -/
  handle : Option Nat := none
  frame : Option FrameRun := none
  wait : Option Wait := none
  /-- Elements of the vector access at the PC that are complete, and their values (R177). -/
  replay : Option (BitVec 64 × Vec) := none
  /-- Ring slots that the instruction at the PC has read while it waits: the offsets of their first bytes (R162). -/
  slotsRead : List Nat := []
  /-- Addresses of accesses of the instruction at the PC that a page service has refused (R311). -/
  refused : List Word := []
  /-- First row of an MMA to be resumed by TRET (R130, R212). -/
  mmaRow : Option Nat := none
  /-- The table slot of a TLOAD that has issued and waits (R153). -/
  tload : Option Nat := none
  origin : Option Origin := none
  deriving DecidableEq, Repr

/-- The states of an accumulator slot (R22). -/
inductive SlotState where
  | free | mma | epiq | epi
  deriving DecidableEq, Repr

/-- An accumulator slot: its state, and its elements that are not zero, element (m, n) at 16 m + n (R22). -/
structure AccSlot where
  st : SlotState := .free
  elems : Map (BitVec 32) := []
  deriving DecidableEq, Repr

/-- An MMA in flight, with its operands as fetched (R204, R211): rows row0 to row1 − 1 are there, and all of them once `fetched`. A Q4 element is
kept as code and subscale. -/
structure MmaOp where
  ctx : Nat
  seq : BitVec 32
  slot : Nat
  ta : BitVec 4
  tb : BitVec 4
  overwrite : Bool
  row0 : Nat
  row1 : Nat
  a : List (List (BitVec 16))
  b : List (List (BitVec 16))
  fetched : Bool := true
  deriving DecidableEq, Repr

/-- A job of the epilogue engine (R214, R219, R398). -/
structure EpiJob where
  slot : Nat
  tok : Option Nat
  cfg : BitVec 512
  dst : Word
  stride : Word
  ctx : Nat
  rm : BitVec 3
  draws : BitVec 64
  pc : Word
  waits : List PageWait
  /-- SUBREG as it stood at issue (R303). -/
  subreg : Word := 0
  /-- Contexts whose TLOAD of the job's table was issued before it and is not complete (R153). -/
  behind : List Nat := []
  /-- The booking of the context that issued it (R32, R413). -/
  handle : Option Nat := none
  /-- The super-scale and the biases that it has read, the first row that is not written, and the flags so far (R219). -/
  reads : Option (BitVec 32 × BitVec 512) := none
  row : Nat := 0
  flags : BitVec 5 := 0
  deriving DecidableEq, Repr

/-- A table slot (R153, R154). -/
structure TableSlot where
  valid : Bool := false
  ssn : BitVec 32 := 0
  header : BitVec 256 := 0
  segs : List (BitVec 128) := []
  deriving DecidableEq, Repr

/-- The kinds of operation that the copy engine holds (R399). -/
inductive OpKind where
  | copy | copy2d | copyg | copyr | put | get | coll
  deriving DecidableEq, Repr

/-- An engine operation in flight (R399). `rows` lists the rows that a COPYG has placed (R315). -/
structure EngineOp where
  id : Nat
  kind : OpKind
  tok : Nat
  stream : Bool
  entry : Nat
  ctx : Nat
  x : BitVec 5
  sd : Word
  sa : Word
  sb : Word
  desc : BitVec 512
  done : Nat
  rows : List Nat
  flags : BitVec 5
  pc : Word
  waits : List PageWait
  /-- SUBREG as it stood at issue (R303). -/
  subreg : Word := 0
  /-- The indices of a COPYG's batch that have been read, by row (R315). -/
  batch : List (Nat × Nat) := []
  /-- S[d], S[a] and S[b] as issued (R399). -/
  regs : List Word := []
  /-- The booking of the context that issued it (R32, R413). -/
  handle : Option Nat := none
  /-- What has been read and is not written whole, by its first byte's group, element or row, and how many pieces of it are written (R222, R225, R315). -/
  got : List (Nat × List Byte × Nat) := []
  /-- The failed row with the lowest number that the engine knows of, its cause and offset (R315). -/
  failed : Option (Nat × BitVec 8 × BitVec 40) := none
  deriving DecidableEq, Repr

/-- An entry of a page-fetch list or of a staged set (R198, R290); `st` is 0 PENDING, 1 PRESENT, 2 FAILED (R399).
`id` is 64 times the number of the superstep of its list, plus its place in the list. -/
structure StagingEntry where
  id : Nat
  src : Word
  dst : Word
  len : Nat
  rowb : Nat
  gather : Bool
  idx : Word
  st : Nat
  pc : Word
  waits : List PageWait
  /-- SUBREG as it stood at issue (R303). -/
  subreg : Word := 0
  /-- Rows that have arrived, and the indices of a gather that have been read, by row (R315). -/
  rows : List Nat := []
  batch : List (Nat × Nat) := []
  deriving DecidableEq, Repr

/-- An entry of the stream descriptor table (R160). -/
structure StreamDesc where
  base : Word := 0
  slots : BitVec 32 := 0
  pos : BitVec 32 := 0
  inUse : Bool := false
  copy : Bool := false
  out : Bool := false
  owner : Nat := 0
  port : Nat := 0
  deriving DecidableEq, Repr

/-- A stream port: groups that wait, and groups delivered so far (R162, R398). -/
structure StreamPort where
  groups : List Vec := []
  delivered : Nat := 0
  deriving DecidableEq, Repr

/-- A program message held at the die agent (R240). -/
structure HeldMsg where
  /-- The tile that issued it, and the tile that it names. -/
  src : Nat
  tile : Nat
  tag : BitVec 16
  payload : Word
  deriving DecidableEq, Repr

/-- The states of a booking handle (R30). -/
inductive BkStat where
  | free | booked | running | lapsed
  deriving DecidableEq, Repr

/-- A booking handle: mask and size as booked, absolute start slot, tied helper, link bytes of this slot (R232, R400), and
the target, arguments and live mask that START.B gave (R230). -/
structure Booking where
  stat : BkStat := .free
  mask : Word := 0
  size : Word := 0
  start : Nat := 0
  tied : Option Nat := none
  injected : Nat := 0
  pc : Word := 0
  arg1 : Word := 0
  arg2 : Word := 0
  live : Word := 0
  deriving DecidableEq, Repr

/-- The local delta of a kept line (R270). -/
structure LocalDelta where
  data : Vec
  fe : BitVec 16
  deriving DecidableEq, Repr

/-- The remote delta of a kept line: bytes, written mask, and the bytes that a remote write wrote last (R271). -/
structure RemoteDelta where
  data : Vec
  mask : BitVec 64
  last : BitVec 64
  deriving DecidableEq, Repr

/-- The work unit that a tile holds, with the layout of its launch (R94, R325, R328). -/
structure WorkUnit where
  launch : Nat
  uid : Nat
  part : Nat
  job : Nat
  modl : Nat
  fn : Nat
  cls : Nat
  image : Word
  helpers : Nat
  spool : Nat
  vpool : Nat
  skl : Nat
  stl : Nat
  vkl : Nat
  vtl : Nat
  policy : Nat
  triggered : Bool
  deriving DecidableEq, Repr

/-- Engines of a tile (R22, R23, R211, R214, R217, R153, R398). [log 3 DESIGN CHOICE] -/
structure Engines where
  acc : Vector AccSlot 8 := Vector.replicate 8 {}
  head : BitVec 3 := 0
  mseq : BitVec 32 := 0
  mmas : List MmaOp := []
  epiq : List EpiJob := []
  epcfg : Vector (Option (BitVec 512)) 4 := Vector.replicate 4 none
  tables : Vector TableSlot 4 := Vector.replicate 4 {}
  tok : Vector (BitVec 6) 8 := Vector.replicate 8 0
  ops : List EngineOp := []
  nextOp : Nat := 0
  deriving DecidableEq, Repr

/-- Queues, inbox, messages and streams of a tile (R19, R24, R25, R160, R163, R240). -/
structure TileIo where
  queues : Vector (List Word) 8 := Vector.replicate 8 []
  inbox : List (BitVec 128) := []
  heldIn : List (BitVec 128) := []
  msgs : List HeldMsg := []
  descs : Vector StreamDesc 8 := Vector.replicate 8 {}
  descsAt : Vector StreamDesc 8 := Vector.replicate 8 {}
  ports : Vector StreamPort 2 := Vector.replicate 2 {}
  deriving DecidableEq, Repr

/-- Superstep state of a tile (R27, R30, R199, R202, R266, R269 to R279, R290). -/
structure Step where
  ssn : BitVec 32 := 0
  retry : BitVec 16 := 0
  mine : Bool := false
  out : BitVec 2 := 0
  pend : Bool := false
  cause : BitVec 8 := 0
  /-- A forced vote has been sent (R279). -/
  forced : Bool := false
  /-- The tile has arrived at the barrier, with a HALT when `halting`. -/
  arrived : Bool := false
  halting : Bool := false
  /-- Between the outcome and the resume broadcast (R267). -/
  bound : Bool := false
  /-- Events of that interval: those that await the end of the tile's own work, the cause of each and the vote of a forced one, else 0; then only the
  forced ones, whose votes await the resume broadcast (R279). -/
  deferred : List (BitVec 8 × BitVec 2) := []
  /-- The tile's own work of the boundary is done, so that ABPEND holds what happens from now on (R279). -/
  settled : Bool := false
  /-- TRIG executed in this superstep of a CON launch (R202). -/
  trig : Bool := false
  /-- The retained register frame, kept as a context (R27). -/
  retained : Ctx := {}
  fetchList : List StagingEntry := []
  staged : List StagingEntry := []
  /-- Local and remote deltas: a scratchpad line under its number, a vault line under 8,192 plus its number. -/
  locals : Map LocalDelta := []
  remotes : Map RemoteDelta := []
  /-- Transit lines with a parity error (R277), numbered as above. -/
  badLines : List Nat := []
  /-- The same, found after the root decided a commit: they are the next superstep's (R279). -/
  badLater : List Nat := []
  /-- SSB voted abort from S[a] (R30, R196). -/
  votedAbort : Bool := false
  /-- For each structure that a PARITY event has named, how many runs in a row named it, and whether this run has (R419). -/
  parityRun : Map (Nat × Bool) := []
  /-- A vote from a reduction result that S[b] receives at the commit (R196). -/
  ssbReg : Option (BitVec 5) := none
  deriving DecidableEq, Repr

/-- Per-tile CSRs that no other structure holds, the calendar and the tile's place (R29, R30, R337). -/
structure TileCsr where
  partsz : BitVec 24 := 0
  pvCur : BitVec 16 := 0
  pvReq : BitVec 16 := 0
  pvPending : Bool := false
  pubLatest : BitVec 16 := 0
  pubOldest : BitVec 16 := 0
  subreg : Word := 0
  tvec : Word := 0
  scopebase : Word := 0
  /-- Slots since the work unit started; CALNOW bits 14:9 are its low six bits. -/
  slot : Nat := 0
  /-- The die slot that began with or just before slot 0, and whether the two begin together (R339). -/
  dieSlot0 : Nat := 0
  aligned : Bool := true
  books : Vector Booking 16 := Vector.replicate 16 {}
  deriving DecidableEq, Repr

/-- What a twin receives for a packet that its partner's copy has performed: bytes, or the cause, TVAL and containment of an
access that was refused (R417). -/
structure TwinAnswer where
  key : Nat
  bytes : List Byte
  cause : Option (Cause × Word × Bool)
  deriving DecidableEq, Repr

/-- A tile of a pair: the partner, packets at the comparator under the number of their sender, the packets that may be performed
under the numbers of their sender and the partner's, answers to be taken, answers taken by instructions under way, mismatches (R416 to R418). The
senders are numbered in Ops.lean. -/
structure Twin where
  partner : Nat
  primary : Bool
  sent : List (Nat × List Byte) := []
  permits : List (Nat × Nat) := []
  answers : List TwinAnswer := []
  log : Map (List TwinAnswer) := []
  pos : Nat := 0
  /-- Its control context has ended a WP or PAR unit, and waits for the partner's. -/
  ended : Bool := false
  mismatches : Nat := 0
  mismatchSsn : BitVec 32 := 0
  deriving DecidableEq, Repr

/-- A tile: its work unit, eleven contexts, engines, streams, superstep state and CSRs (R12). -/
structure Tile where
  work : Option WorkUnit := none
  ctxs : Vector Ctx 11 := Vector.replicate 11 {}
  eng : Engines := {}
  io : TileIo := {}
  step : Step := {}
  csr : TileCsr := {}
  twin : Option Twin := none
  /-- A test kernel runs in the hidden context; a mismatch waits for the next commit (R345, R346). -/
  testKernel : Bool := false
  testFailed : Bool := false
  /-- The test kernel set that its kernels run under (R436). -/
  kernels : List Byte := []
  deriving DecidableEq, Repr

/-- A page request that has no answer yet (R310, R312). `granule` is what coalesces later misses. -/
structure PageReq where
  fn : Nat
  stage : Nat
  tag : Nat
  granule : Nat
  sub : Bool
  deriving DecidableEq, Repr

/-- A miss that the agent holds until a tag and a ring slot are free; its waiters wait on `id`, which is no tag (R312). -/
structure HeldMiss where
  id : Nat
  fn : Nat
  stage : Nat
  granule : Nat
  sub : Bool
  bytes : List Byte
  deriving DecidableEq, Repr

/-- An undo record (R274). -/
structure UndoRec where
  part : Nat
  controller : Nat
  line : Nat
  tags : BitVec 8
  data : Vec
  poisoned : Bool
  deriving DecidableEq, Repr

/-- What a read of a sector finds beside its data (R317). -/
inductive Syndrome where
  | uncorrectable
  /-- The data of another address stands there, which its code names. -/
  | misdirected (stored : Nat)
  | correctable
  deriving DecidableEq, Repr

/-- A record of the error log of a die: the sector, and the stored address or the stored tag where one is kept (R317). -/
inductive ErrorRec where
  | uncorrectable (sector : Nat)
  | misdirected (sector stored : Nat)
  | tag (sector : Nat)
  deriving DecidableEq, Repr

/-- An entry that the translation agent has cached (R308): function, level and the number of the range that it covers. The levels are 0 and 1 of
the page table from its root, 2 to 4 of the sub-page directory, 5 and 6 of stage 2. -/
structure KeptEntry where
  fn : Nat
  level : Nat
  range : Nat
  word : Nat
  deriving DecidableEq, Repr

/-- A waiter of the queue controller (R194). -/
structure RingWaiter where
  block : Nat
  tile : Nat
  ctx : Nat
  enq : Bool
  ptr : Word
  value : Word
  d : BitVec 5
  b : BitVec 5
  deriving DecidableEq, Repr

/-- An access parked in a fault queue (R367): requester, its address, intervals without a notice, begun or not. `left` is the
requester's tile as it was when it gave up an access that had begun (R342, R368). The queue holds the first 256 of a die; others
wait at the ingress. -/
structure Parked where
  id : Nat
  tile : Nat
  ctx : Nat
  engine : Option Nat
  fn : Nat
  stage : Nat
  tag : Nat
  addr : Word
  noticed : Bool
  silent : Nat
  begun : Bool
  left : Option Tile := none
  deriving DecidableEq, Repr

/-- A slot of an unordered reduction, or an endpoint context (R360, R361). -/
structure RedSlot where
  key : Nat
  pkt : Packet
  expect : Nat
  late : Bool
  deriving DecidableEq, Repr

/-- An ordered context: the leaves received so far (R362). -/
structure OrdCtx where
  key : Nat
  leaves : List Packet
  total : Nat
  deriving DecidableEq, Repr

/-- A packet in the multicast store and the branches it still owes (R365). -/
structure McastEntry where
  id : Nat
  ingress : Nat
  pkt : Packet
  ports : List Nat
  deriving DecidableEq, Repr

/-- One direction of a link at a port: state, sequence numbers, flits not acknowledged, replays (R355). -/
structure Link where
  up : Bool := true
  txSeq : BitVec 16 := 0
  rxSeq : BitVec 16 := 0
  unacked : List (BitVec 16 × Option Packet) := []
  replays : Nat := 0
  /-- Flits that came by a detour before an earlier number, held until it arrives (R357). -/
  early : List (BitVec 16 × Option Packet) := []
  deriving DecidableEq, Repr

/-- A packet of a sweep: its ingress port, its place among the arrivals, its output port (R370, R403). -/
structure Swept where
  ingress : Nat
  seq : Nat
  port : Nat
  pkt : Packet
  deriving DecidableEq, Repr

/-- A sweep at a switch (R369, R370, R403): ports marked, and the packets of each segment in order. -/
structure Sweep where
  job : Nat
  /-- A fabric switch counts MARKs before it sweeps itself (R369). -/
  begun : Bool
  closed : Bool
  marked : List Nat
  main : List Swept
  late : List Swept
  overflow : List Swept
  lost : Bool
  deriving DecidableEq, Repr

/-- A die switch or a fabric switch (R349). `inq` holds arrivals under their port, `out` queues under port × 4 + VC. [log 3 DESIGN CHOICE] -/
structure Switch where
  inq : Map (List Packet) := []
  /-- Packets that wait to leave, each with its ingress port, under 4 × the number of the link + VC. -/
  out : Map (List (Nat × Packet)) := []
  slots : List RedSlot := []
  store : List McastEntry := []
  nextEntry : Nat := 0
  links : Map Link := []
  sweep : Option Sweep := none
  collto : BitVec 24 := 8192
  deriving DecidableEq, Repr

/-- A compute die: translation agent, HBM controllers, queue controller, calendar account, die switch (chapters 10 to 13). [log 3 DESIGN CHOICE, 5 DESIGN CHOICE] -/
structure Die where
  /-- Translation contexts 0 to 31, byte 0 lowest (R300). -/
  tctx : Vector (BitVec 512) 32 := Vector.replicate 32 0
  reqs : List PageReq := []
  /-- For each granule the record that was answered last (R311). -/
  answered : List PageReq := []
  nextHeld : Nat := 4096
  heldMisses : List HeldMiss := []
  /-- TINV writes not completed (R308). -/
  tinv : List Word := []
  dtctl : Bool := false
  /-- Granules of 64 KiB whose dirty bit is set, rising (R319). -/
  dirty : List Nat := []
  /-- Sealed granules of 64 KiB of HPA, rising, and those that a running superstep changed: barrier, granule, sealed
  before (R185, R186). -/
  seals : List Nat := []
  sealLog : List (Nat × Nat × Bool) := []
  /-- Stored tags of sectors, tag 0 unlisted (R316), and sectors whose code is not clean (R317). -/
  tags : Map (BitVec 4) := []
  syndromes : Map Syndrome := []
  /-- The error log and the counter of corrected errors (R317). -/
  errors : List ErrorRec := []
  corrected : Nat := 0
  /-- Entries that the translation agent has cached (R308). -/
  kept : List KeptEntry := []
  /-- The key under which each sector that has been written is encrypted (R318). -/
  sectorKeys : Map Nat := []
  undo : List UndoRec := []
  /-- Controllers that marked a partition's superstep irrevocable (R275). -/
  irrevocable : List (Nat × Nat) := []
  /-- Link quota of each partition (R339). -/
  lq : Map (BitVec 32) := []
  /-- POLGRP, and the groups whose publication is reserved with the version (R372, R377). -/
  polgrp : Map Word := []
  /-- Switch, endpoint and ordered contexts (R349, R361, R362). -/
  switch : Switch := {}
  endpoints : List RedSlot := []
  ordered : List OrdCtx := []
  parked : List Parked := []
  nextParked : Nat := 0
  waiters : List RingWaiter := []
  /-- Full/empty functions that wait at a word, in order of arrival: word, tile, context (R180). -/
  feQ : List (Nat × Nat × Nat) := []
  /-- Key slots that hold a key (R318). -/
  keys : List Nat := []
  /-- Frames that firmware keeps, by the HPA of each frame of 2 MiB (R309); undo logs take others (`hpaReserved`). Which frames they are is firmware's
  choice, which the spec does not give: reset lists none. -/
  reservedFrames : List Nat := []
  deriving DecidableEq, Repr

/-- A launch ring of a function (R320). -/
structure Ring where
  base : Word := 0
  tail : Word := 0
  enabled : Bool := false
  /-- What a write to RINGBASE asks for while its control block waits for a page service (R310, R320). -/
  asked : Option Word := none
  deriving DecidableEq, Repr

/-- The first fault of a launch (R327). -/
structure FirstFault where
  cause : BitVec 8
  ctx : Nat
  tile : Nat
  tval : Word
  tpc : Word
  deriving DecidableEq, Repr

/-- The life of a launch (R322, R326, R328 to R333). -/
inductive Phase where
  | consumed | held | running | ended
  deriving DecidableEq, Repr

/-- A launch that the queue controller has consumed (R322 to R335, R401). -/
structure Launch where
  block : BitVec 1024
  modl : Nat
  fn : Nat
  ring : Nat
  job : Nat
  phase : Phase := .consumed
  next : Nat := 0
  ended : Nat := 0
  trigCount : Nat := 0
  aborts : Nat := 0
  consec : Nat := 0
  fault : Option FirstFault := none
  /-- The first fault of the run that is under way (R333). -/
  runFault : Option FirstFault := none
  status : BitVec 8 := 0
  /-- Continuation frames in use (R335). -/
  frames : List Nat := []
  /-- The superstep that a CON launch has reached (R327). -/
  ssn : BitVec 32 := 0
  deriving DecidableEq, Repr

/-- A group of contexts: phase, members, pending joiners, arrivals; a context is tile × 16 + number (R187 to R189). -/
structure Group where
  phase : BitVec 32 := 0
  members : List Nat := []
  joining : List Nat := []
  arrived : List Nat := []
  deriving DecidableEq, Repr

/-- A node of a barrier tree: the latest record of each that has sent one, children that have reported all that they
have, the vote bits forwarded, and whether the whole record has been forwarded (R282, R283). -/
structure BarrierNode where
  children : List Nat
  recs : Map (BitVec 128) := []
  reported : List Nat := []
  sent : BitVec 2 := 0
  full : Bool := false
  deriving DecidableEq, Repr

/-- The states of a partition's barrier (R267); a held partition withholds its resume broadcast (R385, R414). -/
inductive BarrierState where
  | running | committing | aborting | stopped
  deriving DecidableEq, Repr

/-- A continuation record that has not been resumed: where it lies, its origin, whether it is ready (R201, R314, R335). -/
structure ContRecord where
  loc : Word
  origin : Origin
  ready : Bool
  wait : Option (Nat × Nat × Nat × Nat)
  frame : Option Nat
  /-- The address of the access that waits, and whether its service has refused it (R311, R314). -/
  addr : Word := 0
  refused : Bool := false
  /-- The launch whose unit made it (R335). -/
  launch : Nat := 0
  deriving DecidableEq, Repr

/-- A partition of a job: gang, barrier, group table, generation, records, publication, clock (chapters 9 to 15). -/
structure Partition where
  gang : List Nat := []
  bar : BarrierState := .running
  ssn : BitVec 32 := 0
  launch : Option Nat := none
  members : List Nat := []
  /-- Nodes of the tree: a die node under the die, a module node under 2^40 + module, the root under 2^41. -/
  nodes : Map BarrierNode := []
  /-- Who has still to report done (R267). -/
  undone : List Nat := []
  result : BitVec 128 := 0
  held : Bool := false
  /-- A command holds it at its next commit, or, where `holdAbort`, at its next commit or abort (R386, R387). -/
  holding : Bool := false
  holdAbort : Bool := false
  /-- The abort under way is one that a switch made, which nothing counts (R387). -/
  switchAbort : Bool := false
  /-- Stopped mid-superstep by a FORCED switch (R385, R391). -/
  stoppedMid : Bool := false
  gen : BitVec 8 := 0
  /-- The last generation that a barrier of the partition has taken (R358). -/
  genTop : BitVec 8 := 0
  groups : Map Group := []
  groupsAt : Map Group := []
  records : List ContRecord := []
  /-- Messages of WP and PAR units that have ended (R240). -/
  msgs : List HeldMsg := []
  /-- Publication pending, of a learner (R241, R377). -/
  publish : Bool := false
  /-- The slots that the publication has reserved: die, descriptor, slot (R377). -/
  reserved : List (Nat × Nat × Nat) := []
  /-- A version has been written on every page, and is announced after the resume broadcast (R378). -/
  announceDue : Bool := false
  /-- The version that the members select: LATEST at the start, and what the root's decision of each commit gives (R379, R380, R382). -/
  pvSel : BitVec 16 := 0
  frozenHold : Bool := false
  /-- Runs of PARITY events and mismatches of pairs that a WP or PAR launch keeps across its re-runs, under the tile: the
  structures with their counts, the partner and its count (R418, R419). -/
  parityRuns : Map (Map Nat) := []
  pairRuns : Map (Nat × Nat) := []
  /-- Throttle step: set by THROTTLE, lowered by protection, in force (R347, R433). -/
  stepSet : Nat := 0
  stepLow : Nat := 0
  stepNow : Nat := 0
  deriving DecidableEq, Repr

/-- A block of R383 as one module accepted it: index, MODID, AREA, RESULT and MAP. -/
structure Accepted where
  index : Nat
  modl : Nat
  area : Word
  result : Word
  map : Word
  deriving DecidableEq, Repr

/-- A switch, resume, checkpoint or restore under way (R383 to R388, R404, R420): the modules that have accepted it, the
mode now in force, and how far it has come: `begun` once every module has accepted it, `sweeping` once its sweep runs. -/
structure Command where
  cmd : Nat
  mode : Nat
  esc : Nat
  hbm : Nat
  limit : Nat
  accepted : List Accepted
  begun : Bool := false
  sweeping : Bool := false
  escalated : Bool := false
  /-- Phase 1 of a checkpoint is over (R421). -/
  released : Bool := false
  /-- Modules whose shards a checkpoint takes, and the indices of those that have finished phase 2 (R421). -/
  parties : Nat := 0
  phase2 : List Nat := []
  deriving DecidableEq, Repr

/-- A job (R348, R411): function, box, die map, and the command under way. -/
structure Job where
  modl : Nat := 0
  fn : Nat := 0
  /-- The modules of the box by index, and its extents Xn, Yn, Zn, Wn (R348). -/
  box : List Nat := []
  extents : List Nat := [1, 1, 1, 1]
  dieMap : List Word := []
  /-- Where the table of the die map stands in host memory, which each new map rewrites (R411). -/
  mapAt : Option Word := none
  parts : List Nat := []
  cmd : Option Command := none
  /-- Stopped by an UNRECOVERABLE outcome (R288), or switched off (R385). -/
  stopped : Bool := false
  off : Bool := false
  lost : Bool := false
  /-- Number of the last checkpoint, and the manifest of the last CHECKPOINT (R420 to R423). -/
  ck : Nat := 0
  manifest : Word := 0
  /-- Modules of the box that are lost while their indices still stand in the die map, each with the barriers that lost units there: a new map
  waits until every partition is held (R412, R424). -/
  leaving : List (Nat × List Nat) := []
  /-- A checkpoint has completed phase 2, and the ADOPTED indices become UNMAPPED once every partition is held; the module whose event makes the new
  map (R412, R426). -/
  unmapping : Option Nat := none
  /-- Modules of the box that are lost, with the number of the shard that serves their indices, if any (R424, R426). -/
  adopted : Map (Option Nat) := []
  deriving DecidableEq, Repr

/-- A module: boot, mailbox, error registers, rings, quarantine, fabric switch, firmware (chapters 11, 14 to 16). [log 5 DESIGN CHOICE] -/
structure Modl where
  /-- Whether the dies have power (R433). -/
  powered : Bool := true
  bootState : BitVec 8 := 0
  bootSvn : BitVec 8 := 0
  merr : Map Word := []
  mbBusy : Bool := false
  mbSt : BitVec 8 := 0
  rings : Map Ring := []
  /-- Launches consumed and not yet begun, in order, under function × 64 + ring (R322). -/
  heldLaunches : Map (List Nat) := []
  /-- The ring served last, for each function (R328). -/
  turns : Map Nat := []
  frozenFns : List Nat := []
  quarantine : List Nat := []
  fabric : Switch := {}
  /-- Fused minimum SVN, firmware image of the next power-on, the firmware that runs, the test kernel set that IMAGE gave last (R435, R436, R438). -/
  svnMin : Nat := 0
  staged : Option (List Byte) := none
  running : List Byte := []
  kernels : List Byte := []
  boots : Nat := 0
  /-- The private half of the identity key that the boot derived (R437). -/
  idKey : Nat := 0
  /-- Virtual functions of ports A and B (R428). -/
  na : Nat := 0
  nb : Nat := 0
  /-- Identifiers of the capability records (R440). -/
  records : List Nat := [1, 2, 3, 4, 5]
  deriving DecidableEq, Repr

/-- What a save of a job on a module holds (R390 to R403, R421): the plain data that its encrypted sections carry. `area` is
the extents of its save area, each a host address and a length; `events` are the events in flight that belong to the job;
`buddy` and `host` tell which copies of a shard exist, and `keeper` is the module that has the buddy's. [log 39 DESIGN CHOICE] -/
structure Save where
  job : Job
  index : Nat
  modl : Nat
  parts : Map Partition
  tiles : Map Tile
  launches : Map Launch
  mem : Memory
  full : List Nat
  dies : Map Die
  fabric : Switch
  held : Map (List Nat)
  events : List Instr
  hbm : Nat
  lost : Bool
  late : Nat
  ck : Nat
  area : List (Nat × Nat)
  keeper : Option Nat
  buddy : Bool
  host : Bool
  /-- Its per-save key of 32 bytes, by the number of the first of the free values that make it (R394, R439). -/
  wrap : Nat := 0
  /-- The bytes of the save area, from its header on (R394 to R403). -/
  image : List Byte := []
  deriving DecidableEq, Repr

/-- What the host receives for a read or an atomic: the address, the data, and 0 success, 1 Unsupported Request,
2 poisoned (R317, R429). -/
structure Completion where
  addr : Nat
  data : List Byte
  status : Nat
  deriving DecidableEq, Repr

/-- A host access to BAR4: the port and function through which it came, what arrived, and, where it waits for a page service, the record that it waits
on (R264, R428, R429). `kind` is 0 read, 1 write, 2 FetchAdd. -/
structure HostWait where
  modl : Nat
  port : Nat
  fn : Nat
  addr : Nat
  size : Nat
  kind : Nat
  bytes : List Byte
  relaxed : Bool := false
  die : Nat := 0
  stage : Nat := 0
  tag : Nat := 0
  deriving DecidableEq, Repr

/-- What the hardware itself cannot go on with, since an access of it waits for a page service (R310): an event that is to happen again, or the
write of `bytes` at `addr` for a function of a job; and the die, stage and tag that it waits on. -/
structure HwWait where
  /-- In whose name a write is made: group, partition and version (R375). -/
  pol : Option (Nat × Nat × Nat) := none
  ev : Option Instr
  job : Nat
  fn : Nat
  addr : Word
  bytes : List Byte
  die : Nat
  stage : Nat
  tag : Nat
  deriving DecidableEq, Repr

/-- The context that issues: die, tile and number. [log 3 DESIGN CHOICE] -/
structure CtxRef where
  die : Nat := 0
  tile : Nat := 0
  ctx : Nat := 0
  deriving DecidableEq, Repr

/-- The state of the machine. [log 3 DESIGN CHOICE] -/
structure State where
  tiles : Map Tile
  dies : Map Die
  modls : Map Modl
  jobs : Map Job
  parts : Map Partition
  launches : Map Launch
  /-- Tile memories and HBM: die × 2^40 plus the offset of R297, an HBM byte at its HPA. -/
  mem : Memory
  /-- Host memory: port × 2^64 plus the PCI Express address. -/
  hostMem : Memory
  /-- Bytes of host memory, keyed as `hostMem` and rising, of which the host does not complete a read, or completes it with an error (R431). -/
  hostMuted : List Nat
  /-- Scratchpad words whose full/empty bit is full, keyed as `mem`, rising (R292). -/
  full : List Nat
  saves : Map Save
  completions : List Completion
  hostWaits : List HostWait
  /-- Accesses of the queue controllers and dispatchers that wait for a page service, and the functions and pointers that one has refused. -/
  hwWaits : List HwWait
  hwRefused : List (Nat × Word)
  /-- Events in flight and inputs that have arrived, oldest first. -/
  pending : List Instr
  /-- THE MODEL'S OWN: which of the steps that are possible is taken next; an empty list takes the first. -/
  sched : List Nat
  /-- THE MODEL'S OWN: what the translation agent does with its cache at each translation to come: for each level whether a cached entry
  is used (bits 0 to 6), and whether the entries read are cached (bit 7); an empty list neither uses nor caches (R308). [log 8 DESIGN CHOICE] -/
  keeps : List Nat
  /-- THE MODEL'S OWN: the counter that each free value advances. -/
  free : Nat
  cur : CtxRef
  deriving DecidableEq, Repr

/-- The machine right after reset: BOOTST reads 0 RESET, no job is started, every tile is empty (R13, R435). [log 4 DESIGN CHOICE, 5 DESIGN CHOICE] -/
def State.reset : State :=
  { tiles := [], dies := [], modls := [], jobs := [], parts := [], launches := [], mem := [], hostMem := [], hostMuted := [],
    full := [], saves := [], completions := [], hostWaits := [], hwWaits := [], hwRefused := [], pending := [], sched := [], keeps := [], free := 0, cur := {} }

end Sys2Proof.Machine
end

