-- ==== Sys2Proof/Machine/Ops.lean ====
section
/-! DEFINITION. The named operations over maps, memory, agents and contexts; inbox entries, events and
votes; groups; taking an exception (R32 to R34). -/

namespace Sys2Proof.Machine

/-! ### Maps -/

/-- The entry under `k`. -/
def Map.get? {α : Type} : Map α → Nat → Option α
  | [], _ => none
  | (j, a) :: m, k => if j = k then some a else Map.get? m k

/-- The entry under `k`, or `a`. -/
def Map.getD {α : Type} (m : Map α) (k : Nat) (a : α) : α := (Map.get? m k).getD a

/-- The map with `a` under `k`; keys stay strictly rising. -/
def Map.set {α : Type} : Map α → Nat → α → Map α
  | [], k, a => [(k, a)]
  | (j, b) :: m, k, a =>
    if k < j then (k, a) :: (j, b) :: m
    else if k = j then (k, a) :: m
    else (j, b) :: Map.set m k a

/-- The map without `k`. -/
def Map.erase {α : Type} (m : Map α) (k : Nat) : Map α := m.filter (fun e => e.1 != k)

/-- A rising list of numbers with `k` in it. -/
def insertNat : List Nat → Nat → List Nat
  | [], k => [k]
  | j :: l, k => if k < j then k :: j :: l else if k = j then j :: l else j :: insertNat l k

/-- The number that `i` smaller ones precede among those that a rising list leaves out. [log 13 DESIGN CHOICE] -/
def nthFree (used : List Nat) (i : Nat) : Nat := used.foldl (fun c u => if u ≤ c then c + 1 else c) i

/-- A place among `count` that the spec does not tell apart: where there is a choice, the free value `n` makes it. [log 13 DESIGN CHOICE] -/
def pickOf (n count : Nat) : Nat := if count ≤ 1 then 0 else Config.freePick n % count

/-- A rising list of numbers without `k`. -/
def removeNat (l : List Nat) (k : Nat) : List Nat := l.filter (fun j => j != k)

/-- A vector, element by element. -/
def mapV {α β : Type} {n : Nat} (v : Vector α n) (f : α → β) : Vector β n := Vector.ofFn (fun i => f v[i])

/-! ### Memory -/

/-- The byte at `a`; an unlisted byte is zero. [log 4 DESIGN CHOICE] -/
def Memory.read : Memory → Nat → Byte
  | [], _ => 0#8
  | (j, b) :: m, a => if j = a then b else Memory.read m a

/-- The memory without `a`, where keys rise. -/
def Memory.clear : Memory → Nat → Memory
  | [], _ => []
  | (j, b) :: m, a => if j = a then m else (j, b) :: Memory.clear m a

/-- The memory with the byte `x`, not zero, at `a`. -/
def Memory.put : Memory → Nat → Byte → Memory
  | [], a, x => [(a, x)]
  | (j, b) :: m, a, x =>
    if a < j then (a, x) :: (j, b) :: m
    else if a = j then (a, x) :: m
    else (j, b) :: Memory.put m a x

/-- The memory with `x` at `a`; writing zero removes the entry. -/
def Memory.write (m : Memory) (a : Nat) (x : Byte) : Memory :=
  if x = 0#8 then Memory.clear m a else Memory.put m a x

/-- Keys rise strictly from `lo` on, and no listed byte is zero. -/
def Memory.wfFrom : Nat → Memory → Bool
  | _, [] => true
  | lo, (j, b) :: m => decide (lo ≤ j) && (b != 0#8) && Memory.wfFrom (j + 1) m

/-- The canonical form of memory. -/
def Memory.wf (m : Memory) : Bool := Memory.wfFrom 0 m

/-- `n` bytes from `a` up. -/
def Memory.readN (m : Memory) (a n : Nat) : List Byte := (List.range n).map (fun i => Memory.read m (a + i))

/-- The bytes of `l` from `a` up. -/
def Memory.writeN (m : Memory) (a : Nat) : List Byte → Memory
  | [] => m
  | b :: l => Memory.writeN (Memory.write m a b) (a + 1) l

/-- The number that bytes hold, lowest address in bits 7:0 (R7). -/
def natOfBytes : List Byte → Nat
  | [] => 0
  | b :: l => b.toNat + 256 * natOfBytes l

/-- The low `n` bytes of a number, lowest address first (R7). -/
def bytesOfNat : Nat → Nat → List Byte
  | 0, _ => []
  | n + 1, x => BitVec.ofNat 8 x :: bytesOfNat n (x / 256)

/-! ### Bits -/

/-- Bits `lo` to `lo + len - 1` of a number. -/
def bits (x lo len : Nat) : Nat := x / 2 ^ lo % 2 ^ len

/-- A fat pointer's fields (R44). -/
def ptrFmt (p : Word) : Nat := bits p.toNat 59 5
def ptrBlk (p : Word) : Nat := bits p.toNat 56 3
def ptrDie (p : Word) : Nat := bits p.toNat 40 16
def ptrOff (p : Word) : Nat := bits p.toNat 0 40

/-- The pointer with offset `n`; only OFF changes (R49). -/
def ptrWithOff (p : Word) (n : Nat) : Word := BitVec.ofNat 64 (p.toNat / 2 ^ 40 * 2 ^ 40 + n % 2 ^ 40)

/-- The pointer with DIE `d`. -/
def ptrWithDie (p : Word) (d : Nat) : Word :=
  BitVec.ofNat 64 (p.toNat / 2 ^ 56 * 2 ^ 56 + d % 2 ^ 16 * 2 ^ 40 + p.toNat % 2 ^ 40)

/-! ### Agents -/

/-- The key of tile `t` of die `d`. [log 1 DESIGN CHOICE] -/
def tileKey (d t : Nat) : Nat := d * 1024 + t
/-- The die and the TILEID of a tile's key. -/
def tileDie (k : Nat) : Nat := k / 1024
def tileId (k : Nat) : Nat := k % 1024

def State.tile (s : State) (k : Nat) : Tile := Map.getD s.tiles k {}
def State.die (s : State) (d : Nat) : Die := Map.getD s.dies d {}
def State.modl (s : State) (m : Nat) : Modl := Map.getD s.modls m {}
def State.job (s : State) (j : Nat) : Job := Map.getD s.jobs j {}
def State.part (s : State) (p : Nat) : Partition := Map.getD s.parts p {}

def State.setTile (s : State) (k : Nat) (t : Tile) : State := { s with tiles := Map.set s.tiles k t }
def State.setDie (s : State) (d : Nat) (x : Die) : State := { s with dies := Map.set s.dies d x }
def State.setModl (s : State) (m : Nat) (x : Modl) : State := { s with modls := Map.set s.modls m x }
def State.setJob (s : State) (j : Nat) (x : Job) : State := { s with jobs := Map.set s.jobs j x }
def State.setPart (s : State) (p : Nat) (x : Partition) : State := { s with parts := Map.set s.parts p x }
def State.setLaunch (s : State) (l : Nat) (x : Launch) : State := { s with launches := Map.set s.launches l x }

def State.modTile (s : State) (k : Nat) (f : Tile → Tile) : State := s.setTile k (f (s.tile k))
def State.modDie (s : State) (d : Nat) (f : Die → Die) : State := s.setDie d (f (s.die d))
def State.modModl (s : State) (m : Nat) (f : Modl → Modl) : State := s.setModl m (f (s.modl m))
def State.modJob (s : State) (j : Nat) (f : Job → Job) : State := s.setJob j (f (s.job j))
def State.modPart (s : State) (p : Nat) (f : Partition → Partition) : State := s.setPart p (f (s.part p))
def State.modLaunch (s : State) (l : Nat) (f : Launch → Launch) : State :=
  match Map.get? s.launches l with
  | some x => s.setLaunch l (f x)
  | none => s

/-- Context `c` of a tile; a number above 10 names none and reads as an idle context. -/
def Tile.ctx (t : Tile) (c : Nat) : Ctx := (t.ctxs[c]?).getD {}
def Tile.setCtx (t : Tile) (c : Nat) (x : Ctx) : Tile := { t with ctxs := t.ctxs.setIfInBounds c x }

def State.ctx (s : State) (k c : Nat) : Ctx := (s.tile k).ctx c
def State.setCtx (s : State) (k c : Nat) (x : Ctx) : State := s.setTile k ((s.tile k).setCtx c x)
def State.modCtx (s : State) (k c : Nat) (f : Ctx → Ctx) : State := s.setCtx k c (f (s.ctx k c))

/-- The tile and the context that issue. -/
def State.curKey (s : State) : Nat := tileKey s.cur.die s.cur.tile
def State.curTile (s : State) : Tile := s.tile s.curKey
def State.curCtx (s : State) : Ctx := s.ctx s.curKey s.cur.ctx
def State.modCurTile (s : State) (f : Tile → Tile) : State := s.modTile s.curKey f
def State.modCur (s : State) (f : Ctx → Ctx) : State := s.modCtx s.curKey s.cur.ctx f

def State.modEng (s : State) (k : Nat) (f : Engines → Engines) : State := s.modTile k (fun t => { t with eng := f t.eng })
def State.modIo (s : State) (k : Nat) (f : TileIo → TileIo) : State := s.modTile k (fun t => { t with io := f t.io })
def State.modStep (s : State) (k : Nat) (f : Step → Step) : State := s.modTile k (fun t => { t with step := f t.step })
def State.modCsr (s : State) (k : Nat) (f : TileCsr → TileCsr) : State := s.modTile k (fun t => { t with csr := f t.csr })

/-- An event is put into flight. -/
def State.post (s : State) (e : Instr) : State := { s with pending := s.pending ++ [e] }

/-- A free value's counter is read and advanced. -/
def State.fresh (s : State) : Nat × State := (s.free, { s with free := s.free + 1 })

/-! ### Jobs, die maps, members -/

/-- The record of a launch's implicit superstep lies under this key of `parts` (R268). [log 1 DESIGN CHOICE] -/
def implicitKey (launch : Nat) : Nat := 2 ^ 80 + launch

/-- The barrier that a work unit belongs to: its partition in a CON launch, else its launch's own (R266, R268). -/
def WorkUnit.barKey (u : WorkUnit) : Nat := if u.cls = 2 then u.part else implicitKey u.launch

/-- The physical die of an entry of the die map that is OWN or ADOPTED (R411). [log 54 DEDUCED] -/
def entryDie (e : Word) : Option Nat :=
  if bits e.toNat 62 2 = 1 ∨ bits e.toNat 62 2 = 2 then some (bits e.toNat 3 32 * 8 + bits e.toNat 0 3) else none

/-- Whether an entry is ADOPTED. -/
def entryAdopted (e : Word) : Bool := bits e.toNat 62 2 = 2

/-- The entry of a job-virtual die index (R47, R411). -/
def Job.entry? (j : Job) (i : Nat) : Option Word := j.dieMap[i]?

/-- The job-virtual index under which a job holds die `d` as its own. -/
def Job.virtual (j : Job) (d : Nat) : Nat :=
  (j.dieMap.findIdx? (fun e => decide (bits e.toNat 62 2 = 1) && decide (entryDie e = some d))).getD 0

/-- The tile whose TILEID, DIEID and place a tile shows: the primary of its pair, or itself (R416). -/
def State.idKey (s : State) (k : Nat) : Nat :=
  match (s.tile k).twin with
  | some w => if w.primary then k else w.partner
  | none => k

/-- CSR.DIEID of a tile (R29, R416). -/
def State.dieId (s : State) (k : Nat) : Nat :=
  match (s.tile k).work with
  | some u => (s.job u.job).virtual (tileDie (s.idKey k))
  | none => 0

/-- The record of a pair changes. -/
def modTwin (s : State) (k : Nat) (f : Twin → Twin) : State :=
  match (s.tile k).twin with
  | some w => s.modTile k (fun t => { t with twin := some (f w) })
  | none => s

/-- The numbers of senders at a comparator: a context has its own number up to 10; its fetches, its elements, a barrier arrival, a forced vote, the
epilogue job that drains, and unit `i` of an engine operation or of a staging entry have these. [log 1 DESIGN CHOICE] -/
def fetchKey (c : Nat) : Nat := 16 + c
def arrivalKey : Nat := 32
def voteKey : Nat := 33
def epiKey : Nat := 64
def elemKey (c j : Nat) : Nat := 1024 + 64 * c + j
def opKey (id i : Nat) : Nat := 4096 + 2 * (2 ^ 20 * id + i)
def stageKey (id i : Nat) : Nat := 4097 + 2 * (2 ^ 20 * id + i)

/-- Whether the instruction of context `c` is the sender `key`. -/
def ownsKey (c key : Nat) : Bool := decide (key = c ∨ key = fetchKey c ∨ elemKey c 0 ≤ key ∧ key < elemKey (c + 1) 0)

/-- A twin sends a packet to the comparator of its pair (R417). -/
def sendTwin (s : State) (k key : Nat) (pkt : List Byte) : State :=
  let s' := modTwin s k (fun w => { w with sent := w.sent ++ [(key, pkt)] })
  let e := Instr.pairCompare (tileDie (s.idKey k)) (tileId (s.idKey k))
  if s'.pending.contains e then s' else s'.post e

/-- The physical dies that a job holds as its own. -/
def Job.dies (j : Job) : List Nat :=
  j.dieMap.filterMap (fun e => if bits e.toNat 62 2 = 1 then entryDie e else none)

/-! ### Inbox (R24, R25) -/

/-- An inbox entry. -/
def inboxEntry (payload : Word) (ssn : BitVec 32) (tag : BitVec 16) (cls : BitVec 2) (type : BitVec 8) : BitVec 128 :=
  payload ++ ssn ++ tag ++ 0#6 ++ cls ++ type

/-- An entry arrives: it is posted, or held by the die agent while the inbox is full (R25). -/
def postInbox (s : State) (k : Nat) (e : BitVec 128) : State :=
  let io := (s.tile k).io
  if io.inbox.length < Config.inboxDepth ∧ io.heldIn = [] then
    s.modIo k (fun io => { io with inbox := io.inbox ++ [e] })
  else
    (s.modIo k (fun io => { io with heldIn := io.heldIn ++ [e] })).post (.inboxHeldDeliver (tileDie k) (tileId k))

/-- A notice of TYPE `type` and CLASS `cls` for tile `k` under its present superstep number. [log 60 DESIGN CHOICE] -/
def notify (s : State) (k : Nat) (payload : Word) (tag : BitVec 16) (cls : BitVec 2) (type : BitVec 8) : State :=
  postInbox s k (inboxEntry payload (s.tile k).step.ssn tag cls type)

/-! ### Management errors (R430) -/

/-- An event is recorded in the MERR of function `fn`. -/
def recordMerr (s : State) (m fn : Nat) (code : BitVec 8) (addr : Nat) : State :=
  let old := Map.getD (s.modl m).merr fn 0#64
  let count := bits old.toNat 48 8
  let new : Word := if count = 0 then code ++ 1#8 ++ BitVec.ofNat 48 addr
    else BitVec.ofNat 64 (bits old.toNat 56 8 * 2 ^ 56 + min 255 (count + 1) * 2 ^ 48 + bits old.toNat 0 48)
  s.modModl m (fun x => { x with merr := Map.set x.merr fn new })

/-! ### Votes and events (R278 to R281) -/

/-- A barrier record (R281). -/
def barrierRec (value : Word) (ssn : BitVec 32) (count : Nat) (op : BitVec 3) (vote : BitVec 2) : BitVec 128 :=
  value ++ ssn ++ BitVec.ofNat 26 count ++ op ++ 0#1 ++ vote

/-- A tile's record goes to its die's node (R282); a twin's counts as the primary's (R417). -/
def sendRecord (s : State) (k : Nat) (rec : BitVec 128) : State :=
  match (s.tile k).work with
  | some u => s.post (.barrierRecord u.barKey 0 (tileDie (s.idKey k)) (s.idKey k) rec)
  | none => s

/-- A tile arrives at its barrier; the copies of a pair's two arrivals meet at the comparator first (R281, R417). -/
def sendArrival (s : State) (k : Nat) (rec : BitVec 128) : State :=
  match (s.tile k).twin with
  | some _ => sendTwin s k arrivalKey (bytesOfNat 16 rec.toNat)
  | none => sendRecord s k rec

/-- A tile's vote before its arrival: a pair's goes through the comparator, and a twin that has lost its partner sends its own (R279, R417). [log 35 DEDUCED] -/
def sendVote (s : State) (k : Nat) (rec : BitVec 128) : State :=
  match (s.tile k).twin with
  | some w => if (s.tile w.partner).twin.isSome then sendTwin s k voteKey (bytesOfNat 16 rec.toNat) else sendRecord s k rec
  | none => sendRecord s k rec

/-- PEND is set, and CAUSE if it was zero (R33, R205, R279). -/
def Step.pendFor (st : Step) (code : BitVec 8) : Step := { st with pend := true, cause := if st.cause = 0 then code else st.cause }

/-- An event is raised; between an outcome and the end of the tile's own work for it the event waits, since it is the next superstep's (R279). -/
def raiseEvent (s : State) (k : Nat) (code : BitVec 8) : State :=
  s.modStep k (fun st => if st.bound && !st.settled then { st with deferred := st.deferred ++ [(code, 0)] } else st.pendFor code)

/-- The tile's own work of a boundary is done: ABPEND holds the events that waited for it, and the votes of forced ones await the resume broadcast (R279). -/
def Step.settle (st : Step) : Step :=
  let st' := st.deferred.foldl (fun x e => x.pendFor e.1) st
  { st' with settled := true, deferred := st.deferred.filter (fun e => decide (e.2 ≠ 0)) }

/-- Every tile that holds a unit of launch `l`. -/
def State.tilesOf (s : State) (l : Nat) : List Nat :=
  s.tiles.filterMap (fun e => match e.2.work with
    | some u => if u.launch = l then some e.1 else none
    | none => none)

/-- The dies whose controllers take part in a boundary of barrier `g`: those of its tiles and those that hold its log or its seals. -/
def State.controllersOf (s : State) (tiles : List Nat) (g : Nat) : List Nat :=
  let own := tiles.foldl (fun l k => insertNat l (tileDie k)) []
  s.dies.foldl (fun l e => if e.2.undo.any (fun r => r.part = g) ∨ e.2.irrevocable.any (fun r => r.1 = g)
      ∨ e.2.sealLog.any (fun r => r.1 = g)
    then insertNat l e.1 else l) own

/-- Whether a new die map waits until every partition is held (R412). -/
def Job.mapWaits (j : Job) : Bool := !j.leaving.isEmpty || j.unmapping.isSome

/-- A controller's report of done is told from a tile's by this offset. [log 1 DESIGN CHOICE] -/
def controllerWho (d : Nat) : Nat := 2 ^ 60 + d

/-- Whether a controller has marked the superstep of `g` irrevocable (R275). -/
def State.isIrrevocable (s : State) (g : Nat) : Bool := s.dies.any (fun e => e.2.irrevocable.any (fun r => r.1 = g))

/-- The job of a barrier. -/
def barJob (s : State) (g : Nat) : Nat :=
  if g < 2 ^ 80 then g / 256 else match Map.get? s.launches (g - 2 ^ 80) with
    | some l => l.job
    | none => 0

/-- Whether an event is a part of an abort of a job: a frame that is to be reloaded, or a log that is to be replayed. -/
def abortOf (s : State) (j : Nat) : Instr → Bool
  | .abort d t => match (s.tile (tileKey d t)).work with
    | some u => decide (u.job = j)
    | none => false
  | .controllerAbort g _ => decide (barJob s g = j)
  | _ => false

/-- Every job tile stops, with no frame reloaded and no log replayed. The coordinator's firmware then restores the job from its
last checkpoint, or, where none is present, ends its launches UNRECOVERABLE (R288, R423). -/
def jobUnrecoverable (s : State) (j : Nat) : State :=
  let job := s.job j
  let s := { s with pending := s.pending.filter (fun e => !abortOf s j e) }
  let s := s.setJob j { job with stopped := true }
  let stop (p : Partition) : Partition := { p with bar := .stopped }
  let s := { s with parts := s.parts.map (fun (e : Nat × Partition) => (e.1, if job.parts.contains e.1 then stop e.2 else e.2)) }
  s.post (.restore job.modl 0)

/-- Barrier records of `g` that are still on their way have no more part in its outcome. -/
def dropRecords (s : State) (g : Nat) : State :=
  { s with pending := s.pending.filter (fun e => match e with
      | .barrierRecord h _ _ _ _ => h != g
      | _ => true) }

/-- Whether a packet belongs to a superstep of its issuer's partition that has ended (R358). -/
def pktStale (s : State) (p : Packet) : Bool :=
  match p.issuers.head? with
  | none => false
  | some e => match (s.tile e.1).work with
    | some u => decide ((s.part u.barKey).gen ≠ p.gen)
    | none => true

/-- Slots, endpoint contexts and ordered contexts of ended supersteps are dropped (R358). [log 37 DEDUCED] -/
def dropStale (s : State) : State :=
  let sw (x : Switch) : Switch := { x with slots := x.slots.filter (fun r => !pktStale s r.pkt) }
  let leaf (o : OrdCtx) : Bool := o.leaves.any (pktStale s)
  { s with
    dies := s.dies.map (fun (e : Nat × Die) => (e.1, { e.2 with
      switch := sw e.2.switch, endpoints := e.2.endpoints.filter (fun r => !pktStale s r.pkt)
      ordered := e.2.ordered.filter (fun o => !leaf o) }))
    modls := s.modls.map (fun (e : Nat × Modl) => (e.1, { e.2 with fabric := sw e.2.fabric })) }

/-- `n` bytes of a block from byte `o`. -/
def blockField (b : BitVec 1024) (o n : Nat) : Nat := bits b.toNat (8 * o) (8 * n)

/-- The partition of a launch. -/
def Launch.part (l : Launch) : Nat := l.job * 256 + blockField l.block 21 1

/-- The partition of a barrier: an implicit one has that of its launch. -/
def barOwner (s : State) (g : Nat) : Nat :=
  if g < 2 ^ 80 then g else ((Map.get? s.launches (g - 2 ^ 80)).map Launch.part).getD g

/-- The outcome broadcast of barrier `g` begins a new generation of its partition (R358). What the launches of a partition have under way keeps apart:
each barrier holds the generation that it began last. [log 78 DESIGN CHOICE] -/
def nextGen (s : State) (g : Nat) : State :=
  let n := (s.part (barOwner s g)).genTop + 1
  dropStale ((s.modPart (barOwner s g) (fun p => { p with genTop := n })).modPart g (fun p => { p with gen := n }))

/-- The abort broadcast of barrier `g`: the tiles and controllers concerned receive it (R267, R286). -/
def broadcastAbort (s : State) (g : Nat) (tiles : List Nat) : State :=
  let ctls := s.controllersOf tiles g
  let s := nextGen (s.modPart g (fun p => { p with bar := .aborting, members := tiles, undone := tiles ++ ctls.map controllerWho })) g
  let s := tiles.foldl (fun s k => s.modStep k (fun st => { st with bound := true })) s
  let s := tiles.foldl (fun s k => s.post (.abort (tileDie k) (tileId k))) s
  ctls.foldl (fun s d => s.post (.controllerAbort g d)) s

/-- A WP or PAR launch fails: its units are stopped and memory is restored as an abort restores it; an irrevocable log
makes the outcome UNRECOVERABLE (R332). -/
def failLaunch (s : State) (l : Nat) : State :=
  let g := implicitKey l
  match Map.get? s.launches l with
  | none => s
  | some x =>
    if (s.part g).bar ≠ .running then s
    else if s.isIrrevocable g then jobUnrecoverable s x.job
    else broadcastAbort s g (s.tilesOf l)

/-- A forced event (R279): PEND, CAUSE, and the abort vote at once; code 3 of a vote marks what a re-run cannot repair. -/
def raiseForced (s : State) (k : Nat) (code : BitVec 8) (vote : BitVec 2) : State :=
  match (s.tile k).work with
  | none => s
  | some u =>
    if (s.tile k).step.bound then s.modStep k (fun st =>
      let st := if st.settled then st.pendFor code else st
      { st with deferred := st.deferred ++ [(code, vote)] })
    else
      let s := raiseEvent s k code
      let s := s.modStep k (fun st => { st with forced := true })
      if u.cls = 2 then sendVote s k (barrierRec 0 (s.tile k).step.ssn 0 0 vote)
      else if vote = 3#2 then jobUnrecoverable s u.job
      else failLaunch s u.launch

/-! ### Groups (R187 to R189) -/

/-- A group whose phase completes once every member has arrived: pending joiners become members (R189). -/
def Group.settle (g : Group) : Group :=
  if g.members ≠ [] ∧ g.members.all (fun c => g.arrived.contains c) then
    { phase := g.phase + 1, members := g.joining.foldl insertNat g.members, joining := [], arrived := [] }
  else g

/-- The group after context `c` leaves; `none` when its last member leaves (R187 to R189). -/
def Group.leave (g : Group) (c : Nat) : Option Group :=
  let g' : Group := { g with
    members := removeNat g.members c, joining := removeNat g.joining c, arrived := removeNat g.arrived c }
  if g'.members = [] then
    if g'.joining = [] then none
    else some { phase := g.phase + 1, members := g'.joining, joining := [], arrived := [] }
  else some g'.settle

/-- A context in a group table: its tile and number. -/
def groupMember (k c : Nat) : Nat := k * 16 + c

/-- A context leaves every group of its partition (R188). -/
def leaveGroups (s : State) (k c : Nat) : State :=
  match (s.tile k).work with
  | none => s
  | some u => s.modPart u.part (fun p =>
    { p with groups := p.groups.filterMap (fun e =>
        if e.2.members.contains (groupMember k c) ∨ e.2.joining.contains (groupMember k c) then
          (e.2.leave (groupMember k c)).map (fun g => (e.1, g))
        else some e) })

/-- A group table without some contexts, which have not been in it; a group of nobody is gone. -/
def dropMembers (mine : Nat → Bool) (l : Map Group) : Map Group :=
  l.filterMap (fun e =>
    let f (l : List Nat) : List Nat := l.filter (fun c => !mine c)
    let members := if f e.2.members = [] then f e.2.joining else f e.2.members
    let joining := if f e.2.members = [] then [] else f e.2.joining
    if members = [] then none
    else some (e.1, { e.2 with members := members, joining := joining, arrived := f e.2.arrived }))

/-! ### Bookings and bindings that end with a helper (R30, R163) -/

/-- Resources of the helper's booking are released (R30, R131, R343). -/
def freeHandle (s : State) (k c : Nat) : State :=
  match (s.ctx k c).handle with
  | none => s
  | some h => (s.modCsr k (fun r => { r with books := r.books.setIfInBounds h {} })).modCtx k c
      (fun x => { x with handle := none })

/-- The bindings of a context are removed; their entries and ports are free (R163). -/
def dropBindings (s : State) (k c : Nat) : State :=
  let s := s.modIo k (fun io => { io with
    descs := mapV io.descs (fun d => if d.inUse ∧ d.owner = c then {} else d),
    ports := Vector.ofFn (fun i : Fin 2 => if io.descs.toList.any (fun d => d.inUse && d.copy && d.owner == c && d.port == i.val)
      then {} else io.ports[i]) })
  s.modCtx k c (fun x => { x with binds := Vector.replicate 8 0 })

/-- A context leaves the queue at which it waits: that of a word or of a ring (R180, R194). -/
def leaveQueues (s : State) (k c : Nat) : State :=
  match (s.ctx k c).wait with
  | some (.fe key _ _ _) => s.modDie (key / 2 ^ 40) (fun x => { x with feQ := x.feQ.filter (fun e => e.2 != (k, c)) })
  | some (.ring block) => s.modDie (block / 2 ^ 40) (fun x => { x with
      waiters := x.waiters.filter (fun w => !(decide (w.tile = k) && decide (w.ctx = c))) })
  | _ => s

/-! ### Traps (R32 to R34) -/

/-- The code of a cause (R34). -/
def Cause.code : Cause → BitVec 8
  | .illegal => 0x01 | .ctxpriv => 0x02 | .unimpl => 0x03 | .badscope => 0x04 | .illfmt => 0x05 | .ptrovf => 0x06
  | .straddle => 0x07 | .misalign => 0x08 | .nomem => 0x09 | .perm => 0x0A | .page => 0x0B | .sealed => 0x0C
  | .tagmm => 0x0D | .accbusy => 0x0E | .scale => 0x0F | .deltaovf => 0x10 | .remoteto => 0x11 | .overrun => 0x12
  | .trap => 0x13 | .bkpt => 0x14

/-- The status that a trap leaves in TSTAT: context, handle, BK, MM, RP, and H as given (R30, R32, R85). -/
def trapStatus (c : Nat) (handle : Option Nat) (mm rp h : Bool) : BitVec 12 :=
  BitVec.ofNat 4 c ++ BitVec.ofNat 4 (handle.getD 0) ++ BitVec.ofBool handle.isSome ++ BitVec.ofBool mm
    ++ BitVec.ofBool rp ++ BitVec.ofBool h

/-- The first fault of a launch, and of its present run, is recorded (R327, R333). -/
def recordFault (s : State) (k c : Nat) (cause : BitVec 8) (tval tpc : Word) : State :=
  match (s.tile k).work with
  | none => s
  | some u =>
    let f : FirstFault := { cause := cause, ctx := c, tile := k, tval := tval, tpc := tpc }
    s.modLaunch u.launch (fun l => { l with fault := some (l.fault.getD f), runFault := some (l.runFault.getD f) })

/-- The payload of a fault notice (R343). -/
def faultPayload (cause : BitVec 8) (helper : Nat) (handle : Option Nat) (tval : Word) : Word :=
  BitVec.ofNat 48 tval.toNat ++ BitVec.ofNat 4 (handle.getD 15) ++ BitVec.ofNat 4 helper ++ cause

/-- An unhandled trap of context `c` (R33). -/
def unhandled (s : State) (k c : Nat) (cause : BitVec 8) : State :=
  let x := s.ctx k c
  let s := recordFault s k c cause x.tval x.tpc
  let s := raiseEvent s k cause
  if c ≠ 0 then
    let s := s.modCtx k c (fun x => { x with st := .faulted, frame := none, wait := none })
    let s := dropBindings (leaveGroups (freeHandle s k c) k c) k c
    notify s k (faultPayload cause c x.handle x.tval) 0 1 0x04
  else
    let s := s.modCtx k 0 (fun x => { x with st := .stopped, frame := none, wait := none })
    match (s.tile k).work with
    | none => s
    | some u =>
      if u.cls = 2 then
        let halt (x : Ctx) : Ctx := if x.st = .live then { x with st := .stopped, wait := none } else x
        let s := (List.range 11).foldl (fun s c => leaveQueues s k c) s
        let s := s.modTile k (fun t => { t with ctxs := mapV t.ctxs halt })
        sendArrival (s.modStep k (fun st => { st with arrived := true })) k (barrierRec 0 (s.tile k).step.ssn 0 0 1)
      else failLaunch s u.launch

/-- The TLOAD of a context is over, complete or not: the jobs behind it go on (R153). -/
def dropTload (s : State) (k c : Nat) : State :=
  match (s.ctx k c).tload with
  | none => s
  | some _ => (s.modCtx k c (fun x => { x with tload := none })).modEng k (fun e =>
      { e with epiq := e.epiq.map (fun j => { j with behind := removeNat j.behind c }) })

/-- MROW after an MMA that ended before row `r` (R212). -/
def mrowAt (old : BitVec 8) (r : Nat) : BitVec 8 := if r = 0 then old &&& 0x7F#8 else 0x80#8 ||| BitVec.ofNat 8 r

/-- The instruction at the PC of a context is given up: what it has issued of a TLOAD or of an MMA that waits for its operands is gone (R153, R212). -/
def dropIssued (s : State) (k c : Nat) : State :=
  let s := dropTload s k c
  if (s.tile k).eng.mmas.any (fun o => !o.fetched && decide (o.ctx = c)) then
    s.modEng k (fun e => { e with mmas := e.mmas.filter (fun o => o.fetched || o.ctx != c) })
  else s

/-- A context takes a trap (R32): TPC, TCAUSE, TVAL and TSTAT, then its handler, or what R33 gives. In a repeat frame
TPC is the address of the RPT (R85). OVERRUN is always unhandled (R33). -/
def takeTrapAt (s : State) (k c : Nat) (cause : Cause) (tval tpc : Word) (mm : Bool) : State :=
  let s := leaveQueues (dropIssued s k c) k c
  let x := s.ctx k c
  let h := x.tstat.getLsbD 0
  let tvec := (s.tile k).csr.tvec
  let handled := decide (tvec ≠ 0) && !h && decide (cause ≠ .overrun)
  let pc := match x.frame with
    | some f => f.base
    | none => tpc
  let x := { x with
    tpc := pc, tcause := cause.code, tval := tval, replay := none, slotsRead := [], refused := [], mmaRow := none,
    tstat := trapStatus c x.handle mm x.frame.isSome (h || handled) }
  if handled then s.setCtx k c { x with pc := tvec, frame := none, wait := none }
  else unhandled (s.setCtx k c x) k c cause.code

/-- The issuing context takes a trap at its PC. -/
def takeTrap (s : State) (cause : Cause) (tval : Word) : State :=
  takeTrapAt s s.curKey s.cur.ctx cause tval s.curCtx.pc false

/-- Containment freezes the context that raised TAGMM, or PERM for a window outside its job: TPC, TCAUSE, TVAL and
TSTAT, with MM as given, are set, no handler runs, and its partition raises the forced event CONTAIN (R413, R414). -/
def containCtx (s : State) (k c : Nat) (cause : Cause) (tval : Word) (mm : Bool) : State :=
  let x := s.ctx k c
  let pc := match x.frame with
    | some f => f.base
    | none => x.pc
  let s := s.setCtx k c { x with
    st := .frozen, tpc := pc, tcause := cause.code, tval := tval,
    tstat := trapStatus c x.handle mm x.frame.isSome (x.tstat.getLsbD 0) }
  let s := match (s.tile k).work with
    | some u => s.modPart u.barKey (fun p => { p with frozenHold := true })
    | none => s
  raiseForced s k 0x24 1

end Sys2Proof.Machine
end

