-- ==== Sys2Proof/Machine/Route.lean ====
section
/-! DEFINITION. Switches, their ports and the routes between dies (R348, R349, R352); links that are down, their detours, and the abort votes
that a link failure and a packet held for want of a detour raise (R356, R357). -/

namespace Sys2Proof.Machine

/-! ### Switches and ports (R348, R349) -/

/-- The number of a module's fabric switch; a die switch has the number of its die. -/
def fabricSw (m : Nat) : Nat := 2 ^ 40 + m
def isFabric (sw : Nat) : Bool := decide (2 ^ 40 ≤ sw)
def swModule (sw : Nat) : Nat := if isFabric sw then sw - 2 ^ 40 else sw / 8

def State.sw (s : State) (sw : Nat) : Switch := if isFabric sw then (s.modl (swModule sw)).fabric else (s.die sw).switch
def State.modSw (s : State) (sw : Nat) (f : Switch → Switch) : State :=
  if isFabric sw then s.modModl (swModule sw) (fun m => { m with fabric := f m.fabric })
  else s.modDie sw (fun d => { d with switch := f d.switch })

/-- Whether a port of a die switch is its own mesh. -/
def ownMesh (sw port : Nat) : Bool := !isFabric sw && decide (port = sw % 8)

/-- The extent of a dimension of a box: X, Y, Z, W are 0 to 3. -/
def Job.extent (j : Job) (dim : Nat) : Nat := max 1 ((j.extents[dim]?).getD 1)

/-- Modules of the box between neighbours of a dimension. -/
def Job.pitch (j : Job) (dim : Nat) : Nat := ((List.range dim).map j.extent).foldl (fun a b => a * b) 1

/-- The module that a job has at the far end of fabric port `port` of module `m` (R348, R349). -/
def Job.neighbour (j : Job) (m port : Nat) : Option Nat := do
  let i ← j.box.findIdx? (fun x => decide (x = m))
  let dim := port / 2
  let n := j.extent dim
  let p := j.pitch dim
  let v := i / p % n
  let dest ← if n = 1 then none
    else if port % 2 = 0 then (if v + 1 < n then some (v + 1) else if 2 ≤ dim then some 0 else none)
    else (if 0 < v then some (v - 1) else if 2 ≤ dim then some (n - 1) else none)
  j.box[i - v * p + dest * p]?

/-- The port that matches a port between modules: +X and −X, and so on. -/
def matching (port : Nat) : Nat := if port % 2 = 0 then port + 1 else port - 1

/-- The far end of a port within a module: the next switch, and its port. -/
def innerEnd (sw port : Nat) : Option (Nat × Nat) :=
  if isFabric sw then (if 8 ≤ port ∧ port < 16 then some (8 * swModule sw + (port - 8), 8) else none)
  else if port < 8 then (if port = sw % 8 then none else some (sw / 8 * 8 + port, sw % 8))
  else if port = 8 then some (fabricSw (sw / 8), 8 + sw % 8) else none

/-- The far end of a port for a packet of job `j`: the next switch, and its port; none where the port is unconnected. -/
def linkEnd (s : State) (j sw port : Nat) : Option (Nat × Nat) :=
  if isFabric sw && decide (port < 8) then ((s.job j).neighbour (swModule sw) port).map (fun m => (fabricSw m, matching port))
  else innerEnd sw port

/-- The number of the link at a port between modules that leads to module `far`; any other link has the number of its port. Two jobs that have
different modules at one port use different links. [log 36 DESIGN CHOICE] -/
def farLink (port far : Nat) : Nat := port + 16 * (1 + far)

/-- The number of the link by which packets of job `j` leave through a port. -/
def linkNo (s : State) (j sw port : Nat) : Nat :=
  if isFabric sw && decide (port < 8) then match linkEnd s j sw port with
    | some e => farLink port (swModule e.1)
    | none => port
  else port

/-- The far end of a link: the next switch, and the number of the link there. -/
def linkPeer (sw n : Nat) : Option (Nat × Nat) :=
  if 16 ≤ n then (if isFabric sw && decide (n % 16 < 8) then some (fabricSw (n / 16 - 1), farLink (matching (n % 16)) (swModule sw)) else none)
  else innerEnd sw n

/-! ### Links and detours (R355 to R357), each link under its number -/

def State.link (s : State) (sw port : Nat) : Link := Map.getD (s.sw sw).links port {}
def State.modLink (s : State) (sw port : Nat) (f : Link → Link) : State :=
  s.modSw sw (fun x => { x with links := Map.set x.links port (f (Map.getD x.links port {})) })

/-- Whether the hops of a path are up, and where it ends. -/
def walkPath (s : State) (j : Nat) : Nat → List Nat → Option Nat
  | sw, [] => some sw
  | sw, p :: l => if (s.link sw (linkNo s j sw p)).up then (linkEnd s j sw p).bind (fun e => walkPath s j e.1 l) else none

/-- Whether a row of R356 replaces a link that is down. [log 36 DESIGN CHOICE] -/
def detourOk (s : State) (j sw port : Nat) : Bool :=
  let far := (linkEnd s j sw port).map (fun e => e.1)
  let rows : List (List Nat) :=
    if isFabric sw then
      if port < 2 then [[2, port, 3], [3, port, 2]]
      else if port < 4 then [[0, port, 1], [1, port, 0]]
      else if port < 8 then [[0, port, 1], [1, port, 0], [2, port, 3], [3, port, 2]]
      else []
    else if port < 8 then
      ((List.range 8).filter (fun q => decide (q ≠ port) && decide (q ≠ sw % 8))).map (fun q => [q, port])
    else []
  rows.any (fun r => decide (walkPath s j sw r = far) && far.isSome)

/-- Whether packets of job `j` can leave by a port: its link is up, or a detour replaces it. -/
def portOpen (s : State) (j sw port : Nat) : Bool := (s.link sw (linkNo s j sw port)).up || detourOk s j sw port

/-- Whether a detour replaces a link for the jobs that use it. -/
def detourFor (s : State) (sw n : Nat) : Bool :=
  s.jobs.any (fun e => decide (linkNo s e.1 sw (n % 16) = n) && detourOk s e.1 sw (n % 16))

/-! ### Routes (R352) -/

/-- The fabric port by which a packet for module index `dest` leaves the module of index `i`: X first, then Y, Z, W, on Z and
W the shorter way round. -/
def Job.towards (j : Job) (i dest : Nat) : Option Nat :=
  (List.range 4).findSome? (fun dim =>
    let n := j.extent dim
    let a := i / j.pitch dim % n
    let b := dest / j.pitch dim % n
    if a = b then none
    else if dim < 2 then some (if a < b then 2 * dim else 2 * dim + 1)
    else some (if 2 * ((b + n - a) % n) ≤ n then 2 * dim else 2 * dim + 1))

/-- The port by which a packet for die `d` leaves a switch; none where it has arrived at its mesh. [log 36 DESIGN CHOICE] -/
def routePort (s : State) (j sw d : Nat) : Option Nat :=
  let m := swModule sw
  if isFabric sw then
    if d / 8 = m then some (8 + d % 8)
    else
      let box := (s.job j).box
      match box.findIdx? (fun x => decide (x = m)), box.findIdx? (fun x => decide (x = d / 8)) with
      | some i, some n => (s.job j).towards i n
      | _, _ => none
  else if d = sw then none else if d / 8 = m then some (d % 8) else some 8

/-- The first hop between a switch and die `d` that no packet can take; fuel covers the hops of a route. -/
def closedHop (s : State) (j d : Nat) : Nat → Nat → Option (Nat × Nat)
  | 0, _ => none
  | f + 1, sw => match routePort s j sw d with
    | none => none
    | some q => match linkEnd s j sw q with
      | none => none
      | some (next, _) => if portOpen s j sw q then closedHop s j d f next else some (sw, q)

/-- Hops of the longest route: to its fabric switch, 3 on X, 3 on Y, 8 on Z, 8 on W, and to the die. -/
def routeHops : Nat := 24

/-! ### Votes that links raise (R278, R356, R357) -/

/-- A link failure is reported: every partition with members on the dies of the modules at its ends raises LINK (R278,
R357). -/
def reportLink (s : State) (mods : List Nat) : State :=
  let tiles := (s.tiles.filter (fun e => e.2.work.isSome && mods.contains (tileDie e.1 / 8))).map (fun e => e.1)
  tiles.foldl (fun s k => raiseForced s k 0x21 1) s

/-- The modules at the ends of a link. -/
def linkMods (sw n : Nat) : List Nat := swModule sw :: ((linkPeer sw n).map (fun e => swModule e.1)).toList

/-- A packet is held for want of a detour: the affected partitions vote abort, once in each superstep (R356). [log 36 DESIGN CHOICE] -/
def reportHeld (s : State) (sw n : Nat) : State :=
  let mods := linkMods sw n
  let tiles := (s.tiles.filter (fun e => e.2.work.isSome && mods.contains (tileDie e.1 / 8) && !e.2.step.forced
    && !e.2.step.deferred.any (fun x => decide (x.1 = 0x21)))).map (fun e => e.1)
  tiles.foldl (fun s k => raiseForced s k 0x21 1) s

/-- Whether a switch holds packets, in its queues or its multicast store, or flits not yet acknowledged, for a link that is down, without a detour, and
at one of whose ends module `m` stands (R356). -/
def linkStuck (s : State) (m : Nat) : Bool :=
  let at' (sw n : Nat) : Bool := (linkMods sw n).contains m
  let held (sw : Nat) (x : Switch) : Bool :=
    x.out.any (fun e => at' sw (e.1 / 4) && e.2.any (fun p => !portOpen s p.2.job sw (e.1 / 4 % 16)))
    || x.store.any (fun r => r.ports.any (fun q => at' sw (linkNo s r.pkt.job sw q) && !portOpen s r.pkt.job sw q))
    || x.links.any (fun e => at' sw e.1 && !e.2.up && e.2.unacked != [] && !detourFor s sw e.1)
  s.modls.any (fun e => held (fabricSw e.1) e.2.fabric) || s.dies.any (fun e => held e.1 e.2.switch)

end Sys2Proof.Machine
end

