-- ==== Sys2Proof/Machine/Access.lean ====
section
/-! DEFINITION. Memory accesses: the offset map (R297, R298), regions (R168), the order of checks (R166), translation and
page requests (R299 to R312), policy pages (R374 to R376), seals, tags, keys and undo logs (R185, R316 to R318, R274), and
the delta views of kept memory (R269 to R272). -/

namespace Sys2Proof.Machine

/-- Why an access is not performed. -/
inductive AccErr where
  /-- A cause of R34, with its TVAL. -/
  | trap (cause : Cause) (tval : Word)
  /-- TAGMM, or PERM for a window outside the job: containment events where a context or an engine meets them (R413). -/
  | contain (cause : Cause) (tval : Word)
  /-- The access waits for a page service, or at a remote target (R167, R310, R367). -/
  | refer (w : PageWait)
  /-- The access cannot go on yet: a staged range, a route, the comparator of a pair or a drop of translations holds it (R290, R300, R352, R417). -/
  | stall
  /-- The access waits in a queue at its target: at a word of full/empty memory, or at a ring (R180, R194). -/
  | queue (key : Nat)
  /-- The access never completes (R317). -/
  | never
  deriving DecidableEq, Repr

/-- Accesses change the state, and some end without being performed. -/
abbrev A := EStateM AccErr State

def getA : A State := get
def modA (f : State → State) : A Unit := modify f
def trapA {α : Type} (c : Cause) (v : Word) : A α := throw (.trap c v)

/-- A list of steps in order. -/
def eachA {α : Type} (l : List α) (f : α → A Unit) : A Unit := l.forM f

/-- Who makes an access: the tile, the context, and whether an engine makes it on the context's behalf. -/
structure Requester where
  tile : Nat
  ctx : Nat
  engine : Bool
  /-- The engine operation, 0 for a context. -/
  unit : Nat := 0
  /-- SUBREG as it stood when the operation was issued; a context uses its tile's present one (R303). -/
  subreg : Option Word := none
  deriving DecidableEq, Repr

/-- What an access does at its target (R168). `fe` is a full/empty function. -/
inductive AccKind where
  | fetch | load | store | amo | fe
  deriving DecidableEq, Repr

/-- Whether the kind writes. -/
def AccKind.writes : AccKind → Bool
  | .store | .amo | .fe => true
  | .fetch | .load => false

/-! ### The offset map (R297) -/

/-- Physical keys of a tile's memories in `State.mem`. -/
def spadKey (k off : Nat) : Nat := tileDie k * 2 ^ 40 + (0x8000000000 + tileId k * 2 ^ 20 + off)
def vaultKey (k off : Nat) : Nat := tileDie k * 2 ^ 40 + (0xC000000000 + tileId k * 2 ^ 21 + off)
def hbmKey (d hpa : Nat) : Nat := d * 2 ^ 40 + hpa

/-- Where an offset of a die leads. -/
inductive Spot where
  | spad (tile off : Nat)
  | vault (tile off : Nat)
  | hbm (off : Nat)
  | control (off : Nat)
  | nowhere
  deriving DecidableEq, Repr

/-- The offset map of die `d`, for a requester on tile `k`; the aliases exist on the requester's own die only (R298). -/
def spotOf (d k off : Nat) : Spot :=
  if off < 0x4000000000 then .hbm off
  else if 0x8000000000 ≤ off ∧ off < 0x8040000000 then
    let o := (off - 0x8000000000) % 2 ^ 20
    if o < Config.spadBytes then .spad (tileKey d ((off - 0x8000000000) / 2 ^ 20)) o else .nowhere
  else if 0x9000000000 ≤ off ∧ off < 0x9000100000 then
    if d = tileDie k ∧ off - 0x9000000000 < Config.spadBytes then .spad k (off - 0x9000000000) else .nowhere
  else if 0xC000000000 ≤ off ∧ off < 0xC080000000 then
    let o := (off - 0xC000000000) % 2 ^ 21
    if o < Config.vaultBytes then .vault (tileKey d ((off - 0xC000000000) / 2 ^ 21)) o else .nowhere
  else if 0xD000000000 ≤ off ∧ off < 0xD000200000 then
    if d = tileDie k ∧ off - 0xD000000000 < Config.vaultBytes then .vault k (off - 0xD000000000) else .nowhere
  else if 0xFFF0000000 ≤ off ∧ off < 2 ^ 40 then .control (off - 0xFFF0000000)
  else .nowhere

/-- The offset map for a requester on tile `k`: a twin has the place of its primary, whose windows are its own (R416). -/
def spotFor (s : State) (d k off : Nat) : Spot :=
  let p := s.idKey k
  match spotOf d p off with
  | .spad t o => .spad (if t = p then k else t) o
  | .vault t o => .vault (if t = p then k else t) o
  | x => x

/-- The physical die that a pointer names for a requester on tile `k` (R47). -/
def resolveDie (s : State) (k : Nat) (p : Word) : Option Nat :=
  if ptrDie p = 0xFFFF then some (tileDie (s.idKey k))
  else match (s.tile k).work with
    | some u => ((s.job u.job).entry? (ptrDie p)).bind entryDie
    | none => none

/-! ### Regions (R94, R168) -/

/-- The classes of tile memory. -/
inductive Region where
  | kept | transit | reserved | outside
  deriving DecidableEq, Repr

def spadRegion (u : WorkUnit) (off : Nat) : Region :=
  if Config.reservedBase ≤ off then .reserved
  else if off < u.skl * 64 then .kept
  else if off < (u.skl + u.stl) * 64 then .transit
  else .outside

def vaultRegion (u : WorkUnit) (off : Nat) : Region :=
  if off < u.vkl * 64 then .kept else if off < (u.vkl + u.vtl) * 64 then .transit else .outside

/-- The region of a byte of tile `k`; a tile that holds no unit has the reserved area and nothing else. -/
def regionOf (s : State) (k : Nat) (vault : Bool) (off : Nat) : Region :=
  match (s.tile k).work with
  | some u => if vault then vaultRegion u off else spadRegion u off
  | none => if vault = false ∧ Config.reservedBase ≤ off then .reserved else .outside

/-- Whether tile `k` belongs to job `j`: it holds a unit of it, or stands in a gang of it; a quarantined tile belongs to
none (R298). -/
def State.tileInJob (s : State) (k j : Nat) : Bool :=
  let quarantined := (s.modl (tileDie k / 8)).quarantine.contains k
  let holds := match (s.tile k).work with
    | some u => decide (u.job = j)
    | none => (s.job j).parts.any (fun p => (s.part p).gang.contains k)
  holds && !quarantined

/-- Whether R168 allows the kind of access to a region of tile `t` for a requester on tile `k`. -/
def regionAllows (s : State) (k t : Nat) (r : Region) (kind : AccKind) : Bool :=
  let partOf (x : Nat) : Option Nat := ((s.tile x).work).map (fun u => u.part)
  match r with
  | .outside => false
  | .reserved => !kind.writes
  | .transit => true
  | .kept => if k = t then true
    else if partOf k = partOf t then (decide (kind ≠ .amo) && decide (kind ≠ .fe))
    else !kind.writes

/-! ### Views of tile memory (R247, R269 to R271) -/

/-- The number of a line in the delta maps: a vault line stands 8,192 above its number. -/
def lineOf (vault : Bool) (off : Nat) : Nat := (if vault then 8192 else 0) + off / 64

/-- The physical key of a line's first byte. -/
def lineKey (k line : Nat) : Nat :=
  if line < 8192 then spadKey k (line * 64) else vaultKey k ((line - 8192) * 64)

/-- Byte `i` of a line held as a vector. -/
def vecByte (v : Vec) (i : Nat) : Byte := v.extractLsb' (8 * i) 8

/-- A line with byte `i` replaced. -/
def vecSetByte (v : Vec) (i : Nat) (b : Byte) : Vec :=
  (v &&& ~~~((0xFF#512) <<< (8 * i))) ||| ((b.setWidth 512) <<< (8 * i))

/-- Lines of the scratchpad pool and of the vault pool (R269). -/
def WorkUnit.poolLines (u : WorkUnit) (vault : Bool) : Nat := 256 * (if vault then u.vpool else u.spool)

/-- Lines of a pool in use. -/
def Step.poolUsed (st : Step) (vault : Bool) : Nat :=
  let mine (l : Nat) : Bool := if vault then decide (8192 ≤ l) else decide (l < 8192)
  (st.locals.filter (fun e => mine e.1)).length + (st.remotes.filter (fun e => mine e.1)).length

/-- Free lines of a pool (R273). -/
def Tile.poolFree (t : Tile) (vault : Bool) : Nat :=
  match t.work with
  | some u => u.poolLines vault - t.step.poolUsed vault
  | none => 0

/-- The eight bytes of a loop level in a frame (R27). -/
def LoopLevel.word (l : LoopLevel) : Word := l.len ++ l.start ++ l.count

/-- Byte `i` of a number. -/
def byteOf (x i : Nat) : Byte := BitVec.ofNat 8 (x / 2 ^ (8 * i))

/-- The stream map of a context (R27). -/
def Ctx.streamMap (x : Ctx) : Nat :=
  (List.range 8).foldl (fun n i => n + ((x.binds[i]?).getD 0).toNat * 2 ^ (4 * i)) 0

/-- Byte `o` of the retained register frame (R27). -/
def frameByte (x : Ctx) (o : Nat) : Byte :=
  if o < 8 then byteOf x.pc.toNat o
  else if o < 0x108 then
    if o < 16 then 0 else byteOf ((x.s[(o - 8) / 8]?).getD 0).toNat ((o - 8) % 8)
  else if o < 0x118 then
    if o < 0x10A then 0xFF else byteOf ((x.k[(o - 0x108) / 2]?).getD 0).toNat ((o - 0x108) % 2)
  else if o < 0x918 then byteOf ((x.v[(o - 0x118) / 64]?).getD 0).toNat ((o - 0x118) % 64)
  else if o < 0x938 then byteOf (((x.loops[(o - 0x918) / 8]?).getD {}).word).toNat ((o - 0x918) % 8)
  else if o = 0x938 then x.qmap
  else if o = 0x939 then BitVec.ofNat 8 x.depth
  else if o < 0x93E then byteOf x.streamMap (o - 0x93A)
  else 0

/-- Byte `o` of an entry of the stream descriptor table (R160). -/
def descByte (d : StreamDesc) (o : Nat) : Byte :=
  if o < 8 then byteOf d.base.toNat o
  else if o < 12 then byteOf d.slots.toNat (o - 8)
  else if o < 16 then byteOf d.pos.toNat (o - 12)
  else if o = 20 then BitVec.ofNat 8 (d.inUse.toNat + 2 * d.copy.toNat + 4 * d.out.toNat)
  else if o = 21 then BitVec.ofNat 8 (d.owner + 16 * d.port)
  else 0

/-- A byte of the reserved area, counted from its start (R26). -/
def reservedByte (t : Tile) (o : Nat) : Byte :=
  if o < 0x940 then frameByte t.step.retained o
  else if o < 0xA40 then descByte ((t.io.descs[(o - 0x940) / 32]?).getD {}) ((o - 0x940) % 32)
  else 0

/-- The byte at `off` of tile `t` as a requester on tile `k` reads it: the tile's own view, or the retained version for
any other (R247). -/
def tileByte (s : State) (k t : Nat) (vault : Bool) (off : Nat) : Byte :=
  if vault = false ∧ Config.reservedBase ≤ off then reservedByte (s.tile t) (off - Config.reservedBase)
  else
    let retained := Memory.read s.mem (if vault then vaultKey t off else spadKey t off)
    if k = t then match Map.get? (s.tile t).step.locals (lineOf vault off) with
      | some d => vecByte d.data (off % 64)
      | none => retained
    else retained

/-- The 64 bytes of a line of tile `t` in its retained version. -/
def retainedLine (s : State) (t line : Nat) : Vec :=
  BitVec.ofNat 512 (natOfBytes (Memory.readN s.mem (lineKey t line) 64))

/-- The full/empty bits of a scratchpad line in its retained version; a vault line has none. -/
def retainedFull (s : State) (t line : Nat) : BitVec 16 :=
  if line < 8192 then
    BitVec.ofNat 16 ((List.range 16).foldl
      (fun n i => n + (if s.full.contains (lineKey t line + 4 * i) then 2 ^ i else 0)) 0)
  else 0

/-- A local delta is made for a kept line that has none (R270). [log 28 DEDUCED] -/
def allocLocal (s : State) (t line : Nat) : State :=
  match Map.get? (s.tile t).step.locals line with
  | some _ => s
  | none =>
    let d : LocalDelta := { data := retainedLine s t line, fe := retainedFull s t line }
    s.modStep t (fun st => { st with locals := Map.set st.locals line d })

/-- A byte of a kept line is written by the line's own tile; it is the byte's last write so far (R271). -/
def putLocal (s : State) (t line i : Nat) (b : Byte) : State :=
  s.modStep t (fun st =>
    let locals := match Map.get? st.locals line with
      | some d => Map.set st.locals line ({ d with data := vecSetByte d.data i b } : LocalDelta)
      | none => st.locals
    let remotes := match Map.get? st.remotes line with
      | some r => Map.set st.remotes line ({ r with last := r.last &&& ~~~(1#64 <<< i) } : RemoteDelta)
      | none => st.remotes
    { st with locals := locals, remotes := remotes })

/-- A byte of a kept line is written by another agent: it goes into the remote delta (R271). -/
def putRemote (s : State) (t line i : Nat) (b : Byte) : State :=
  s.modStep t (fun st =>
    let r : RemoteDelta := Map.getD st.remotes line { data := 0, mask := 0, last := 0 }
    let new : RemoteDelta :=
      { data := vecSetByte r.data i b, mask := r.mask ||| 1#64 <<< i, last := r.last ||| 1#64 <<< i }
    { st with remotes := Map.set st.remotes line new })

/-- The kept lines of own-tile bytes `off` to `off + n - 1`. -/
def linesOf (vault : Bool) (off n : Nat) : List Nat :=
  if n = 0 then []
  else (List.range ((off + n - 1) / 64 - off / 64 + 1)).map (fun i => lineOf vault off + i)

/-- Deltas for a write of `n` own kept bytes, or DELTAOVF with nothing taken (R270); TVAL names the first line for which
the pool has no room. -/
def takeLocals (t : Nat) (vault : Bool) (off n : Nat) : A Unit := do
  let s ← getA
  let missing := (linesOf vault off n).filter (fun l => (Map.get? (s.tile t).step.locals l).isNone)
  let free := (s.tile t).poolFree vault
  match missing.drop free with
  | [] => modA (fun s => missing.foldl (fun s l => allocLocal s t l) s)
  | l :: _ => trapA .deltaovf (BitVec.ofNat 64 (if vault then 2 ^ 63 + (l - 8192) * 64 else l * 64))

/-- The bytes `bs` from `off` up are written in transit memory of tile `t`. -/
def putPlain (s : State) (t : Nat) (vault : Bool) (off : Nat) (bs : List Byte) : State :=
  { s with mem := Memory.writeN s.mem (if vault then vaultKey t off else spadKey t off) bs }

/-- A list with the position of each element, from `i` on. -/
def indexed {α : Type} : Nat → List α → List (Nat × α)
  | _, [] => []
  | i, a :: l => (i, a) :: indexed (i + 1) l

/-- A write of another tile reaches kept memory of tile `k`: the bytes of each line land in its remote delta; a line for which the pool has no
room is dropped and raises RDELTA (R271, R272). [log 7 DESIGN CHOICE] -/
def landWrite (k : Nat) (vault : Bool) (off : Nat) (bytes : List Byte) (s : State) : State :=
  (linesOf vault off bytes.length).foldl (fun s line =>
    let mine := (indexed 0 bytes).filter (fun e => decide (lineOf vault (off + e.1) = line))
    if (Map.get? (s.tile k).step.remotes line).isSome ∨ 0 < (s.tile k).poolFree vault then
      mine.foldl (fun s e => putRemote s k line ((off + e.1) % 64) e.2) s
    else raiseForced s k 0x23 1) s

/-- The tiles that a write of tile `k` into the windows of `t` reaches: both of a pair where `t` is its primary (R416). -/
def twinsOf (s : State) (k t : Nat) : List Nat :=
  match (s.tile t).twin with
  | some w => if k ≠ t ∧ w.primary then [t, w.partner] else [t]
  | none => [t]

/-- Bytes are written in tile memory that checks have allowed; kept bytes stand before the others. A kept region of the own tile takes local deltas, a kept
region of another tile remote deltas (R270, R271); another region is written at once. [log 7 DESIGN CHOICE] -/
def writeTile (k t : Nat) (vault : Bool) (off : Nat) (bs : List Byte) : A Unit := do
  let s ← getA
  let n := ((List.range bs.length).takeWhile (fun i => decide (regionOf s t vault (off + i) = .kept))).length
  let kept := bs.take n
  if kept.isEmpty then pure ()
  else if k = t then
    takeLocals t vault off n
    modA (fun s => (indexed 0 kept).foldl
      (fun s e => putLocal s t (lineOf vault (off + e.1)) ((off + e.1) % 64) e.2) s)
  else modA (fun s => (twinsOf s k t).foldl (fun s t => landWrite t vault off kept s) s)
  modA (fun s => (twinsOf s k t).foldl (fun s t => putPlain s t vault (off + n) (bs.drop n)) s)

/-! ### Full/empty bits (R179, R180, R292) -/

/-- The bit of the word at `off`, as tile `k` sees it. -/
def feBit (s : State) (k t off : Nat) : Bool :=
  let retained := s.full.contains (spadKey t (off / 4 * 4))
  if k = t then match Map.get? (s.tile t).step.locals (lineOf false off) with
    | some d => d.fe.getLsbD (off / 4 % 16)
    | none => retained
  else retained

/-- The word and its bit are written; a kept word must have its delta already. -/
def setFe (s : State) (t off : Nat) (b : Bool) : State :=
  if regionOf s t false off = .kept then
    s.modStep t (fun st => { st with locals := match Map.get? st.locals (lineOf false off) with
      | some d =>
        let m := 1#16 <<< (off / 4 % 16)
        Map.set st.locals (lineOf false off) { d with fe := if b then d.fe ||| m else d.fe &&& ~~~m }
      | none => st.locals })
  else { s with full := if b then insertNat s.full (spadKey t (off / 4 * 4)) else removeNat s.full (spadKey t (off / 4 * 4)) }

/-! ### HBM: records of the controllers (R274, R275, R316 to R319) -/

/-- `len` bytes of a translation context from byte `off` (R300). -/
def tctxField (t : BitVec 512) (off len : Nat) : Nat := bits t.toNat (8 * off) (8 * len)

/-- The translation context of a function. -/
def State.tctx (s : State) (d fn : Nat) : BitVec 512 := ((s.die d).tctx[fn]?).getD 0

/-- The stored tag of a sector. -/
def Die.tagOf (x : Die) (sector : Nat) : BitVec 4 := Map.getD x.tags sector 0

/-- The controller that serves an HPA: 0 and 1 the halves of the lower stack of the die, 2 and 3 those of the upper (R319, R432). -/
def controllerOf (hpa : Nat) : Nat := 2 * (hpa / 2 ^ 37) + min 1 (hpa % 2 ^ 37 / (732416 * 65536))

/-- Controller `c` cannot append: it marks the superstep of `g` irrevocable, and vote bit 1 goes up (R275). -/
def markIrrevocable (s : State) (d c g : Nat) (ssn : BitVec 32) : State :=
  if (s.die d).irrevocable.any (fun r => decide (r = (g, c))) then s
  else
    let s := s.modDie d (fun x => { x with irrevocable := x.irrevocable ++ [(g, c)] })
    if g < 2 ^ 80 then s.post (.barrierRecord g 0 d (controllerWho d) (barrierRec 0 ssn 0 0 2)) else s

/-- Bytes of undo log that a stack keeps for a launch: ULOG × 10^9 (R275). -/
def ulogBytes (s : State) (launch : Nat) : Nat :=
  match Map.get? s.launches launch with
  | some l => bits l.block.toNat (8 * 26) 8 * 10 ^ 9
  | none => 0

/-- Bytes of the log of `g` in use on a stack of die `d`. -/
def ulogUsed (s : State) (d g stack : Nat) : Nat :=
  128 * ((s.die d).undo.filter (fun r => decide (r.part = g) && decide (r.line * 64 / 2 ^ 37 = stack))).length

/-- Whether a sector is encrypted under another key than `key` (R318). -/
def Die.foreign (x : Die) (key c : Nat) : Bool := match Map.get? x.sectorKeys c with
  | some j => j != key
  | none => false

/-- Whether a syndrome leaves no data (R317). -/
def unreadable : Option Syndrome → Bool
  | some .uncorrectable | some (.misdirected _) => true
  | some .correctable | none => false

/-- The line of an HPA is recorded before the first write of the superstep of unit `u` to it (R274, R275). -/
def logLine (s : State) (d : Nat) (u : WorkUnit) (ssn : BitVec 32) (line : Nat) : State :=
  let x := s.die d
  let g := u.barKey
  if x.undo.any (fun r => decide (r.part = g) && decide (r.line = line)) then s
  else if x.irrevocable.any (fun r => decide (r = (g, controllerOf (64 * line)))) then s
  else if ulogBytes s u.launch < ulogUsed s d g (line * 64 / 2 ^ 37) + 128 then markIrrevocable s d (controllerOf (64 * line)) g ssn
  else
    let key := tctxField (s.tctx d u.fn) 40 1
    let foreign (i : Nat) : Bool := x.foreign key (2 * line + i / 32)
    let byte (i : Nat) : Byte :=
      if foreign i then Config.freeByte (s.free + i) else Memory.read s.mem (hbmKey d (line * 64 + i))
    let broken (c : Nat) : Bool := unreadable (Map.get? x.syndromes c)
    let r : UndoRec := {
      part := g, controller := controllerOf (64 * line), line := line
      tags := x.tagOf (2 * line + 1) ++ x.tagOf (2 * line)
      data := BitVec.ofNat 512 (natOfBytes ((List.range 64).map byte))
      poisoned := broken (2 * line) || broken (2 * line + 1) }
    let s := if (List.range 64).any foreign then { s with free := s.free + 64 } else s
    s.setDie d { x with undo := x.undo ++ [r] }

/-- The sectors of `n` bytes from an HPA. -/
def sectorsOf (hpa n : Nat) : List Nat := (List.range ((hpa + n - 1) / 32 - hpa / 32 + 1)).map (fun i => hpa / 32 + i)

/-- A write of part of a sector of another key reads it under the writer's key: its 32 bytes become free values (R316, R318). [log 33 DESIGN CHOICE] -/
def scramble (s : State) (d key c : Nat) : State :=
  if (s.die d).foreign key c then
    { s with mem := Memory.writeN s.mem (hbmKey d (c * 32)) ((List.range 32).map (fun i => Config.freeByte (s.free + i))), free := s.free + 32 }
  else s

/-- Bytes are written at an HPA: data, tags, keys, dirty bits; a sector that is written whole is clean (R316 to R319). -/
def writeHbm (s : State) (d hpa : Nat) (tag : BitVec 4) (key : Nat) (bs : List Byte) : State :=
  let secs := sectorsOf hpa bs.length
  let whole (c : Nat) : Bool := decide (hpa ≤ c * 32 ∧ c * 32 + 32 ≤ hpa + bs.length)
  let s := (secs.filter (fun c => !whole c)).foldl (fun s c => scramble s d key c) s
  let s := { s with mem := Memory.writeN s.mem (hbmKey d hpa) bs }
  s.modDie d (fun x => { x with
    tags := secs.foldl (fun m c => if tag = 0 then Map.erase m c else Map.set m c tag) x.tags
    sectorKeys := secs.foldl (fun m c => Map.set m c key) x.sectorKeys
    syndromes := secs.foldl (fun m c => if whole c then Map.erase m c else m) x.syndromes
    dirty := if x.dtctl then insertNat (insertNat x.dirty (hpa / 65536)) ((hpa + bs.length - 1) / 65536) else x.dirty })

/-- Bytes of HBM as key `key` deciphers them: a sector written under another key yields free values (R318). [log 33 DESIGN CHOICE] -/
def readHbm (d hpa n key : Nat) : A (List Byte) := do
  let s ← getA
  let foreign (i : Nat) : Bool := (s.die d).foreign key ((hpa + i) / 32)
  let bs := (List.range n).map (fun i =>
    if foreign i then Config.freeByte (s.free + i) else Memory.read s.mem (hbmKey d (hpa + i)))
  if (List.range n).any foreign then modA (fun s => { s with free := s.free + n })
  pure bs

/-- Eight bytes of HBM read by an agent of the die (R306). -/
def read8 (s : State) (d hpa : Nat) : Nat := natOfBytes (Memory.readN s.mem (hbmKey d hpa) 8)

/-- Whether an HPA lies in a frame that a stack offers (R309). [log 30 DESIGN CHOICE] -/
def hpaOffered (hpa : Nat) : Bool := decide (hpa < 2 ^ 38) && decide (hpa % 2 ^ 37 < Config.stackFrameEnd)

/-- Frames that the undo logs of the launches with units on a die take from each of its stacks (R275, R309). -/
def undoFrames (s : State) (d : Nat) : Nat :=
  ((s.launches.filter (fun e => decide (e.2.phase = .running) && s.tiles.any (fun t => decide (tileDie t.1 = d)
    && decide (t.2.work.map (fun u => u.launch) = some e.1)))).map (fun e => (ulogBytes s e.1 + 2 ^ 21 - 1) / 2 ^ 21)).sum

/-- Whether firmware keeps the frame of an HPA, or an undo log does, which takes the last frames of its stack (R309). [log 30 DESIGN CHOICE] -/
def hpaReserved (s : State) (d hpa : Nat) : Bool :=
  (s.die d).reservedFrames.contains (hpa / 2 ^ 21 * 2 ^ 21) || decide (Config.stackFrameEnd ≤ hpa % 2 ^ 37 + undoFrames s d * 2 ^ 21)

/-! ### Translation (R299 to R309) -/

/-- Who asks for a translation on die `die`: the function, the kind of access, and what a request record says (R310). -/
structure TrReq where
  die : Nat
  fn : Nat
  sub : Bool
  write : Bool
  fetch : Bool
  host : Bool
  port : Nat
  ssn : BitVec 32
  tileId : Nat
  dieId : Nat
  /-- The policy group, the partition's number and the version selected of who asks, for policy pages (R375). -/
  pol : Option (Nat × Nat × Nat)
  deriving DecidableEq, Repr

/-- Where translated bytes lie. -/
inductive Home where
  | hbm (hpa : Nat)
  | host (port addr : Nat)
  deriving DecidableEq, Repr

/-- What a walk yields: the home, its class, tag and whether it is host-backed. -/
structure Leaf where
  home : Home
  logged : Bool
  tag : BitVec 4
  policy : Bool
  deriving DecidableEq, Repr

/-- How a walk ends without a home. -/
inductive WalkErr where
  /-- R307: malformed, with the MERR code and the address to record. -/
  | malformed (addr : Nat)
  /-- A draft that no free frame can back (R376). -/
  | draft (addr : Nat)
  /-- PAGE without a record of an error. -/
  | page
  | perm
  /-- An invalid entry: stage, address that missed, level of the entry (R310). -/
  | refer (stage addr level : Nat)
  deriving DecidableEq, Repr

def tctxS2 (t : BitVec 512) : Bool := t.getLsbD (8 * 41)
def tctxNoReq (t : BitVec 512) (stage : Nat) : Bool := t.getLsbD (8 * 41 + stage)
def tctxEn (t : BitVec 512) : Bool := t.getLsbD (8 * 41 + 3)

/-- A table word must lie in the frames of a stack (R309); `loc` is where the entry that named the table lies. [log 31 DEDUCED] -/
def inFrames (loc a : Nat) : Except WalkErr Nat := if hpaOffered a then .ok a else .error (.malformed loc)

/-- A level-1 entry, or an entry of the sub-page directory: the next table (R301). [log 31 DEDUCED] -/
def walkTable (e loc : Nat) (stage missed level align : Nat) : Except WalkErr Nat :=
  if bits e 0 1 = 0 then .error (.refer stage missed level)
  else if bits e 38 26 ≠ 0 ∨ bits e 1 11 ≠ 0 then .error (.malformed loc)
  else if bits e 12 26 * 4096 % align ≠ 0 then .error (.malformed loc)
  else .ok (bits e 12 26 * 4096)

/-- A walk ends, or yields a value; either way it has read entries, which the agent may cache (R308). -/
abbrev W := EStateM WalkErr (List KeptEntry)

def liftW {α : Type} : Except WalkErr α → W α
  | .ok a => pure a
  | .error e => throw e

/-- What the agent does with its cache at the translation to come: bit `i` of a number. [log 8 DESIGN CHOICE] -/
def State.cacheBit (s : State) (i : Nat) : Bool := (s.keeps.headD 0).testBit i

/-- The entry of a level for a range of addresses: the one at `a`, or the cached one where the agent uses it (R308). [log 8 DESIGN CHOICE] -/
def entryAt (s : State) (q : TrReq) (level range a : Nat) : W Nat := do
  let old := if s.cacheBit level then
      (s.die q.die).kept.find? (fun e => decide (e.fn = q.fn) && decide (e.level = level) && decide (e.range = range))
    else none
  let w := match old with
    | some e => e.word
    | none => read8 s q.die a
  if bits w 0 1 = 1 then modify (fun l => l ++ [{ fn := q.fn, level := level, range := range, word := w }])
  pure w

/-- Stage 2 of GPA `x` (R305, R306). `table` marks the read of a table or of a policy descriptor, which no HOST granule serves
(R307); `loc` is where the entry that named `x` lies. [log 31 DEDUCED] -/
def stage2 (s : State) (q : TrReq) (write table : Bool) (loc x : Nat) : W (Home × Nat) :=
  let t := s.tctx q.die q.fn
  if tctxS2 t = false then pure (.hbm x, loc)
  else do
    let r := tctxField t 16 8 + 8 * bits x 25 13
    let a1 ← liftW (inFrames r r)
    let t0 ← liftW (walkTable (← entryAt s q 5 (x / 2 ^ 25) a1) a1 2 x 2 4096)
    let a0 ← liftW (inFrames a1 (t0 + 8 * bits x 16 9))
    let e ← entryAt s q 6 (x / 2 ^ 16) a0
    let kind := bits e 3 2
    if bits e 0 1 = 0 then throw (.refer 2 x 1)
    else if bits e 6 10 ≠ 0 ∨ 2 ≤ kind ∨ (bits e 2 1 = 1 ∧ bits e 1 1 = 0) ∨ (kind = 0 ∧ bits e 5 1 = 1)
        ∨ (kind = 0 ∧ bits e 38 26 ≠ 0)
        ∨ (kind = 1 ∧ (s.modl (q.die / 8)).records.contains 5 = false) then throw (.malformed a0)
    else if bits e 1 1 = 0 ∨ (write ∧ bits e 2 1 = 0) then throw .perm
    else if kind = 1 then
      if table then throw (.malformed a0) else pure (.host (bits e 5 1) (bits e 16 48 * 65536 + bits x 0 16), a0)
    else pure (.hbm (bits e 16 22 * 65536 + bits x 0 16), a0)

/-- A table address passes through stage 2 and must lie in HBM of the die (R305); `loc` is where the entry that named the table lies. -/
def tableAt (s : State) (q : TrReq) (loc x : Nat) : W Nat := do
  match ← stage2 s q false true loc x with
  | (.hbm a, loc) => liftW (inFrames loc a)
  | (.host _ _, loc) => throw (.malformed loc)

/-- The final address of a PAGE mapping, checked against R309. [log 31 DEDUCED] -/
def finalAt (s : State) (q : TrReq) (logged : Bool) (tag : BitVec 4) (loc x : Nat) : W Leaf := do
  match ← stage2 s q q.write false loc x with
  | (.host port a, _) => if logged then throw .perm else pure { home := .host port a, logged := false, tag := tag, policy := false }
  | (.hbm a, loc) =>
    if hpaOffered a = false then throw (.malformed loc)
    else if hpaReserved s q.die a then throw .perm
    else pure { home := .hbm a, logged := logged, tag := tag, policy := false }

/-- The walk of R306 for offset `a`. A policy page yields the HPA of its descriptor as its home. [log 8 DESIGN CHOICE] -/
def walkM (s : State) (q : TrReq) (a : Nat) : W Leaf :=
  let t := s.tctx q.die q.fn
  if tctxEn t = false ∨ (q.fn = 0 ∧ tctxS2 t) then throw .page
  else do
    let root := (if q.sub then tctxField t 8 8 else tctxField t 0 8) + 8 * bits a 30 8
    let a1 ← tableAt s q root root
    let t1 ← liftW (walkTable (← entryAt s q (if q.sub then 2 else 0) (a / 2 ^ 30) a1) a1 1 a 2 4096)
    let a0 ← tableAt s q a1 (t1 + 8 * bits a 21 9)
    let e ← entryAt s q (if q.sub then 3 else 1) (a / 2 ^ 21) a0
    if q.sub then
      let t0 ← liftW (walkTable e a0 1 a 1 16384)
      let al ← tableAt s q a0 (t0 + 8 * bits a 10 11)
      let e ← entryAt s q 4 (a / 1024) al
      if bits e 0 1 = 0 then throw (.refer 1 a 0)
      else if bits e 38 26 ≠ 0 ∨ bits e 8 2 ≠ 0 ∨ (bits e 2 1 = 1 ∧ bits e 1 1 = 0) then throw (.malformed al)
      else if bits e 1 1 = 0 ∨ (q.write ∧ bits e 2 1 = 0) then throw .perm
      else finalAt s q (bits e 3 1 = 0) (BitVec.ofNat 4 (bits e 4 4)) al (bits e 10 28 * 1024 + bits a 0 10)
    else
      let kind := bits e 3 2
      let logged : Bool := bits e 5 1 = 0
      let tag := BitVec.ofNat 4 (bits e 8 4)
      if bits e 0 1 = 0 then throw (.refer 1 a 1)
      else if bits e 13 8 ≠ 0 ∨ bits e 6 2 ≠ 0 ∨ kind = 3 ∨ (bits e 2 1 = 1 ∧ bits e 1 1 = 0)
          ∨ (kind ≠ 1 ∧ (bits e 38 26 ≠ 0 ∨ bits e 12 1 = 1)) ∨ (kind = 1 ∧ logged)
          ∨ (kind = 1 ∧ tctxS2 t) ∨ (kind = 1 ∧ (s.modl (q.die / 8)).records.contains 5 = false) then
        throw (.malformed a0)
      else if bits e 1 1 = 0 ∨ (q.write ∧ bits e 2 1 = 0) then throw .perm
      else if kind = 1 then
        pure { home := .host (bits e 12 1) (bits e 21 43 * 2 ^ 21 + bits a 0 21), logged := false, tag := tag, policy := false }
      else if kind = 2 then do
        let d ← tableAt s q a0 (bits e 21 17 * 2 ^ 21)
        pure { home := .hbm d, logged := true, tag := tag, policy := true }
      else finalAt s q logged tag a0 (bits e 21 17 * 2 ^ 21 + bits a 0 21)

/-- What the walk yields. [log 8 DESIGN CHOICE] -/
def walk (s : State) (q : TrReq) (a : Nat) : Except WalkErr Leaf :=
  match walkM s q a [] with
  | .ok l _ => .ok l
  | .error e _ => .error e

/-- A walk is over: the agent caches the entries that it read, if it does so, in the place of older ones (R308). [log 8 DESIGN CHOICE] -/
def walked (s : State) (q : TrReq) (a : Nat) : State :=
  match s.keeps with
  | [] => s
  | _ :: rest =>
    let read := match walkM s q a [] with
      | .ok _ l | .error _ l => l
    let same (e x : KeptEntry) : Bool := decide (e.fn = x.fn) && decide (e.level = x.level) && decide (e.range = x.range)
    let put (l : List KeptEntry) (e : KeptEntry) : List KeptEntry := l.filter (fun x => !same e x) ++ [e]
    let s := if s.cacheBit 7 then s.modDie q.die (fun x => { x with kept := read.foldl put x.kept }) else s
    { s with keeps := rest }

/-! ### Policy pages (R374 to R376) -/

/-- A policy group's descriptor on a die: its HPA, or none where the group is absent (R372). -/
def groupDesc (s : State) (d g : Nat) : Option Nat :=
  match Map.get? (s.die d).polgrp g with
  | some p => if p = 0 then none else some p.toNat
  | none => none

/-- `n` bytes at an HPA as a number; an HPA outside the frames of a stack (R309) holds no data, and reads as zero. [log 31 DEDUCED] -/
def readAt (s : State) (d hpa n : Nat) : Nat :=
  if hpaOffered hpa && hpaOffered (hpa + n - 1) then natOfBytes (Memory.readN s.mem (hbmKey d hpa) n) else 0

/-- `n` bytes at an HPA are written by the hardware itself; the tag of the sector stays. A write outside the frames of a
stack (R309) has no effect. [log 31 DEDUCED] -/
def writeAt (s : State) (d hpa n x : Nat) : State :=
  if hpaOffered hpa && hpaOffered (hpa + n - 1) then
    let s := { s with mem := Memory.writeN s.mem (hbmKey d hpa) (bytesOfNat n x) }
    s.modDie d (fun y => { y with dirty := if y.dtctl then insertNat y.dirty (hpa / 65536) else y.dirty })
  else s

/-- LATEST, OLDEST, POOLN and POOL of a group descriptor (R373). -/
def groupLatest (s : State) (d desc : Nat) : Nat := readAt s d (desc + 40) 2
def groupOldest (s : State) (d desc : Nat) : Nat := readAt s d (desc + 42) 2
def groupPooln (s : State) (d desc : Nat) : Nat := readAt s d (desc + 44) 4
def groupPool (s : State) (d desc : Nat) : Nat := readAt s d (desc + 48) 8
def groupLearner (s : State) (d desc : Nat) : Nat := readAt s d desc 1
def groupRollout (s : State) (d desc p : Nat) : Bool := bits (readAt s d (desc + 8 + p / 8) 1) (p % 8) 1 = 1

/-- A version slot of a policy descriptor (R374). -/
def slotWord (s : State) (d pd i : Nat) : Nat := readAt s d (pd + 8 + 8 * i) 8
def slotVer (w : Nat) : Nat := bits w 48 16
def slotFrame (w : Nat) : Nat := bits w 21 17 * 2 ^ 21
def slotRetiring (w : Nat) : Bool := bits w 1 1 = 1
def slotValid (w : Nat) : Bool := bits w 0 1 = 1

/-- The slot of a policy descriptor that holds version `v`. -/
def slotOf (s : State) (d pd v : Nat) : Option Nat :=
  (List.range 4).find? (fun i => slotValid (slotWord s d pd i) && decide (slotVer (slotWord s d pd i) = v))

/-- Whether a policy descriptor is well formed: no reserved bit, a group that is configured, LATEST in a slot (R374). -/
def policyOk (s : State) (d pd : Nat) : Bool :=
  match groupDesc s d (readAt s d (pd + 40) 1) with
  | none => false
  | some g =>
    decide (readAt s d (pd + 41) 23 = 0) && (slotOf s d pd (groupLatest s d g)).isSome
      && (let w := readAt s d pd 8
          decide (bits w 0 21 = 0 ∧ bits w 38 26 = 0))
      && (List.range 4).all (fun i =>
        let w := slotWord s d pd i
        decide (bits w 2 19 = 0 ∧ bits w 38 10 = 0) && (!slotValid w || decide (slotVer w ≠ 0)))

/-- A frame of 2 MiB is copied within a die, with its tags and keys (R376). [log 14 DEDUCED] -/
def copyFrame (s : State) (d src dst : Nat) : State :=
  let inFrame (f a : Nat) : Bool := decide (hbmKey d f ≤ a ∧ a < hbmKey d f + 2 ^ 21)
  let cells := s.mem.filter (fun c => inFrame src c.1)
  let kept := s.mem.filter (fun c => !inFrame dst c.1)
  let s := { s with mem := cells.foldl (fun (m : Memory) (c : Nat × Byte) => Memory.write m (c.1 - hbmKey d src + hbmKey d dst) c.2) kept }
  let secIn (f c : Nat) : Bool := decide (f / 32 ≤ c ∧ c < f / 32 + 65536)
  let move {α : Type} (m : Map α) : Map α :=
    (m.filter (fun e => secIn src e.1)).foldl (fun n e => Map.set n (e.1 - src / 32 + dst / 32) e.2)
      (m.filter (fun e => !secIn dst e.1))
  s.modDie d (fun x => { x with
    tags := move x.tags, sectorKeys := move x.sectorKeys, syndromes := move x.syndromes
    dirty := if x.dtctl then (List.range 32).foldl (fun l i => insertNat l (dst / 65536 + i)) x.dirty else x.dirty })

/-- The frame that an access to a policy page reaches (R375, R376): the state after a draft has been made, and the frame. [log 14 DEDUCED] -/
def policyFrame (s : State) (q : TrReq) (pd : Nat) : Except WalkErr (State × Nat) :=
  if policyOk s q.die pd = false then .error (.malformed pd)
  else
    let g := readAt s q.die (pd + 40) 1
    match groupDesc s q.die g with
    | none => .error (.malformed pd)
    | some gd =>
      let frameOf (v : Nat) : Except WalkErr (State × Nat) := match slotOf s q.die pd v with
        | some i => .ok (s, slotFrame (slotWord s q.die pd i))
        | none => .error (.malformed pd)
      let draft := bits (readAt s q.die pd 8) 21 17 * 2 ^ 21
      if q.host then if q.write then .error .perm else frameOf (groupLatest s q.die gd)
      else match q.pol with
        | none => .error .perm
        | some (group, part, version) =>
          if group ≠ g then .error .perm
          else if part % 256 = groupLearner s q.die gd then
            if draft ≠ 0 then .ok (s, draft)
            else if q.write then
              let n := groupPooln s q.die gd
              if n = 0 then .error (.draft pd)
              else do
                let (_, src) ← frameOf (groupLatest s q.die gd)
                let dst := bits (readAt s q.die (groupPool s q.die gd + 8 * (n - 1)) 8) 21 17 * 2 ^ 21
                let s := writeAt s q.die (gd + 44) 4 (n - 1)
                let s := copyFrame s q.die src dst
                .ok (writeAt s q.die pd 8 dst, dst)
            else frameOf (groupLatest s q.die gd)
          else if q.write then .error .perm
          else frameOf version

/-! ### Page requests (R310 to R312) -/

/-- What coalesces later misses: the page of 2 MiB, the sub-page of 1 KiB, or the granule of 64 KiB. -/
def granuleOf (stage : Nat) (sub : Bool) (addr : Nat) : Nat :=
  if stage = 2 then addr / 65536 else if sub then addr / 1024 else addr / 2 ^ 21

/-- The ring descriptor of a stage, and whether it is well formed (R310). -/
def ringDescAt (s : State) (d fn stage : Nat) : Nat := tctxField (s.tctx d fn) (if stage = 1 then 24 else 32) 8
def isPow2 (n : Nat) : Bool := decide (n ≠ 0) && decide (2 ^ Nat.log2 n = n)
def ringDescOk (s : State) (d r : Nat) : Bool :=
  let size := readAt s d (r + 8) 4
  let span := (readAt s d (r + 24) 8 + 2 ^ 64 - readAt s d (r + 16) 8) % 2 ^ 64
  hpaOffered r && hpaOffered (r + 63) && hpaOffered (readAt s d r 8) && hpaOffered (readAt s d r 8 + 32 * size - 1)
    && decide (readAt s d r 8 % 64 = 0) && isPow2 size && decide (16 ≤ size ∧ size ≤ 65536)
    && decide (readAt s d (r + 12) 4 = 0) && decide (readAt s d (r + 32) 32 = 0) && decide (span ≤ size)

/-- A tag of a function and stage that no record holds, and that is not the one under which a miss of the same granule was answered last, so that a
walk that misses again has a new tag; which one is the free value `n` (R311, R312). [log 13 DESIGN CHOICE] -/
def freeTag (x : Die) (fn stage granule : Nat) (sub : Bool) (n : Nat) : Option Nat :=
  let mine (r : PageReq) : Bool := decide (r.fn = fn) && decide (r.stage = stage)
  let last := x.answered.filter (fun r => mine r && decide (r.granule = granule) && r.sub == sub)
  let used := ((x.reqs.filter mine ++ last).map (fun r => r.tag)).foldl insertNat []
  if 4096 ≤ used.length then none else some (nthFree used (pickOf n (4096 - used.length)))

/-- The 32 bytes of a request record, but for its tag (R310). -/
def requestRecord (q : TrReq) (stage addr level va : Nat) : List Byte :=
  let flags := (if q.write then 1 else 0) + (if q.fetch then 2 else 0) + (if q.sub then 4 else 0) + 8 * level
    + (if q.host then 32 + 64 * q.port else 0)
  bytesOfNat 8 addr ++ bytesOfNat 2 0 ++ bytesOfNat 1 flags ++ bytesOfNat 1 stage ++ bytesOfNat 1 q.fn ++ bytesOfNat 3 0
    ++ bytesOfNat 8 va ++ bytesOfNat 4 (if q.host then 0 else q.ssn.toNat)
    ++ bytesOfNat 2 (if q.host then 0xFFFF else q.tileId) ++ bytesOfNat 2 (if q.host then 0xFFFF else q.dieId)

/-- A record is appended to the ring at HPA `r`, which has room, with tag `tag`: the record, then TAIL (R310). -/
def appendRequest (s : State) (d r tag : Nat) (bytes : List Byte) : State :=
  let tail := readAt s d (r + 24) 8
  let loc := readAt s d r 8 + 32 * (tail % readAt s d (r + 8) 4)
  let s := writeAt s d loc 32 (natOfBytes (bytes.take 8) + tag * 2 ^ 64 + natOfBytes (bytes.drop 10) * 2 ^ 80)
  writeAt s d (r + 24) 8 ((tail + 1) % 2 ^ 64)

/-- Whether a ring has a free slot. -/
def ringHasRoom (s : State) (d r : Nat) : Bool :=
  decide ((readAt s d (r + 24) 8 + 2 ^ 64 - readAt s d (r + 16) 8) % 2 ^ 64 < readAt s d (r + 8) 4)

/-- A miss becomes a record, joins one that is outstanding, or is held (R312). It yields the tag, or the number of a held
miss, on which the access waits. -/
def referMiss (s : State) (q : TrReq) (stage addr level va : Nat) : Option (State × Nat) :=
  let x := s.die q.die
  let gr := granuleOf stage q.sub addr
  let sub := q.sub && decide (stage = 1)
  match x.reqs.find? (fun r => decide (r.fn = q.fn) && decide (r.stage = stage) && decide (r.granule = gr) && r.sub == sub) with
  | some r => some (s, r.tag)
  | none =>
    match x.heldMisses.find? (fun h => decide (h.fn = q.fn) && decide (h.stage = stage) && decide (h.granule = gr) && h.sub == sub) with
    | some h => some (s, h.id)
    | none =>
      let r := ringDescAt s q.die q.fn stage
      if ringDescOk s q.die r = false then none
      else
        let bytes := requestRecord q stage addr level va
        match (if ringHasRoom s q.die r then freeTag x q.fn stage gr sub s.free else none) with
        | some tag =>
          let s := { appendRequest s q.die r tag bytes with free := s.free + 1 }
          some (s.modDie q.die (fun x => { x with
            reqs := x.reqs ++ [{ fn := q.fn, stage := stage, tag := tag, granule := gr, sub := sub }] }), tag)
        | none =>
          let h : HeldMiss := { id := x.nextHeld, fn := q.fn, stage := stage, granule := gr, sub := sub, bytes := bytes }
          some ((s.setDie q.die { x with heldMisses := x.heldMisses ++ [h], nextHeld := x.nextHeld + 1 }).post
            (.requestAppendResume q.die), x.nextHeld)

/-- Whether a drop that a write to translation context `fn` made is not complete (R300). Such a drop is kept as a TINV of SCOPE 1 and STAGE 3
with bit 63 set, which no TINV of the host has. [log 1 DESIGN CHOICE] -/
def Die.dropping (x : Die) (fn : Nat) : Bool := x.tinv.any (fun w => w.getLsbD 63 && decide (bits w.toNat 8 5 = fn))

/-- The outcome of a translation. -/
inductive TrErr where
  | page
  | perm
  | refer (stage tag : Nat)
  /-- A drop that a write to the translation context made is not complete: no translation begins (R300). -/
  | busy
  deriving DecidableEq, Repr

/-- Offset `a` of the HBM window of a die is translated, or the miss is referred (R306, R307, R310, R375). [log 8 DESIGN CHOICE] -/
def translate (s : State) (q : TrReq) (a : Nat) : State × Except TrErr Leaf :=
  let fail (e : WalkErr) (s : State) : State × Except TrErr Leaf := match e with
    | .malformed loc => (recordMerr s (q.die / 8) 0 4 loc, .error .page)
    | .draft loc => (recordMerr s (q.die / 8) 0 7 loc, .error .page)
    | .page => (s, .error .page)
    | .perm => (s, .error .perm)
    | .refer stage addr level =>
      if tctxNoReq (s.tctx q.die q.fn) stage then (s, .error .page)
      else match referMiss s q stage addr level a with
        | some (s, tag) => (s, .error (.refer stage tag))
        | none => (recordMerr s (q.die / 8) 0 4 (ringDescAt s q.die q.fn stage), .error .page)
  if (s.die q.die).dropping q.fn then (s, .error .busy)
  else match walk s q a with
  | .error e => fail e (walked s q a)
  | .ok l =>
    let s := walked s q a
    if l.policy then match l.home with
      | .hbm pd => match policyFrame s q pd with
        | .ok (s, f) =>
          if hpaOffered f = false then fail (.malformed pd) s
          else if hpaReserved s q.die f then (s, .error .perm)
          else (s, .ok { l with home := .hbm (f + a % 2 ^ 21) })
        | .error e => fail e s
      | .host _ _ => (s, .error .page)
    else (s, .ok l)

/-! ### One access (R166) -/

/-- An access: its base pointer, formed pointer, whether the offset left the die (R165), size, alignment, kind, and whether
it is contiguous. -/
structure Acc where
  base : Word
  p : Word
  ovf : Bool
  size : Nat
  align : Nat
  kind : AccKind
  contig : Bool
  /-- The declared element type, where the data is interpreted (R48). -/
  declared : Option Nat := none
  elem : Nat := 0
  /-- The whole instruction runs again when an answer comes. -/
  solo : Bool := true
  /-- A completed walk is all that is wanted: nothing waits on this access's data. -/
  data : Word := 0
  deriving DecidableEq, Repr

/-- The pointer of `base` moved by `n` bytes, and whether the offset leaves 0 to 2^40 − 1 (R165). -/
def formPtr (base : Word) (n : Int) : Word × Bool :=
  let o : Int := ptrOff base + n
  if 0 ≤ o ∧ o < 2 ^ 40 then (ptrWithOff base o.toNat, false) else (base, true)

/-- Whether FMT and BLK are unreserved (R45, R46). -/
def fmtOk (p : Word) : Bool :=
  decide (ptrFmt p ≤ 0x0A) && (if ptrFmt p = 8 then decide (ptrBlk p = 4) else decide (ptrBlk p = 0))

/-- The checks of R48. -/
def checkFmt (p : Word) (declared : Option Nat) : A Unit :=
  if fmtOk p = false then trapA .illfmt p
  else match declared with
    | some f => if ptrFmt p ≠ 0 ∧ ptrFmt p ≠ f then trapA .illfmt p else pure ()
    | none => pure ()

/-- The checks of the pointer's form (R166, first four). Where the offset leaves the die no `p` is formed, and `p` is the base. [log 72 DESIGN CHOICE] -/
def checkForm (a : Acc) : A Unit := do
  checkFmt a.p a.declared
  if a.ovf then trapA .ptrovf a.base
  if a.contig ∧ 2 ^ 40 < ptrOff a.p + a.size then trapA .straddle a.p
  if ptrOff a.p % a.align ≠ 0 then trapA .misalign a.p

/-- A part of an access that lies in one place. -/
inductive Piece where
  | tile (k : Nat) (vault : Bool) (off n : Nat)
  | hbm (die hpa n : Nat) (leaf : Leaf)
  | host (port addr n : Nat)
  /-- Bytes of a shard, read already (R426). -/
  | shard (bytes : List Byte)
  deriving DecidableEq, Repr

/-- The pieces of `n` bytes from offset `o` of the HBM window, cut at 1 KiB; fuel covers the pieces. -/
def cutHbm : Nat → Nat → Nat → List (Nat × Nat)
  | 0, _, _ => []
  | f + 1, o, n => if n = 0 then [] else
    let m := min n (1024 - o % 1024)
    (o, m) :: cutHbm f (o + m) (n - m)

/-- The booking that runs in the requester, if it is a booked helper. What an engine may touch for it is checked when the
operation issues (R342). -/
def bookingOf (s : State) (r : Requester) : Option (Nat × Booking) :=
  if r.engine then none
  else match (s.ctx r.tile r.ctx).handle with
    | some h => (((s.tile r.tile).csr.books)[h]?).map (fun b => (h, b))
    | none => none

/-- OVERRUN with its resource number and subcause (R34). [log 27 DEDUCED] -/
def overrunVal (resource handle sub : Nat) : Word := BitVec.ofNat 64 (resource * 256 + handle % 16 * 16 + sub)

/-- A booked helper needs resource `n` of its mask, or takes OVERRUN subcause 1 (R342). [log 27 DEDUCED] -/
def needResource (r : Requester) (n : Nat) : A Unit := do
  match bookingOf (← getA) r with
  | some (h, b) => if b.mask.getLsbD n then pure () else trapA .overrun (overrunVal n h 1)
  | none => pure ()

/-- A booked helper's data access to HBM takes OVERRUN subcause 3 (R342). -/
def noHbm (r : Requester) : A Unit := do
  match bookingOf (← getA) r with
  | some (h, _) => trapA .overrun (overrunVal 0xFF h 3)
  | none => pure ()

/-- Whether bytes of tile `t` overlap a staged range that is not PRESENT (R290). -/
def stagedPending (s : State) (t : Nat) (vault : Bool) (off n : Nat) : Bool :=
  (s.tile t).step.staged.any (fun e =>
    decide (e.st ≠ 1) && decide ((e.id / 64 + 1) % 2 ^ 32 = (s.tile t).step.ssn.toNat) && (match spotFor s (tileDie (s.idKey t)) t (ptrOff e.dst) with
      | .spad k o => decide (k = t) && !vault && decide (o < off + n) && decide (off < o + e.len)
      | .vault k o => decide (k = t) && vault && decide (o < off + n) && decide (off < o + e.len)
      | _ => false))

/-- Whether bytes of the scratchpad of tile `t` belong to a ring slot that the waiting instruction of a context other than `who` has read (R162). -/
def slotTaken (s : State) (t off n : Nat) (who : Option Nat) : Bool :=
  (List.range 11).any (fun c => decide (some c ≠ who)
    && (s.ctx t c).slotsRead.any (fun o => decide (o < off + n) && decide (off < o + 64)))

/-- The checks of tile memory: R168 and R298, then what a booked helper may touch (R342), staged ranges (R290) and ring slots that have been
read (R162). -/
def checkTile (r : Requester) (a : Acc) (t : Nat) (vault : Bool) (off : Nat) : A Unit := do
  let s ← getA
  let job := ((s.tile r.tile).work).map (fun u => u.job)
  if t ≠ r.tile ∧ (match job with | some j => s.tileInJob t j | none => false) = false then throw (.contain .perm a.p)
  if (List.range a.size).all (fun i => regionAllows s r.tile t (regionOf s t vault (off + i)) a.kind) = false then
    trapA .perm a.p
  if a.kind = .fe ∧ vault then trapA .perm a.p
  if a.kind ≠ .fetch ∧ t = r.tile then
    if vault then needResource r 5
    else eachA ((List.range (((off + a.size - 1) / 64 - off / 64) + 1)).map (fun i => 8 + (off / 64 + i) % 16)) (needResource r)
  if t = r.tile ∧ stagedPending s t vault off a.size then
    match bookingOf s r with
    | some (h, _) => trapA .overrun (overrunVal 0xFF h 3)
    | none => throw .stall
  if !vault && slotTaken s t off a.size (if t = r.tile ∧ r.engine = false then some r.ctx else none) then throw .stall

/-- Whether an offset is a sub-page request under a SUBREG (R303). -/
def subRequest (reg : Word) (off : Nat) : Bool :=
  let r := reg.toNat
  decide (bits r 0 1 = 1) && decide (bits r 10 30 * 1024 ≤ off) && decide (off < (bits r 10 30 + bits r 40 24) * 1024)

/-- The translation request of an access by a tile. -/
def trReqOf (s : State) (r : Requester) (d off : Nat) (kind : AccKind) : TrReq :=
  { die := d, fn := match (s.tile r.tile).work with | some u => u.fn | none => 0
    sub := subRequest (r.subreg.getD (s.tile r.tile).csr.subreg) off, write := kind.writes, fetch := decide (kind = .fetch), host := false, port := 0
    ssn := (s.tile r.tile).step.ssn, tileId := tileId (s.idKey r.tile), dieId := s.dieId r.tile
    pol := ((s.tile r.tile).work).map (fun u => (u.policy, u.part, (s.tile r.tile).csr.pvCur.toNat)) }

/-- An access referred at another die is parked in that die's fault queue (R367). -/
def parkAccess (s : State) (r : Requester) (engine : Option Nat) (d : Nat) (q : TrReq) (stage tag : Nat) (p : Word) :
    State × Option Nat :=
  if d = tileDie r.tile then (s, none)
  else
    let x := s.die d
    let e : Parked := { id := x.nextParked, tile := r.tile, ctx := r.ctx, engine := engine, fn := q.fn, stage := stage
                        tag := tag, addr := p, noticed := false, silent := 0, begun := false }
    (s.setDie d { x with parked := x.parked ++ [e], nextParked := x.nextParked + 1 }, some x.nextParked)

/-- Whether a tile may have one more access that waits at another die (R398). -/
def parkRoom (s : State) (k d : Nat) : Bool :=
  decide (d = tileDie k) || decide ((s.dies.map (fun e => (e.2.parked.filter (fun p => decide (p.tile = k) && p.left.isNone)).length)).sum < Config.remoteRequests)

/-- An access waits for the answer to a miss that die `d` has referred, `s` being the state in which it has; a booked helper does not wait (R167, R342). -/
def waitFor {α : Type} (r : Requester) (a : Acc) (d : Nat) (q : TrReq) (stage tag : Nat) (s : State) : A α := do
  match bookingOf (← getA) r with
  | some (h, _) => trapA .overrun (overrunVal 0xFF h 3)
  | none =>
    if parkRoom (← getA) r.tile d = false then throw .stall
    let (s, parked) := parkAccess s r none d q stage tag a.p
    set s
    throw (.refer { elem := a.elem, die := d, fn := q.fn, stage := stage, tag := tag, addr := a.p
                    write := decide (a.kind = .store), size := a.size, data := a.data, parked := parked, solo := a.solo })

/-- Whether the service has refused an address of a context (R311). -/
def wasRefused (s : State) (r : Requester) (p : Word) : Bool := !r.engine && (s.ctx r.tile r.ctx).refused.contains p

/-- Pieces of the HBM window are translated in order; a refusal is a trap, a miss a wait (R167, R306). -/
def resolveHbm (r : Requester) (a : Acc) (d : Nat) : A (List Piece) := do
  if a.kind ≠ .fetch then noHbm r
  if wasRefused (← getA) r a.p then trapA .page a.p
  let off := ptrOff a.p
  let one (e : Nat × Nat) : A Piece := do
    let s ← getA
    let q := trReqOf s r d e.1 a.kind
    let (s', x) := translate s q e.1
    match x with
    | .ok l =>
      set s'
      match l.home with
      | .hbm hpa => pure (.hbm d hpa e.2 l)
      | .host port addr => pure (.host port addr e.2)
    | .error .page => do set s'; trapA .page a.p
    | .error .perm => do set s'; trapA .perm a.p
    | .error .busy => throw .stall
    | .error (.refer stage tag) => waitFor r a d q stage tag s'
  (cutHbm (a.size / 1024 + 2) off a.size).mapM one

/-- The sectors of `n` bytes that an access reads: a write of whole sectors reads none (R316). -/
def sectorsRead (kind : AccKind) (hpa n : Nat) : List Nat :=
  (sectorsOf hpa n).filter (fun c => decide (kind ≠ .store) || !decide (hpa ≤ c * 32 ∧ c * 32 + 32 ≤ hpa + n))

/-- What reads of sectors leave in the error log and the counter (R317). -/
def recordErrors (s : State) (d : Nat) (secs : List Nat) (tag : BitVec 4) : State :=
  let x := s.die d
  let recs := secs.filterMap (fun c => match Map.get? x.syndromes c with
    | some .uncorrectable => some (ErrorRec.uncorrectable c)
    | some (.misdirected a) => some (.misdirected c a)
    | some .correctable | none => if x.tagOf c = tag then none else some (.tag c))
  let good := secs.filter (fun c => decide (Map.get? x.syndromes c = some .correctable))
  if recs = [] ∧ good = [] then s
  else s.setDie d { x with errors := x.errors ++ recs, corrected := x.corrected + good.length }

/-- A write to sealed memory (R166, R185). -/
def checkSeal (s : State) (a : Acc) (d first last : Nat) : A Unit :=
  if a.kind.writes ∧ ((s.die d).seals.contains first ∨ (s.die d).seals.contains last) then trapA .sealed a.p else pure ()

/-- The number of a host-backed granule among the sealed ones. -/
def hostGranule (port addr : Nat) : Nat := 2 ^ 80 + (port * 2 ^ 64 + addr) / 65536

/-- Whether no data is read for a piece (R317). -/
def Piece.broken (s : State) (kind : AccKind) : Piece → Bool
  | .hbm d hpa n _ => (sectorsRead kind hpa n).any (fun c => unreadable (Map.get? (s.die d).syndromes c))
  | .tile _ _ _ _ | .host _ _ _ | .shard _ => false

/-- Whether a piece is read under another tag than the stored one (R316). -/
def Piece.mistagged (s : State) (kind : AccKind) : Piece → Bool
  | .hbm d hpa n leaf => (sectorsRead kind hpa n).any (fun c => (s.die d).tagOf c != leaf.tag)
  | .tile _ _ _ _ | .host _ _ _ | .shard _ => false

/-- Pieces that have been translated: first seals, over all of them, then what the sectors that are read give, the most severe first
(R166, R185, R316, R317). -/
def checkPieces (r : Requester) (a : Acc) (d : Nat) (ps : List Piece) : A Unit := do
  let s ← getA
  eachA ps (fun p => match p with
    | .hbm die hpa n _ => checkSeal s a die (hpa / 65536) ((hpa + n - 1) / 65536)
    | .host port addr n => checkSeal s a d (hostGranule port addr) (hostGranule port (addr + n - 1))
    | .tile _ _ _ _ | .shard _ => pure ())
  modA (fun s => ps.foldl (fun s p => match p with
    | .hbm die hpa n leaf => recordErrors s die (sectorsRead a.kind hpa n) leaf.tag
    | .tile _ _ _ _ | .host _ _ _ | .shard _ => s) s)
  if ps.any (fun p => p.broken s a.kind) then
    modA (fun s => raiseForced s r.tile 0x20 1)
    throw .never
  if ps.any (fun p => p.mistagged s a.kind) then throw (.contain .tagmm a.p)

/-- The shard that serves an ADOPTED index for tile `k`, and the die that the index named when it was taken (R425, R426). [log 47 DEDUCED] -/
def shardOf (s : State) (k : Nat) (p : Word) : Option (Save × Nat) := do
  let u ← (s.tile k).work
  let j := s.job u.job
  let e ← if ptrDie p = 0xFFFF then none else j.entry? (ptrDie p)
  if entryAdopted e then
    let key ← (Map.get? j.adopted (ptrDie p / 8)).join
    let x ← Map.get? s.saves key
    let d ← (x.job.entry? (ptrDie p)).bind entryDie
    pure (x, d)
  else none

/-- An access to an ADOPTED index: reads of its HBM window return the shard's bytes, which lie where the lost die's tables had them, with policy pages as
LATEST; a write is PERM, a tile window NOMEM. A miss is referred by the die that serves the index (R310, R426). [log 47 DEDUCED] -/
def resolveShard (r : Requester) (a : Acc) (x : Save) (d : Nat) : A (List Piece) := do
  let s ← getA
  let old : State := { s with mem := x.mem, dies := x.dies, keeps := [] }
  let serving := match (s.tile r.tile).work with
    | some u => (((s.job u.job).entry? (ptrDie a.p)).bind entryDie).getD d
    | none => d
  match spotOf d r.tile (ptrOff a.p) with
  | .hbm off =>
    if a.kind.writes then trapA .perm a.p
    if a.kind ≠ .fetch then noHbm r
    if wasRefused s r a.p then trapA .page a.p
    let one (e : Nat × Nat) : A Piece := do
      let q := { trReqOf s r d e.1 a.kind with host := true }
      match (translate old q e.1).2, walk old q e.1 with
      | .ok l, _ => match l.home with
        | .hbm hpa => pure (.shard (Memory.readN x.mem (hbmKey d hpa) e.2))
        | .host port addr => pure (.host port addr e.2)
      | .error .perm, _ => trapA .perm a.p
      | .error (.refer _ _), .error (.refer stage addr level) => do
        let q := { trReqOf s r d e.1 a.kind with die := serving }
        let s ← getA
        if tctxNoReq (s.tctx serving q.fn) stage then trapA .page a.p
        match referMiss s q stage addr level e.1 with
        | some (s', tag) => waitFor r a serving q stage tag s'
        | none => do
          set (recordMerr s (serving / 8) 0 4 (ringDescAt s serving q.fn stage))
          trapA .page a.p
      | .error _, _ => trapA .page a.p
    (cutHbm (a.size / 1024 + 2) off a.size).mapM one
  | .control _ => trapA .perm a.p
  | _ => trapA .nomem a.p

/-- An access to another die takes the route to it, and its response that back. Where a link on the way is down and no detour replaces it, the packet is held
there, and the affected partitions vote abort (R352, R356). An access whose response would be held is not performed either. [log 79 DESIGN CHOICE] -/
def takeRoute (r : Requester) (d : Nat) : A Unit := do
  let s ← getA
  let j := match (s.tile r.tile).work with
    | some u => u.job
    | none => 0
  match (closedHop s j d routeHops (tileDie r.tile)).orElse (fun _ => closedHop s j (tileDie r.tile) routeHops d) with
  | none => pure ()
  | some (sw, port) =>
    modA (fun s => reportHeld s sw (linkNo s j sw port))
    throw .stall

/-- The checks of R166 in order, up to the access itself. -/
def resolve (r : Requester) (a : Acc) : A (List Piece) := do
  checkForm a
  let s ← getA
  match shardOf s r.tile a.p, resolveDie s r.tile a.p with
  | some (x, d), _ => resolveShard r a x d
  | none, none => trapA .nomem a.p
  | none, some d =>
    let off := ptrOff a.p
    match (List.range a.size).find? (fun i => decide (spotFor s d r.tile (off + i) = .nowhere)) with
    | some i => trapA .nomem (ptrWithOff a.p (off + i))
    | none =>
      let there : A Unit := if d = tileDie r.tile then pure () else takeRoute r d
      match spotFor s d r.tile off with
      | .nowhere => trapA .nomem a.p
      | .control _ => trapA .perm a.p
      | .spad t o => do
        there
        checkTile r a t false o
        pure [.tile t false o a.size]
      | .vault t o => do
        there
        checkTile r a t true o
        pure [.tile t true o a.size]
      | .hbm _ => do
        there
        if a.kind = .fe then trapA .perm a.p
        let ps ← resolveHbm r a d
        checkPieces r a d ps
        pure ps

/-- The key of the requester's function on a die (R318). -/
def keyOf (s : State) (r : Requester) (die : Nat) : Nat :=
  tctxField (s.tctx die (match (s.tile r.tile).work with | some u => u.fn | none => 0)) 40 1

/-- The bytes of a piece. -/
def readPiece (r : Requester) : Piece → A (List Byte)
  | .tile t vault off n => do
    let s ← getA
    pure ((List.range n).map (fun i => tileByte s r.tile t vault (off + i)))
  | .hbm die hpa n _ => do readHbm die hpa n (keyOf (← getA) r die)
  | .host port addr n => do pure (Memory.readN (← getA).hostMem (port * 2 ^ 64 + addr) n)
  | .shard bs => pure bs

/-- Bytes are written to a piece; logged HBM is recorded first (R168, R274). -/
def writePiece (r : Requester) (p : Piece) (bs : List Byte) : A Unit :=
  match p with
  | .tile t vault off _ => writeTile r.tile t vault off bs
  | .hbm die hpa n leaf => modA (fun s =>
    let lines := (List.range ((hpa + n - 1) / 64 - hpa / 64 + 1)).map (fun i => hpa / 64 + i)
    let s := match (s.tile r.tile).work with
      | some u => if leaf.logged then
          lines.foldl (fun s l => logLine s die u (s.tile r.tile).step.ssn l) s else s
      | none => s
    writeHbm s die hpa leaf.tag (keyOf s r die) bs)
  | .host port addr _ => modA (fun s => { s with hostMem := Memory.writeN s.hostMem (port * 2 ^ 64 + addr) bs })
  | .shard _ => pure ()

def Piece.size : Piece → Nat
  | .tile _ _ _ n => n
  | .hbm _ _ n _ => n
  | .host _ _ n => n
  | .shard bs => bs.length

/-- The pieces of an access are read in order. -/
def readPieces (r : Requester) : List Piece → A (List Byte)
  | [] => pure []
  | p :: l => do
    let a ← readPiece r p
    let b ← readPieces r l
    pure (a ++ b)

/-- The pieces of an access are written in order. -/
def writePieces (r : Requester) : List Piece → List Byte → A Unit
  | [], _ => pure ()
  | p :: l, bs => do
    writePiece r p (bs.take p.size)
    writePieces r l (bs.drop p.size)

/-- An access that reads, at its target. -/
def readRaw (r : Requester) (a : Acc) : A (List Byte) := do readPieces r (← resolve r a)

/-- An access that writes, at its target. -/
def writeRaw (r : Requester) (a : Acc) (bs : List Byte) : A Unit := do writePieces r (← resolve r a) bs

/-! ### Pairs (R416, R417) -/

/-- The number of a sender at the comparator. -/
def Requester.sender (r : Requester) : Nat := if r.unit = 0 then r.ctx else r.unit

/-- Whether an access leaves the requester's tile as a packet: one to own tile memory never does (R417). -/
def leavesTile (s : State) (r : Requester) (a : Acc) : Bool :=
  match resolveDie s r.tile a.p with
  | none => false
  | some d => match spotFor s d r.tile (ptrOff a.p) with
    | .spad t _ | .vault t _ => decide (t ≠ r.tile)
    | .hbm _ => true
    | .control _ | .nowhere => false

/-- What a twin takes as the outcome of its packet. -/
def TwinAnswer.reply (a : TwinAnswer) : A (List Byte) :=
  match a.cause with
  | none => pure a.bytes
  | some (c, v, true) => throw (.contain c v)
  | some (c, v, false) => trapA c v

/-- The primary's packet has been performed: its outcome is kept for the instruction under way, and returned to the partner
under the number of the partner's sender (R417). -/
def closePacket (k : Nat) (a : TwinAnswer) (s : State) : State :=
  match (s.tile k).twin with
  | none => s
  | some w => match w.permits.find? (fun e => decide (e.1 = a.key)) with
    | none => s
    | some e =>
      let s := modTwin s k (fun w => { w with
        permits := w.permits.erase e, pos := w.pos + 1, log := Map.set w.log a.key (Map.getD w.log a.key [] ++ [a]) })
      modTwin s w.partner (fun x => { x with permits := x.permits.erase (e.2, e.1), answers := x.answers ++ [{ a with key := e.2 }] })

/-- An access that the primary performs for both: the partner takes its outcome, unless it waits. -/
def forBoth (k key : Nat) (perform : A (List Byte)) : A (List Byte) := fun s =>
  match perform s with
  | .ok bs s => .ok bs (closePacket k { key := key, bytes := bs, cause := none } s)
  | .error (.trap c v) s => .error (.trap c v) (closePacket k { key := key, bytes := [], cause := some (c, v, false) } s)
  | .error (.contain c v) s => .error (.contain c v) (closePacket k { key := key, bytes := [], cause := some (c, v, true) } s)
  | .error e s => .error e s

/-- A packet of a twin: the copies meet at the comparator, the primary's is performed, and both take the outcome. An
instruction that must run again finds the outcomes of the packets that it has sent (R417). [log 35 DEDUCED] -/
def paired (r : Requester) (pkt : List Byte) (perform : A (List Byte)) : A (List Byte) := do
  let s ← getA
  let key := r.sender
  match (s.tile r.tile).twin with
  | none => perform
  | some w =>
    match (Map.getD w.log key [])[w.pos]? with
    | some a => do
      modA (fun s => modTwin s r.tile (fun w => { w with pos := w.pos + 1 }))
      a.reply
    | none => match w.answers.find? (fun a => decide (a.key = key)) with
      | some a => do
        modA (fun s => modTwin s r.tile (fun w => { w with
          answers := w.answers.erase a, pos := w.pos + 1, log := Map.set w.log key (Map.getD w.log key [] ++ [a]) }))
        a.reply
      | none =>
        let allowed := w.permits.any (fun e => decide (e.1 = key))
        if w.primary && allowed then forBoth r.tile key perform
        else do
          if !allowed && !w.sent.any (fun e => decide (e.1 = key)) then modA (fun s => sendTwin s r.tile key pkt)
          throw .stall

/-- A word or nothing as the bytes of an answer. -/
def wordBytes : Option Word → List Byte
  | some v => bytesOfNat 8 v.toNat
  | none => []

/-- A packet of a twin whose answer is a word or nothing (R180, R194, R417). -/
def pairedWord (r : Requester) (pkt : List Byte) (perform : A (Option Word)) : A (Option Word) := do
  if ((← getA).tile r.tile).twin.isNone then perform
  else
    let bs ← paired r pkt (do return wordBytes (← perform))
    pure (if bs.isEmpty then none else some (BitVec.ofNat 64 (natOfBytes bs)))

/-- The bytes of an access's packet, with the data that it carries. -/
def Acc.packet (a : Acc) (data : List Byte) : List Byte :=
  let kind : Nat := match a.kind with
    | .fetch => 0 | .load => 1 | .store => 2 | .amo => 3 | .fe => 4
  bytesOfNat 8 a.p.toNat ++ bytesOfNat 1 kind ++ bytesOfNat 8 a.size ++ data

/-- An access of a twin whose packet is compared, with the data that it carries; any other is performed at once. [log 35 DEDUCED] -/
def compared (r : Requester) (a : Acc) (data : List Byte) (perform : A (List Byte)) : A (List Byte) := do
  let s ← getA
  if (s.tile r.tile).twin.isSome && leavesTile s r a then
    checkForm a
    paired r (a.packet data) perform
  else perform

/-- An instruction or an engine's step begins: it takes the outcomes of its packets from the first on. -/
def rewindTwin (s : State) (k : Nat) : State := modTwin s k (fun w => { w with pos := 0 })

/-- It has ended: its outcomes are forgotten. -/
def forgetTwin (s : State) (k key : Nat) : State := modTwin s k (fun w => { w with log := Map.erase w.log key })

/-- An instruction of context `c` has ended, with its fetch and its elements. -/
def forgetInstr (s : State) (k c : Nat) : State := modTwin s k (fun w => { w with log := w.log.filter (fun e => !ownsKey c e.1) })

/-- The primary's packet ends with a cause at its target: the partner takes the same (R311, R368, R417). -/
def refuseTwin (s : State) (k key : Nat) (c : Cause) (v : Word) : State :=
  match (s.tile k).twin with
  | some w => if w.primary && w.permits.any (fun e => decide (e.1 = key)) then
      forgetTwin (closePacket k { key := key, bytes := [], cause := some (c, v, false) } s) k key else s
  | none => s

/-- Whether an access that is not performed is made again later. -/
def AccErr.again : AccErr → Bool
  | .refer _ | .stall | .queue _ => true
  | .trap _ _ | .contain _ _ | .never => false

/-- A step of an engine between the two. [log 35 DEDUCED] -/
def twinStep {α : Type} (k key : Nat) (x : A α) : A α := fun s =>
  match x (rewindTwin s k) with
  | .ok a s => .ok a (forgetTwin s k key)
  | .error e s => .error e (if e.again then s else forgetTwin s k key)

/-- One element of an instruction between the two: a fault stays known, since the instruction meets it once more when it takes its trap (R177, R178). [log 35 DEDUCED] -/
def elemStep {α : Type} (k key : Nat) (x : A α) : A α := fun s =>
  match x (rewindTwin s k) with
  | .ok a s => .ok a (forgetTwin s k key)
  | .error e s => .error e s

/-- An access that reads. [log 6 DESIGN CHOICE] -/
def readAcc (r : Requester) (a : Acc) : A (List Byte) := compared r a [] (readRaw r a)

/-- An access that writes. [log 6 DESIGN CHOICE, 7 DESIGN CHOICE] -/
def writeAcc (r : Requester) (a : Acc) (bs : List Byte) : A Unit := do
  let _ ← compared r a bs (do writeRaw r a bs; pure [])

/-- A read and a write as one step: `f` gives what is written, if anything (R182, R244). [log 6 DESIGN CHOICE] -/
def rmwAcc (r : Requester) (a : Acc) (f : List Byte → Option (List Byte)) : A (List Byte) :=
  compared r a ((f (List.replicate a.size 0)).getD []) (do
    let ps ← resolve r a
    let old ← readPieces r ps
    match f old with
    | some bs => writePieces r ps bs
    | none => pure ()
    pure old)

end Sys2Proof.Machine
end

