-- ==== Sys2Proof/Machine/Flags.lean ====
section
/-! DEFINITION. The sticky flags of FRM (R30, R61). -/

namespace Sys2Proof.Machine

/-- The five flags in the order of FRM: NV, DZ, OF, UF, NX from bit 0 up. -/
abbrev Flags := BitVec 5

def Flags.nv : Flags := 1#5
def Flags.dz : Flags := 2#5
def Flags.of : Flags := 4#5
def Flags.uf : Flags := 8#5
def Flags.nx : Flags := 16#5
def Flags.none : Flags := 0#5

/-- A flag where the condition holds. -/
def Flags.when (b : Bool) (f : Flags) : Flags := if b then f else 0#5

/-- Flags are ORed into FRM; RM stays (R61). -/
def Ctx.orFlags (x : Ctx) (f : Flags) : Ctx := { x with frm := x.frm ||| f ++ 0#3 }

/-- The default rounding mode of a context (R30). -/
def Ctx.rm (x : Ctx) : BitVec 3 := x.frm.extractLsb' 0 3

end Sys2Proof.Machine
end

