-- ==== Sys2Proof/Machine/Float.lean ====
section
/-! DEFINITION. Number formats and rounding (R35 to R43, R50 to R64): a float is read as an exact value, an operation is
computed exactly, and the result is rounded once. -/

namespace Sys2Proof.Machine

/-! ### Formats (R35) -/

/-- The floating-point formats. -/
inductive FloatFmt where
  | f32 | f16 | bf16 | e4 | e5
  deriving DecidableEq, Repr

def FloatFmt.width : FloatFmt → Nat
  | .f32 => 32
  | .f16 | .bf16 => 16
  | .e4 | .e5 => 8

def FloatFmt.expBits : FloatFmt → Nat
  | .f32 | .bf16 => 8
  | .f16 | .e5 => 5
  | .e4 => 4

def FloatFmt.fracBits : FloatFmt → Nat
  | .f32 => 23
  | .f16 => 10
  | .bf16 => 7
  | .e4 => 3
  | .e5 => 2

def FloatFmt.bias : FloatFmt → Nat
  | .f32 | .bf16 => 127
  | .f16 | .e5 => 15
  | .e4 => 7

/-- The canonical quiet NaN (R37). -/
def FloatFmt.nan : FloatFmt → Nat
  | .f32 => 0x7FC00000
  | .f16 => 0x7E00
  | .bf16 => 0x7FC0
  | .e4 => 0x7F
  | .e5 => 0x7E

/-- The largest finite encoding, without its sign (R35). -/
def FloatFmt.maxBits : FloatFmt → Nat
  | .f32 => 0x7F7FFFFF
  | .f16 => 0x7BFF
  | .bf16 => 0x7F7F
  | .e4 => 0x7E
  | .e5 => 0x7B

/-- The encoding of +∞; E4 has none and its NaN stands in (R37). -/
def FloatFmt.infBits : FloatFmt → Nat
  | .f32 => 0x7F800000
  | .f16 => 0x7C00
  | .bf16 => 0x7F80
  | .e4 => 0x7F
  | .e5 => 0x7C

/-- The sign bit of a format, where `neg`. -/
def FloatFmt.sign (f : FloatFmt) (neg : Bool) : Nat := if neg then 2 ^ (f.width - 1) else 0

/-! ### Values -/

/-- A float's value: NaN, an infinity, or (−1)^neg × m × 2^e. -/
inductive Fp where
  | nan (signalling : Bool)
  | inf (neg : Bool)
  | fin (neg : Bool) (m : Nat) (e : Int)
  deriving DecidableEq, Repr

/-- The value of an encoding (R36, R37). -/
def decodeFp (f : FloatFmt) (x : Nat) : Fp :=
  let neg : Bool := bits x (f.width - 1) 1 = 1
  let e := bits x f.fracBits f.expBits
  let m := bits x 0 f.fracBits
  if f = .e4 then
    if e = 15 ∧ m = 7 then .nan false
    else if e = 0 then .fin neg m (1 - 7 - 3)
    else .fin neg (8 + m) ((e : Int) - 7 - 3)
  else if e = 2 ^ f.expBits - 1 then
    if m = 0 then .inf neg else .nan (decide (bits m (f.fracBits - 1) 1 = 0))
  else if e = 0 then .fin neg m (1 - (f.bias : Int) - f.fracBits)
  else .fin neg (2 ^ f.fracBits + m) ((e : Int) - f.bias - f.fracBits)

def Fp.isNan : Fp → Bool
  | .nan _ => true
  | _ => false

/-- A signalling NaN (R37). -/
def Fp.isSnan : Fp → Bool
  | .nan s => s
  | _ => false

def Fp.isZero : Fp → Bool
  | .fin _ m _ => m == 0
  | _ => false

def Fp.neg : Fp → Fp
  | .nan s => .nan s
  | .inf n => .inf (!n)
  | .fin n m e => .fin (!n) m e

def Fp.isNeg : Fp → Bool
  | .nan _ => false
  | .inf n => n
  | .fin n _ _ => n

/-! ### Rounding (R50 to R55) -/

/-- Whether the magnitude lo + D / 2^16 ulp rounds away from zero: `rem` of `den` is the part below the ulp. -/
def roundUp (rm : BitVec 3) (neg : Bool) (lo rem den : Nat) (draw : BitVec 16) : Bool :=
  match rm.toNat with
  | 0 => decide (den < 2 * rem) || (decide (2 * rem = den) && decide (lo % 2 = 1))
  | 1 => false
  | 2 => decide (rem ≠ 0) && !neg
  | 3 => decide (rem ≠ 0) && neg
  | _ => decide (2 ^ 16 ≤ rem * 2 ^ 16 / den + draw.toNat)

/-- num / den × 2^e counted in units of 2^q: the whole part, the rest, and what the rest is of. -/
def scaleTo (num den : Nat) (e q : Int) : Nat × Nat × Nat :=
  let d := if q ≤ e then den else den * 2 ^ (q - e).toNat
  let n := if q ≤ e then num * 2 ^ (e - q).toNat else num
  (n / d, n % d, d)

/-- floor(log2(num / den × 2^e)), for num and den not 0. -/
def floorLog2 (num den : Nat) (e : Int) : Int :=
  let l : Int := (Nat.log2 num : Int) - Nat.log2 den
  let below : Bool := if 0 ≤ l then decide (num < den * 2 ^ l.toNat) else decide (num * 2 ^ (-l).toNat < den)
  l + e - (if below then 1 else 0)

/-- A rounded result: the encoding and the flags. -/
structure FRes where
  val : Nat
  flags : Flags
  deriving DecidableEq, Repr

/-- The result of an overflow (R55, R56). -/
def overflowBits (f : FloatFmt) (rm : BitVec 3) (neg sat : Bool) : Nat :=
  let toMax := sat || (match rm.toNat with
    | 1 => true
    | 2 => neg
    | 3 => !neg
    | _ => false)
  f.sign neg + (if toMax then f.maxBits else f.infBits)

/-- An exact magnitude num / den × 2^e, not 0, rounded to a format (R51 to R55). -/
def roundMag (f : FloatFmt) (rm : BitVec 3) (sat neg : Bool) (num den : Nat) (e : Int) (draw : BitVec 16) : FRes :=
  let emin : Int := 1 - (f.bias : Int)
  let l := floorLog2 num den e
  let q : Int := (if l < emin then emin else l) - f.fracBits
  let (lo, rem, d) := scaleTo num den e q
  let inexact : Bool := rem ≠ 0
  let n := if inexact && roundUp rm neg lo rem d draw then lo + 1 else lo
  let (n, q) := if n = 2 ^ (f.fracBits + 1) then (2 ^ f.fracBits, q + 1) else (n, q)
  let field : Int := if n < 2 ^ f.fracBits then 0 else q + f.fracBits + f.bias
  let mag := if n < 2 ^ f.fracBits then n else field.toNat * 2 ^ f.fracBits + (n - 2 ^ f.fracBits)
  if f.maxBits < mag then { val := overflowBits f rm neg sat, flags := Flags.of ||| Flags.nx }
  else
    let (ulo, urem, ud) := scaleTo num den e (l - f.fracBits)
    let un := if decide (urem ≠ 0) && roundUp rm neg ulo urem ud draw then ulo + 1 else ulo
    let tiny : Bool := decide (l < emin) && !(decide (l = emin - 1) && decide (un = 2 ^ (f.fracBits + 1)))
    { val := f.sign neg + mag, flags := Flags.when inexact Flags.nx ||| Flags.when (tiny && inexact) Flags.uf }

/-- A value rounded to a format, without saturation; NaN is canonical and an infinity stays. -/
def roundFp (f : FloatFmt) (rm : BitVec 3) (draw : BitVec 16) : Fp → FRes
  | .nan s => { val := f.nan, flags := Flags.when s Flags.nv }
  | .inf n => { val := f.sign n + f.infBits, flags := 0 }
  | .fin n m e => if m = 0 then { val := f.sign n, flags := 0 } else roundMag f rm false n m 1 e draw

/-- The result of an invalid operation. -/
def invalid (f : FloatFmt) : FRes := { val := f.nan, flags := Flags.nv }

/-- The canonical NaN, with NV where an operand is signalling (R139). -/
def nanOf (f : FloatFmt) (snan : Bool) : FRes := { val := f.nan, flags := Flags.when snan Flags.nv }

/-! ### Exact sums and products -/

/-- A signed magnitude as an integer. -/
def signed (neg : Bool) (m : Nat) : Int := if neg then -(m : Int) else m

/-- The exact sum of two finite values: an integer and its exponent. -/
def addExact (n1 : Bool) (m1 : Nat) (e1 : Int) (n2 : Bool) (m2 : Nat) (e2 : Int) : Int × Int :=
  let e := min e1 e2
  (signed n1 m1 * 2 ^ (e1 - e).toNat + signed n2 m2 * 2 ^ (e2 - e).toNat, e)

/-- The sign of an exact zero sum of two terms (R54). -/
def zeroSign (rm : BitVec 3) (z1 n1 z2 n2 : Bool) : Bool :=
  if z1 && z2 && (n1 == n2) then n1 else decide (rm = 3#3)

/-- The sum of two values, rounded once (R136, R139). -/
def addFp (f : FloatFmt) (rm : BitVec 3) (draw : BitVec 16) (x y : Fp) : FRes :=
  match x, y with
  | .nan s, y => nanOf f (s || y.isSnan)
  | x, .nan s => nanOf f (s || x.isSnan)
  | .inf a, .inf b => if a = b then { val := f.sign a + f.infBits, flags := 0 } else invalid f
  | .inf a, .fin _ _ _ => { val := f.sign a + f.infBits, flags := 0 }
  | .fin _ _ _, .inf b => { val := f.sign b + f.infBits, flags := 0 }
  | .fin n1 m1 e1, .fin n2 m2 e2 =>
    let (v, e) := addExact n1 m1 e1 n2 m2 e2
    if v = 0 then { val := f.sign (zeroSign rm (m1 == 0) n1 (m2 == 0) n2), flags := 0 }
    else roundMag f rm false (decide (v < 0)) v.natAbs 1 e draw

/-- The exact product as a value; `none` is 0 × ∞. -/
def mulExact : Fp → Fp → Option Fp
  | .nan s, y => some (.nan (s || y.isSnan))
  | x, .nan s => some (.nan (s || x.isSnan))
  | .inf a, .inf b => some (.inf (a != b))
  | .inf a, .fin n m _ => if m = 0 then none else some (.inf (a != n))
  | .fin n m _, .inf b => if m = 0 then none else some (.inf (n != b))
  | .fin n1 m1 e1, .fin n2 m2 e2 => some (.fin (n1 != n2) (m1 * m2) (e1 + e2))

/-- The product of two values, rounded once. -/
def mulFp (f : FloatFmt) (rm : BitVec 3) (draw : BitVec 16) (x y : Fp) : FRes :=
  match mulExact x y with
  | none => invalid f
  | some p => roundFp f rm draw p

/-- The quotient of two values, rounded once (R139). -/
def divFp (f : FloatFmt) (rm : BitVec 3) (draw : BitVec 16) (x y : Fp) : FRes :=
  match x, y with
  | .nan s, y => nanOf f (s || y.isSnan)
  | x, .nan s => nanOf f (s || x.isSnan)
  | .inf _, .inf _ => invalid f
  | .inf a, .fin n _ _ => { val := f.sign (a != n) + f.infBits, flags := 0 }
  | .fin n _ _, .inf b => { val := f.sign (n != b), flags := 0 }
  | .fin n1 m1 e1, .fin n2 m2 e2 =>
    if m2 = 0 then
      if m1 = 0 then invalid f else { val := f.sign (n1 != n2) + f.infBits, flags := Flags.dz }
    else if m1 = 0 then { val := f.sign (n1 != n2), flags := 0 }
    else roundMag f rm false (n1 != n2) m1 m2 (e1 - e2) draw

/-- floor(√n), bit by bit from bit `k`. -/
def isqrtFrom (n : Nat) : Nat → Nat → Nat
  | 0, r => r
  | k + 1, r => isqrtFrom n k (if (r + 2 ^ k) * (r + 2 ^ k) ≤ n then r + 2 ^ k else r)
def isqrt (n : Nat) : Nat := isqrtFrom n (Nat.log2 n / 2 + 1) 0

/-- The square root, rounded once. The root is taken to 40 bits or more, with a last bit that is 1 where it is inexact: no
mode of R50 can tell it from the exact root. -/
def sqrtFp (f : FloatFmt) (rm : BitVec 3) (draw : BitVec 16) : Fp → FRes
  | .nan s => nanOf f s
  | .inf n => if n then invalid f else { val := f.infBits, flags := 0 }
  | .fin n m e =>
    if m = 0 then { val := f.sign n, flags := 0 }
    else if n then invalid f
    else
      let (m, e) : Nat × Int := if e % 2 = 0 then (m, e) else (2 * m, e - 1)
      let m := m * 2 ^ 100
      let r := isqrt m
      let sticky := if r * r = m then 0 else 1
      roundMag f rm false false (2 * r + sticky) 1 (e / 2 - 51) draw

/-- The order of two values that are not NaN; −0 stands below +0 where `zeros` (R139, R143). -/
def ltFp (zeros : Bool) (x y : Fp) : Bool :=
  match x, y with
  | .inf a, .inf b => a && !b
  | .inf a, _ => a
  | _, .inf b => !b
  | .fin n1 m1 e1, .fin n2 m2 e2 =>
    if m1 = 0 ∧ m2 = 0 then zeros && n1 && !n2
    else decide ((addExact n1 m1 e1 (!n2) m2 e2).1 < 0)
  | _, _ => false

/-- Minimum or maximum of two encodings of one format (R139). -/
def minMaxFp (f : FloatFmt) (isMax : Bool) (a b : Nat) : FRes :=
  let x := decodeFp f a
  let y := decodeFp f b
  let fl := Flags.when (x.isSnan || y.isSnan) Flags.nv
  if x.isNan && y.isNan then { val := f.nan, flags := fl }
  else if x.isNan then { val := b, flags := fl }
  else if y.isNan then { val := a, flags := fl }
  else if ltFp true x y then { val := if isMax then b else a, flags := 0 }
  else { val := if isMax then a else b, flags := 0 }

/-- a × b + c rounded once; `np` negates the product and `nc` the addend (R142). -/
def fmaFp (f : FloatFmt) (rm : BitVec 3) (draw : BitVec 16) (np nc : Bool) (a b c : Fp) : FRes :=
  if a.isNan || b.isNan || c.isNan then
    nanOf f (a.isSnan || b.isSnan || c.isSnan || (mulExact a b).isNone)
  else match mulExact a b with
    | none => invalid f
    | some p => addFp f rm draw (if np then p.neg else p) (if nc then c.neg else c)

/-- x × S / 255, rounded once by RNE (R42, R158). -/
def superScale (x : Fp) (sc : Fp) : FRes :=
  match x, sc with
  | .fin n m e, .fin _ ms es =>
    if m = 0 then { val := FloatFmt.f32.sign n, flags := 0 } else roundMag .f32 0 false n (m * ms) 255 (e + es) 0
  | x, _ => roundFp .f32 0 0 x

/-- Whether a super-scale is refused: negative, ±0, infinite or NaN (R43). -/
def badScale (s : BitVec 32) : Bool :=
  match decodeFp .f32 s.toNat with
  | .fin n m _ => n || m == 0
  | _ => true

/-! ### Conversions (R55 to R60) -/

/-- Float to float (R55 to R57). -/
def cvtFF (src dst : FloatFmt) (rm : BitVec 3) (sat : Bool) (draw : BitVec 16) (x : Nat) : FRes :=
  match decodeFp src x with
  | .nan s => { val := dst.nan, flags := Flags.when s Flags.nv }
  | .inf n =>
    if sat then { val := dst.sign n + dst.maxBits, flags := Flags.nv }
    else { val := dst.sign n + dst.infBits, flags := Flags.when (decide (dst = .e4)) Flags.nv }
  | .fin n m e => if m = 0 then { val := dst.sign n, flags := 0 } else roundMag dst rm sat n m 1 e draw

/-- The bounds of an integer type of width w (R38). -/
def intMin (sgn : Bool) (w : Nat) : Int := if sgn then -(2 ^ (w - 1)) else 0
def intMax (sgn : Bool) (w : Nat) : Int := if sgn then 2 ^ (w - 1) - 1 else 2 ^ w - 1

/-- An integer as w bits. -/
def wrapInt (w : Nat) (v : Int) : Nat := (v % 2 ^ w).toNat

/-- The integer that w bits hold. -/
def readInt (sgn : Bool) (w x : Nat) : Int :=
  let u := x % 2 ^ w
  if sgn ∧ 2 ^ (w - 1) ≤ u then (u : Int) - 2 ^ w else u

/-- Float to integer (R58). -/
def cvtFI (src : FloatFmt) (sgn : Bool) (w : Nat) (rm : BitVec 3) (sat : Bool) (draw : BitVec 16) (x : Nat) : FRes :=
  let out (v : Int) (fl : Flags) : FRes := { val := wrapInt w v, flags := fl }
  let default : Int := if sgn then intMin sgn w else intMax sgn w
  match decodeFp src x with
  | .nan _ => out (if sat then 0 else default) Flags.nv
  | .inf n => out (if sat then (if n then intMin sgn w else intMax sgn w) else default) Flags.nv
  | .fin n m e =>
    let (lo, rem, d) := scaleTo m 1 e 0
    let r := if decide (rem ≠ 0) && roundUp rm n lo rem d draw then lo + 1 else lo
    let v := signed n r
    if v < intMin sgn w then out (if sat then intMin sgn w else default) Flags.nv
    else if intMax sgn w < v then out (if sat then intMax sgn w else default) Flags.nv
    else out v (Flags.when (decide (rem ≠ 0)) Flags.nx)

/-- Integer to integer (R59): .sat clamps a narrowing, and a conversion of one width, which R59 calls neither a narrowing nor a widening. [log 61 DESIGN CHOICE] -/
def cvtII (sgnS : Bool) (ws : Nat) (sgnD : Bool) (wd : Nat) (sat : Bool) (x : Nat) : FRes :=
  let v := readInt sgnS ws x
  let v' := if sat && decide (wd ≤ ws) then max (intMin sgnD wd) (min (intMax sgnD wd) v) else v
  { val := wrapInt wd v', flags := 0 }

/-- Integer to float (R60). -/
def cvtIF (sgn : Bool) (w : Nat) (dst : FloatFmt) (rm : BitVec 3) (sat : Bool) (draw : BitVec 16) (x : Nat) : FRes :=
  let v := readInt sgn w x
  if v = 0 then { val := 0, flags := 0 } else roundMag dst rm sat (decide (v < 0)) v.natAbs 1 0 draw

/-! ### The Q4 codebook (R40, R42) -/

/-- v(c), 256 times the codebook value. -/
def codebook : List Int := [-256, -177, -133, -100, -73, -49, -26, 0, 21, 41, 63, 87, 114, 147, 191, 256]

/-- u = cb(c) × s as a value; it is +0 where s or v(c) is 0. -/
def q4Value (c s : Nat) : Fp :=
  let v := (codebook[c]?).getD 0 * s
  .fin (decide (v < 0)) v.natAbs (-8)

/-! ### The stochastic generator (R53) -/

/-- The draw for element `j` under counter `c` and key `key`. -/
def drawOf (key c : BitVec 64) (j : Nat) : BitVec 16 :=
  let z := key + c * 0x9E3779B97F4A7C15#64 + BitVec.ofNat 64 j * 0xD1B54A32D192ED03#64
  let z := (z ^^^ (z >>> 30)) * 0xBF58476D1CE4E5B9#64
  let z := (z ^^^ (z >>> 27)) * 0x94D049BB133111EB#64
  let z := z ^^^ (z >>> 31)
  z.extractLsb' 48 16

/-- The key of a context's draws: launch ID, superstep, die, tile and context (R53). -/
def drawKey (launch : BitVec 32) (ssn : BitVec 32) (die tile ctx : Nat) : BitVec 64 :=
  (launch ++ ssn) ^^^ (BitVec.ofNat 64 die <<< 48) ^^^ (BitVec.ofNat 64 tile <<< 38) ^^^ (BitVec.ofNat 64 ctx <<< 34)

/-! ### The sum of the matrix unit (R62 to R64) -/

/-- The floor of a term's magnitude in units of 2^g, signed, and whether a part was discarded. -/
def alignTerm (g : Int) (n : Bool) (m : Nat) (e : Int) : Int × Bool :=
  let (q, r, _) := scaleTo m 1 e g
  (signed n q, decide (r ≠ 0))

/-- The result of one output element from the accumulator element and the products' factors (R62, R63). Whether the result is tiny and inexact (R54) is judged
on the rounded sum alone, not on what the floor of R62 discarded. [log 62 DESIGN CHOICE] -/
def mmaSum (c : Fp) (fs : List (Fp × Fp)) : FRes :=
  let ins := c :: fs.map (fun p => p.1) ++ fs.map (fun p => p.2)
  let ps := fs.map (fun p => mulExact p.1 p.2)
  let snan := ins.any Fp.isSnan
  let zeroInf := ps.any Option.isNone
  let ts := c :: ps.filterMap id
  let pos := ts.any (fun t => t == .inf false)
  let neg := ts.any (fun t => t == .inf true)
  if ins.any Fp.isNan then { val := FloatFmt.f32.nan, flags := Flags.when (snan || zeroInf || pos && neg) Flags.nv }
  else if zeroInf then invalid .f32
  else if pos && neg then invalid .f32
  else
    if pos || neg then { val := FloatFmt.f32.sign neg + FloatFmt.f32.infBits, flags := 0 }
    else
      let nz := ts.filterMap (fun t => match t with
        | .fin n m e => if m = 0 then none else some (n, m, e)
        | _ => none)
      match nz with
      | [] => { val := FloatFmt.f32.sign (ts.all Fp.isNeg), flags := 0 }
      | t0 :: tl =>
        let top := tl.foldl (fun (acc : Int) t => max acc (floorLog2 t.2.1 1 t.2.2)) (floorLog2 t0.2.1 1 t0.2.2)
        let g := top - 50
        let parts := nz.map (fun t => alignTerm g t.1 t.2.1 t.2.2)
        let sum := parts.foldl (fun (acc : Int) p => acc + p.1) 0
        let lost := Flags.when (parts.any (fun p => p.2)) Flags.nx
        if sum = 0 then { val := 0, flags := lost }
        else
          let r := roundMag .f32 0 false (decide (sum < 0)) sum.natAbs 1 g 0
          { r with flags := r.flags ||| lost }

end Sys2Proof.Machine
end

