-- ==== Sys2Proof/Machine/Operands.lean ====
section
/-! DEFINITION. The monad of a meaning, and every operand form: scalar registers and tile queues (R19, R70, R72, R102),
vector registers and bound streams (R71, R72, R134, R162), predicates (R68, R135), elements (R17), rounding and draws
(R50, R53). -/

namespace Sys2Proof.Machine

/-! ### The monad of a meaning -/

/-- How an instruction ends without completing. -/
inductive Stop where
  /-- A trap, precise at the instruction (R9, R32). -/
  | trap (cause : Cause) (tval : Word)
  /-- A trap whose TPC is the next instruction (R128, R129). -/
  | trapNext (cause : Cause) (tval : Word)
  /-- A fault of an MMA whose first row not complete is `row` (R212). -/
  | trapRow (cause : Cause) (tval : Word) (row : Nat)
  /-- A containment event; `row` is 0, or the first row not complete of an MMA that meets it (R212, R413). -/
  | contain (cause : Cause) (tval : Word) (row : Nat)
  /-- Accesses wait for a page service or at a remote target; elements that are complete, and their values (R167, R177). -/
  | refer (waits : List PageWait) (done : BitVec 64) (part : Vec)
  /-- The instruction waits under a row of the table that ends the wait. -/
  | wait (w : Wait)
  /-- The instruction waits at issue; it is examined again when the context next issues. -/
  | retry
  deriving DecidableEq, Repr

/-- A pop that an instruction makes when it completes (R72). -/
inductive Pop where
  | queue (q : Nat)
  | stream (entry : Nat)
  deriving DecidableEq, Repr

/-- An instruction under way: the state, and the pops and pushes that take effect at completion (R72). -/
structure Work where
  s : State
  pops : List Pop := []
  pushes : List (Nat × Word) := []
  groups : List (Nat × Vec) := []
  /-- Where the context goes on; `none` is the next word. -/
  target : Option Word := none
  /-- The context does not go on: it has halted, or waits at a barrier. -/
  gone : Bool := false
  /-- The row at which the next instruction, an MMA, resumes (R130). -/
  resume : Option Nat := none

/-- A meaning under way. -/
abbrev M := EStateM Stop Work

def getS : M State := do return (← get).s
def modS (f : State → State) : M Unit := modify (fun w => { w with s := f w.s })
def trapM {α : Type} (cause : Cause) (tval : Word) : M α := throw (.trap cause tval)
def waitM {α : Type} (w : Wait) : M α := throw (.wait w)

/-- What the end of an access means for its instruction. -/
def AccErr.stop : AccErr → Stop
  | .trap c v => .trap c v
  | .contain c v => .contain c v 0
  | .refer w => .refer [w] 0 0
  | .stall | .queue _ => .retry
  | .never => .wait .never

/-- An access of an instruction. -/
def liftA {α : Type} (x : A α) : M α := fun w =>
  match x w.s with
  | .ok a s => .ok a { w with s := s }
  | .error e s => .error e.stop { w with s := s }

/-- ILLEGAL, with the word in TVAL (R34). -/
def illegal {α : Type} (w : Word32) : M α := trapM .illegal (w.setWidth 64)

/-- UNIMPL, with the mask of the missing combination and the word (R34, R77). -/
def unimpl {α : Type} (mask : BitVec 32) (w : Word32) : M α := trapM .unimpl (mask ++ w)

/-- CTXPRIV with a reason and the word (R34, R77). -/
def ctxpriv {α : Type} (reason : BitVec 32) (w : Word32) : M α := trapM .ctxpriv (reason ++ w)

/-- The condition must hold, or the word is ILLEGAL. [log 17 DEDUCED] -/
def require (b : Bool) (w : Word32) : M Unit := if b then pure () else illegal w

/-- The combination must be in the entry's support table, or the word is UNIMPL (R77 step 7). [log 17 DEDUCED] -/
def supported (b : Bool) (mask : BitVec 32) (w : Word32) : M Unit := if b then pure () else unimpl mask w

/-- The function is control-only (R77 step 5, R79). [log 17 DEDUCED] -/
def controlOnly (w : Word32) : M Unit := do
  if (← getS).cur.ctx = 0 then pure () else ctxpriv 1 w

/-- The issuing context as a requester. -/
def requester : M Requester := do
  let s ← getS
  return { tile := s.curKey, ctx := s.cur.ctx, engine := false }

/-- The work unit of the issuing tile. -/
def State.unit? (s : State) : Option WorkUnit := s.curTile.work

/-- The launch class of the issuing tile: 0 WP, 1 PAR, 2 CON. -/
def State.cls (s : State) : Nat := match s.unit? with
  | some u => u.cls
  | none => 0

/-! ### Scalar operands (R16, R19, R70, R102) -/

/-- Scalar register n of a context; s0 reads as zero (R16). -/
def Ctx.sreg (x : Ctx) (n : BitVec 5) : Word := if n = 0 then 0 else (x.s[n.toNat]?).getD 0

/-- Scalar register n is written; a write of s0 is discarded (R16). -/
def Ctx.setS (x : Ctx) (n : BitVec 5) (v : Word) : Ctx := if n = 0 then x else { x with s := x.s.setIfInBounds n.toNat v }

/-- The queue that a scalar field of an S-class word names (R70). -/
def queueOf (x : Ctx) (f : BitVec 5) : Option Nat :=
  if 24 ≤ f.toNat ∧ x.qmap.getLsbD (f.toNat - 24) then some (f.toNat - 24) else none

/-- The depth of a queue (R19). -/
def queueDepth (q : Nat) : Nat := if q < 4 then 4 else 16

/-- The entries of a queue. -/
def Tile.queue (t : Tile) (q : Nat) : List Word := (t.io.queues[q]?).getD []

/-- Pops of queue `q` so far. -/
def popsOf (l : List Pop) (q : Nat) : Nat := (l.filter (fun p => p == Pop.queue q)).length

/-- S[f] as a source of an S-class word. -/
def srcS (f : BitVec 5) : M Word := do
  let w ← get
  match queueOf w.s.curCtx f with
  | none => pure (w.s.curCtx.sreg f)
  | some q =>
    match (w.s.curTile.queue q)[popsOf w.pops q]? with
    | some v => do
      set { w with pops := w.pops ++ [Pop.queue q] }
      pure v
    | none => waitM .queue

/-- A push to S[d], if it names a queue, must find room; it waits before any effect, and after the word has examined its operand values, which may be ILLEGAL
(R19, R72). [log 17 DEDUCED] -/
def roomS (d : BitVec 5) : M Unit := do
  let w ← get
  match queueOf w.s.curCtx d with
  | none => pure ()
  | some q => if (w.s.curTile.queue q).length < queueDepth q + popsOf w.pops q then pure () else waitM .queue

/-- S[d] as the destination of an S-class word. -/
def dstS (d : BitVec 5) (v : Word) : M Unit := do
  roomS d
  let w ← get
  match queueOf w.s.curCtx d with
  | none => modS (fun s => s.modCur (fun x => x.setS d v))
  | some q => set { w with pushes := w.pushes ++ [(q, v)] }

/-- A scalar register read directly, as a W-class word does (R70, R134). -/
def regS (f : BitVec 5) : M Word := do return (← getS).curCtx.sreg f

/-- A scalar register written directly. -/
def setRegS (d : BitVec 5) (v : Word) : M Unit := modS (fun s => s.modCur (fun x => x.setS d v))

/-! ### Predicates (R16, R68) -/

/-- Predicate k of a context; k0 reads as 0xFFFF. -/
def Ctx.kreg (x : Ctx) (n : BitVec 3) : BitVec 16 := if n = 0 then 0xFFFF else (x.k[n.toNat]?).getD 0

/-- Predicate k is written; a write of k0 is discarded. -/
def Ctx.setK (x : Ctx) (n : BitVec 3) (v : BitVec 16) : Ctx :=
  if n = 0 then x else { x with k := x.k.setIfInBounds n.toNat v }

/-- The predicate that an instruction's k field names. -/
def pred (k : BitVec 3) : M (BitVec 16) := do return (← getS).curCtx.kreg k

/-! ### Vector operands (R17, R71, R162) -/

/-- Vector register n of a context. -/
def Ctx.vreg (x : Ctx) (n : BitVec 5) : Vec := (x.v[n.toNat]?).getD 0

/-- Vector register n is written. -/
def Ctx.setV (x : Ctx) (n : BitVec 5) (v : Vec) : Ctx := { x with v := x.v.setIfInBounds n.toNat v }

/-- The descriptor entry that a vector field names, where its register is bound in the context (R21). -/
def boundTo (x : Ctx) (f : BitVec 5) : Option Nat :=
  if 24 ≤ f.toNat then
    let b := (x.binds[f.toNat - 24]?).getD 0
    if b.getLsbD 3 then some (b.extractLsb' 0 3).toNat else none
  else none

/-- An entry of the stream descriptor table. -/
def Tile.desc (t : Tile) (e : Nat) : StreamDesc := (t.io.descs[e]?).getD {}

/-- The port that a copy binding uses. -/
def Tile.port (t : Tile) (p : Nat) : StreamPort := (t.io.ports[p]?).getD {}

/-- Offset in the own scratchpad of the slot `i` places after POS (R162). -/
def StreamDesc.slotOff (d : StreamDesc) (i : Nat) : Nat :=
  ptrOff d.base % 2 ^ 20 + 64 * ((d.pos.toNat + i) % d.slots.toNat)

/-- Whether every word of a ring slot has the bit `b`. -/
def slotAll (s : State) (off : Nat) (b : Bool) : Bool :=
  (List.range 16).all (fun i => feBit s s.curKey s.curKey (off + 4 * i) == b)

/-- Pops of an entry so far. -/
def streamPops (l : List Pop) (e : Nat) : Nat := (l.filter (fun p => p == Pop.stream e)).length

/-- Whether a copy binding has delivered and popped every group (R162, R164). -/
def exhausted (t : Tile) (d : StreamDesc) (popped : Nat) : Bool :=
  decide (0 < d.slots.toNat) && decide ((t.port d.port).delivered = d.slots.toNat)
    && decide (d.pos.toNat + popped = d.slots.toNat)

/-- The resource that the group `n` places after an entry's next one takes: its port, or the bank of its slot (R232, R342). -/
def StreamDesc.resource (d : StreamDesc) (n : Nat) : Nat := if d.copy then 3 + d.port else 8 + d.slotOff n / 64 % 16

/-- The resources that the bound registers among a word's fields take; a field that names an entry again takes its next group. -/
def streamNeeds (x : Ctx) (t : Tile) (fields : List (BitVec 5)) : List Nat :=
  (indexed 0 fields).filterMap (fun e => (boundTo x e.2).map (fun b =>
    (t.desc b).resource ((fields.take e.1).filter (fun g => decide (boundTo x g = some b))).length))

/-- The directions of every vector field of a word, checked before any pop (R162): each bound source pops an in-ring or a
copy, each bound destination pushes an out-ring. A booked helper must have declared what they take (R342). [log 17 DEDUCED] -/
def checkDirs (srcs dsts : List (BitVec 5)) (w : Word32) : M Unit := do
  let s ← getS
  let x := s.curCtx
  let t := s.curTile
  let badSrc (f : BitVec 5) : Bool := match boundTo x f with
    | some e => !(t.desc e).copy && (t.desc e).out
    | none => false
  let badDst (f : BitVec 5) : Bool := match boundTo x f with
    | some e => (t.desc e).copy || !(t.desc e).out
    | none => false
  require (!(srcs.any badSrc || dsts.any badDst)) w
  let r ← requester
  (streamNeeds x t srcs ++ streamNeeds x t dsts).forM (fun n => liftA (needResource r n))

/-- A pop or a push is an access to its ring slot: it waits for a staged range (R290, R342), and for an instruction of another context that has read
the slot (R162). -/
def ringAccess (off : Nat) : M Unit := do
  let s ← getS
  if stagedPending s s.curKey false off 64 then
    match bookingOf s (← requester) with
    | some (h, _) => trapM .overrun (overrunVal 0xFF h 3)
    | none => throw .retry
  if slotTaken s s.curKey off 64 (some s.cur.ctx) then waitM .stream

/-- The vector that field `f` names as a source: a register, or the next group of its stream. A ring holds SLOTS groups, and a pop takes effect at
completion, so that an instruction waits that pops more (R162). -/
def srcV (f : BitVec 5) (iw : Word32) : M Vec := do
  let w ← get
  let k := w.s.curKey
  match boundTo w.s.curCtx f with
  | none => pure (w.s.curCtx.vreg f)
  | some e =>
    let d := w.s.curTile.desc e
    let n := streamPops w.pops e
    if d.copy then
      if exhausted w.s.curTile d n then illegal iw
      match (w.s.curTile.port d.port).groups[n]? with
      | some v => do
        modify (fun w => { w with pops := w.pops ++ [Pop.stream e] })
        pure v
      | none => waitM .stream
    else
      let off := d.slotOff n
      ringAccess off
      if decide (n < d.slots.toNat) && slotAll w.s off true then
        modify (fun w => { w with pops := w.pops ++ [Pop.stream e] })
        pure (BitVec.ofNat 512 (natOfBytes ((List.range 64).map (fun i => tileByte w.s k k false (off + i)))))
      else waitM .stream

/-- A push must find its slot empty; it waits before any effect (R72, R162). -/
def roomV (f : BitVec 5) : M Unit := do
  let w ← get
  match boundTo w.s.curCtx f with
  | none => pure ()
  | some e =>
    let off := (w.s.curTile.desc e).slotOff w.groups.length
    ringAccess off
    if slotAll w.s off false then pure () else waitM .stream

/-- The vector that field `f` names as a destination. -/
def dstV (f : BitVec 5) (v : Vec) : M Unit := do
  roomV f
  let w ← get
  match boundTo w.s.curCtx f with
  | none => modS (fun s => s.modCur (fun x => x.setV f v))
  | some e => set { w with groups := w.groups ++ [(e, v)] }

/-- Offsets of the ring slots that the pops and the pushes of an instruction take. -/
def Work.slots (w : Work) (pushed : Bool) : List Nat :=
  let t := w.s.curTile
  let popped := (indexed 0 w.pops).filterMap (fun e => match e.2 with
    | .queue _ => none
    | .stream x => if (t.desc x).copy then none else some ((t.desc x).slotOff (streamPops (w.pops.take e.1) x)))
  popped ++ (if pushed then (indexed 0 w.groups).map (fun e => (t.desc e.2.1).slotOff e.1) else [])

/-- The first kept line that the ring slots of a completing instruction need a local delta of, and for which the pool has no room (R270). -/
def Work.shortLine (w : Work) : Option Nat :=
  let s := w.s
  let lines := ((w.slots true).filter (fun o => decide (regionOf s s.curKey false o = .kept))).map (lineOf false)
  let missing := (lines.foldl insertNat []).filter (fun l => (Map.get? s.curTile.step.locals l).isNone)
  (missing.drop (s.curTile.poolFree false)).head?

/-- The state before an instruction that traps at its end; the packets that it has sent at the comparator stay sent (R417). -/
def undone (s0 s : State) : State :=
  match s.curTile.twin with
  | none => s0
  | some w =>
    let keep (k : Nat) (x : State) : State := x.modTile k (fun t => { t with twin := (s.tile k).twin })
    { keep w.partner (keep s.curKey s0) with pending := s.pending }

/-- A meaning with its last check, made where all else has succeeded: its pops and pushes find room in the pool, or it traps DELTAOVF and leaves
nothing changed (R34, R72, R270). -/
def withRoom (m : M Unit) : M Unit := fun w0 =>
  match m w0 with
  | .ok _ w => match w.shortLine with
    | none => .ok () w
    | some l => .error (.trap .deltaovf (BitVec.ofNat 64 (l * 64))) { w0 with s := undone w0.s w.s }
  | .error e w => .error e w

/-- The old value of a destination: a bound register has none, and its inactive lanes are pushed as zero (R135). -/
def oldV (f : BitVec 5) : M Vec := do
  let x := (← getS).curCtx
  return match boundTo x f with
    | some _ => 0
    | none => x.vreg f

/-! ### Elements (R17, R135) -/

/-- Element `j` of width `w`. -/
def elemOf (v : Vec) (w j : Nat) : Nat := bits v.toNat (w * j) w

/-- A vector from its elements of width `w`, element 0 first. -/
def vecOf (w : Nat) (l : List Nat) : Vec :=
  BitVec.ofNat 512 (l.foldr (fun e acc => e % 2 ^ w + 2 ^ w * acc) 0)

/-- Whether element `j` of width `w` is active: one predicate bit for each 32 bits, and the bit 2 i for element i of 64
bits (R17). -/
def activeElem (k : BitVec 16) (w j : Nat) : Bool := k.getLsbD (w * j / 32)

/-- The elements of a result: `f j` where element `j` is active, the old element elsewhere. -/
def mergeElems (w : Nat) (k : BitVec 16) (old : Vec) (f : Nat → Nat) : Vec :=
  vecOf w ((List.range (512 / w)).map (fun j => if activeElem k w j then f j else elemOf old w j))

/-- The element types of R133: a float format, or an integer's sign and width. -/
inductive ElemTy where
  | flt (f : FloatFmt)
  | int (sgn : Bool) (w : Nat)
  deriving DecidableEq, Repr

/-- The type that a 4-bit ty field codes; 0xF is reserved (R133). -/
def elemTy (t : BitVec 4) : Option ElemTy :=
  match t.toNat with
  | 0 => some (.flt .f32)
  | 1 => some (.flt .bf16)
  | 2 => some (.flt .f16)
  | 3 => some (.flt .e4)
  | 4 => some (.flt .e5)
  | 5 => some (.int true 8)
  | 6 => some (.int true 16)
  | 7 => some (.int true 32)
  | 8 => some (.int true 64)
  | 9 => some (.int false 8)
  | 10 => some (.int false 16)
  | 11 => some (.int false 32)
  | 12 => some (.int false 64)
  | 13 => some (.int true 4)
  | 14 => some (.int false 4)
  | _ => none

def ElemTy.width : ElemTy → Nat
  | .flt f => f.width
  | .int _ w => w

/-- F32, BF16 or F16 (R138, R150, R156). -/
def ElemTy.arith? : ElemTy → Option FloatFmt
  | .flt .f32 => some .f32
  | .flt .bf16 => some .bf16
  | .flt .f16 => some .f16
  | _ => none

/-- An integer type of 8 to 64 bits. -/
def ElemTy.int8? : ElemTy → Option (Bool × Nat)
  | .int s w => if w = 4 then none else some (s, w)
  | .flt _ => none

/-- The type of a ty field, ILLEGAL where it is reserved (R133). -/
def typeOf (t : BitVec 4) (w : Word32) : M ElemTy :=
  match elemTy t with
  | some e => pure e
  | none => illegal w

/-! ### Rounding and draws (R50, R53) -/

/-- The draws of the issuing context at its present counter. -/
def drawsOf (s : State) (k c : Nat) (j : Nat) : BitVec 16 :=
  let t := s.tile k
  let launch := match t.work with
    | some u => u.launch
    | none => 0
  drawOf (drawKey (BitVec.ofNat 32 launch) t.step.ssn (s.dieId k) (tileId (s.idKey k)) c) (s.ctx k c).draws j

/-- The counter advances where the instruction rounds under STO (R53). [log 15 DEDUCED] -/
def countDraw (rm : BitVec 3) : M Unit :=
  if rm = 4 then modS (fun s => s.modCur (fun x => { x with draws := x.draws + 1 })) else pure ()

/-- Flags of an instruction that completes (R61). -/
def orFlags (f : Flags) : M Unit := modS (fun s => s.modCur (fun x => x.orFlags f))

/-! ### Addresses -/

/-- An access of the issuing context at `base` moved by `n` bytes. -/
def accAt (base : Word) (n : Int) (size align : Nat) (kind : AccKind) : Acc :=
  let (p, o) := formPtr base n
  { base := base, p := p, ovf := o, size := size, align := align, kind := kind, contig := true }

/-- A contiguous read. -/
def readM (a : Acc) : M (List Byte) := do liftA (readAcc (← requester) a)

/-- A contiguous write. -/
def writeM (a : Acc) (bs : List Byte) : M Unit := do liftA (writeAcc (← requester) a bs)

end Sys2Proof.Machine
end

