-- ==== Sys2Proof/Machine/Run.lean ====
section
/-! DEFINITION. Continuation records (R13, R14, R200, R201, R314, R335), waits, what follows an instruction that completes
(R72, R84, R119, R120, R162), and how an instruction of a context is run to its end. -/

namespace Sys2Proof.Machine

/-! ### Continuation records (R201) -/

/-- The bytes of a record: resumption PC, live mask, loop state, FRM, QMAP, RP, RPTIDX, origin, predicates, scopes, then
the selected vectors and scalars. -/
def recordBytes (x : Ctx) (pc mask : Word) (rp : Bool) (ssn : BitVec 32) (tid did : Nat) : List Byte :=
  let vecs := (List.range 32).filter (fun i => mask.getLsbD (32 + i))
  let scalars := (List.range 32).filter (fun i => mask.getLsbD i)
  bytesOfNat 8 pc.toNat ++ bytesOfNat 8 mask.toNat
    ++ (List.range 4).flatMap (fun i => bytesOfNat 8 (((x.loops[i]?).getD {}).word).toNat)
    ++ bytesOfNat 1 x.frm.toNat ++ bytesOfNat 1 x.qmap.toNat ++ bytesOfNat 1 x.depth ++ bytesOfNat 1 rp.toNat
    ++ bytesOfNat 4 (if rp then x.rptidx.toNat else 0)
    ++ bytesOfNat 8 (ssn.toNat * 2 ^ 32 + tid * 2 ^ 16 + did)
    ++ (List.range 8).flatMap (fun i => bytesOfNat 2 (x.kreg (BitVec.ofNat 3 i)).toNat)
    ++ (List.range 27).flatMap (fun i => bytesOfNat 4 ((x.scopes[i + 5]?).getD 0).toNat)
    ++ bytesOfNat 4 0
    ++ vecs.flatMap (fun i => bytesOfNat 64 ((x.v[i]?).getD 0).toNat)
    ++ scalars.flatMap (fun i => bytesOfNat 8 (x.sreg (BitVec.ofNat 5 i)).toNat)

/-- The length of a record (R201). -/
def recordLen (mask : Word) : Nat :=
  192 + 64 * ((List.range 32).filter (fun i => mask.getLsbD (32 + i))).length
    + 8 * ((List.range 32).filter (fun i => mask.getLsbD i)).length

/-- Registers that a live mask selects. -/
def maskCount (mask : Word) : Nat := ((List.range 64).filter (fun i => mask.getLsbD i)).length

/-- Whether a context is a member or a pending joiner of a group (R188). -/
def inGroup (s : State) (k c : Nat) : Bool :=
  match (s.tile k).work with
  | some u => (s.part u.part).groups.any (fun e =>
      e.2.members.contains (groupMember k c) || e.2.joining.contains (groupMember k c))
  | none => false

/-- Whether a context holds a stream binding. -/
def Ctx.holdsBinding (x : Ctx) : Bool := x.binds.toList.any (fun b => b.getLsbD 3)

/-- Whether a helper that waits becomes a continuation: unbooked, not frozen, with a live mask and with no stream binding (R13, R163, R167, R265). An MMA
never makes its context one (R212). The helper of a pair does so on its primary, whose accesses are the pair's (R417). [log 23 DEDUCED] -/
def becomesCont (s : State) (k c : Nat) : Bool :=
  let x := s.ctx k c
  decide (c ≠ 0) && decide (s.idKey k = k) && x.handle.isNone && decide (x.st ≠ .frozen) && decide (x.liveMask ≠ 0)
    && !x.holdsBinding && !(s.tile k).eng.mmas.any (fun o => decide (o.ctx = c) && !o.fetched)

/-- The member that a record stands for in a group table, while no context runs it. [log 1 DESIGN CHOICE] -/
def recordMember (loc : Word) : Nat := 2 ^ 64 + loc.toNat

/-- Member `a` of the groups of a partition becomes member `b`. -/
def renameMember (s : State) (part a b : Nat) : State :=
  let f (l : List Nat) : List Nat := if l.contains a then insertNat (removeNat l a) b else l
  s.modPart part (fun p => { p with groups := p.groups.map (fun (e : Nat × Group) =>
    (e.1, { e.2 with members := f e.2.members, joining := f e.2.joining, arrived := f e.2.arrived })) })

/-- The slot of a helper is free; on a pair the partner's too, and what the two have at the comparator is dropped (R13, R417). A TLOAD that the helper waited
on is in progress no more: the resumed helper issues it again (R153). [log 83 DESIGN CHOICE] -/
def releaseSlot (s : State) (k c : Nat) : State :=
  let clear (s : State) (k : Nat) : State := modTwin ((leaveQueues (dropTload s k c) k c).setCtx k c {}) k (fun w => { w with
    sent := w.sent.filter (fun e => !ownsKey c e.1), permits := w.permits.filter (fun e => !ownsKey c e.1)
    answers := w.answers.filter (fun a => !ownsKey c a.key), log := w.log.filter (fun e => !ownsKey c e.1) })
  match (s.tile k).twin with
  | some w => clear (clear s k) w.partner
  | none => clear s k

/-- Parked accesses of a context that have not begun are withdrawn (R314); `false` where one has begun. -/
def withdraw (s : State) (ws : List PageWait) : State × Bool :=
  let begun := ws.any (fun w => match w.parked with
    | some id => (s.die w.die).parked.any (fun p => decide (p.id = id) && p.begun)
    | none => false)
  if begun then (s, false)
  else (ws.foldl (fun s w => match w.parked with
    | some id => s.modDie w.die (fun x => { x with parked := x.parked.filter (fun p => p.id != id) })
    | none => s) s, true)

/-- A context gives up its accesses: parked ones that have not begun are withdrawn; one that has begun stays, with the tile as
it is, and its target performs it (R342, R368). [log 29 DEDUCED] -/
def giveUp (s : State) (k : Nat) (ws : List PageWait) : State :=
  let t := s.tile k
  ws.foldl (fun s w => match w.parked with
    | some id => s.modDie w.die (fun x => { x with
        parked := (x.parked.filter (fun p => p.id != id || p.begun)).map (fun p => if p.id = id then { p with left := some t } else p) })
    | none => s) s

/-- The waits that are for a page service or at a remote target; any other, of stage 0, is held at the tile and is tried again by an event. -/
def referred (ws : List PageWait) : List PageWait := ws.filter (fun w => decide (w.stage ≠ 0))

/-- A hardware-written continuation (R167, R314): the record goes into a free frame of the continuation area, which one is a
free value, and the slot is released; the record keeps the helper's places in groups. Where the helper keeps its slot instead, what it waits on: its
accesses, and a page of the record that is referred itself (R310). A record that cannot be written otherwise leaves everything as it was. [log 13 DESIGN CHOICE, 23 DEDUCED, 75 DESIGN CHOICE] -/
def makeCont (s : State) (k c : Nat) (ws : List PageWait) (ready : Bool) : State × Option (List PageWait) :=
  let x := s.ctx k c
  let kept : State × Option (List PageWait) := (s, some ws)
  match (s.tile k).work with
  | none => kept
  | some u =>
    match Map.get? s.launches u.launch with
    | none => kept
    | some l =>
      let frames := bits l.block.toNat (8 * 88) 32
      let carea : Word := BitVec.ofNat 64 (bits l.block.toNat (8 * 80) 64)
      match (if l.frames.length < frames then some (nthFree l.frames (pickOf s.free (frames - l.frames.length))) else none) with
      | none => kept
      | some f =>
        let origin := x.origin.getD { tile := k, ssn := (s.tile k).step.ssn }
        let pc := match x.frame with
          | some r => r.base
          | none => x.pc
        let bs := recordBytes x pc x.liveMask x.frame.isSome origin.ssn (tileId origin.tile) (s.dieId origin.tile)
        let at' := accAt carea (1216 * f) bs.length 64 .store
        let (s1, ok) := withdraw s ws
        if ok = false ∨ x.refused.contains at'.p ∨ s.hwRefused.contains (u.fn, at'.p) then kept
        else
          match writeRaw { tile := k, ctx := c, engine := true } at' bs s1 with
          | .error (.refer w) s2 => (s2, some (ws.filter (fun w => w.parked.isNone) ++ [{ w with elem := 64, solo := true }]))
          | .error _ _ => kept
          | .ok _ s2 =>
            let loc := at'.p
            let r : ContRecord := {
              loc := loc, origin := origin, ready := ready
              wait := (referred ws).head?.map (fun w => (w.die, w.fn, w.stage, w.tag)), frame := some f
              addr := ((referred ws).head?.map (fun w => w.addr)).getD 0, launch := u.launch }
            let s3 := s2.modLaunch u.launch (fun l => { l with frames := insertNat l.frames f })
            let s4 := renameMember (s3.modPart u.part (fun p => { p with records := p.records ++ [r] })) u.part
              (groupMember k c) (recordMember loc)
            let s5 := { releaseSlot s4 k c with free := s4.free + 1 }
            (if ready then s5.post (.continuationReady u.part loc) else s5, none)

/-! ### Waits -/

/-- Where a context that waits gets its wake: the event of the table for the kind of wait. -/
def wakeEvent (d t c : Nat) : Wait → Option Instr
  | .queue => some (.queueWake d t c)
  | .stream => some (.streamWake d t c)
  | .fe key _ _ _ => some (.feWaiterWake key)
  | .group => some (.groupWaitWake d t c)
  | .ring block => some (.qcWaiterServe block)
  | .inbox => some (.inboxWaitWake d t c)
  | .ssb _ _ _ => some (.ssbArrive d t)
  | .producers => some (.waitpComplete d t c)
  | .tokens _ _ => some (.tokenWaitWake d t c)
  | .helpers _ => some (.hwaitComplete d t c)
  | .barrier => none
  | .pages _ _ _ => none
  | .never => none
  | .issue => none

/-- A context begins to wait; its PC stays at the instruction. -/
def enterWait (s : State) (w : Wait) : State :=
  let s := s.modCur (fun x => { x with wait := some w })
  match wakeEvent s.cur.die s.cur.tile s.cur.ctx w with
  | some e => s.post e
  | none => s

/-- A context waits on accesses, of which those that are held at its tile are tried again. -/
def waitPages (s : State) (k c : Nat) (ws : List PageWait) (done : BitVec 64) (part : Vec) : State :=
  (ws.filter (fun w => decide (w.stage = 0))).foldl (fun s w => s.post (.gatherElementReplay (tileDie k) (tileId k) c w.elem))
    (s.modCtx k c (fun x => { x with wait := some (.pages ws done part) }))

/-- A helper whose accesses are referred becomes a continuation where it can, once its MMAs have completed (R206, R314); else its waits are as they
are then. [log 23 DEDUCED] -/
def contOr (s : State) (k c : Nat) (ws : List PageWait) : State × Option (List PageWait) :=
  let busy := (s.tile k).eng.mmas.any (fun o => o.ctx = c)
  if becomesCont s k c && !busy && !(referred ws).isEmpty then makeCont s k c ws false else (s, some ws)

/-- A context's accesses wait; an unbooked helper with a live mask becomes a continuation (R167, R177, R314). [log 23 DEDUCED] -/
def enterRefer (s : State) (ws : List PageWait) (done : BitVec 64) (part : Vec) : State :=
  match contOr s s.curKey s.cur.ctx ws with
  | (s', none) => s'
  | (s', some ws) => waitPages s' s.curKey s.cur.ctx ws done part

/-! ### Completion of an instruction (R72, R84, R119, R120, R162) -/

/-- A pop takes effect. A ring slot becomes empty and POS advances; a copy's group leaves its port. -/
def applyPop (s : State) (p : Pop) : State :=
  let k := s.curKey
  match p with
  | .queue q => s.modIo k (fun io => { io with queues := io.queues.setIfInBounds q (((io.queues[q]?).getD []).drop 1) })
  | .stream e =>
    let d := s.curTile.desc e
    let next : StreamDesc := { d with pos := if d.copy then d.pos + 1 else BitVec.ofNat 32 ((d.pos.toNat + 1) % d.slots.toNat) }
    let s := s.modIo k (fun io => { io with descs := io.descs.setIfInBounds e next })
    if d.copy then s.modIo k (fun io =>
      let port : StreamPort := (io.ports[d.port]?).getD {}
      { io with ports := io.ports.setIfInBounds d.port { port with groups := port.groups.drop 1 } })
    else
      let off := d.slotOff 0
      let s := if regionOf s k false off = .kept then allocLocal s k (lineOf false off) else s
      (List.range 16).foldl (fun s i => setFe s k (off + 4 * i) false) s

/-- A push of a tile queue takes effect. -/
def applyPush (s : State) (p : Nat × Word) : State :=
  s.modIo s.curKey (fun io => { io with queues := io.queues.setIfInBounds p.1 ((io.queues[p.1]?).getD [] ++ [p.2]) })

/-- A push of a ring takes effect: the slot's words are written and become full, and POS advances (R162). -/
def applyGroup (s : State) (p : Nat × Vec) : State :=
  let k := s.curKey
  let d := s.curTile.desc p.1
  let off := d.slotOff 0
  let bs := bytesOfNat 64 p.2.toNat
  let s := if regionOf s k false off = .kept then
      (indexed 0 bs).foldl (fun s e => putLocal s k (lineOf false off) e.1 e.2) (allocLocal s k (lineOf false off))
    else putPlain s k false off bs
  let s := (List.range 16).foldl (fun s i => setFe s k (off + 4 * i) true) s
  let next : StreamDesc := { d with pos := BitVec.ofNat 32 ((d.pos.toNat + 1) % d.slots.toNat) }
  s.modIo k (fun io => { io with descs := io.descs.setIfInBounds p.1 next })

/-- Pops, then pushes (R72). -/
def applyAll (w : Work) : State :=
  w.groups.foldl applyGroup (w.pushes.foldl applyPush (w.pops.foldl applyPop w.s))

/-- The innermost active level. -/
def Ctx.level (x : Ctx) : LoopLevel := (x.loops[x.depth - 1]?).getD {}

/-- The image pointer of the context's work unit, from which loop starts count (R27). -/
def imageOf (s : State) (k : Nat) : Word := match (s.tile k).work with
  | some u => u.image
  | none => 0

/-- Offset of the last word of a level's body (R118). -/
def LoopLevel.last (l : LoopLevel) (image : Word) : Nat := ptrOff image + 4 * l.start.toNat + 4 * (l.len.toNat - 1)

/-- The end of loops at the word whose offset is `off` (R119); at most four levels end. [log 18 DEDUCED, 69 DESIGN CHOICE] -/
def loopEnd (image : Word) (off : Nat) : Nat → Ctx → Ctx × Option Nat
  | 0, x => (x, none)
  | n + 1, x =>
    if 0 < x.depth ∧ off = x.level.last image then
      let l := x.level
      let x := { x with loops := x.loops.setIfInBounds (x.depth - 1) { l with count := l.count - 1 } }
      if l.count - 1 ≠ 0 then (x, some (ptrOff image + 4 * l.start.toNat))
      else loopEnd image off n { x with depth := x.depth - 1 }
    else (x, none)

/-- A jump from offset `x0` to offset `t` ends the levels that it leaves (R120). [log 69 DESIGN CHOICE] -/
def loopExit (image : Word) (x0 t : Nat) : Nat → Ctx → Ctx
  | 0, x => x
  | n + 1, x =>
    let l := x.level
    let lo := ptrOff image + 4 * l.start.toNat
    let inBody (a : Nat) : Bool := decide (lo ≤ a ∧ a ≤ l.last image)
    if 0 < x.depth ∧ inBody x0 ∧ ¬ inBody t then
      loopExit image x0 t n
        { x with loops := x.loops.setIfInBounds (x.depth - 1) { l with count := 0 }, depth := x.depth - 1 }
    else x

/-- RPTIDX of replay `i` and position `j` (R84). -/
def rptIdx (i j : Nat) : BitVec 14 := BitVec.ofNat 14 (i * 256 + j)

/-- The context goes on after a word that made no taken transfer: inside a repeat frame at the next word or replay, else
at the next word, with the loop ends of R119 (R84). [log 18 DEDUCED] -/
def goOn (s : State) : State :=
  let x := s.curCtx
  let image := imageOf s s.curKey
  match x.frame with
  | none =>
    let off := ptrOff x.pc
    let r := loopEnd image off 4 x
    s.modCur (fun _ => { r.1 with pc := ptrWithOff x.pc (r.2.getD (off + 4)) })
  | some f =>
    let n := f.words.length
    if f.j + 1 < n then s.modCur (fun x => { x with frame := some { f with j := f.j + 1 } })
    else if f.i + 1 < bits f.rpt.toNat 16 6 + 1 then s.modCur (fun x => { x with frame := some { f with i := f.i + 1, j := 0 } })
    else
      let off := ptrOff f.base + 4 * n
      let r := loopEnd image off 4 { x with frame := none }
      s.modCur (fun _ => { r.1 with pc := ptrWithOff f.base (r.2.getD (off + 4)) })

/-- The issuing context goes on where the instruction sends it. -/
def finish (w : Work) : State :=
  let s := (applyAll w).modCur (fun x => { x with replay := none, slotsRead := [], refused := [], mmaRow := w.resume })
  if w.gone then s
  else match w.target with
    | some t => s.modCur (fun x => { x with pc := t })
    | none => goOn s

/-! ### OVERRUN (R34, R342) -/

/-- The resource that an OVERRUN of subcause 1 names. -/
def undeclared (v : Word) : Option Nat := if bits v.toNat 0 4 = 1 then some (bits v.toNat 8 8) else none

/-- The booking that runs in the issuing context, with another mask. -/
def withMask (s : State) (f : Word → Word) : State :=
  match s.curCtx.handle with
  | some h => s.modCsr s.curKey (fun r => 
      match r.books[h]? with
      | some b => { r with books := r.books.setIfInBounds h { b with mask := f b.mask } }
      | none => r)
  | none => s

/-- The resources of `l` are taken as declared. -/
def granting (l : List Nat) (s : State) : State := withMask s (fun m => l.foldl (fun m n => m ||| 1#64 <<< n) m)

/-- An instruction that meets OVERRUN as soon as it needs a resource of its own: the resources that it needs beyond those of `l`, and the
cause of a lower number that it meets beside them, if any; `n` bounds the resources. -/
def overruns (m : M Unit) (w0 : Work) : Nat → List Nat → List Nat × Option (Stop × Work)
  | 0, l => (l, none)
  | n + 1, l =>
    let again (v : Word) : List Nat × Option (Stop × Work) := match undeclared v with
      | some i => overruns m w0 n (insertNat l i)
      | none => (l, none)
    let back (w : Work) : Work := { w with s := withMask w.s (fun m => l.foldl (fun m i => m &&& ~~~(1#64 <<< i)) m) }
    match m { w0 with s := granting l w0.s } with
    | .error (.trap c v) w => if c = .overrun then again v else (l, some (.trap c v, back w))
    | .error (.trapRow c v r) w => if c = .overrun then again v else (l, some (.trapRow c v r, back w))
    | .error (.contain c v r) w => (l, some (.contain c v r, back w))
    | .error _ _ | .ok _ _ => (l, none)

/-- How an instruction ends that has met OVERRUN with value `v`: with a cause of a lower number that it meets as well (R34), else with OVERRUN, which
names the lowest of the undeclared resources and leaves everything as it was (R342). -/
def overrunEnd (m : M Unit) (w0 : Work) (v : Word) : EStateM.Result Stop Work Unit :=
  match overruns m w0 27 [] with
  | (_, some (e, w)) => .error e w
  | (n :: _, none) => .error (.trap .overrun (BitVec.ofNat 64 (n * 256 + v.toNat % 256))) w0
  | ([], none) => .error (.trap .overrun v) w0

/-- OVERRUN met in a fetch of an MMA, which ends before that row and leaves the rows before it written (R212, R213). [log 20 DEDUCED] -/
def overrunRow (m : M Unit) (w0 : Work) (v : Word) : Word :=
  match undeclared v, (overruns m w0 27 []).1 with
  | some _, n :: _ => BitVec.ofNat 64 (n * 256 + v.toNat % 256)
  | _, _ => v

/-- An instruction from its start, with the one cause that it raises (R34). [log 27 DEDUCED] -/
def attempt (m : M Unit) (w0 : Work) : EStateM.Result Stop Work Unit :=
  match withRoom m w0 with
  | .error (.trap .overrun v) _ => overrunEnd (withRoom m) w0 v
  | .error (.trapRow .overrun v r) w => .error (.trapRow .overrun (overrunRow m w0 v) r) w
  | r => r

/-- An instruction that has read ring slots waits: the slots stay its own until it completes or traps (R162). -/
def keepSlots (w : Work) : State :=
  if w.slots false = [] then w.s else w.s.modCur (fun x => { x with slotsRead := w.slots false })

/-- An instruction of the issuing context: it completes, traps or waits. -/
def runM (m : M Unit) (s : State) : Host.Outcome State Fault Refusal :=
  let done (s : State) : State := forgetInstr s s.curKey s.cur.ctx
  match attempt m { s := rewindTwin s s.curKey } with
  | .ok _ w => .next (finish { w with s := done w.s })
  | .error (.trap c v) w => .next (takeTrap (done w.s) c v)
  | .error (.trapNext c v) w =>
    let s := done w.s
    .next (takeTrapAt s s.curKey s.cur.ctx c v (ptrWithOff s.curCtx.pc (ptrOff s.curCtx.pc + 4)) false)
  | .error (.trapRow c v r) w =>
    let s := (done w.s).modCur (fun x => { x with mrow := mrowAt x.mrow r })
    .next (takeTrapAt s s.curKey s.cur.ctx c v s.curCtx.pc (decide (r ≠ 0)))
  | .error (.contain c v r) w =>
    .next (containCtx (done w.s) w.s.curKey w.s.cur.ctx c v (decide (r ≠ 0)))
  | .error (.refer ws d p) w => .next (enterRefer (keepSlots w) ws d p)
  | .error (.wait x) w => .next (enterWait w.s x)
  | .error .retry w => .next (enterWait (keepSlots w) .issue)

/-- A step of the part that is no instruction. -/
def runE (f : State → State) (s : State) : Host.Outcome State Fault Refusal := .next (f s)

end Sys2Proof.Machine
end

