-- ==== Sys2Proof/Machine/IntR.lean ====
section
/-! DEFINITION. Register integer operations (R105 to R108) and immediate operations (R109 to R111). -/

namespace Sys2Proof.Machine

/-! ### Integer types and operations -/

/-- The width of an integer type (R105). -/
def intWidth (t : BitVec 4) : Nat := 8 * 2 ^ (t.toNat % 4)

/-- The class of an integer type: 0 raw, 1 signed, 2 unsigned, 3 reserved (R105). -/
def intClass (t : BitVec 4) : Nat := t.toNat / 4

/-- A result of w bits extended to 64: by sign for a signed type, by zeros for the others (R105). -/
def extendInt (t : BitVec 4) (r : Nat) : Word :=
  if intClass t = 1 then BitVec.ofInt 64 (readInt true (intWidth t) r) else BitVec.ofNat 64 (r % 2 ^ intWidth t)

/-- The classes raw, signed and unsigned; signed; unsigned; raw and signed (R106). -/
def clsAny : List Nat := [0, 1, 2]
def clsI : List Nat := [1]
def clsN : List Nat := [2]
def clsBI : List Nat := [0, 1]

/-- The checks of a type field: a reserved class is ILLEGAL, a class that the function does not list UNIMPL with the fn and
ty fields (R105, R106). -/
def checkInt (classes : List Nat) (t : BitVec 4) (iw : Word32) : M Unit := do
  require (intClass t != 3) iw
  supported (classes.contains (intClass t)) 0x7FF iw

/-- A binary function of R106: `f w x y` has bits w−1:0 of S[a] as x and the whole of S[b] as y. -/
def binOp (classes : List Nat) (f : Nat → Nat → Nat → Nat) (d a b : BitVec 5) (t : BitVec 4) (iw : Word32) : M Unit := do
  checkInt classes t iw
  let x ← srcS a
  let y ← srcS b
  dstS d (extendInt t (f (intWidth t) (x.toNat % 2 ^ intWidth t) y.toNat))

/-- A unary function of R106. -/
def unOp (classes : List Nat) (f : Nat → Nat → Nat) (d a : BitVec 5) (t : BitVec 4) (iw : Word32) : M Unit := do
  checkInt classes t iw
  let x ← srcS a
  dstS d (extendInt t (f (intWidth t) (x.toNat % 2 ^ intWidth t)))

/-- The functions of R106; `y` is the whole register. -/
def intAdd (w x y : Nat) : Nat := (x + y % 2 ^ w) % 2 ^ w
def intSub (w x y : Nat) : Nat := (x + 2 ^ w - y % 2 ^ w) % 2 ^ w
def intMul (w x y : Nat) : Nat := x * (y % 2 ^ w) % 2 ^ w
def intMulh (w x y : Nat) : Nat := wrapInt w ((readInt true w x * readInt true w y) / 2 ^ w)
def intMulhn (w x y : Nat) : Nat := x * (y % 2 ^ w) / 2 ^ w
def intAnd (w x y : Nat) : Nat := x &&& (y % 2 ^ w)
def intOr (w x y : Nat) : Nat := x ||| (y % 2 ^ w)
def intXor (w x y : Nat) : Nat := x ^^^ (y % 2 ^ w)
def intAndn (w x y : Nat) : Nat := x &&& (2 ^ w - 1 - y % 2 ^ w)

/-- Division and remainder (R108). -/
def intDiv (w x y : Nat) : Nat :=
  if y % 2 ^ w = 0 then 2 ^ w - 1 else wrapInt w ((readInt true w x).tdiv (readInt true w y))
def intDivn (w x y : Nat) : Nat := if y % 2 ^ w = 0 then 2 ^ w - 1 else x / (y % 2 ^ w)
def intRem (w x y : Nat) : Nat :=
  if y % 2 ^ w = 0 then x else wrapInt w ((readInt true w x).tmod (readInt true w y))
def intRemn (w x y : Nat) : Nat := if y % 2 ^ w = 0 then x else x % (y % 2 ^ w)

/-- Shifts: the count is the whole of `y` (R107). -/
def intShl (w x y : Nat) : Nat := if y < w then x * 2 ^ y % 2 ^ w else 0
def intShr (w x y : Nat) : Nat := if y < w then x / 2 ^ y else 0
def intSra (w x y : Nat) : Nat := wrapInt w (readInt true w x / 2 ^ (if y < w then y else w))
def intRot (w x y : Nat) : Nat := (x * 2 ^ (y % w) + x / 2 ^ (w - y % w)) % 2 ^ w

/-- Comparisons (R106). -/
def intMinS (w x y : Nat) : Nat := if readInt true w x < readInt true w y then x else y % 2 ^ w
def intMaxS (w x y : Nat) : Nat := if readInt true w x < readInt true w y then y % 2 ^ w else x
def intMinN (w x y : Nat) : Nat := min x (y % 2 ^ w)
def intMaxN (w x y : Nat) : Nat := max x (y % 2 ^ w)
def intSlt (w x y : Nat) : Nat := if readInt true w x < readInt true w y then 1 else 0
def intSltn (w x y : Nat) : Nat := if x < y % 2 ^ w then 1 else 0
def intSeq (w x y : Nat) : Nat := if x = y % 2 ^ w then 1 else 0

/-- Counts of bits (R106). -/
def intClz (w x : Nat) : Nat := if x = 0 then w else w - 1 - Nat.log2 x
def intCtz (w x : Nat) : Nat := ((List.range w).find? (fun i => decide (bits x i 1 = 1))).getD w
def intPopc (w x : Nat) : Nat := ((List.range w).filter (fun i => decide (bits x i 1 = 1))).length

/-! ### INT.R -/

/-- ADD (R106). -/
def execAdd (d a b : BitVec 5) (t : BitVec 4) (s : State) : Host.Outcome State Fault Refusal :=
  runM (binOp clsAny intAdd d a b t (wordOf (.add d a b t))) s

/-- SUB (R106). -/
def execSub (d a b : BitVec 5) (t : BitVec 4) (s : State) : Host.Outcome State Fault Refusal :=
  runM (binOp clsAny intSub d a b t (wordOf (.sub d a b t))) s

/-- MUL (R106). -/
def execMul (d a b : BitVec 5) (t : BitVec 4) (s : State) : Host.Outcome State Fault Refusal :=
  runM (binOp clsAny intMul d a b t (wordOf (.mul d a b t))) s

/-- MULH (R106). -/
def execMulh (d a b : BitVec 5) (t : BitVec 4) (s : State) : Host.Outcome State Fault Refusal :=
  runM (binOp clsI intMulh d a b t (wordOf (.mulh d a b t))) s

/-- MULHN (R106). -/
def execMulhn (d a b : BitVec 5) (t : BitVec 4) (s : State) : Host.Outcome State Fault Refusal :=
  runM (binOp clsN intMulhn d a b t (wordOf (.mulhn d a b t))) s

/-- DIV (R106). -/
def execDiv (d a b : BitVec 5) (t : BitVec 4) (s : State) : Host.Outcome State Fault Refusal :=
  runM (binOp clsI intDiv d a b t (wordOf (.div d a b t))) s

/-- DIVN (R106). -/
def execDivn (d a b : BitVec 5) (t : BitVec 4) (s : State) : Host.Outcome State Fault Refusal :=
  runM (binOp clsN intDivn d a b t (wordOf (.divn d a b t))) s

/-- REM (R106). -/
def execRem (d a b : BitVec 5) (t : BitVec 4) (s : State) : Host.Outcome State Fault Refusal :=
  runM (binOp clsI intRem d a b t (wordOf (.rem d a b t))) s

/-- REMN (R106). -/
def execRemn (d a b : BitVec 5) (t : BitVec 4) (s : State) : Host.Outcome State Fault Refusal :=
  runM (binOp clsN intRemn d a b t (wordOf (.remn d a b t))) s

/-- AND (R106). -/
def execAnd (d a b : BitVec 5) (t : BitVec 4) (s : State) : Host.Outcome State Fault Refusal :=
  runM (binOp clsAny intAnd d a b t (wordOf (.and d a b t))) s

/-- OR (R106). -/
def execOr (d a b : BitVec 5) (t : BitVec 4) (s : State) : Host.Outcome State Fault Refusal :=
  runM (binOp clsAny intOr d a b t (wordOf (.or d a b t))) s

/-- XOR (R106). -/
def execXor (d a b : BitVec 5) (t : BitVec 4) (s : State) : Host.Outcome State Fault Refusal :=
  runM (binOp clsAny intXor d a b t (wordOf (.xor d a b t))) s

/-- ANDN (R106). -/
def execAndn (d a b : BitVec 5) (t : BitVec 4) (s : State) : Host.Outcome State Fault Refusal :=
  runM (binOp clsAny intAndn d a b t (wordOf (.andn d a b t))) s

/-- SHL (R106). -/
def execShl (d a b : BitVec 5) (t : BitVec 4) (s : State) : Host.Outcome State Fault Refusal :=
  runM (binOp clsAny intShl d a b t (wordOf (.shl d a b t))) s

/-- SHR (R106). -/
def execShr (d a b : BitVec 5) (t : BitVec 4) (s : State) : Host.Outcome State Fault Refusal :=
  runM (binOp clsAny intShr d a b t (wordOf (.shr d a b t))) s

/-- SRA (R106). -/
def execSra (d a b : BitVec 5) (t : BitVec 4) (s : State) : Host.Outcome State Fault Refusal :=
  runM (binOp clsBI intSra d a b t (wordOf (.sra d a b t))) s

/-- ROT (R106). -/
def execRot (d a b : BitVec 5) (t : BitVec 4) (s : State) : Host.Outcome State Fault Refusal :=
  runM (binOp clsAny intRot d a b t (wordOf (.rot d a b t))) s

/-- MIN (R106). -/
def execMin (d a b : BitVec 5) (t : BitVec 4) (s : State) : Host.Outcome State Fault Refusal :=
  runM (binOp clsI intMinS d a b t (wordOf (.min d a b t))) s

/-- MAX (R106). -/
def execMax (d a b : BitVec 5) (t : BitVec 4) (s : State) : Host.Outcome State Fault Refusal :=
  runM (binOp clsI intMaxS d a b t (wordOf (.max d a b t))) s

/-- MINN (R106). -/
def execMinn (d a b : BitVec 5) (t : BitVec 4) (s : State) : Host.Outcome State Fault Refusal :=
  runM (binOp clsN intMinN d a b t (wordOf (.minn d a b t))) s

/-- MAXN (R106). -/
def execMaxn (d a b : BitVec 5) (t : BitVec 4) (s : State) : Host.Outcome State Fault Refusal :=
  runM (binOp clsN intMaxN d a b t (wordOf (.maxn d a b t))) s

/-- SLT (R106). -/
def execSlt (d a b : BitVec 5) (t : BitVec 4) (s : State) : Host.Outcome State Fault Refusal :=
  runM (binOp clsI intSlt d a b t (wordOf (.slt d a b t))) s

/-- SLTN (R106). -/
def execSltn (d a b : BitVec 5) (t : BitVec 4) (s : State) : Host.Outcome State Fault Refusal :=
  runM (binOp clsN intSltn d a b t (wordOf (.sltn d a b t))) s

/-- SEQ (R106). -/
def execSeq (d a b : BitVec 5) (t : BitVec 4) (s : State) : Host.Outcome State Fault Refusal :=
  runM (binOp clsAny intSeq d a b t (wordOf (.seq d a b t))) s

/-- CLZ (R106). -/
def execClz (d a : BitVec 5) (t : BitVec 4) (s : State) : Host.Outcome State Fault Refusal :=
  runM (unOp clsAny intClz d a t (wordOf (.clz d a t))) s

/-- CTZ (R106). -/
def execCtz (d a : BitVec 5) (t : BitVec 4) (s : State) : Host.Outcome State Fault Refusal :=
  runM (unOp clsAny intCtz d a t (wordOf (.ctz d a t))) s

/-- POPC (R106). -/
def execPopc (d a : BitVec 5) (t : BitVec 4) (s : State) : Host.Outcome State Fault Refusal :=
  runM (unOp clsAny intPopc d a t (wordOf (.popc d a t))) s

/-- SEXT (R106). -/
def execSext (d a : BitVec 5) (t : BitVec 4) (s : State) : Host.Outcome State Fault Refusal :=
  runM (unOp clsI (fun _ x => x) d a t (wordOf (.sext d a t))) s

/-- ZEXT (R106). -/
def execZext (d a : BitVec 5) (t : BitVec 4) (s : State) : Host.Outcome State Fault Refusal :=
  runM (unOp clsN (fun _ x => x) d a t (wordOf (.zext d a t))) s

/-! ### Immediate operations (R109 to R111) -/

/-- A function of S[a] and an immediate. -/
def immOp (f : Word → Word) (d a : BitVec 5) : M Unit := do
  let x ← srcS a
  dstS d (f x)

/-- ADDI: the immediate is extended by sign (R109). -/
def execAddi (d a : BitVec 5) (i : BitVec 16) (s : State) : Host.Outcome State Fault Refusal :=
  runM (immOp (fun x => x + i.signExtend 64) d a) s

/-- ANDI: the immediate is extended by sign (R109). -/
def execAndi (d a : BitVec 5) (i : BitVec 16) (s : State) : Host.Outcome State Fault Refusal :=
  runM (immOp (fun x => x &&& i.signExtend 64) d a) s

/-- ORI: the immediate is extended by zeros (R109). -/
def execOri (d a : BitVec 5) (i : BitVec 16) (s : State) : Host.Outcome State Fault Refusal :=
  runM (immOp (fun x => x ||| i.setWidth 64) d a) s

/-- XORI: the immediate is extended by zeros (R109). -/
def execXori (d a : BitVec 5) (i : BitVec 16) (s : State) : Host.Outcome State Fault Refusal :=
  runM (immOp (fun x => x ^^^ i.setWidth 64) d a) s

/-- SHLI (R110). -/
def execShli (d a : BitVec 5) (c : BitVec 6) (s : State) : Host.Outcome State Fault Refusal :=
  runM (immOp (fun x => x <<< c.toNat) d a) s

/-- SHRI (R110). -/
def execShri (d a : BitVec 5) (c : BitVec 6) (s : State) : Host.Outcome State Fault Refusal :=
  runM (immOp (fun x => x >>> c.toNat) d a) s

/-- SRAI (R110). -/
def execSrai (d a : BitVec 5) (c : BitVec 6) (s : State) : Host.Outcome State Fault Refusal :=
  runM (immOp (fun x => x.sshiftRight c.toNat) d a) s

/-- LIL (R111). -/
def execLil (d : BitVec 5) (i : BitVec 16) (s : State) : Host.Outcome State Fault Refusal :=
  runM (dstS d (i.signExtend 64)) s

/-- Bits 16 h + 15 to 16 h of a register are replaced. -/
def insertHalf (x : Word) (h : Nat) (i : BitVec 16) : Word :=
  (x &&& ~~~(0xFFFF#64 <<< (16 * h))) ||| (i.setWidth 64 <<< (16 * h))

/-- LIH: h is 1 to 3, and d must not name a mapped queue (R111). -/
def execLih (d h : BitVec 5) (i : BitVec 16) (s : State) : Host.Outcome State Fault Refusal :=
  runM (do
    let iw := wordOf (.lih d h i)
    require (decide (1 ≤ h.toNat ∧ h.toNat ≤ 3)) iw
    require (queueOf s.curCtx d).isNone iw
    dstS d (insertHalf (s.curCtx.sreg d) h.toNat i)) s

end Sys2Proof.Machine
end

