-- ==== Sys2Proof/Machine/Control.lean ====
section
/-! DEFINITION. Pointer operations (R112, R113), branches and jumps (R114 to R117), hardware loops (R118 to R121), the
repeat frame (R80 to R87, R122), CSR access (R29, R30, R123 to R125), and the system instructions but HALT (R126 to
R130). -/

namespace Sys2Proof.Machine

/-! ### Pointers (R112, R113) -/

/-- S[a] with OFF moved by n, or PTROVF with the pointer in TVAL. -/
def moveOff (p : Word) (n : Int) : M Word :=
  let o : Int := ptrOff p + n
  if 0 ≤ o ∧ o < 2 ^ 40 then pure (ptrWithOff p o.toNat) else trapM .ptrovf p

/-- PADD (R112). -/
def execPadd (d a b : BitVec 5) (s : State) : Host.Outcome State Fault Refusal :=
  runM (do
    let p ← srcS a
    let n ← srcS b
    dstS d (← moveOff p n.toInt)) s

/-- PADDI (R113). -/
def execPaddi (d a : BitVec 5) (i : BitVec 16) (s : State) : Host.Outcome State Fault Refusal :=
  runM (do
    let p ← srcS a
    dstS d (← moveOff p i.toInt)) s

/-- Lowest bit and width of a pointer field: 0 FMT, 1 BLK, 2 DIE, 3 OFF (R44, R112). -/
def ptrField (t : BitVec 4) : Nat × Nat :=
  match t.toNat with
  | 0 => (59, 5)
  | 1 => (56, 3)
  | 2 => (40, 16)
  | _ => (0, 40)

/-- PSET (R112). -/
def execPset (d a b : BitVec 5) (t : BitVec 4) (s : State) : Host.Outcome State Fault Refusal :=
  runM (do
    require (decide (t.toNat < 4)) (wordOf (.pset d a b t))
    let p ← srcS a
    let v ← srcS b
    let (lo, len) := ptrField t
    if 2 ^ len ≤ v.toNat then trapM .ptrovf p
    dstS d (BitVec.ofNat 64 (p.toNat - bits p.toNat lo len * 2 ^ lo + v.toNat * 2 ^ lo))) s

/-- PGET (R112). -/
def execPget (d a : BitVec 5) (t : BitVec 4) (s : State) : Host.Outcome State Fault Refusal :=
  runM (do
    require (decide (t.toNat < 4)) (wordOf (.pget d a t))
    let p ← srcS a
    let (lo, len) := ptrField t
    dstS d (BitVec.ofNat 64 (bits p.toNat lo len))) s

/-- A pointer with DIE 0xFFFF replaced by CSR.DIEID (R112). -/
def fixDie (did : Nat) (p : Word) : Word := if ptrDie p = 0xFFFF then ptrWithDie p did else p

/-- PDIE (R112). -/
def execPdie (d a : BitVec 5) (s : State) : Host.Outcome State Fault Refusal :=
  runM (do
    let p ← srcS a
    dstS d (fixDie (s.dieId s.curKey) p)) s

/-- PDIFF (R112). -/
def execPdiff (d a b : BitVec 5) (s : State) : Host.Outcome State Fault Refusal :=
  runM (do
    let p ← srcS a
    let q ← srcS b
    let did := s.dieId s.curKey
    dstS d (if ptrDie (fixDie did p) = ptrDie (fixDie did q) then BitVec.ofInt 64 ((ptrOff p : Int) - ptrOff q)
      else 0x8000000000000000#64)) s

/-! ### Branches and jumps (R73, R114 to R117, R120) -/

/-- The target of a relative transfer of n words, or PTROVF with the PC in TVAL (R73). -/
def relTarget (n : Int) : M Word := do
  let pc := (← getS).curCtx.pc
  let (t, o) := formPtr pc (4 * n)
  if o then trapM .ptrovf pc else pure t

/-- The context goes on at `t`. -/
def goTo (t : Word) : M Unit := modify (fun w => { w with target := some t })

/-- A jump to `t` ends the loops that it leaves (R120). -/
def jump (t : Word) : M Unit := do
  let image := imageOf (← getS) (← getS).curKey
  modS (fun s => s.modCur (fun x => loopExit image (ptrOff x.pc) (ptrOff t) 4 x))
  goTo t

/-- The conditions of BR (R114). -/
def brTaken (c : BitVec 4) (x y : Word) : Bool :=
  match c.toNat with
  | 0 => x == y
  | 1 => x != y
  | 2 => x.slt y
  | 3 => !x.slt y
  | 4 => x.ult y
  | _ => !x.ult y

/-- BR (R114). -/
def execBr (c : BitVec 4) (a b : BitVec 5) (o : BitVec 12) (s : State) : Host.Outcome State Fault Refusal :=
  runM (do
    require (decide (c.toNat < 6)) (wordOf (.br c a b o))
    let x ← srcS a
    let y ← srcS b
    if brTaken c x y then jump (← relTarget o.toInt)) s

/-- JMP (R115). -/
def execJmp (o : BitVec 26) (s : State) : Host.Outcome State Fault Refusal :=
  runM (do jump (← relTarget o.toInt)) s

/-- The address of the next word, as a full pointer. -/
def linkOf (s : State) : Word := ptrWithOff s.curCtx.pc (ptrOff s.curCtx.pc + 4)

/-- JAL: s31 takes the link, whatever QMAP holds; a call ends no loop (R115, R120). -/
def execJal (o : BitVec 26) (s : State) : Host.Outcome State Fault Refusal :=
  runM (do
    let t ← relTarget o.toInt
    setRegS 31 (linkOf s)
    goTo t) s

/-- JALR (R116, R117). -/
def execJalr (d a : BitVec 5) (i : BitVec 16) (s : State) : Host.Outcome State Fault Refusal :=
  runM (do
    let p ← srcS a
    if ptrFmt p ≠ 0 ∨ ptrBlk p ≠ 0 then trapM .illfmt p
    let t ← moveOff p (4 * i.toInt)
    if ptrOff t % 4 ≠ 0 then trapM .misalign t
    dstS d (linkOf s)
    if d = 0 then jump t else goTo t) s

/-! ### Loops (R118) -/

/-- LOOP and LOOPI from their count on. [log 18 DEDUCED, 70 DESIGN CHOICE] -/
def loopOp (count : M (BitVec 32)) (l : BitVec 10) (v : BitVec 2) (iw : Word32) : M Unit := do
  let s ← getS
  let x := s.curCtx
  require (l != 0) iw
  require (decide (v.toNat = x.depth)) iw
  let n ← count
  let image := imageOf s s.curKey
  let start := ptrOff x.pc + 4
  require (decide (ptrOff image ≤ start ∧ start - ptrOff image < 2 ^ 24)) iw
  if n = 0 then
    let r := loopEnd image (ptrOff x.pc) 4 x
    modS (fun s => s.modCur (fun _ => r.1))
    goTo (ptrWithOff x.pc (r.2.getD (start + 4 * l.toNat)))
  else
    let lev : LoopLevel := { count := n, start := BitVec.ofNat 22 ((start - ptrOff image) / 4), len := l }
    modS (fun s => s.modCur (fun x => { x with loops := x.loops.setIfInBounds x.depth lev, depth := x.depth + 1 }))
    goTo (ptrWithOff x.pc start)

/-- LOOP: the count is S[cnt] bits 31:0 (R118). -/
def execLoop (c : BitVec 5) (l : BitVec 10) (v : BitVec 2) (s : State) : Host.Outcome State Fault Refusal :=
  runM (loopOp (do return (← srcS c).setWidth 32) l v (wordOf (.loop c l v))) s

/-- LOOPI: the count is concat(chi, cnt) (R118). -/
def execLoopi (c : BitVec 5) (l : BitVec 10) (v : BitVec 2) (h : BitVec 8) (s : State) :
    Host.Outcome State Fault Refusal :=
  runM (loopOp (pure ((h ++ c).setWidth 32)) l v (wordOf (.loopi c l v h))) s

/-! ### The repeat frame (R80 to R86) -/

/-- A failure to fetch holds the fetch address in TVAL (R66). [log 65 DESIGN CHOICE] -/
def fetchStop (p : Word) : Stop → Stop
  | .trap .overrun v => .trap .overrun v
  | .trap c _ => .trap c p
  | .contain c _ r => .contain c p r
  | e => e

/-- The word at `p`, fetched as a 4-byte load; at a comparator the fetch has sender `key`, 0 for the context itself (R66, R417). [log 9 DESIGN CHOICE] -/
def fetchAs (key : Nat) (p : Word) : M Word32 := fun w =>
  match liftA (readAcc { tile := w.s.curKey, ctx := w.s.cur.ctx, engine := false, unit := key } (accAt p 0 4 4 .fetch)) w with
  | .ok bs w => .ok (BitVec.ofNat 32 (natOfBytes bs)) w
  | .error e w => .error (fetchStop p e) w

/-- The word at `p`, fetched for an instruction under way (R66). [log 9 DESIGN CHOICE] -/
def fetchM (p : Word) : M Word32 := fetchAs 0 p

/-- The n words after the RPT at `p`, fetched in order. -/
def fetchWords (p : Word) : Nat → M (List Word32)
  | 0 => pure []
  | n + 1 => do
    let l ← fetchWords p n
    let w ← fetchM (ptrWithOff p (ptrOff p + 4 * (n + 1)))
    pure (l ++ [w])

/-- Whether a word of a major may stand in a frame (R81). -/
def framePermits (w : Word32) : Bool :=
  let m := bits w.toNat 26 6
  decide ((1 ≤ m ∧ m ≤ 7) ∨ (0x18 ≤ m ∧ m ≤ 0x1C) ∨ m = 0x1E ∨ m = 0x32)

/-- Whether the frame of n words after offset `x` lies partly in the body of an active level (R81). [log 69 DESIGN CHOICE] -/
def frameStraddles (image : Word) (c : Ctx) (x n : Nat) : Bool :=
  (List.range c.depth).any (fun i =>
    let l := (c.loops[i]?).getD {}
    let inBody (a : Nat) : Bool := decide (ptrOff image + 4 * l.start.toNat ≤ a ∧ a ≤ l.last image)
    let ins := (List.range (n + 1)).map (fun j => inBody (x + 4 * j))
    ins.any id && !(ins.all id))

/-- The words captured by the RPT word `r` at `p`, checked before any runs (R81). [log 19 DEDUCED, 67 DESIGN CHOICE] -/
def captureFrame (p : Word) (r : Word32) : M (List Word32) := do
  let n := bits r.toNat 22 4 + 1
  let ws ← fetchWords p n
  match (indexed 0 ws).find? (fun e => !framePermits e.2) with
  | some e => do
    modS (fun s => s.modCur (fun x => { x with rptidx := rptIdx 0 e.1 }))
    illegal e.2
  | none => do
    let s ← getS
    if frameStraddles (imageOf s s.curKey) s.curCtx (ptrOff p) n then illegal r
    pure ws

/-- The context enters a frame at replay i and position j (R84). -/
def enterFrame (p : Word) (r : Word32) (ws : List Word32) (i j : Nat) : M Unit :=
  modify (fun w => { w with
    gone := true
    s := w.s.modCur (fun x => { x with pc := p, frame := some { base := p, rpt := r, words := ws, i := i, j := j } }) })

/-- RPT (R80 to R84, R122). -/
def execRpt (n : BitVec 4) (k : BitVec 6) (d a b : BitVec 4) (s : State) : Host.Outcome State Fault Refusal :=
  runM (do
    let r := wordOf (.rpt n k d a b)
    let ws ← captureFrame s.curCtx.pc r
    enterFrame s.curCtx.pc r ws 0 0) s

/-- A register field of `len` bits at `lo` moved by i times a signed stride (R82). -/
def adjustField (w : Word32) (lo len i : Nat) (stride : BitVec 4) : Word32 :=
  let v := ((bits w.toNat lo len : Int) + i * stride.toInt) % 2 ^ len
  BitVec.ofNat 32 (w.toNat - bits w.toNat lo len * 2 ^ lo + v.toNat * 2 ^ lo)

/-- The register fields of a captured word and the stride that moves each: 0 sd, 1 sa, 2 sb. A field that the entry uses
as a selector, a function or a control value, or requires to be zero, is not listed (R82, R83). -/
def frameFields (w : Word32) : List (Nat × Nat × Nat) :=
  let m := bits w.toNat 26 6
  let fn := bits w.toNat 4 4
  if m = 1 then
    if 0x30 ≤ bits w.toNat 4 7 then [(21, 5, 0), (16, 5, 1)] else [(21, 5, 0), (16, 5, 1), (11, 5, 2)]
  else if m = 7 then [(21, 5, 0)]
  else if 2 ≤ m ∧ m ≤ 6 then [(21, 5, 0), (16, 5, 1)]
  else if m = 0x18 then
    if fn = 4 ∨ fn = 7 ∨ fn = 8 then [(21, 5, 0), (16, 5, 1)] else [(21, 5, 0), (16, 5, 1), (11, 5, 2)]
  else if m = 0x19 ∨ m = 0x1B then [(21, 5, 0), (16, 5, 1), (11, 5, 2)]
  else if m = 0x1A then [(21, 5, 0), (6, 5, 0), (16, 5, 1), (11, 5, 2)]
  else if m = 0x1C ∨ m = 0x1E then [(21, 5, 0), (16, 5, 1)]
  else if m = 0x32 then [(23, 3, 0), (18, 5, 1), (13, 5, 2)]
  else []

/-- Word `w` of a frame as replay i of the RPT word `r` executes it (R82, R83). -/
def adjustWord (r w : Word32) (i : Nat) : Word32 :=
  (frameFields w).foldl (fun w f =>
    adjustField w f.1 f.2.1 i (if f.2.2 = 0 then r.extractLsb' 12 4 else if f.2.2 = 1 then r.extractLsb' 8 4
      else r.extractLsb' 4 4)) w

/-- The word that the issuing context executes next: the next word of its repeat frame, adjusted, or the word at its PC. [log 9 DESIGN CHOICE] -/
def nextWord : M Word32 := do
  let s ← getS
  let x := s.curCtx
  match x.frame with
  | some f => do
    modS (fun s => s.modCur (fun x => { x with rptidx := rptIdx f.i f.j }))
    pure (adjustWord f.rpt ((f.words[f.j]?).getD 0) f.i)
  | none => do
    modS (fun s => rewindTwin s s.curKey)
    fetchAs (fetchKey s.cur.ctx) x.pc

/-! ### CSR access (R29, R30, R123 to R125) -/

/-- A sum of bit fields, each at its lowest bit. -/
def pack (l : List (Nat × Nat)) : Word := BitVec.ofNat 64 (l.foldl (fun n e => n + e.2 * 2 ^ e.1) 0)

/-- The code of a booking state (R30). -/
def BkStat.code : BkStat → Nat
  | .free => 0
  | .booked => 1
  | .running => 2
  | .lapsed => 3

/-- The code of an accumulator slot's state (R22). -/
def SlotState.code : SlotState → Nat
  | .free => 0
  | .mma => 1
  | .epiq => 2
  | .epi => 3

/-- LOGCAP: free log of the fuller stack of the die in units of 64 KiB, and whether the superstep is irrevocable (R29,
R275). -/
def logcap (s : State) (k : Nat) : Word :=
  match (s.tile k).work with
  | none => 0
  | some u =>
    let d := tileDie k
    let used := max (ulogUsed s d u.barKey 0) (ulogUsed s d u.barKey 1)
    pack [(63, ((s.die d).irrevocable.any (fun r => r.1 = u.barKey)).toNat),
      (0, (ulogBytes s u.launch - used) / 65536 % 2 ^ 32)]

/-- The value of a CSR, for the issuing context; `none` where R29 has no such number. [log 11 DESIGN CHOICE] -/
def csrRead (s : State) (n : Nat) : Option Word :=
  let k := s.curKey
  let t := s.tile k
  let x := s.curCtx
  match n with
  | 0x000 => some (BitVec.ofNat 64 (tileId (s.idKey k)))
  | 0x001 => some (BitVec.ofNat 64 (s.dieId k))
  | 0x002 => some (match t.work with
    | some u => pack [(8, u.launch % 2 ^ 32), (0, u.part % 256)]
    | none => 0)
  | 0x003 => some (t.csr.partsz.setWidth 64)
  | 0x010 => some (t.step.ssn.setWidth 64)
  | 0x011 => some (pack [(16, t.step.retry.toNat), (2, t.step.mine.toNat), (0, t.step.out.toNat)])
  | 0x012 => some (pack [(8, t.step.cause.toNat), (0, t.step.pend.toNat)])
  | 0x013 => some (pack [(16, t.poolFree true), (0, t.poolFree false)])
  | 0x014 => some (logcap s k)
  | 0x020 => some (pack [(32, t.csr.pvPending.toNat), (16, t.csr.pvReq.toNat), (0, t.csr.pvCur.toNat)])
  | 0x021 => some (pack [(16, t.csr.pubOldest.toNat), (0, t.csr.pubLatest.toNat)])
  | 0x030 => some (pack [(9, t.csr.slot % 64), (0, (Config.freeCycle s.free).toNat)])
  | 0x031 => some (pack ((indexed 0 t.csr.books.toList).map (fun e => (2 * e.1, e.2.stat.code))))
  | 0x040 => some t.csr.subreg
  | 0x041 => some (x.qmap.setWidth 64)
  | 0x042 => some (x.frm.setWidth 64)
  | 0x050 => some (x.tcause.setWidth 64)
  | 0x051 => some x.tpc
  | 0x052 => some x.tval
  | 0x053 => some (x.tstat.setWidth 64)
  | 0x054 => some (x.rptidx.setWidth 64)
  | 0x055 => some t.csr.tvec
  | 0x060 => some (pack ((indexed 0 t.ctxs.toList).flatMap (fun e =>
      if e.1 = 0 then [] else [(e.1, (decide (e.2.st = .live)).toNat), (16 + e.1, (decide (e.2.st = .faulted)).toNat)])))
  | 0x061 => some (x.mrow.setWidth 64)
  | 0x062 => some (pack ((0, t.eng.head.toNat) :: (indexed 0 t.eng.acc.toList).map (fun e => (8 + 2 * e.1, e.2.st.code))))
  | 0x070 => some t.csr.scopebase
  | _ => none

/-- A read-write CSR: whether it is per tile, the bits that are reserved, and the bits whose writes change nothing (R29,
R30, R124). [log 17 DEDUCED] -/
def csrKind (n : Nat) : Option (Bool × Word × Word) :=
  match n with
  | 0x012 => some (true, ~~~0xFF01#64, 0xFF00#64)
  | 0x040 => some (true, 0x3FE#64, 0)
  | 0x041 => some (false, ~~~0xFF#64, 0)
  | 0x042 => some (false, ~~~0xFF#64, 0)
  | 0x050 => some (false, ~~~0xFF#64, 0)
  | 0x051 => some (false, 0, 0)
  | 0x052 => some (false, 0, 0)
  | 0x053 => some (false, ~~~0xFFF#64, 0xFF0#64)
  | 0x054 => some (false, ~~~0x3F0F#64, 0)
  | 0x055 => some (true, 0x3#64, 0)
  | 0x061 => some (false, ~~~0x8F#64, 0)
  | _ => none

/-- A value that has passed its checks is written to a CSR. -/
def csrPut (s : State) (n : Nat) (v : Word) : State :=
  let k := s.curKey
  match n with
  | 0x012 => s.modStep k (fun st => if v.getLsbD 0 then { st with pend := true } else { st with pend := false, cause := 0 })
  | 0x040 => s.modCsr k (fun r => { r with subreg := v })
  | 0x041 => s.modCur (fun x => { x with qmap := v.setWidth 8 })
  | 0x042 => s.modCur (fun x => { x with frm := v.setWidth 8 })
  | 0x050 => s.modCur (fun x => { x with tcause := v.setWidth 8 })
  | 0x051 => s.modCur (fun x => { x with tpc := v })
  | 0x052 => s.modCur (fun x => { x with tval := v })
  | 0x053 => s.modCur (fun x => { x with tstat := (x.tstat &&& 0xFF0#12) ||| (v.setWidth 12 &&& 0xF#12) })
  | 0x054 => s.modCur (fun x => { x with rptidx := v.setWidth 14 })
  | 0x055 => s.modCsr k (fun r => { r with tvec := v })
  | 0x061 => s.modCur (fun x => { x with mrow := v.setWidth 8 })
  | _ => s

/-- The old value of a CSR; CALNOW takes a free value for the cycle in the slot, and its counter advances. -/
def csrOld (c : BitVec 12) (iw : Word32) : M Word := do
  let s ← getS
  match csrRead s c.toNat with
  | none => illegal iw
  | some v =>
    if c.toNat = 0x030 then modS (fun s => { s with free := s.free + 1 })
    pure v

/-- Whether an operation that a context issued is in flight: an MMA, an epilogue job or an operation of the copy engine (R204). -/
def Engines.outOf (e : Engines) (c : Nat) : Bool :=
  e.mmas.any (fun o => decide (o.ctx = c)) || e.epiq.any (fun j => decide (j.ctx = c)) || e.ops.any (fun o => decide (o.ctx = c))

/-- The instruction waits until every earlier one of its context has completed (R125, R130): an engine operation completes when its last effect has
been performed, and its flags have reached FRM then (R204, R211, R219). [log 63 DEDUCED] -/
def afterEarlier : M Unit := do
  let s ← getS
  if s.curTile.eng.outOf s.cur.ctx then throw .retry

/-- CSRR (R123, R125): a number that R29 does not have is ILLEGAL before a push to S[d] waits. -/
def execCsrr (d : BitVec 5) (c : BitVec 12) (s : State) : Host.Outcome State Fault Refusal :=
  runM (do
    afterEarlier
    require (csrRead s c.toNat).isSome (wordOf (.csrr d c))
    roomS d
    let v ← csrOld c (wordOf (.csrr d c))
    dstS d v) s

/-- CSRW, CSRS and CSRC: `f` makes the new value from the old one and S[a] (R123 to R125). A helper's write of a CSR of the tile waits for an entry of
S[a] like any other, since its value may be ILLEGAL, which comes before CTXPRIV (R34). [log 17 DEDUCED] -/
def csrWrite (f : Word → Word → Word) (d a : BitVec 5) (c : BitVec 12) (iw : Word32) : M Unit := do
  afterEarlier
  match csrKind c.toNat with
  | none => illegal iw
  | some (perTile, reserved, fixed) => do
    let x ← srcS a
    let s ← getS
    let old := (csrRead s c.toNat).getD 0
    let new := f old x
    require (new &&& reserved == 0) iw
    require (!(decide (c.toNat = 0x042) && decide (4 < (new &&& 7).toNat))) iw
    if perTile ∧ s.cur.ctx ≠ 0 then ctxpriv 1 iw
    dstS d old
    modS (fun s => csrPut s c.toNat ((new &&& ~~~fixed) ||| (old &&& fixed)))

/-- CSRW (R123). [log 17 DEDUCED] -/
def execCsrw (d a : BitVec 5) (c : BitVec 12) (s : State) : Host.Outcome State Fault Refusal :=
  runM (csrWrite (fun _ x => x) d a c (wordOf (.csrw d a c))) s

/-- CSRS (R123). -/
def execCsrs (d a : BitVec 5) (c : BitVec 12) (s : State) : Host.Outcome State Fault Refusal :=
  runM (csrWrite (fun old x => old ||| x) d a c (wordOf (.csrs d a c))) s

/-- CSRC (R123). -/
def execCsrc (d a : BitVec 5) (c : BitVec 12) (s : State) : Host.Outcome State Fault Refusal :=
  runM (csrWrite (fun old x => old &&& ~~~x) d a c (wordOf (.csrc d a c))) s

/-! ### System instructions (R126 to R130) -/

/-- NOP (R127). -/
def execNop (s : State) : Host.Outcome State Fault Refusal := runM (pure ()) s

/-- TRAP: TVAL is concat(a, b, lo), TPC the next instruction (R128). -/
def execTrap (a b : BitVec 5) (c : BitVec 6) (s : State) : Host.Outcome State Fault Refusal :=
  runM (throw (.trapNext .trap ((a ++ b ++ c).setWidth 64))) s

/-- BKPT (R129). -/
def execBkpt (s : State) : Host.Outcome State Fault Refusal := runM (throw (.trapNext .bkpt 0)) s

/-- The row at which TRET resumes an MMA, where TSTAT.MM is 1 (R130, R212). -/
def retRow (x : Ctx) : Option Nat := if x.tstat.getLsbD 2 then some (bits x.mrow.toNat 0 4) else none

/-- TRET (R86, R130): the checks of a frame come before TSTAT.H is cleared. [log 19 DEDUCED, 66 DESIGN CHOICE, 67 DESIGN CHOICE] -/
def execTret (s : State) : Host.Outcome State Fault Refusal :=
  runM (do
    let x := s.curCtx
    require (x.tstat.getLsbD 0) (wordOf .tret)
    afterEarlier
    let clear : M Unit := modify (fun w => { w with
      resume := retRow x, s := w.s.modCur (fun x => { x with tstat := x.tstat &&& ~~~1#12 }) })
    if x.tstat.getLsbD 1 then
      let r ← fetchM x.tpc
      require (decide (bits r.toNat 26 6 = 0x0F) && decide (bits r.toNat 0 4 = 0)) r
      let ws ← captureFrame x.tpc r
      let i := bits x.rptidx.toNat 8 6
      let j := bits x.rptidx.toNat 0 4
      require (decide (i < bits r.toNat 16 6 + 1 ∧ j < ws.length)) r
      clear
      enterFrame x.tpc r ws i j
    else
      clear
      goTo x.tpc) s

end Sys2Proof.Machine
end

