-- ==== Sys2Proof/Machine/Vector.lean ====
section
/-! DEFINITION. Vector instructions: float and integer arithmetic, fused multiply-add, compare and select, conversion,
permutes, reductions and scans (R133 to R152). -/

namespace Sys2Proof.Machine

/-- The fn and ty fields, the mask of an UNIMPL of this chapter (R133). -/
def fnTy : BitVec 32 := 0xFF

/-- The elements that are active, in order. -/
def actives (w : Nat) (k : BitVec 16) : List Nat := (List.range (512 / w)).filter (activeElem k w)

/-- Flags of the active elements. -/
def flagsOf (w : Nat) (k : BitVec 16) (f : Nat → FRes) : Flags :=
  (actives w k).foldl (fun (acc : Flags) j => acc ||| (f j).flags) 0

/-- A result computed element by element, with its flags, is written under predicate `k` (R135, R136). -/
def putElems (d : BitVec 5) (w : Nat) (k : BitVec 16) (f : Nat → FRes) : M Unit := do
  let old ← oldV d
  dstV d (mergeElems w k old (fun j => (f j).val))
  orFlags (flagsOf w k f)

/-! ### Float arithmetic (R138, R139) -/

/-- A float type that the arithmetic accepts, or UNIMPL. -/
def arithTy (e : ElemTy) (iw : Word32) : M FloatFmt :=
  match e.arith? with
  | some f => pure f
  | none => unimpl fnTy iw

/-- A binary float function; `f fmt rm draw x y` is one element's result. [log 15 DEDUCED] -/
def fltOp2 (rounds : Bool) (f : FloatFmt → BitVec 3 → BitVec 16 → Nat → Nat → FRes) (d a b : BitVec 5) (k : BitVec 3)
    (t : BitVec 4) (iw : Word32) : M Unit := do
  let ty ← typeOf t iw
  let fmt ← arithTy ty iw
  checkDirs [a, b] [d] iw
  let p ← pred k
  let x ← srcV a iw
  let y ← srcV b iw
  let s ← getS
  let rm := s.curCtx.rm
  let w := fmt.width
  putElems d w p (fun j => f fmt rm (drawsOf s s.curKey s.cur.ctx j) (elemOf x w j) (elemOf y w j))
  if rounds then countDraw rm

/-- A unary float function. [log 15 DEDUCED] -/
def fltOp1 (rounds : Bool) (f : FloatFmt → BitVec 3 → BitVec 16 → Nat → FRes) (d a : BitVec 5) (k : BitVec 3)
    (t : BitVec 4) (iw : Word32) : M Unit := do
  let ty ← typeOf t iw
  let fmt ← arithTy ty iw
  checkDirs [a] [d] iw
  let p ← pred k
  let x ← srcV a iw
  let s ← getS
  let rm := s.curCtx.rm
  let w := fmt.width
  putElems d w p (fun j => f fmt rm (drawsOf s s.curKey s.cur.ctx j) (elemOf x w j))
  if rounds then countDraw rm

/-- An operation on values as an operation on encodings. -/
def onValues (f : FloatFmt → BitVec 3 → BitVec 16 → Fp → Fp → FRes) (fmt : FloatFmt) (rm : BitVec 3) (r : BitVec 16)
    (x y : Nat) : FRes := f fmt rm r (decodeFp fmt x) (decodeFp fmt y)

/-- The sign bit of an encoding cleared or inverted; NaN becomes canonical (R139). -/
def signOp (flip : Bool) (fmt : FloatFmt) (x : Nat) : FRes :=
  if (decodeFp fmt x).isNan then { val := fmt.nan, flags := 0 }
  else
    let mag := x % 2 ^ (fmt.width - 1)
    { val := if flip && decide (x = mag) then mag + 2 ^ (fmt.width - 1) else mag, flags := 0 }

/-- VADD of floats (R138). -/
def execVaddFlt (d a b : BitVec 5) (k : BitVec 3) (t : BitVec 4) (s : State) : Host.Outcome State Fault Refusal :=
  runM (fltOp2 true (onValues addFp) d a b k t (wordOf (.vaddFlt d a b k t))) s

/-- VSUB of floats (R138). -/
def execVsubFlt (d a b : BitVec 5) (k : BitVec 3) (t : BitVec 4) (s : State) : Host.Outcome State Fault Refusal :=
  runM (fltOp2 true (onValues (fun f rm r x y => addFp f rm r x y.neg)) d a b k t (wordOf (.vsubFlt d a b k t))) s

/-- VMUL of floats (R138). -/
def execVmulFlt (d a b : BitVec 5) (k : BitVec 3) (t : BitVec 4) (s : State) : Host.Outcome State Fault Refusal :=
  runM (fltOp2 true (onValues mulFp) d a b k t (wordOf (.vmulFlt d a b k t))) s

/-- VDIV (R138). -/
def execVdiv (d a b : BitVec 5) (k : BitVec 3) (t : BitVec 4) (s : State) : Host.Outcome State Fault Refusal :=
  runM (fltOp2 true (onValues divFp) d a b k t (wordOf (.vdiv d a b k t))) s

/-- VSQRT (R138). -/
def execVsqrt (d a : BitVec 5) (k : BitVec 3) (t : BitVec 4) (s : State) : Host.Outcome State Fault Refusal :=
  runM (fltOp1 true (fun f rm r x => sqrtFp f rm r (decodeFp f x)) d a k t (wordOf (.vsqrt d a k t))) s

/-- VMIN of floats (R138). -/
def execVminFlt (d a b : BitVec 5) (k : BitVec 3) (t : BitVec 4) (s : State) : Host.Outcome State Fault Refusal :=
  runM (fltOp2 false (fun f _ _ x y => minMaxFp f false x y) d a b k t (wordOf (.vminFlt d a b k t))) s

/-- VMAX of floats (R138). -/
def execVmaxFlt (d a b : BitVec 5) (k : BitVec 3) (t : BitVec 4) (s : State) : Host.Outcome State Fault Refusal :=
  runM (fltOp2 false (fun f _ _ x y => minMaxFp f true x y) d a b k t (wordOf (.vmaxFlt d a b k t))) s

/-- VABS (R138). -/
def execVabs (d a : BitVec 5) (k : BitVec 3) (t : BitVec 4) (s : State) : Host.Outcome State Fault Refusal :=
  runM (fltOp1 false (fun f _ _ x => signOp false f x) d a k t (wordOf (.vabs d a k t))) s

/-- VNEG (R138). -/
def execVneg (d a : BitVec 5) (k : BitVec 3) (t : BitVec 4) (s : State) : Host.Outcome State Fault Refusal :=
  runM (fltOp1 false (fun f _ _ x => signOp true f x) d a k t (wordOf (.vneg d a k t))) s

/-! ### Integer and bitwise arithmetic (R140, R141) -/

/-- An integer function: `f sgn w x y` is one element's result. -/
def vintOp (f : Bool → Nat → Nat → Nat → Nat) (d a b : BitVec 5) (k : BitVec 3) (t : BitVec 4) (iw : Word32) : M Unit := do
  let ty ← typeOf t iw
  match ty.int8? with
  | none => unimpl fnTy iw
  | some (sgn, w) => do
    checkDirs [a, b] [d] iw
    let p ← pred k
    let x ← srcV a iw
    let y ← srcV b iw
    let old ← oldV d
    dstV d (mergeElems w p old (fun j => f sgn w (elemOf x w j) (elemOf y w j)))

/-- VADD of integers (R140). -/
def execVaddInt (d a b : BitVec 5) (k : BitVec 3) (t : BitVec 4) (s : State) : Host.Outcome State Fault Refusal :=
  runM (vintOp (fun _ => intAdd) d a b k t (wordOf (.vaddInt d a b k t))) s

/-- VSUB of integers (R140). -/
def execVsubInt (d a b : BitVec 5) (k : BitVec 3) (t : BitVec 4) (s : State) : Host.Outcome State Fault Refusal :=
  runM (vintOp (fun _ => intSub) d a b k t (wordOf (.vsubInt d a b k t))) s

/-- VMUL of integers (R140). -/
def execVmulInt (d a b : BitVec 5) (k : BitVec 3) (t : BitVec 4) (s : State) : Host.Outcome State Fault Refusal :=
  runM (vintOp (fun _ => intMul) d a b k t (wordOf (.vmulInt d a b k t))) s

/-- VMIN of integers (R140). -/
def execVminInt (d a b : BitVec 5) (k : BitVec 3) (t : BitVec 4) (s : State) : Host.Outcome State Fault Refusal :=
  runM (vintOp (fun sgn w => if sgn then intMinS w else intMinN w) d a b k t (wordOf (.vminInt d a b k t))) s

/-- VMAX of integers (R140). -/
def execVmaxInt (d a b : BitVec 5) (k : BitVec 3) (t : BitVec 4) (s : State) : Host.Outcome State Fault Refusal :=
  runM (vintOp (fun sgn w => if sgn then intMaxS w else intMaxN w) d a b k t (wordOf (.vmaxInt d a b k t))) s

/-- VAND (R140). -/
def execVand (d a b : BitVec 5) (k : BitVec 3) (t : BitVec 4) (s : State) : Host.Outcome State Fault Refusal :=
  runM (vintOp (fun _ => intAnd) d a b k t (wordOf (.vand d a b k t))) s

/-- VOR (R140). -/
def execVor (d a b : BitVec 5) (k : BitVec 3) (t : BitVec 4) (s : State) : Host.Outcome State Fault Refusal :=
  runM (vintOp (fun _ => intOr) d a b k t (wordOf (.vor d a b k t))) s

/-- VXOR (R140). -/
def execVxor (d a b : BitVec 5) (k : BitVec 3) (t : BitVec 4) (s : State) : Host.Outcome State Fault Refusal :=
  runM (vintOp (fun _ => intXor) d a b k t (wordOf (.vxor d a b k t))) s

/-- VSHL (R140). -/
def execVshl (d a b : BitVec 5) (k : BitVec 3) (t : BitVec 4) (s : State) : Host.Outcome State Fault Refusal :=
  runM (vintOp (fun _ => intShl) d a b k t (wordOf (.vshl d a b k t))) s

/-- VSHR (R140). -/
def execVshr (d a b : BitVec 5) (k : BitVec 3) (t : BitVec 4) (s : State) : Host.Outcome State Fault Refusal :=
  runM (vintOp (fun _ => intShr) d a b k t (wordOf (.vshr d a b k t))) s

/-- VSRA (R140). -/
def execVsra (d a b : BitVec 5) (k : BitVec 3) (t : BitVec 4) (s : State) : Host.Outcome State Fault Refusal :=
  runM (vintOp (fun _ => intSra) d a b k t (wordOf (.vsra d a b k t))) s

/-! ### Fused multiply-add (R142) -/

/-- VFMA, VFMS and VFNMA: `np` negates the product, `nc` the addend. [log 15 DEDUCED] -/
def fmaOp (np nc : Bool) (d a b c : BitVec 5) (k : BitVec 3) (t : BitVec 1) (iw : Word32) : M Unit := do
  checkDirs [a, b, c] [d] iw
  let fmt : FloatFmt := if t = 0 then .f32 else .bf16
  let p ← pred k
  let x ← srcV a iw
  let y ← srcV b iw
  let z ← srcV c iw
  let s ← getS
  let rm := s.curCtx.rm
  let w := fmt.width
  putElems d w p (fun j => fmaFp fmt rm (drawsOf s s.curKey s.cur.ctx j) np nc
    (decodeFp fmt (elemOf x w j)) (decodeFp fmt (elemOf y w j)) (decodeFp fmt (elemOf z w j)))
  countDraw rm

/-- VFMA (R142). -/
def execVfma (d a b c : BitVec 5) (k : BitVec 3) (t : BitVec 1) (s : State) : Host.Outcome State Fault Refusal :=
  runM (fmaOp false false d a b c k t (wordOf (.vfma d a b c k t))) s

/-- VFMS (R142). -/
def execVfms (d a b c : BitVec 5) (k : BitVec 3) (t : BitVec 1) (s : State) : Host.Outcome State Fault Refusal :=
  runM (fmaOp false true d a b c k t (wordOf (.vfms d a b c k t))) s

/-- VFNMA (R142). -/
def execVfnma (d a b c : BitVec 5) (k : BitVec 3) (t : BitVec 1) (s : State) : Host.Outcome State Fault Refusal :=
  runM (fmaOp true false d a b c k t (wordOf (.vfnma d a b c k t))) s

/-! ### Compare and select (R143 to R145) -/

/-- A condition on two integers: 0 eq, 1 ne, 2 lt, 3 le, 4 gt, 5 ge. -/
def intCond (c : Nat) (x y : Int) : Bool :=
  match c with
  | 0 => decide (x = y)
  | 1 => decide (x ≠ y)
  | 2 => decide (x < y)
  | 3 => decide (x ≤ y)
  | 4 => decide (y < x)
  | _ => decide (y ≤ x)

/-- A condition on two floats, and its flag; 6 is unordered (R143). -/
def fltCond (c : Nat) (x y : Fp) : Bool × Flags :=
  if x.isNan || y.isNan then
    (decide (c = 1) || decide (c = 6), Flags.when ((decide (2 ≤ c) && decide (c ≤ 5)) || x.isSnan || y.isSnan) Flags.nv)
  else
    let lt := ltFp false x y
    let gt := ltFp false y x
    (match c with
      | 0 => !lt && !gt
      | 1 => lt || gt
      | 2 => lt
      | 3 => !gt
      | 4 => gt
      | 5 => !lt
      | _ => false, 0)

/-- One element's comparison. -/
def condElem (ty : ElemTy) (c : Nat) (x y : Nat) : Bool × Flags :=
  match ty with
  | .flt f => fltCond c (decodeFp f x) (decodeFp f y)
  | .int sgn w => (intCond c (readInt sgn w x) (readInt sgn w y), 0)

/-- The elements of width w that predicate bit i governs; bits 2 i and 2 i + 1 both stand for element i of 64 bits
(R144). -/
def governed (w i : Nat) : List Nat :=
  if w = 64 then [i / 2] else (List.range (32 / w)).map (fun j => i * (32 / w) + j)

/-- VCMP: the predicate is written whole (R143, R144). -/
def execVcmp (d a b : BitVec 5) (k : BitVec 3) (c t : BitVec 4) (s : State) : Host.Outcome State Fault Refusal :=
  runM (do
    let iw := wordOf (.vcmp d a b k c t)
    let ty ← typeOf t iw
    require (decide (c.toNat < 7) && decide (d.toNat < 8)) iw
    supported (decide (ty.width ≠ 4) && !(decide (c.toNat = 6) && ty.int8?.isSome)) fnTy iw
    checkDirs [a, b] [] iw
    let p ← pred k
    let x ← srcV a iw
    let y ← srcV b iw
    let w := ty.width
    let r (j : Nat) : Bool × Flags := condElem ty c.toNat (elemOf x w j) (elemOf y w j)
    let bit (i : Nat) : Bool := (governed w i).all (fun j => activeElem p w j && (r j).1)
    modS (fun s => s.modCur (fun x => x.setK (d.setWidth 3)
      (BitVec.ofNat 16 ((List.range 16).foldl (fun n i => n + (bit i).toNat * 2 ^ i) 0))))
    orFlags ((actives w p).foldl (fun (acc : Flags) j => acc ||| (r j).2) 0)) s

/-- VSEL (R145). -/
def execVsel (d a b : BitVec 5) (k : BitVec 3) (t : BitVec 4) (s : State) : Host.Outcome State Fault Refusal :=
  runM (do
    let iw := wordOf (.vsel d a b k t)
    let ty ← typeOf t iw
    supported (decide (ty.width ≠ 4)) fnTy iw
    checkDirs [a, b] [d] iw
    let p ← pred k
    let x ← srcV a iw
    let y ← srcV b iw
    dstV d (mergeElems ty.width p y (fun j => elemOf x ty.width j))) s

/-! ### Conversion (R146, R147) -/

/-- One element's conversion (R55 to R60). -/
def convert (src dst : ElemTy) (rm : BitVec 3) (sat : Bool) (r : BitVec 16) (x : Nat) : FRes :=
  match src, dst with
  | .flt f, .flt g => cvtFF f g rm sat r x
  | .flt f, .int sgn w => cvtFI f sgn w rm sat r x
  | .int sgn w, .flt g => cvtIF sgn w g rm sat r x
  | .int s1 w1, .int s2 w2 => cvtII s1 w1 s2 w2 sat x

/-- Whether a conversion rounds. [log 15 DEDUCED] -/
def converts (src dst : ElemTy) : Bool :=
  match src, dst with
  | .int _ _, .int _ _ => false
  | _, _ => true

/-- VCVT: `x` is D, `r` the rounding mode, `v` the saturation, `f` the destination type (R146, R147). -/
def execVcvt (d a : BitVec 5) (x : BitVec 1) (r : BitVec 3) (v : BitVec 1) (k : BitVec 3) (f t : BitVec 4) (s : State) :
    Host.Outcome State Fault Refusal :=
  runM (do
    let iw := wordOf (.vcvt d a x r v k f t)
    let src ← typeOf t iw
    let dst ← typeOf f iw
    require (if x = 1 then r == 0 else decide (r.toNat < 5)) iw
    supported (decide (src ≠ dst)) fnTy iw
    checkDirs [a] [d] iw
    let p ← pred k
    let y ← srcV a iw
    let old ← oldV d
    let s ← getS
    let rm := if x = 1 then s.curCtx.rm else r
    let ws := src.width
    let wd := dst.width
    let n := 512 / max ws wd
    let act (j : Nat) : Bool := p.getLsbD (16 * j / n)
    let one (j : Nat) : FRes := convert src dst rm (v == 1) (drawsOf s s.curKey s.cur.ctx j) (elemOf y ws j)
    dstV d (vecOf wd ((List.range (512 / wd)).map (fun j =>
      if n ≤ j then 0 else if act j then (one j).val else elemOf old wd j)))
    orFlags (((List.range n).filter act).foldl (fun (acc : Flags) j => acc ||| (one j).flags) 0)
    if converts src dst then countDraw rm) s

/-! ### Permutes and data movement (R148, R149) -/

/-- VPERM (R148). -/
def execVperm (d a b : BitVec 5) (k : BitVec 3) (t : BitVec 4) (s : State) : Host.Outcome State Fault Refusal :=
  runM (do
    let iw := wordOf (.vperm d a b k t)
    let ty ← typeOf t iw
    let w := ty.width
    supported (decide (w ≠ 4)) fnTy iw
    checkDirs [a, b] [d] iw
    let p ← pred k
    let x ← srcV a iw
    let y ← srcV b iw
    let old ← oldV d
    dstV d (mergeElems w p old (fun j => elemOf x w (elemOf y w j % (512 / w))))) s

/-- VBCAST: the a field names a scalar register (R148). -/
def execVbcast (d a : BitVec 5) (k : BitVec 3) (t : BitVec 4) (s : State) : Host.Outcome State Fault Refusal :=
  runM (do
    let iw := wordOf (.vbcast d a k t)
    let ty ← typeOf t iw
    supported (decide (ty.width ≠ 4)) fnTy iw
    checkDirs [] [d] iw
    let p ← pred k
    let x ← regS a
    let old ← oldV d
    dstV d (mergeElems ty.width p old (fun _ => x.toNat % 2 ^ ty.width))) s

/-- An element read as a scalar: extended by sign for .i, by zeros else (R148). -/
def elemScalar (ty : ElemTy) (x : Nat) : Word :=
  match ty with
  | .int true w => BitVec.ofInt 64 (readInt true w x)
  | _ => BitVec.ofNat 64 x

/-- VMOVS: the vd and vb fields name scalar registers (R148, R149). -/
def execVmovs (d a b : BitVec 5) (t : BitVec 4) (s : State) : Host.Outcome State Fault Refusal :=
  runM (do
    let iw := wordOf (.vmovs d a b t)
    let ty ← typeOf t iw
    let w := ty.width
    supported (decide (w ≠ 4)) fnTy iw
    checkDirs [a] [] iw
    let i ← regS b
    let x ← srcV a iw
    setRegS d (elemScalar ty (elemOf x w (i.toNat % (512 / w))))) s

/-- VINS: vd is read and written, so a bound one is ILLEGAL (R148, R149). -/
def execVins (d a b : BitVec 5) (t : BitVec 4) (s : State) : Host.Outcome State Fault Refusal :=
  runM (do
    let iw := wordOf (.vins d a b t)
    let ty ← typeOf t iw
    let w := ty.width
    supported (decide (w ≠ 4)) fnTy iw
    require (boundTo s.curCtx d).isNone iw
    let x ← regS a
    let i ← regS b
    let old ← oldV d
    dstV d (vecOf w ((List.range (512 / w)).map (fun j =>
      if j = i.toNat % (512 / w) then x.toNat % 2 ^ w else elemOf old w j)))) s

/-- VIOTA: integer types only (R148). -/
def execViota (d : BitVec 5) (k : BitVec 3) (t : BitVec 4) (s : State) : Host.Outcome State Fault Refusal :=
  runM (do
    let iw := wordOf (.viota d k t)
    let ty ← typeOf t iw
    match ty.int8? with
    | none => unimpl fnTy iw
    | some (_, w) => do
      checkDirs [] [d] iw
      let p ← pred k
      let old ← oldV d
      dstV d (mergeElems w p old (fun j => j % 2 ^ w))) s

/-- VPACK (R148). -/
def execVpack (d a b : BitVec 5) (s : State) : Host.Outcome State Fault Refusal :=
  runM (do
    let iw := wordOf (.vpack d a b)
    checkDirs [a, b] [d] iw
    let x ← srcV a iw
    let y ← srcV b iw
    dstV d (y.extractLsb' 0 256 ++ x.extractLsb' 0 256)) s

/-- VUNPK (R148). -/
def execVunpk (d a : BitVec 5) (h : BitVec 1) (s : State) : Host.Outcome State Fault Refusal :=
  runM (do
    let iw := wordOf (.vunpk d a h)
    checkDirs [a] [d] iw
    let x ← srcV a iw
    dstV d ((x.extractLsb' (256 * h.toNat) 256).setWidth 512)) s

/-! ### Reductions and scans (R65, R150 to R152) -/

/-- The identity of a float reduction: 0 sum, 1 min, 2 max (R150). -/
def fltIdentity (o : Nat) : Fp := if o = 0 then .fin true 0 0 else .inf (decide (o = 2))

/-- Minimum or maximum of two values (R139). -/
def minMaxVal (isMax : Bool) (x y : Fp) : Fp × Flags :=
  let fl := Flags.when (x.isSnan || y.isSnan) Flags.nv
  if x.isNan && y.isNan then (.nan false, fl)
  else if x.isNan then (y, fl)
  else if y.isNan then (x, fl)
  else if ltFp true x y then (if isMax then y else x, 0)
  else (if isMax then x else y, 0)

/-- One ⊕ of a float reduction, rounded to a format. -/
def fltCombine (f : FloatFmt) (rm : BitVec 3) (o : Nat) (draw : BitVec 16) (x y : Fp) : Fp × Flags :=
  if o = 0 then
    let r := addFp f rm draw x y
    (decodeFp f r.val, r.flags)
  else minMaxVal (decide (o = 2)) x y

/-- One level of the tree of R65: neighbours combine, node i with draw `base + i`. -/
def treeLevel (f : Nat → Fp → Fp → Fp × Flags) (base : Nat) : List Fp → Nat → List Fp × Flags
  | x :: y :: l, i =>
    let r := f (base + i) x y
    let rest := treeLevel f base l (i + 1)
    (r.1 :: rest.1, r.2 ||| rest.2)
  | l, _ => (l, 0)

/-- The tree of R65 over 16 lanes, or over 32 elements with a level 0; draws are numbered as R151 gives. -/
def treeReduce (f : Nat → Fp → Fp → Fp × Flags) (l : List Fp) : Fp × Flags :=
  let l0 := if l.length = 32 then treeLevel f 0 l 0 else (l, 0)
  let l1 := treeLevel f 16 l0.1 0
  let l2 := treeLevel f 24 l1.1 0
  let l3 := treeLevel f 28 l2.1 0
  let l4 := treeLevel f 30 l3.1 0
  ((l4.1.head?).getD (.fin false 0 0), l0.2 ||| l1.2 ||| l2.2 ||| l3.2 ||| l4.2)

/-- The identity of an integer reduction (R150). -/
def intIdentity (o : Nat) (sgn : Bool) (w : Nat) : Int :=
  match o with
  | 1 => intMax sgn w
  | 2 => intMin sgn w
  | 3 => if sgn then -1 else 2 ^ w - 1
  | _ => 0

/-- One ⊕ of an integer reduction: and, or and xor act on the bits (R150). -/
def intCombine (o : Nat) (sgn : Bool) (w : Nat) (x y : Int) : Int :=
  match o with
  | 0 => x + y
  | 1 => min x y
  | 2 => max x y
  | 3 => readInt sgn w (wrapInt w x &&& wrapInt w y)
  | 4 => readInt sgn w (wrapInt w x ||| wrapInt w y)
  | _ => readInt sgn w (wrapInt w x ^^^ wrapInt w y)

/-- Whether R150 lists an operation and a type. -/
def redSupports (o : Nat) (ty : ElemTy) : Bool := ty.int8?.isSome || (decide (o ≤ 2) && ty.arith?.isSome)

/-- VREDUCE: all of vd is written (R150, R151). -/
def execVreduce (d a : BitVec 5) (k o : BitVec 3) (t : BitVec 4) (s : State) : Host.Outcome State Fault Refusal :=
  runM (do
    let iw := wordOf (.vreduce d a k o t)
    require (decide (o.toNat < 6)) iw
    let ty ← typeOf t iw
    supported (redSupports o.toNat ty) fnTy iw
    checkDirs [a] [d] iw
    let p ← pred k
    let x ← srcV a iw
    let s ← getS
    match ty with
    | .flt f => do
      let rm := s.curCtx.rm
      let l := (List.range (512 / f.width)).map (fun j =>
        if activeElem p f.width j then decodeFp f (elemOf x f.width j) else fltIdentity o.toNat)
      let r := treeReduce (fun n => fltCombine .f32 rm o.toNat (drawsOf s s.curKey s.cur.ctx n)) l
      dstV d (BitVec.ofNat 512 (roundFp .f32 0 0 r.1).val)
      orFlags r.2
      if o = 0 then countDraw rm
    | .int sgn w => do
      let l := (List.range (512 / w)).map (fun j =>
        if activeElem p w j then readInt sgn w (elemOf x w j) else intIdentity o.toNat sgn w)
      let r := l.foldl (intCombine o.toNat sgn w) (intIdentity o.toNat sgn w)
      dstV d (BitVec.ofNat 512 (wrapInt (if w = 64 then 64 else 32) r))) s

/-- The prefixes of a float scan: each element's value and flags (R152). -/
def fltScan (f : FloatFmt) (comb : Nat → Fp → Fp → Fp × Flags) : Nat → Fp → List Fp → List FRes
  | _, _, [] => []
  | j, acc, e :: l =>
    let r := comb j acc e
    { val := (roundFp f 0 0 r.1).val, flags := r.2 } :: fltScan f comb (j + 1) r.1 l

/-- The prefixes of an integer scan, which wrap at the element width (R152). -/
def intScan (comb : Int → Int → Int) (w : Nat) : Int → List Int → List Nat
  | _, [] => []
  | acc, e :: l => wrapInt w (comb acc e) :: intScan comb w (comb acc e) l

/-- VSCAN: inclusive prefixes in element order (R150, R152). -/
def execVscan (d a : BitVec 5) (k o : BitVec 3) (t : BitVec 4) (s : State) : Host.Outcome State Fault Refusal :=
  runM (do
    let iw := wordOf (.vscan d a k o t)
    require (decide (o.toNat < 6)) iw
    let ty ← typeOf t iw
    supported (redSupports o.toNat ty) fnTy iw
    checkDirs [a] [d] iw
    let p ← pred k
    let x ← srcV a iw
    let old ← oldV d
    let s ← getS
    match ty with
    | .flt f => do
      let rm := s.curCtx.rm
      let l := (List.range (512 / f.width)).map (fun j =>
        if activeElem p f.width j then decodeFp f (elemOf x f.width j) else fltIdentity o.toNat)
      let rs := fltScan f (fun j => fltCombine f rm o.toNat (drawsOf s s.curKey s.cur.ctx j)) 0 (fltIdentity o.toNat) l
      let at' (j : Nat) : FRes := (rs[j]?).getD { val := 0, flags := 0 }
      dstV d (mergeElems f.width p old (fun j => (at' j).val))
      orFlags (flagsOf f.width p at')
      if o = 0 then countDraw rm
    | .int sgn w => do
      let l := (List.range (512 / w)).map (fun j =>
        if activeElem p w j then readInt sgn w (elemOf x w j) else intIdentity o.toNat sgn w)
      let rs := intScan (fun x y => readInt sgn w (wrapInt w (intCombine o.toNat sgn w x y))) w (intIdentity o.toNat sgn w) l
      dstV d (mergeElems w p old (fun j => (rs[j]?).getD 0))) s

end Sys2Proof.Machine
end

