-- ==== Sys2Proof/Machine/Stream.lean ====
section
/-! DEFINITION. Predicate operations (R159) and stream binding (R160 to R164). -/

namespace Sys2Proof.Machine

/-! ### Predicate operations (R159) -/

/-- A field that names a predicate must hold 0 to 7. -/
def kField (f : BitVec 5) (iw : Word32) : M (BitVec 3) := do
  require (decide (f.toNat < 8)) iw
  pure (f.setWidth 3)

/-- Predicate d is written; k0 discards (R16). -/
def setPred (d : BitVec 3) (v : BitVec 16) : M Unit := modS (fun s => s.modCur (fun x => x.setK d v))

/-- A function of two predicates. -/
def kOp2 (f : BitVec 16 → BitVec 16 → BitVec 16) (d a b : BitVec 5) (iw : Word32) : M Unit := do
  let kd ← kField d iw
  let ka ← kField a iw
  let kb ← kField b iw
  setPred kd (f (← pred ka) (← pred kb))

/-- KAND (R159). -/
def execKand (d a b : BitVec 5) (s : State) : Host.Outcome State Fault Refusal :=
  runM (kOp2 (· &&& ·) d a b (wordOf (.kand d a b))) s

/-- KOR (R159). -/
def execKor (d a b : BitVec 5) (s : State) : Host.Outcome State Fault Refusal :=
  runM (kOp2 (· ||| ·) d a b (wordOf (.kor d a b))) s

/-- KXOR (R159). -/
def execKxor (d a b : BitVec 5) (s : State) : Host.Outcome State Fault Refusal :=
  runM (kOp2 (· ^^^ ·) d a b (wordOf (.kxor d a b))) s

/-- KNOT (R159). -/
def execKnot (d a : BitVec 5) (s : State) : Host.Outcome State Fault Refusal :=
  runM (do
    let kd ← kField d (wordOf (.knot d a))
    let ka ← kField a (wordOf (.knot d a))
    setPred kd (~~~(← pred ka))) s

/-- KPOP: d names a scalar register (R159). -/
def execKpop (d a : BitVec 5) (s : State) : Host.Outcome State Fault Refusal :=
  runM (do
    let ka ← kField a (wordOf (.kpop d a))
    setRegS d (BitVec.ofNat 64 (intPopc 16 (← pred ka).toNat))) s

/-- KFIRST (R159). -/
def execKfirst (d a : BitVec 5) (s : State) : Host.Outcome State Fault Refusal :=
  runM (do
    let ka ← kField a (wordOf (.kfirst d a))
    setRegS d (BitVec.ofNat 64 (intCtz 16 (← pred ka).toNat))) s

/-- KSET: a names a scalar register (R159). -/
def execKset (d a : BitVec 5) (s : State) : Host.Outcome State Fault Refusal :=
  runM (do
    let kd ← kField d (wordOf (.kset d a))
    setPred kd ((← regS a).setWidth 16)) s

/-! ### Stream binding (R160 to R164) -/

/-- The conditions that every SBIND makes: vN from v24 on and not bound, the entry not in use (R161). -/
def checkBind (d : BitVec 5) (e : BitVec 3) (iw : Word32) : M Unit := do
  let s ← getS
  require (decide (24 ≤ d.toNat)) iw
  require ((boundTo s.curCtx d).isNone && !(s.curTile.desc e.toNat).inUse) iw

/-- Entry e takes a descriptor and vN is bound to it; the plain contents of vN stay hidden (R161). -/
def bindTo (d : BitVec 5) (e : BitVec 3) (x : StreamDesc) : M Unit := do
  modS (fun s => s.modIo s.curKey (fun io => { io with descs := io.descs.setIfInBounds e.toNat x }))
  modS (fun s => s.modCur (fun c => { c with binds := c.binds.setIfInBounds (d.toNat - 24) (1#1 ++ e) }))

/-- SBIND of a ring in the issuing tile's scratchpad (R161). -/
def bindRing (out : Bool) (d a b : BitVec 5) (e : BitVec 3) (iw : Word32) : M Unit := do
  checkBind d e iw
  let p ← regS a
  let m ← regS b
  liftA (checkFmt p none)
  let s ← getS
  let k := s.curKey
  match resolveDie s k p with
  | none => trapM .perm p
  | some die =>
    match spotFor s die k (ptrOff p) with
    | .spad t o =>
      if t ≠ k then trapM .perm p
      if ptrOff p % 64 ≠ 0 then trapM .misalign p
      require (decide (m.toNat ≠ 0 ∧ m.toNat ≤ 4096)) iw
      let inside (r : Region) : Bool := r == .kept || r == .transit
      if (List.range m.toNat).all (fun i => inside (regionOf s k false (o + 64 * i))) = false then trapM .perm p
      bindTo d e { base := p, slots := m.setWidth 32, pos := 0, inUse := true, copy := false, out := out
                   owner := s.cur.ctx, port := 0 }
    | _ => trapM .perm p

/-- SBIND.in (R161). -/
def execSbindIn (d a b : BitVec 5) (e : BitVec 3) (s : State) : Host.Outcome State Fault Refusal :=
  runM (bindRing false d a b e (wordOf (.sbindIn d a b e))) s

/-- SBIND.out (R161). -/
def execSbindOut (d a b : BitVec 5) (e : BitVec 3) (s : State) : Host.Outcome State Fault Refusal :=
  runM (bindRing true d a b e (wordOf (.sbindOut d a b e))) s

/-- The lowest stream port that no copy binding uses (R161). -/
def freePort (t : Tile) : Option Nat :=
  [0, 1].find? (fun p => !t.io.descs.toList.any (fun d => d.inUse && d.copy && d.port == p))

/-- SBIND.copy: the entry takes the lower free port (R161). -/
def execSbindCopy (d : BitVec 5) (e : BitVec 3) (s : State) : Host.Outcome State Fault Refusal :=
  runM (do
    let iw := wordOf (.sbindCopy d e)
    checkBind d e iw
    match freePort s.curTile with
    | none => illegal iw
    | some p => do
      modS (fun s => s.modIo s.curKey (fun io => { io with ports := io.ports.setIfInBounds p {} }))
      bindTo d e { base := 0, slots := 0, pos := 0, inUse := true, copy := true, out := false, owner := s.cur.ctx
                   port := p }) s

/-- SUNBIND frees the entry and, for a copy, the port; vN holds its plain contents again (R163). An unbound vN has no
binding to remove. -/
def execSunbind (d : BitVec 5) (s : State) : Host.Outcome State Fault Refusal :=
  runM (do
    require (decide (24 ≤ d.toNat)) (wordOf (.sunbind d))
    match boundTo s.curCtx d with
    | none => pure ()
    | some e => do
      let x := s.curTile.desc e
      modS (fun s => s.modIo s.curKey (fun io => { io with
        descs := io.descs.setIfInBounds e {}
        ports := if x.copy then io.ports.setIfInBounds x.port {} else io.ports }))
      modS (fun s => s.modCur (fun c => { c with binds := c.binds.setIfInBounds (d.toNat - 24) 0 }))) s

/-- Slots in a row from POS, up to 8, whose words all have bit `b` (R164). -/
def availRing (s : State) (d : StreamDesc) (b : Bool) : Nat :=
  ((List.range (min 8 d.slots.toNat)).takeWhile (fun i => slotAll s (d.slotOff i) b)).length

/-- SSTAT of a register bound to entry e (R164). -/
def sstatOf (s : State) (e : Nat) : Word :=
  let t := s.curTile
  let d := t.desc e
  let avail := if d.copy then min 8 (t.port d.port).groups.length else availRing s d (!d.out)
  pack [(16, avail), (11, (d.copy && exhausted t d 0).toNat), (8, e), (5, d.copy.toNat), (4, d.out.toNat), (0, 1)]

/-- SSTAT: d names a scalar register, a the vector register (R164). -/
def execSstat (d a : BitVec 5) (s : State) : Host.Outcome State Fault Refusal :=
  runM (do
    require (decide (24 ≤ a.toNat)) (wordOf (.sstat d a))
    setRegS d (match boundTo s.curCtx a with
      | some e => sstatOf s e
      | none => 0)) s

end Sys2Proof.Machine
end

