-- ==== Sys2Proof/Machine/Memory.lean ====
section
/-! DEFINITION. Loads and stores (R171 to R174), gathers and scatters (R175 to R178), full/empty functions (R179 to R181)
and atomics (R182, R183). -/

namespace Sys2Proof.Machine

/-! ### Scope entries (R31, R170) -/

/-- The tiles that scope entry `e` of a context covers when an operation executes (R31, R191, R250); `none` where the entry is INVALID or its group has
been dissolved. Entry 4 alone covers the host as well. A member that is a continuation record covers no tile. [log 76 DESIGN CHOICE] -/
def scopeSet (s : State) (k c : Nat) (e : BitVec 5) : Option (Nat → Bool) :=
  let u := (s.tile k).work
  match e.toNat with
  | 0 => some (fun t => t == k)
  | 1 => some (fun t => tileDie t == tileDie k)
  | 2 => some (fun t => tileDie t / 8 == tileDie k / 8)
  | 3 => some (fun t => match u with
    | some u => (s.part u.part).gang.contains t
    | none => t == k)
  | 4 => some (fun t => match u with
    | some u => s.tileInJob t u.job
    | none => t == k)
  | n =>
    let w := ((s.ctx k c).scopes[n]?).getD 0
    match u with
    | some u => if w = 0 then none else (Map.get? (s.part u.part).groups (bits w.toNat 0 24)).map (fun g t =>
        (g.members ++ g.joining).any (fun m => m / 16 == t))
    | none => none

/-- Whether scope entry `e` of a context is usable: fixed, or a group that exists. -/
def scopeOk (s : State) (k c : Nat) (e : BitVec 5) : Bool := (scopeSet s k c e).isSome

/-- An entry that is INVALID, or whose group has been dissolved, traps BADSCOPE (R31). -/
def checkScope (e : BitVec 5) : M Unit := do
  let s ← getS
  if scopeOk s s.curKey s.cur.ctx e then pure () else trapM .badscope (e.setWidth 64)

/-- A release at entry `e`: every earlier write of the context has been performed, wherever its home lies, so that it waits for none (R251,
R255). [log 6 DESIGN CHOICE, 7 DESIGN CHOICE] -/
def releaseAt (e : BitVec 5) : M Unit := checkScope e

/-! ### Scalar and vector loads and stores (R171 to R173) -/

/-- Width in bytes that a 2-bit code gives (R171). -/
def widthBytes (c : BitVec 2) : Nat := 2 ^ c.toNat

/-- The value of a scalar load: `sgn` extends by sign (R171). -/
def extLoad (sgn : Bool) (n : Nat) (bs : List Byte) : Word :=
  let x := natOfBytes bs
  if sgn ∧ 2 ^ (8 * n - 1) ≤ x then BitVec.ofInt 64 ((x : Int) - 2 ^ (8 * n)) else BitVec.ofNat 64 x

/-- LD at displacement `i` units (R172). -/
def loadS (d b : BitVec 5) (f : BitVec 3) (i : Int) (iw : Word32) : M Unit := do
  require (decide (f ≠ 7)) iw
  let n := widthBytes (f.extractLsb' 0 2)
  let bs ← readM (accAt (← regS b) (n * i) n n .load)
  setRegS d (extLoad (f.getLsbD 2) n bs)

/-- LD (R172). -/
def execLd (d b : BitVec 5) (f : BitVec 3) (i : BitVec 12) (s : State) : Host.Outcome State Fault Refusal :=
  runM (loadS d b f i.toInt (wordOf (.ld d b f i))) s

/-- LD.acq (R172). -/
def execLdAcq (d b : BitVec 5) (f : BitVec 3) (e : BitVec 5) (s : State) : Host.Outcome State Fault Refusal :=
  runM (do
    require (decide (f ≠ 7)) (wordOf (.ldAcq d b f e))
    checkScope e
    loadS d b f 0 (wordOf (.ldAcq d b f e))) s

/-- ST at displacement `i` units (R172). -/
def storeS (d b : BitVec 5) (w : BitVec 2) (i : Int) : M Unit := do
  let n := widthBytes w
  writeM (accAt (← regS b) (n * i) n n .store) (bytesOfNat n (← regS d).toNat)

/-- ST; .nt changes nothing that a context can see (R172). -/
def execSt (d b : BitVec 5) (_n : BitVec 1) (w : BitVec 2) (i : BitVec 12) (s : State) : Host.Outcome State Fault Refusal :=
  runM (storeS d b w i.toInt) s

/-- ST.rel (R172). -/
def execStRel (d b : BitVec 5) (_n : BitVec 1) (w : BitVec 2) (e : BitVec 5) (s : State) :
    Host.Outcome State Fault Refusal :=
  runM (do
    releaseAt e
    storeS d b w 0) s

/-- LDV at displacement `i` × 64 (R173). -/
def loadV (d b : BitVec 5) (i : Int) (iw : Word32) : M Unit := do
  checkDirs [] [d] iw
  roomV d
  let bs ← readM (accAt (← regS b) (64 * i) 64 4 .load)
  dstV d (BitVec.ofNat 512 (natOfBytes bs))

/-- LDV (R173). -/
def execLdv (d b : BitVec 5) (n : BitVec 1) (i : BitVec 12) (s : State) : Host.Outcome State Fault Refusal :=
  runM (loadV d b i.toInt (wordOf (.ldv d b n i))) s

/-- LDV.acq (R173). -/
def execLdvAcq (d b : BitVec 5) (n : BitVec 1) (e : BitVec 5) (s : State) : Host.Outcome State Fault Refusal :=
  runM (do
    checkDirs [] [d] (wordOf (.ldvAcq d b n e))
    checkScope e
    loadV d b 0 (wordOf (.ldvAcq d b n e))) s

/-- STV at displacement `i` × 64 (R173). -/
def storeV (d b : BitVec 5) (i : Int) (iw : Word32) : M Unit := do
  checkDirs [d] [] iw
  let v ← srcV d iw
  writeM (accAt (← regS b) (64 * i) 64 4 .store) (bytesOfNat 64 v.toNat)

/-- STV (R173). -/
def execStv (d b : BitVec 5) (n : BitVec 1) (i : BitVec 12) (s : State) : Host.Outcome State Fault Refusal :=
  runM (storeV d b i.toInt (wordOf (.stv d b n i))) s

/-- STV.rel (R173). -/
def execStvRel (d b : BitVec 5) (n : BitVec 1) (e : BitVec 5) (s : State) : Host.Outcome State Fault Refusal :=
  runM (do
    checkDirs [d] [] (wordOf (.stvRel d b n e))
    releaseAt e
    storeV d b 0 (wordOf (.stvRel d b n e))) s

/-! ### Element accesses (R174 to R178) -/

/-- The outcome of an access, with the state that it leaves. -/
def tryA {α : Type} (x : A α) : M (Except AccErr α) := fun w =>
  match x w.s with
  | .ok a s => .ok (.ok a) { w with s := s }
  | .error e s => .ok (.error e) { w with s := s }

/-- One element of a vector access: its number, its access, and its bytes where it stores. -/
structure ElemAcc where
  j : Nat
  acc : Acc
  bytes : List Byte

/-- Bit `j` of the elements that are complete. -/
def doneBit (done : BitVec 64) (j : Nat) : Bool := done.getLsbD j

/-- Whether `n` bytes at `p` and `m` bytes at `q` meet, for a requester on tile `k`. -/
def coincide (s : State) (k : Nat) (p : Word) (n : Nat) (q : Word) (m : Nat) : Bool :=
  let spot (x : Word) : Option (Nat × Spot) := (resolveDie s k x).map (fun d => (d, spotFor s d k (ptrOff x)))
  let meet (a b : Nat) : Bool := decide (a < b + m) && decide (b < a + n)
  match spot p, spot q with
  | some (d, .hbm a), some (e, .hbm b) => decide (d = e) && meet a b
  | some (_, .spad t a), some (_, .spad u b) => decide (t = u) && meet a b
  | some (_, .vault t a), some (_, .vault u b) => decide (t = u) && meet a b
  | _, _ => false

/-- The wait of an access that is held at its tile and is tried again (R290, R352, R417): stage 0 names no translation. -/
def heldWait (k : Nat) (a : Acc) : PageWait :=
  { elem := a.elem, die := tileDie k, fn := 0, stage := 0, tag := 0, addr := a.p, write := decide (a.kind = .store), size := a.size, data := a.data
    parked := none, solo := a.solo }

/-- Whether a store of an element is kept behind the waiting store of a lower one, whose bytes it meets: the higher one is last (R176). -/
def behindLower (s : State) (k : Nat) (ws : List PageWait) (j : Nat) (p : Word) (n : Nat) : Bool :=
  ws.any (fun x => x.write && decide (x.elem < j) && coincide s k x.addr x.size p n)

/-- The elements in order of number (R178): the values read, what waits and what is complete. An element that waits lets the others complete, but for those
that are kept in order: all of an STVS, and those of a SCAT that meet it (R174, R176, R177). The first trap ends the list
where nothing before it waits; behind a wait the list stops and is taken up again when the wait ends, and what higher elements have done by then stands. [log 77 DESIGN CHOICE] -/
def doElems (r : Requester) (w : Nat) (ordered : Bool) : List ElemAcc → List PageWait → BitVec 64 → Vec → M (List PageWait × BitVec 64 × Vec)
  | [], ws, done, part => pure (ws, done, part)
  | e :: l, ws, done, part =>
    if doneBit done e.j then doElems r w ordered l ws done part
    else do
      let waits (pw : PageWait) : M (List PageWait × BitVec 64 × Vec) :=
        if ordered then pure (ws ++ [pw], done, part) else doElems r w ordered l (ws ++ [pw]) done part
      let one : Requester := { r with unit := elemKey r.ctx e.j }
      if e.acc.kind = .store ∧ behindLower (← getS) r.tile ws e.j e.acc.p e.acc.size then waits (heldWait r.tile e.acc)
      else
        match ← tryA (elemStep r.tile one.unit (if e.acc.kind = .store then (do writeAcc one e.acc e.bytes; pure []) else readAcc one e.acc)) with
        | .ok bs => doElems r w ordered l ws (done ||| 1#64 <<< e.j) (part ||| BitVec.ofNat 512 (natOfBytes bs * 2 ^ (w * e.j)))
        | .error (.refer pw) => waits pw
        | .error .stall => waits (heldWait r.tile e.acc)
        | .error err => if ws.isEmpty then throw err.stop else pure (ws, done, part)

/-- A vector access runs to its end, or waits with the elements that are complete. -/
def runElems (w : Nat) (ordered : Bool) (l : List ElemAcc) : M Vec := do
  let s ← getS
  let (done, part) := s.curCtx.replay.getD (0, 0)
  let (ws, done, part) ← doElems (← requester) w ordered l [] done part
  if ws.isEmpty then pure part else throw (.refer ws done part)

/-- The element width that LDVS and STVS take from ty: 8 to 64 bits (R174). -/
def strideWidth (t : BitVec 4) (iw : Word32) : M Nat := do
  let ty ← typeOf t iw
  supported (decide (ty.width ≠ 4)) 0xF iw
  pure ty.width

/-- The accesses of a strided vector access (R174). -/
def strideElems (base : Word) (stride : Int) (w : Nat) (kind : AccKind) (v : Vec) : List ElemAcc :=
  (List.range (512 / w)).map (fun j =>
    { j := j
      acc := { accAt base (j * stride) (w / 8) (w / 8) kind with contig := false, elem := j, solo := false, data := BitVec.ofNat 64 (elemOf v w j) }
      bytes := bytesOfNat (w / 8) (elemOf v w j) })

/-- LDVS from its scope check on. -/
def loadStride (d a b : BitVec 5) (w : Nat) : M Unit := do
  let base ← regS a
  let stride ← regS b
  let v ← runElems w false (strideElems base stride.toInt w .load 0)
  modS (fun s => s.modCur (fun x => x.setV d v))

/-- A vector field that must name no bound register (R71, R174). -/
def unbound (d : BitVec 5) (iw : Word32) : M Unit := do
  require (boundTo (← getS).curCtx d).isNone iw

/-- LDVS (R174). -/
def execLdvs (d a b : BitVec 5) (t : BitVec 4) (s : State) : Host.Outcome State Fault Refusal :=
  runM (do
    let w ← strideWidth t (wordOf (.ldvs d a b t))
    unbound d (wordOf (.ldvs d a b t))
    loadStride d a b w) s

/-- LDVS.acq (R174). -/
def execLdvsAcq (d a b e : BitVec 5) (t : BitVec 4) (s : State) : Host.Outcome State Fault Refusal :=
  runM (do
    let w ← strideWidth t (wordOf (.ldvsAcq d a b e t))
    unbound d (wordOf (.ldvsAcq d a b e t))
    checkScope e
    loadStride d a b w) s

/-- STVS from its scope check on. -/
def storeStride (d a b : BitVec 5) (w : Nat) : M Unit := do
  let base ← regS a
  let stride ← regS b
  let v := (← getS).curCtx.vreg d
  let _ ← runElems w true (strideElems base stride.toInt w .store v)

/-- STVS (R174). -/
def execStvs (d a b : BitVec 5) (t : BitVec 4) (s : State) : Host.Outcome State Fault Refusal :=
  runM (do
    let w ← strideWidth t (wordOf (.stvs d a b t))
    unbound d (wordOf (.stvs d a b t))
    storeStride d a b w) s

/-- STVS.rel (R174). -/
def execStvsRel (d a b e : BitVec 5) (t : BitVec 4) (s : State) : Host.Outcome State Fault Refusal :=
  runM (do
    let w ← strideWidth t (wordOf (.stvsRel d a b e t))
    unbound d (wordOf (.stvsRel d a b e t))
    releaseAt e
    storeStride d a b w) s

/-- Elements of a gather or scatter (R175). -/
def gatherCount (size iw : Nat) : Nat := min (512 / (8 * size)) (512 / iw)

/-- Index `j` at width `iw`, read with its sign. -/
def indexOf (v : Vec) (iw : Nat) (sgn : Bool) (j : Nat) : Int :=
  let x := elemOf v iw j
  if sgn ∧ 2 ^ (iw - 1) ≤ x then (x : Int) - 2 ^ iw else x

/-- The accesses of a gather or scatter; in pointer mode each index is a fat pointer (R175, R176). -/
def gatherElems (base : Option Word) (idx : Vec) (iw : Nat) (sgn : Bool) (sc size : Nat) (p : BitVec 16) (kind : AccKind)
    (v : Vec) : List ElemAcc :=
  ((List.range (gatherCount size iw)).filter (activeElem p (8 * size))).map (fun j =>
    let a := match base with
      | some b => accAt b (indexOf idx iw sgn j * 2 ^ sc) size size kind
      | none => accAt (BitVec.ofNat 64 (elemOf idx 64 j)) 0 size size kind
    let data := elemOf v (8 * size) j
    { j := j, acc := { a with contig := false, elem := j, solo := false, data := BitVec.ofNat 64 data }
      bytes := bytesOfNat size data })

/-- In pointer mode iw must be 3, and sg and sc 0 (R175). -/
def gatherForm (b : BitVec 5) (i : BitVec 2) (g : BitVec 1) (c : BitVec 3) (iw : Word32) : M Unit :=
  require (decide (b ≠ 0 ∨ (i = 3 ∧ g = 0 ∧ c = 0))) iw

/-- The base of a gather, or none in pointer mode. -/
def gatherBase (b : BitVec 5) : M (Option Word) := do
  if b = 0 then pure none else return some (← regS b)

/-- GATH (R175 to R178). -/
def execGath (d b x : BitVec 5) (k : BitVec 3) (i : BitVec 2) (g : BitVec 1) (c : BitVec 3) (z : BitVec 2) (s : State) :
    Host.Outcome State Fault Refusal :=
  runM (do
    let iw := wordOf (.gath d b x k i g c z)
    gatherForm b i g c iw
    checkDirs [x] [d] iw
    let p ← pred k
    let base ← gatherBase b
    let idx ← srcV x iw
    roomV d
    let old ← oldV d
    let size := widthBytes z
    let n := gatherCount size (8 * widthBytes i)
    let v ← runElems (8 * size) false (gatherElems base idx (8 * widthBytes i) (g = 1) c.toNat size p .load 0)
    dstV d (vecOf (8 * size) ((List.range (64 / size)).map (fun j =>
      if n ≤ j then 0 else if activeElem p (8 * size) j then elemOf v (8 * size) j else elemOf old (8 * size) j)))) s

/-- SCAT (R175 to R178). -/
def execScat (d b x : BitVec 5) (k : BitVec 3) (i : BitVec 2) (g : BitVec 1) (c : BitVec 3) (z : BitVec 2) (s : State) :
    Host.Outcome State Fault Refusal :=
  runM (do
    let iw := wordOf (.scat d b x k i g c z)
    gatherForm b i g c iw
    checkDirs [d, x] [] iw
    let p ← pred k
    let base ← gatherBase b
    let v ← srcV d iw
    let idx ← srcV x iw
    let size := widthBytes z
    let _ ← runElems (8 * size) false
      (gatherElems base idx (8 * widthBytes i) (g = 1) c.toNat size p .store v)) s

/-- The same state with another context as the one that issues. -/
def asCtx (s : State) (k c : Nat) : State := { s with cur := { die := tileDie k, tile := tileId k, ctx := c } }

/-- The access that a wait stands for, made again from its start (R177). -/
def PageWait.acc (w : PageWait) : Acc :=
  { base := w.addr, p := w.addr, ovf := false, size := w.size, align := 1, kind := if w.write then .store else .load
    contig := false, elem := w.elem, solo := w.solo, data := w.data }

/-- A context whose elements have all been taken up executes its instruction again, with those that are complete. -/
def settlePages (s : State) (k c : Nat) (ws : List PageWait) (done : BitVec 64) (part : Vec) : State :=
  s.modCtx k c (fun x => if ws.isEmpty then { x with wait := none, replay := some (done, part) }
    else { x with wait := some (.pages ws done part) })

/-- GATHER_ELEMENT_REPLAY (R177): the element walks again and completes, waits again, or is left to the instruction, which
then meets its fault. -/
def replayElem (k c j : Nat) (s : State) : State :=
  match (s.ctx k c).wait with
  | some (.pages ws done part) =>
    match ws.find? (fun w => decide (w.elem = j)) with
    | none => s
    | some w =>
      let rest := ws.filter (fun w => w.elem != j)
      let r : Requester := { tile := k, ctx := c, engine := false, unit := elemKey c j }
      let x : A (List Byte) := if w.write then (do writeAcc r w.acc (bytesOfNat w.size w.data.toNat); pure [])
        else readAcc r w.acc
      match elemStep k r.unit x s with
      | .ok bs s => settlePages s k c rest (done ||| 1#64 <<< j)
          (part ||| BitVec.ofNat 512 (natOfBytes bs * 2 ^ (8 * w.size * j)))
      | .error (.refer pw) s => match contOr s k c (rest ++ [pw]) with
        | (s, none) => s
        | (s, some ws) => settlePages s k c ws done part
      | .error .stall s => (settlePages s k c (rest ++ [heldWait k w.acc]) done part).post (.gatherElementReplay (tileDie k) (tileId k) c j)
      | .error _ s => settlePages s k c rest done part
  | _ => s

/-- GATHER_ELEMENT_REPLAY (R177). -/
def execGatherElementReplay (die tile ctx elem : Nat) (s : State) : Host.Outcome State Fault Refusal :=
  runE (replayElem (tileKey die tile) ctx elem) s

/-! ### Full/empty functions (R179 to R181) -/

/-- Whether a full/empty function completes on a word whose bit is `full` (R179). -/
def feCan (fn : BitVec 3) (full : Bool) : Bool :=
  match fn.toNat with
  | 0 => full
  | 1 => full
  | 2 => !full
  | _ => true

/-- Whether a full/empty function changes its word or its bit. -/
def feWrites (fn : BitVec 3) : Bool := fn.toNat ≠ 1 ∧ fn.toNat ≠ 4

/-- The step of a full/empty function on the word at `off` of tile `t`, whose condition holds (R179): what S[d] receives,
if anything. -/
def feStep (k t off : Nat) (fn : BitVec 3) (v : BitVec 32) : A (Option Word) := do
  let kept := regionOf (← getA) t false off = .kept
  if kept ∧ feWrites fn then takeLocals t false off 4
  let s ← getA
  let full := feBit s k t off
  let word := natOfBytes ((List.range 4).map (fun i => tileByte s k t false (off + i)))
  match fn.toNat with
  | 0 => do
    modA (fun s => (twinsOf s k t).foldl (fun s t => setFe s t off false) s)
    pure (some (BitVec.ofNat 64 word))
  | 1 => pure (some (BitVec.ofNat 64 word))
  | 2 => do
    writeTile k t false off (bytesOfNat 4 v.toNat)
    modA (fun s => (twinsOf s k t).foldl (fun s t => setFe s t off true) s)
    pure none
  | 3 => do
    writeTile k t false off (bytesOfNat 4 v.toNat)
    modA (fun s => (twinsOf s k t).foldl (fun s t => setFe s t off true) s)
    pure none
  | 4 => pure (some (if full then 1 else 0))
  | _ => do
    modA (fun s => (twinsOf s k t).foldl (fun s t => setFe s t off (v.getLsbD 0)) s)
    pure none

/-- A waiter at the word whose condition now holds, in order of arrival (R180); one that containment has frozen never completes (R181), and none does while
an instruction that has read the word's ring slot is under way (R162). -/
def feReady (s : State) (key : Nat) : Option (Nat × Nat) :=
  let q := (s.die (key / 2 ^ 40)).feQ.filter (fun e => decide (e.1 = key))
  let t := tileKey (key / 2 ^ 40) (bits key 20 10)
  (q.find? (fun e => match (s.ctx e.2.1 e.2.2).wait with
    | some (.fe _ fn _ _) => feCan fn (feBit s e.2.1 t (key % 2 ^ 20)) && decide ((s.ctx e.2.1 e.2.2).st ≠ .frozen)
      && !slotTaken s t (key % 2 ^ 20) 4 (if e.2.1 = t then some e.2.2 else none)
    | _ => false)).map (fun e => e.2)

/-- A full/empty function at its word: what S[d] receives, if anything. It passes no waiter whose turn has come, and queues at the word where its
condition does not hold (R179, R180). -/
def feAt (r : Requester) (a : Acc) (fn : BitVec 3) (v : BitVec 32) : A (Option Word) := do
  match ← resolve r a with
  | [.tile t false off _] => do
    let s ← getA
    let key := spadKey t off
    if (feReady s key).isSome then throw .stall
    if feCan fn (feBit s r.tile t off) then feStep r.tile t off fn v
    else do
      modA (fun s => s.modDie (tileDie t) (fun x => { x with feQ := x.feQ ++ [(key, r.tile, r.ctx)] }))
      throw (.queue key)
  | _ => trapA .perm a.p

/-- What ends an access that may wait in a queue at its target, where it waits with `wait`. -/
def orQueued {α : Type} (x : A α) (wait : Nat → Wait) : M α := do
  match ← tryA x with
  | .ok a => pure a
  | .error (.queue key) => waitM (wait key)
  | .error e => throw e.stop

/-- A full/empty function of the issuing context (R179, R180); one of a twin at another tile meets its partner's first (R417). -/
def feOp (fn : BitVec 3) (d b : BitVec 5) (i : BitVec 13) : M Unit := do
  let a := accAt (← regS b) (4 * i.toInt) 4 4 .fe
  let v := (← regS d).setWidth 32
  let r ← requester
  let away := leavesTile (← getS) r a
  let x : A (Option Word) := if away then (do
      checkForm a
      pairedWord r (a.packet (bytesOfNat 1 fn.toNat ++ bytesOfNat 4 v.toNat)) (feAt r a fn v))
    else feAt r a fn v
  match ← orQueued x (fun key => .fe key fn d v) with
  | some x => setRegS d x
  | none => pure ()

/-- LDFE (R179). -/
def execLdfe (d b : BitVec 5) (i : BitVec 13) (s : State) : Host.Outcome State Fault Refusal := runM (feOp 0 d b i) s
/-- LDFF (R179). -/
def execLdff (d b : BitVec 5) (i : BitVec 13) (s : State) : Host.Outcome State Fault Refusal := runM (feOp 1 d b i) s
/-- STE (R179). -/
def execSte (d b : BitVec 5) (i : BitVec 13) (s : State) : Host.Outcome State Fault Refusal := runM (feOp 2 d b i) s
/-- STF (R179). -/
def execStf (d b : BitVec 5) (i : BitVec 13) (s : State) : Host.Outcome State Fault Refusal := runM (feOp 3 d b i) s
/-- FEGET (R179). -/
def execFeget (d b : BitVec 5) (i : BitVec 13) (s : State) : Host.Outcome State Fault Refusal := runM (feOp 4 d b i) s
/-- FESET (R179). [log 28 DEDUCED] -/
def execFeset (d b : BitVec 5) (i : BitVec 13) (s : State) : Host.Outcome State Fault Refusal := runM (feOp 5 d b i) s

/-- A waiter leaves the queue of its word. -/
def leaveFe (s : State) (key k c : Nat) : State :=
  s.modDie (key / 2 ^ 40) (fun x => { x with feQ := x.feQ.filter (fun e => e != (key, k, c)) })

/-- FE_WAITER_WAKE (R180): the oldest waiter whose condition holds completes. -/
def feWake (key : Nat) (s : State) : State :=
  match feReady s key with
  | none => s
  | some (k, c) =>
    match (s.ctx k c).wait with
    | some (.fe _ fn d v) =>
      let t := tileKey (key / 2 ^ 40) (bits key 20 10)
      let s := (leaveFe s key k c).modCtx k c (fun x => { x with wait := none })
      let s := asCtx s k c
      match feStep k t (key % 2 ^ 20) fn v s with
      | .ok x s =>
        let s := forgetInstr (closePacket k { key := c, bytes := wordBytes x, cause := none } s) k c
        finish { s := match x with
          | some x => s.modCur (fun y => y.setS d x)
          | none => s }
      | .error (.trap cause v) s =>
        takeTrap (forgetInstr (closePacket k { key := c, bytes := [], cause := some (cause, v, false) } s) k c) cause v
      | .error _ s => s
    | _ => s

/-- FE_WAITER_WAKE (R180). -/
def execFeWaiterWake (key : Nat) (s : State) : Host.Outcome State Fault Refusal := runE (feWake key) s

/-! ### Atomics (R182, R183) -/

/-- An atomic's new value at width `w`; `none` where nothing is written (R182). -/
def amoNew (op : Nat) (w x y cmp : Nat) : Option Nat :=
  match op with
  | 0 => some (intAdd w x y)
  | 1 => some (intMinS w x y)
  | 2 => some (intMaxS w x y)
  | 3 => some (intAnd w x y)
  | 4 => some (intOr w x y)
  | 5 => some (intXor w x y)
  | 6 => some y
  | _ => if x = cmp then some y else none

/-- An atomic (R182). -/
def amoOp (op : Nat) (d a b : BitVec 5) (r : BitVec 2) (e : BitVec 5) (w : BitVec 1) (iw : Word32) : M Unit := do
  require (decide (r ≠ 0 ∨ e = 0)) iw
  checkScope e
  if r.getLsbD 1 then releaseAt e
  let n := if w = 1 then 8 else 4
  let y := (← regS b).toNat % 2 ^ (8 * n)
  let cmp := (← regS d).toNat % 2 ^ (8 * n)
  let old ← liftA (rmwAcc (← requester) (accAt (← regS a) 0 n n .amo)
    (fun bs => (amoNew op (8 * n) (natOfBytes bs) y cmp).map (bytesOfNat n)))
  setRegS d (BitVec.ofNat 64 (natOfBytes old))

/-- AMO.add (R182). -/
def execAmoAdd (d a b : BitVec 5) (r : BitVec 2) (e : BitVec 5) (w : BitVec 1) (s : State) :
    Host.Outcome State Fault Refusal := runM (amoOp 0 d a b r e w (wordOf (.amoAdd d a b r e w))) s
/-- AMO.min (R182). -/
def execAmoMin (d a b : BitVec 5) (r : BitVec 2) (e : BitVec 5) (w : BitVec 1) (s : State) :
    Host.Outcome State Fault Refusal := runM (amoOp 1 d a b r e w (wordOf (.amoMin d a b r e w))) s
/-- AMO.max (R182). -/
def execAmoMax (d a b : BitVec 5) (r : BitVec 2) (e : BitVec 5) (w : BitVec 1) (s : State) :
    Host.Outcome State Fault Refusal := runM (amoOp 2 d a b r e w (wordOf (.amoMax d a b r e w))) s
/-- AMO.and (R182). -/
def execAmoAnd (d a b : BitVec 5) (r : BitVec 2) (e : BitVec 5) (w : BitVec 1) (s : State) :
    Host.Outcome State Fault Refusal := runM (amoOp 3 d a b r e w (wordOf (.amoAnd d a b r e w))) s
/-- AMO.or (R182). -/
def execAmoOr (d a b : BitVec 5) (r : BitVec 2) (e : BitVec 5) (w : BitVec 1) (s : State) :
    Host.Outcome State Fault Refusal := runM (amoOp 4 d a b r e w (wordOf (.amoOr d a b r e w))) s
/-- AMO.xor (R182). -/
def execAmoXor (d a b : BitVec 5) (r : BitVec 2) (e : BitVec 5) (w : BitVec 1) (s : State) :
    Host.Outcome State Fault Refusal := runM (amoOp 5 d a b r e w (wordOf (.amoXor d a b r e w))) s
/-- AMO.swap (R182). -/
def execAmoSwap (d a b : BitVec 5) (r : BitVec 2) (e : BitVec 5) (w : BitVec 1) (s : State) :
    Host.Outcome State Fault Refusal := runM (amoOp 6 d a b r e w (wordOf (.amoSwap d a b r e w))) s
/-- AMO.cas: S[d] is the comparand and the destination (R182). -/
def execAmoCas (d a b : BitVec 5) (r : BitVec 2) (e : BitVec 5) (w : BitVec 1) (s : State) :
    Host.Outcome State Fault Refusal := runM (amoOp 7 d a b r e w (wordOf (.amoCas d a b r e w))) s

end Sys2Proof.Machine
end

