-- ==== Sys2Proof/Machine/Sync.lean ====
section
/-! DEFINITION. Fences and sealing (R184 to R186), groups and scope entries (R187 to R192), rings and the inbox (R193 to
R195, R25). -/

namespace Sys2Proof.Machine

/-! ### FENCE, SEAL, UNSEAL (R184, R185) -/

/-- FENCE: kinds rel, acqrel and sc wait for the context's writes (R184, R255). [log 6 DESIGN CHOICE] -/
def execFence (k : BitVec 2) (e : BitVec 5) (s : State) : Host.Outcome State Fault Refusal :=
  runM (do
    checkScope e
    if k ≠ 0 then releaseAt e) s

/-- Bytes of a page (R185). -/
def pageBytes : Nat := 2 ^ 21

/-- The range that SEAL and UNSEAL act on: its die, first offset and length (R185). To the shard of an ADOPTED index they are writes (R426). [log 47 DEDUCED] -/
def sealRange (a b : BitVec 5) (iw : Word32) : M (Word × Nat × Nat) := do
  let p ← regS a
  let n := (← regS b).toNat
  require (decide (n ≠ 0)) iw
  liftA (checkFmt p none)
  if ptrOff p % pageBytes ≠ 0 ∨ n % pageBytes ≠ 0 then trapM .misalign p
  let s ← getS
  match resolveDie s s.curKey p with
  | none => trapM .nomem p
  | some d => do
    if (shardOf s s.curKey p).isSome then (if ptrOff p < 0x4000000000 then trapM .perm p else trapM .nomem p)
    if 0x4000000000 ≤ ptrOff p then trapM .nomem p
    if 0x4000000000 < ptrOff p + n then trapM .nomem (ptrWithOff p 0x4000000000)
    pure (p, d, n)

/-- The granule of 64 KiB to which an offset of the HBM window leads; a policy page traps PERM, for UNSEAL
as for SEAL, with the granule's address (R185). [log 26 DEDUCED] -/
def sealGranule (p : Word) (d off : Nat) : M Nat := do
  let s ← getS
  let r ← requester
  let q := { trReqOf s r d off .load with sub := false }
  let at' := ptrWithOff p off
  let policy : Bool := match walk s q off with
    | .ok l => l.policy
    | .error _ => false
  if policy then trapM .perm at'
  else match translate s q off with
    | (s', .ok l) => do
      modS (fun _ => s')
      match l.home with
      | .hbm hpa => pure (hpa / 65536)
      | .host port addr => pure (hostGranule port addr)
    | (s', .error .page) => do modS (fun _ => s'); trapM .page at'
    | (s', .error .perm) => do modS (fun _ => s'); trapM .perm at'
    | (_, .error .busy) => throw .retry
    | (s', .error (.refer stage tag)) =>
      match bookingOf s r with
      | some (h, _) => trapM .overrun (overrunVal 0xFF h 3)
      | none => do
        if parkRoom s r.tile d = false then throw .retry
        let (s'', parked) := parkAccess s' r none d q stage tag at'
        modS (fun _ => s'')
        throw (.refer [{ elem := 0, die := d, fn := q.fn, stage := stage, tag := tag, addr := at', write := false, size := 1,
                         data := 0, parked := parked, solo := true }] 0 0)

/-- A granule becomes sealed or not; what it was when the superstep of barrier `g` first changed it is recorded (R186). -/
def setSeal (d g : Nat) (on : Bool) (s : State) (n : Nat) : State :=
  s.modDie d (fun x =>
    let was := x.seals.contains n
    if was = on then x
    else { x with
      seals := if on then insertNat x.seals n else removeNat x.seals n
      sealLog := if x.sealLog.any (fun e => decide (e.1 = g) && decide (e.2.1 = n)) then x.sealLog
        else x.sealLog ++ [(g, n, was)] })

/-- SEAL and UNSEAL: every granule of the range (R185). [log 26 DEDUCED] -/
def sealOp (on : Bool) (a b : BitVec 5) (iw : Word32) : M Unit := do
  let (p, d, n) ← sealRange a b iw
  releaseAt 4
  let gs ← (List.range (n / 65536)).mapM (fun i => sealGranule p d (ptrOff p + 65536 * i))
  match (← getS).unit? with
  | some u => modS (fun s => gs.foldl (setSeal d u.barKey on) s)
  | none => pure ()

/-- SEAL (R185). -/
def execSeal (a b : BitVec 5) (s : State) : Host.Outcome State Fault Refusal :=
  runM (sealOp true a b (wordOf (.seal a b))) s

/-- UNSEAL (R185). -/
def execUnseal (a b : BitVec 5) (s : State) : Host.Outcome State Fault Refusal :=
  runM (sealOp false a b (wordOf (.unseal a b))) s

/-! ### Groups (R187 to R192) -/

/-- The partition of the issuing context. -/
def curPart : M Nat := do
  return match (← getS).unit? with
    | some u => u.part
    | none => 0

/-- The issuing context as a member. -/
def curMember : M Nat := do
  let s ← getS
  return groupMember s.curKey s.cur.ctx

/-- A group table entry is replaced, or removed. -/
def setGroup (p key : Nat) (g : Option Group) : M Unit :=
  modS (fun s => s.modPart p (fun x => { x with groups := match g with
    | some g => Map.set x.groups key g
    | none => Map.erase x.groups key }))

/-- A key that names a group, or ILLEGAL (R187). -/
def groupKey (v : Word) (iw : Word32) : M Nat := do
  require (decide (v.toNat ≠ 0 ∧ v.toNat < 2 ^ 24)) iw
  pure v.toNat

/-- A phase token (R190). -/
def phaseToken (key : Nat) (phase : BitVec 32) : Word := BitVec.ofNat 64 (key * 2 ^ 32 + phase.toNat)

/-- ARRIVE (R189). -/
def execArrive (d e : BitVec 5) (s : State) : Host.Outcome State Fault Refusal :=
  runM (do
    require (decide (5 ≤ e.toNat)) (wordOf (.arrive d e))
    checkScope e
    let key := bits ((s.curCtx.scopes[e.toNat]?).getD 0).toNat 0 24
    let p ← curPart
    let m ← curMember
    match Map.get? (s.part p).groups key with
    | none => trapM .badscope (e.setWidth 64)
    | some g =>
      if g.joining.contains m then waitM .group
      if g.members.contains m = false then trapM .badscope (e.setWidth 64)
      if g.arrived.contains m then waitM .group
      setGroup p key (some { g with arrived := insertNat g.arrived m }.settle)
      setRegS d (phaseToken key g.phase)) s

/-- A token's key and phase; reserved bits trap ILLEGAL (R190). -/
def readToken (a : BitVec 5) (iw : Word32) : M (Nat × Nat) := do
  let v ← regS a
  require (decide (bits v.toNat 56 8 = 0)) iw
  pure (bits v.toNat 32 24, bits v.toNat 0 32)

/-- Whether the group of a token has left the token's phase (R190). -/
def phaseLeft (key phase : Nat) : M Bool := do
  let p ← curPart
  return match Map.get? ((← getS).part p).groups key with
    | none => true
    | some g => decide (g.phase.toNat ≠ phase)

/-- WAITB (R190). -/
def execWaitb (a : BitVec 5) (s : State) : Host.Outcome State Fault Refusal :=
  runM (do
    let (key, phase) ← readToken a (wordOf (.waitb a))
    if (← phaseLeft key phase) = false then waitM .group) s

/-- TESTB (R190). -/
def execTestb (d a : BitVec 5) (s : State) : Host.Outcome State Fault Refusal :=
  runM (do
    let (key, phase) ← readToken a (wordOf (.testb d a))
    setRegS d (if ← phaseLeft key phase then 1 else 0)) s

/-- JOIN (R188). -/
def execJoin (d a : BitVec 5) (s : State) : Host.Outcome State Fault Refusal :=
  runM (do
    let key ← groupKey (← regS a) (wordOf (.join d a))
    let p ← curPart
    let m ← curMember
    match Map.get? (s.part p).groups key with
    | none =>
      if (s.part p).groups.length < Config.groupRoom then
        setGroup p key (some { members := [m] })
        setRegS d 0
      else setRegS d 2
    | some g =>
      if g.members.contains m ∨ g.joining.contains m then setRegS d 3
      else if g.arrived = [] then
        setGroup p key (some { g with members := insertNat g.members m })
        setRegS d 0
      else
        setGroup p key (some { g with joining := insertNat g.joining m })
        setRegS d 1) s

/-- LEAVE (R188, R189). -/
def execLeave (d a : BitVec 5) (s : State) : Host.Outcome State Fault Refusal :=
  runM (do
    let key ← groupKey (← regS a) (wordOf (.leave d a))
    let p ← curPart
    let m ← curMember
    match Map.get? (s.part p).groups key with
    | none => setRegS d 1
    | some g =>
      if g.members.contains m ∨ g.joining.contains m then
        setGroup p key (g.leave m)
        setRegS d 0
      else setRegS d 1) s

/-- SCOPESET: an entry 0 to 4 is ILLEGAL, a key of 0 makes the entry INVALID (R191). -/
def execScopeset (a e : BitVec 5) (s : State) : Host.Outcome State Fault Refusal :=
  runM (do
    require (decide (5 ≤ e.toNat)) (wordOf (.scopeset a e))
    let v ← regS a
    require (decide (v.toNat < 2 ^ 24)) (wordOf (.scopeset a e))
    let w : BitVec 32 := if v = 0 then 0 else 0x10000000#32 ||| v.setWidth 32
    modS (fun s => s.modCur (fun x => { x with scopes := x.scopes.setIfInBounds e.toNat w }))) s

/-- GROUP_WAIT_WAKE (R189): the context examines its wait again. -/
def wakeCtx (k c : Nat) (s : State) : State := s.modCtx k c (fun x => { x with wait := none })

/-- GROUP_WAIT_WAKE (R189). -/
def execGroupWaitWake (die tile ctx : Nat) (s : State) : Host.Outcome State Fault Refusal :=
  runE (wakeCtx (tileKey die tile) ctx) s

/-- STREAM_WAKE (R162). -/
def execStreamWake (die tile ctx : Nat) (s : State) : Host.Outcome State Fault Refusal :=
  runE (wakeCtx (tileKey die tile) ctx) s

/-- QUEUE_WAKE (R19). -/
def execQueueWake (die tile ctx : Nat) (s : State) : Host.Outcome State Fault Refusal :=
  runE (wakeCtx (tileKey die tile) ctx) s

/-! ### Rings (R193, R194) -/

/-- The fields of a ring control block (R193). -/
structure RingBlock where
  base : Word
  size : Nat
  head : Nat
  tail : Nat
  ok : Bool

/-- Entries in a ring, modulo 2^64. -/
def RingBlock.count (x : RingBlock) : Nat := (x.tail + 2 ^ 64 - x.head) % 2 ^ 64

/-- A control block from its 64 bytes, and whether its fields follow R193. [log 25 DEDUCED] -/
def ringBlock (bs : List Byte) : RingBlock :=
  let f (o n : Nat) : Nat := natOfBytes ((bs.drop o).take n)
  let base : Word := BitVec.ofNat 64 (f 0 8)
  let x : RingBlock := { base := base, size := f 8 4, head := f 16 8, tail := f 24 8, ok := true }
  { x with ok := decide (ptrFmt base = 0 ∧ ptrBlk base = 0 ∧ ptrOff base % 64 = 0) && isPow2 x.size
      && decide (2 ≤ x.size ∧ x.size ≤ 2 ^ 24 ∧ f 12 4 = 0 ∧ f 32 32 = 0 ∧ x.count ≤ x.size) }

/-- Whether a ring, read at its physical key, can take (`enq`) or give an entry. -/
def ringCan (s : State) (block : Nat) (enq : Bool) : Bool :=
  let d := block / 2 ^ 40
  let hpa := block % 2 ^ 40
  let n := (readAt s d (hpa + 24) 8 + 2 ^ 64 - readAt s d (hpa + 16) 8) % 2 ^ 64
  if enq then decide (n < readAt s d (hpa + 8) 4) else decide (n ≠ 0)

/-- The first waiter of a block that can be served (R194); one that containment has frozen never completes (R265). -/
def ringReady (s : State) (block : Nat) : Option RingWaiter :=
  ((s.die (block / 2 ^ 40)).waiters.filter (fun w => decide (w.block = block))).find? (fun w =>
    ringCan s block w.enq && decide ((s.ctx w.tile w.ctx).st ≠ .frozen))

/-- The block at `p` and its physical key: PERM outside HBM, ILLFMT where it breaks R193. [log 25 DEDUCED] -/
def openRing (r : Requester) (p : Word) : A (Nat × Nat × RingBlock) := do
  let a := accAt p 0 64 64 .amo
  match ← resolve r a with
  | [.hbm d hpa n leaf] => do
    let x := ringBlock (← readPieces r [.hbm d hpa n leaf])
    let s ← getA
    if x.ok = false ∨ resolveDie s r.tile x.base ≠ some d then trapA .illfmt p
    pure (d, hbmKey d hpa, x)
  | _ => trapA .perm p

/-- The entry of count `c`. -/
def ringEntry (x : RingBlock) (c : Nat) (kind : AccKind) : Acc := accAt x.base (8 * (c % x.size)) 8 8 kind

/-- One enqueue (R194). -/
def doEnq (r : Requester) (p : Word) (x : RingBlock) (v : Word) : A Unit := do
  writeRaw r (ringEntry x x.tail .amo) (bytesOfNat 8 v.toNat)
  writeRaw r (accAt p 24 8 8 .amo) (bytesOfNat 8 (x.tail + 1))

/-- One dequeue (R194). -/
def doDeq (r : Requester) (p : Word) (x : RingBlock) : A Word := do
  let bs ← readRaw r (ringEntry x x.head .load)
  writeRaw r (accAt p 16 8 8 .amo) (bytesOfNat 8 (x.head + 1))
  pure (BitVec.ofNat 64 (natOfBytes bs))

/-- A request that must wait joins the waiters of the block's die. -/
def waitRing (r : Requester) (block : Nat) (enq : Bool) (p v : Word) (d b : BitVec 5) : A (Option Word) := do
  let w : RingWaiter := { block := block, tile := r.tile, ctx := r.ctx, enq := enq, ptr := p, value := v, d := d, b := b }
  modA (fun s => s.modDie (block / 2 ^ 40) (fun x => { x with waiters := x.waiters ++ [w] }))
  throw (.queue block)

/-- A request at a ring (R194), which passes no waiter whose turn has come. For an enqueue, 0 or, where it gave up, 1; for a dequeue the value, or nothing. -/
def ringAt (r : Requester) (enq : Bool) (p v : Word) (d b : BitVec 5) (give : Bool) : A (Option Word) := do
  let (_, block, x) ← openRing r p
  if (ringReady (← getA) block).isSome then throw .stall
  if enq then
    if x.count = x.size then (if give then pure (some 1) else waitRing r block enq p v d b)
    else do
      doEnq r p x v
      pure (some 0)
  else if x.count = 0 then (if give then pure none else waitRing r block enq p v d b)
  else do return some (← doDeq r p x)

/-- A request of the issuing context at a ring; a twin's meets its partner's first (R194, R417). -/
def ringOp (enq : Bool) (p v : Word) (d b : BitVec 5) (give : Bool) : M (Option Word) := do
  let r ← requester
  orQueued (pairedWord r (bytesOfNat 8 p.toNat ++ bytesOfNat 1 enq.toNat ++ bytesOfNat 8 v.toNat) (ringAt r enq p v d b give)) .ring

/-- ENQ (R194). -/
def execEnq (d a b : BitVec 5) (tr : BitVec 1) (s : State) : Host.Outcome State Fault Refusal :=
  runM (do
    let p ← regS a
    let v ← regS b
    setRegS d ((← ringOp true p v d b (tr = 1)).getD 0)) s

/-- DEQ: without .try the b field must be 0 (R194). -/
def execDeq (d a b : BitVec 5) (tr : BitVec 1) (s : State) : Host.Outcome State Fault Refusal :=
  runM (do
    require (decide (tr = 1 ∨ b = 0)) (wordOf (.deq d a b tr))
    let p ← regS a
    match ← ringOp false p 0 d b (tr = 1) with
    | none => setRegS b 1
    | some v => do
      setRegS d v
      if tr = 1 then setRegS b 0) s

/-- A waiter leaves the queue controller. -/
def leaveRing (s : State) (w : RingWaiter) : State :=
  s.modDie (w.block / 2 ^ 40) (fun x => { x with waiters := x.waiters.filter (fun v => v != w) })

/-- QC_WAITER_SERVE (R194): the first waiter that can be served completes. -/
def serveRing (block : Nat) (s : State) : State :=
  match ringReady s block with
  | none => s
  | some w =>
    let s := asCtx ((leaveRing s w).modCtx w.tile w.ctx (fun x => { x with wait := none })) w.tile w.ctx
    let r : Requester := { tile := w.tile, ctx := w.ctx, engine := false }
    let x : A (Option Word) := do
      let (_, _, b) ← openRing r w.ptr
      if w.enq then doEnq r w.ptr b w.value; pure (some 0) else return some (← doDeq r w.ptr b)
    let told (a : TwinAnswer) (s : State) : State := forgetInstr (closePacket w.tile a s) w.tile w.ctx
    match x s with
    | .ok v s =>
      let s := told { key := w.ctx, bytes := wordBytes v, cause := none } s
      finish { s := match v with
        | some v => s.modCur (fun y => y.setS w.d v)
        | none => s }
    | .error (.trap c v) s => takeTrap (told { key := w.ctx, bytes := [], cause := some (c, v, false) } s) c v
    | .error (.contain c v) s => containCtx (told { key := w.ctx, bytes := [], cause := some (c, v, true) } s) w.tile w.ctx c v false
    | .error (.refer pw) s => enterRefer s [pw] 0 0
    | .error _ s => s

/-- QC_WAITER_SERVE (R194). -/
def execQcWaiterServe (block : Nat) (s : State) : Host.Outcome State Fault Refusal := runE (serveRing block) s

/-- DEQ_LONG_WAIT (R194): an unbooked helper with a live mask becomes a continuation, whose record is ready at once and
executes its DEQ again. [log 25 DEDUCED] -/
def deqLong (k c : Nat) (s : State) : State :=
  match (s.ctx k c).wait with
  | some (.ring block) =>
    match (s.die (block / 2 ^ 40)).waiters.find? (fun w => decide (w.tile = k) && decide (w.ctx = c)) with
    | some w =>
      if w.enq = false ∧ becomesCont s k c then match makeCont s k c [] true with
        | (s', none) => leaveRing s' w
        | (s', some ws) => ws.foldl (fun s x => { s with hwWaits := s.hwWaits ++ [{
            ev := some (.deqLongWait (tileDie k) (tileId k) c), job := 0, fn := x.fn, addr := x.addr, bytes := [], die := x.die
            stage := x.stage, tag := x.tag }] }) s'
      else s
    | none => s
  | _ => s

/-- DEQ_LONG_WAIT (R194). -/
def execDeqLongWait (die tile ctx : Nat) (s : State) : Host.Outcome State Fault Refusal :=
  runE (deqLong (tileKey die tile) ctx) s

/-! ### The inbox (R24, R25, R195) -/

/-- The oldest entry, split over S[d] and S[b]. -/
def giveEntry (d b : BitVec 5) (e : BitVec 128) : M Unit := do
  setRegS d (e.extractLsb' 0 64)
  setRegS b (e.extractLsb' 64 64)

/-- INBOXR (R195). -/
def execInboxr (d b : BitVec 5) (tr : BitVec 1) (s : State) : Host.Outcome State Fault Refusal :=
  runM (do
    require (decide (d ≠ b ∨ d = 0)) (wordOf (.inboxr d b tr))
    match s.curTile.io.inbox with
    | e :: l => do
      modS (fun s => s.modIo s.curKey (fun io => { io with inbox := l }))
      giveEntry d b e
    | [] => if tr = 1 then giveEntry d b 0 else waitM .inbox) s

/-- INBOXP: the entry stays (R195). -/
def execInboxp (d b : BitVec 5) (s : State) : Host.Outcome State Fault Refusal :=
  runM (do
    require (decide (d ≠ b ∨ d = 0)) (wordOf (.inboxp d b))
    match s.curTile.io.inbox with
    | e :: _ => giveEntry d b e
    | [] => waitM .inbox) s

/-- INBOX_WAIT_WAKE (R195). -/
def execInboxWaitWake (die tile ctx : Nat) (s : State) : Host.Outcome State Fault Refusal :=
  runE (wakeCtx (tileKey die tile) ctx) s

/-- INBOX_HELD_DELIVER (R25): the oldest held entry is posted where the inbox has room. -/
def deliverHeld (k : Nat) (s : State) : State :=
  s.modIo k (fun io => match io.heldIn with
    | e :: l => if io.inbox.length < Config.inboxDepth then { io with inbox := io.inbox ++ [e], heldIn := l } else io
    | [] => io)

/-- INBOX_HELD_DELIVER (R25). -/
def execInboxHeldDeliver (die tile : Nat) (s : State) : Host.Outcome State Fault Refusal :=
  runE (deliverHeld (tileKey die tile)) s

end Sys2Proof.Machine
end

