-- ==== Sys2Proof/Machine/Table.lean ====
section
/-! DEFINITION. Table interpolation (R153 to R156) and quantisation (R157, R158). -/

namespace Sys2Proof.Machine

/-! ### Exact values -/

/-- The exact sum of two finite values; a zero sum takes its sign under R54. -/
def addEx (rm : BitVec 3) : Fp → Fp → Fp
  | .fin n1 m1 e1, .fin n2 m2 e2 =>
    let (v, e) := addExact n1 m1 e1 n2 m2 e2
    if v = 0 then .fin (zeroSign rm (m1 == 0) n1 (m2 == 0) n2) 0 e else .fin (decide (v < 0)) v.natAbs e
  | x, _ => x

/-- The exact product of two finite values. -/
def mulEx : Fp → Fp → Fp
  | .fin n1 m1 e1, .fin n2 m2 e2 => .fin (n1 != n2) (m1 * m2) (e1 + e2)
  | x, _ => x

/-- A finite value times 2^k. -/
def shiftEx (k : Int) : Fp → Fp
  | .fin n m e => .fin n m (e + k)
  | x => x

/-- The floor of a finite value that is not negative. -/
def floorEx : Fp → Nat
  | .fin _ m e => (scaleTo m 1 e 0).1
  | _ => 0

def Fp.isInf : Fp → Bool
  | .inf _ => true
  | _ => false

/-! ### Tables (R154, R155) -/

def TableSlot.x0 (t : TableSlot) : Nat := bits t.header.toNat 0 32
def TableSlot.exp (t : TableSlot) : Int := readInt true 8 (bits t.header.toNat 32 8)
def TableSlot.below (t : TableSlot) : Nat := bits t.header.toNat 40 8
def TableSlot.above (t : TableSlot) : Nat := bits t.header.toNat 48 8
def TableSlot.count (t : TableSlot) : Nat := bits t.header.toNat 64 16

/-- Coefficient c of segment i. -/
def TableSlot.coef (t : TableSlot) (i c : Nat) : Fp :=
  decodeFp .f32 (bits ((t.segs[i]?).getD 0).toNat (32 * c) 32)

/-- The header's limits (R154). -/
def TableSlot.headerOk (t : TableSlot) : Bool :=
  (match decodeFp .f32 t.x0 with
    | .fin _ _ _ => true
    | _ => false)
  && decide (-24 ≤ t.exp ∧ t.exp ≤ 24 ∧ t.below ≤ 3 ∧ t.above ≤ 3 ∧ 1 ≤ t.count ∧ t.count ≤ 256)
  && decide (bits t.header.toNat 56 8 = 0 ∧ bits t.header.toNat 80 176 = 0)

/-- A slot of the tile. -/
def Tile.table (t : Tile) (i : Nat) : TableSlot := (t.eng.tables[i]?).getD {}

/-- The table slot that an epilogue configuration reads, if its TB bit is set (R217). -/
def epTable (cfg : BitVec 512) : Option Nat := if bits cfg.toNat 3 1 = 1 then some (bits cfg.toNat 8 2) else none

/-- Contexts other than the issuing one whose TLOAD of slot `i` has issued and is not complete (R153). -/
def loading (s : State) (i : Nat) : List Nat :=
  (List.range 11).filter (fun c => decide (c ≠ s.cur.ctx) && decide ((s.ctx s.curKey c).tload = some i))

/-- TLOAD waits for the epilogue jobs issued before it that read the slot (R153, R155). A segment at a time is read, so that a fault names its
address. -/
def execTload (d a : BitVec 5) (s : State) : Host.Outcome State Fault Refusal :=
  runM (do
    let iw := wordOf (.tload d a)
    require (decide (d.toNat < 4)) iw
    liftA (needResource (← requester) 1)
    let p ← regS a
    let c := s.cur.ctx
    modS (fun s => s.modCur (fun x => { x with tload := some d.toNat }))
    if s.curTile.eng.epiq.any (fun j => epTable j.cfg == some d.toNat && !j.behind.contains c) then throw .retry
    let h ← readM { accAt p 0 32 16 .load with declared := some 1 }
    let head : TableSlot := { valid := true, ssn := s.curTile.step.ssn, header := BitVec.ofNat 256 (natOfBytes h) }
    if head.headerOk = false then trapM .illfmt p
    liftA (checkForm (accAt p 32 (16 * head.count) 16 .load))
    let segs ← (List.range head.count).mapM (fun (i : Nat) => do
      return BitVec.ofNat 128 (natOfBytes (← readM (accAt p (32 + 16 * i) 16 16 .load))))
    if segs.any (fun g => decide (bits g.toNat 96 32 ≠ 0)) then trapM .illfmt p
    modS (fun s => (dropTload s s.curKey c).modEng s.curKey (fun e =>
      { e with tables := e.tables.setIfInBounds d.toNat { head with segs := segs } }))) s

/-! ### Interpolation (R156) -/

/-- One element of TINTERP, an encoding of `f`, through a table, rounded to `f`. An exact intermediate that is zero takes its sign as R54 gives it for
a sum under the rounding mode. [log 71 DESIGN CHOICE] -/
def interp (t : TableSlot) (f : FloatFmt) (rm : BitVec 3) (draw : BitVec 16) (x : Nat) : FRes :=
  let v := decodeFp f x
  match v with
  | .nan sn => nanOf f sn
  | _ =>
    let u := shiftEx (-t.exp) (addEx rm v (decodeFp .f32 t.x0).neg)
    let n : Fp := .fin false t.count 0
    let isBelow := ltFp false u (.fin false 0 0)
    let isAbove := !ltFp false u n
    let m := if isBelow then t.below else if isAbove then t.above else 3
    let i := if isBelow then 0 else if isAbove then t.count - 1 else floorEx u
    if m = 1 then { val := 0, flags := 0 }
    else if m = 2 then { val := x, flags := 0 }
    else
      let cs := [t.coef i 0, t.coef i 1, t.coef i 2]
      if v.isInf || cs.any (fun c => c.isInf || c.isNan) then invalid f
      else
        let frac : Fp := if m = 3 then addEx rm u (.fin true i 0) else .fin false (if isBelow then 0 else 1) 0
        roundFp f rm draw (addEx rm (t.coef i 0) (mulEx frac (addEx rm (t.coef i 1) (mulEx frac (t.coef i 2)))))

/-- TINTERP (R156) waits for the TLOADs of its slot issued before it (R153). -/
def execTinterp (d a b : BitVec 5) (k : BitVec 3) (t : BitVec 4) (s : State) : Host.Outcome State Fault Refusal :=
  runM (do
    let iw := wordOf (.tinterp d a b k t)
    require (decide (b.toNat < 4)) iw
    let ty ← typeOf t iw
    let fmt ← arithTy ty iw
    checkDirs [a] [d] iw
    liftA (needResource (← requester) 1)
    if loading s b.toNat ≠ [] then throw .retry
    require (s.curTile.table b.toNat).valid iw
    let p ← pred k
    let x ← srcV a iw
    let rm := s.curCtx.rm
    putElems d fmt.width p (fun j =>
      interp (s.curTile.table b.toNat) fmt rm (drawsOf s s.curKey s.cur.ctx j) (elemOf x fmt.width j))
    countDraw rm) s

/-! ### Quantisation (R157, R158) -/

/-- A type other than F32 is UNIMPL. -/
def onlyF32 (t : BitVec 4) (iw : Word32) : M Unit := do
  let ty ← typeOf t iw
  supported (ty == .flt .f32) fnTy iw

/-- VQDQ (R157). -/
def execVqdq (d a b : BitVec 5) (k : BitVec 3) (t : BitVec 4) (s : State) : Host.Outcome State Fault Refusal :=
  runM (do
    let iw := wordOf (.vqdq d a b k t)
    onlyF32 t iw
    checkDirs [a] [d] iw
    let p ← pred k
    let v ← srcV a iw
    let y := (← regS b).toNat
    let old ← oldV d
    dstV d (mergeElems 32 p old (fun i =>
      (roundFp .f32 0 0 (q4Value (elemOf v 4 (16 * bits y 8 3 + i)) (bits y 0 8))).val))) s

/-- QSCALE (R158). -/
def execQscale (d a b : BitVec 5) (k : BitVec 3) (t : BitVec 4) (s : State) : Host.Outcome State Fault Refusal :=
  runM (do
    let iw := wordOf (.qscale d a b k t)
    onlyF32 t iw
    checkDirs [a] [d] iw
    let p ← pred k
    let v ← srcV a iw
    let sc : BitVec 32 := (← regS b).setWidth 32
    if badScale sc then trapM .scale (sc.setWidth 64)
    putElems d 32 p (fun i => superScale (decodeFp .f32 (elemOf v 32 i)) (decodeFp .f32 sc.toNat))) s

end Sys2Proof.Machine
end

