-- ==== Sys2Proof/Machine/Engines.lean ====
section
/-! DEFINITION. Engine operations in general (R204 to R207), the matrix unit (R208 to R213), the accumulator ring (R214 to
R216) and the epilogue engine (R217 to R220). -/

namespace Sys2Proof.Machine

/-! ### Faults of operations in flight (R205, R413) -/

/-- The payload of an entry of TYPE 0x01 (R205). -/
def opPayload (status : Nat) (cause : BitVec 8) (off : Nat) : Word :=
  BitVec.ofNat 64 (off % 2 ^ 40 * 2 ^ 16 + cause.toNat * 256 + status)

/-- The count of a token falls by 1. -/
def dropToken (s : State) (k : Nat) (w : Option Nat) : State :=
  match w with
  | some w => s.modEng k (fun e => { e with tok := e.tok.setIfInBounds w (((e.tok[w]?).getD 0) - 1) })
  | none => s

/-- The count of a token. -/
def Engines.count (e : Engines) (w : Nat) : BitVec 6 := (e.tok[w]?).getD 0

/-- A run-time fault of an operation of context `c`, issued at `pc`, with tag `tag`: event, record and inbox entry (R205,
R327). -/
def opFault (s : State) (k c : Nat) (pc : Word) (tag : BitVec 16) (cause : BitVec 8) (off : Nat) : State :=
  let payload := opPayload 2 cause off
  let s := recordFault s k c cause payload pc
  notify (raiseEvent s k cause) k payload tag 0 0x01

/-- An engine operation meets a containment event: the context that issued it is frozen, with the state of the operation's issue in TPC and TSTAT; no such
instruction stands in a repeat frame (R32, R81, R413). -/
def containOp (s : State) (k c : Nat) (handle : Option Nat) (pc : Word) (cause : Cause) (tval : Word) : State :=
  (containCtx s k c cause tval false).modCtx k c (fun x => { x with
    tpc := pc, tstat := trapStatus c handle false false (x.tstat.getLsbD 0) })

/-- Resources that a booked helper must have declared (R342). -/
def needAll (r : Requester) (l : List Nat) : A Unit := eachA (l.foldl insertNat []) (needResource r)

/-- The scratchpad banks or the vault port that `n` bytes of the own tile need (R292, R342). -/
def bytesNeed (s : State) (k : Nat) (d : Nat) (off n : Nat) : List Nat :=
  match spotFor s d k off with
  | .spad t o => if t = k ∧ n ≠ 0 then (List.range ((o + n - 1) / 64 - o / 64 + 1)).map (fun i => 8 + (o / 64 + i) % 16) else []
  | .vault t _ => if t = k then [5] else []
  | _ => []

/-- What a booked helper's engine operation may not touch: HBM, or a staged range that is not PRESENT (R342). [log 27 DEDUCED] -/
def bookedRange (r : Requester) (p : Word) (n : Nat) : A Unit := do
  let s ← getA
  match bookingOf s r with
  | none => pure ()
  | some (h, _) =>
    let d := (resolveDie s r.tile p).getD (tileDie r.tile)
    let late : A Unit := trapA .overrun (overrunVal 0xFF h 3)
    match spotFor s d r.tile (ptrOff p) with
    | .hbm _ => late
    | .spad t o => if t = r.tile ∧ stagedPending s t false o n then late else pure ()
    | .vault t o => if t = r.tile ∧ stagedPending s t true o n then late else pure ()
    | _ => pure ()

/-! ### The matrix unit: operands (R208 to R210) -/

/-- Element bytes, doubled, and K of a type pair, and whether it accumulates in I32; `none` where the unit has no such pair
(R208). -/
def mmaPair (ta tb : Nat) : Option (Nat × Bool) :=
  match ta, tb with
  | 2, 2 => some (32, false)
  | 3, 3 => some (32, false)
  | 2, 8 => some (128, false)
  | 3, 8 => some (128, false)
  | 4, 4 => some (64, false)
  | 4, 5 => some (64, false)
  | 5, 4 => some (64, false)
  | 5, 5 => some (64, false)
  | 6, 6 => some (64, true)
  | 6, 7 => some (64, true)
  | _, _ => none

/-- Bits of an element of a format code that the matrix unit reads. -/
def codeWidth (t : Nat) : Nat :=
  if t = 2 ∨ t = 3 then 16 else if t = 7 ∨ t = 8 then 4 else 8

/-- Elements of `w` bits from bytes, lowest first. -/
def unpackElems (w : Nat) (bs : List Byte) : List (BitVec 16) :=
  let x := natOfBytes bs
  (List.range (8 * bs.length / w)).map (fun i => BitVec.ofNat 16 (bits x (w * i) w))

/-- One run of an operand: `n` elements of width `w` at `base` moved by `off` bytes. -/
def fetchRun (base : Word) (off : Int) (w n fmt : Nat) : M (List (BitVec 16)) := do
  let z := max 1 (w / 8)
  let bs ← readM { accAt base off (w * n / 8) z .load with declared := some fmt }
  pure (unpackElems w bs)

/-- Runs in order of number. -/
def fetchRuns (f : Nat → M (List (BitVec 16))) (n : Nat) : M (List (List (BitVec 16))) := (List.range n).mapM f

/-- The transpose of rows of 16 elements. -/
def transpose (n : Nat) (rows : List (List (BitVec 16))) : List (List (BitVec 16)) :=
  (List.range n).map (fun i => rows.map (fun r => (r[i]?).getD 0))

/-- A Q4 column: 128 elements from element `e` on, each as its code and, from bit 4 up, its subscale (R210). -/
def fetchQ4 (base : Word) (e : Nat) : M (List (BitVec 16)) := do
  let block (i : Nat) : M (List (BitVec 16)) := do
    let b := e / 64 + i
    let o := 8512 * (b / 256)
    let sc ← readM { accAt base (o + 64 + b % 256 : Nat) 1 1 .load with declared := some 8 }
    let cs ← readM { accAt base (o + 320 + 32 * (b % 256) : Nat) 32 1 .load with declared := some 8 }
    pure ((unpackElems 4 cs).map (fun c => c ||| BitVec.ofNat 16 (natOfBytes sc * 16)))
  let l ← (List.range 2).mapM block
  pure l.flatten

/-- The columns of B, each of K elements (R209, R210). [log 20 DEDUCED] -/
def fetchB (p stride : Word) (tb k : Nat) (bk : Bool) : M (List (List (BitVec 16))) := do
  let w := codeWidth tb
  if tb = 8 then
    let e0 := bits stride.toNat 32 32
    let c := bits stride.toNat 0 32
    if ptrOff p % 64 ≠ 0 ∨ e0 % 64 ≠ 0 ∨ c % 64 ≠ 0 then trapM .misalign p
    fetchRuns (fun n => fetchQ4 p (e0 + n * c)) 16
  else if bk then
    return transpose 16 (← fetchRuns (fun i => fetchRun p (i * stride.toInt) w 16 tb) k)
  else fetchRuns (fun n => fetchRun p (n * stride.toInt) w k tb) 16

/-- An element of an operand as a value. -/
def mmaValue (t : Nat) (x : BitVec 16) : Fp :=
  match t with
  | 2 => decodeFp .bf16 x.toNat
  | 3 => decodeFp .f16 x.toNat
  | 4 => decodeFp .e4 x.toNat
  | 5 => decodeFp .e5 x.toNat
  | _ => q4Value (bits x.toNat 0 4) (bits x.toNat 4 8)

/-- An element of an integer operand. -/
def mmaInt (t : Nat) (x : BitVec 16) : Int := readInt true (codeWidth t) x.toNat

/-- One element of the product tile from accumulator element `c`, a row of A and a column of B (R62 to R64). -/
def mmaElem (ta tb : Nat) (c : BitVec 32) (row col : List (BitVec 16)) : FRes :=
  match mmaPair ta tb with
  | some (_, true) =>
    let sum := (row.zip col).foldl (fun (acc : Int) p => acc + mmaInt ta p.1 * mmaInt tb p.2) (c.toInt)
    { val := wrapInt 32 sum, flags := 0 }
  | _ => mmaSum (decodeFp .f32 c.toNat) ((row.zip col).map (fun p => (mmaValue ta p.1, mmaValue tb p.2)))

/-- Element (m, n) of a slot (R22). -/
def AccSlot.elem (x : AccSlot) (m n : Nat) : BitVec 32 := Map.getD x.elems (16 * m + n) 0

/-- Element (m, n) of a slot is written. -/
def AccSlot.setElem (x : AccSlot) (m n : Nat) (v : BitVec 32) : AccSlot :=
  { x with elems := if v = 0 then Map.erase x.elems (16 * m + n) else Map.set x.elems (16 * m + n) v }

/-- A slot of the ring. -/
def Engines.slot (e : Engines) (i : Nat) : AccSlot := (e.acc[i]?).getD {}
def Engines.setSlot (e : Engines) (i : Nat) (x : AccSlot) : Engines := { e with acc := e.acc.setIfInBounds i x }

/-- Rows row0 to row1 − 1 of an MMA are added to a slot; the flags of all its elements. -/
def mmaApply (o : MmaOp) (x : AccSlot) : AccSlot × Flags :=
  ((List.range 16).filter (fun m => decide (o.row0 ≤ m ∧ m < o.row1))).foldl (fun (acc : AccSlot × Flags) m =>
    (List.range 16).foldl (fun (acc : AccSlot × Flags) n =>
      let c := if o.overwrite then 0 else acc.1.elem m n
      let r := mmaElem o.ta.toNat o.tb.toNat c ((o.a[m]?).getD []) ((o.b[n]?).getD [])
      (acc.1.setElem m n (BitVec.ofNat 32 r.val), acc.2 ||| r.flags)) acc) (x, 0)

/-! ### MMA (R208 to R213) -/

/-- The sequence number after `n` (R211). -/
def nextSeq (n : BitVec 32) : BitVec 32 := if n = 0xFFFFFFFE then 1 else n + 1

/-- Whether a slot is queued for the epilogue or draining. -/
def AccSlot.handed (x : AccSlot) : Bool := x.st == .epiq || x.st == .epi

/-- The fields of an MMA that R69, R77, R208 allow. No pair has a 4-bit A operand, so that its transposed layout is judged first. [log 20 DEDUCED] -/
def mmaForm (pa pb : BitVec 5) (t u : BitVec 4) (c : BitVec 2) (m : BitVec 3) (iw : Word32) : M (Nat × Bool) := do
  let code (x : BitVec 4) : Bool := decide (1 ≤ x.toNat ∧ x.toNat ≤ 10)
  require (!pa.getLsbD 0 && !pb.getLsbD 0 && code t && code u && decide (c.toNat < 2) && !m.getLsbD 2) iw
  let four (x : BitVec 4) : Bool := decide (x = 7 ∨ x = 8)
  if four t && m.getLsbD 0 then unimpl 0x1E07 iw
  match mmaPair t.toNat u.toNat with
  | none => unimpl 0x1FE0 iw
  | some x => do
    if four u && m.getLsbD 1 then unimpl 0x01E7 iw
    pure x

/-- The oldest MMA in flight writes its rows, and its flags go to the context that issued it, which then becomes a continuation if it waits as one
(R206, R211). An MMA whose operands are not all there does not complete. [log 20 DEDUCED] -/
def completeMma (k : Nat) (s : State) : State :=
  match (s.tile k).eng.mmas with
  | [] => s
  | o :: l =>
    if o.fetched = false then s
    else
      let r := mmaApply o ((s.tile k).eng.slot o.slot)
      let s := s.modEng k (fun e => { e.setSlot o.slot r.1 with mmas := l })
      let s := s.modCtx k o.ctx (fun x => x.orFlags r.2)
      match (s.ctx k o.ctx).wait with
      | some (.pages ws done part) =>
        match contOr s k o.ctx ws with
        | (s, none) => s
        | (s, some ws) => s.modCtx k o.ctx (fun x => { x with wait := some (.pages ws done part) })
      | _ => s

/-- The MMA of context `c` that waits for its operands. -/
def Engines.waiting (e : Engines) (c : Nat) : Option MmaOp := e.mmas.find? (fun o => decide (o.ctx = c) && !o.fetched)

/-- A waiting MMA of context `c` ends before its row `row1`: the MMAs before it complete, since MMAs accumulate in order of issue, then its rows
row0 to row1 − 1 are written, with no flag, since it traps (R61, R211, R212). The row at which TRET resumes it, 0 where the fault was met before a row of A. [log 20 DEDUCED] -/
def stopMma (k c : Nat) (s : State) : State × Nat :=
  match (s.tile k).eng.waiting c with
  | none => (s, 0)
  | some o =>
    let s := (List.range (s.tile k).eng.mmas.length).foldl (fun s _ => completeMma k s) s
    let r := mmaApply o ((s.tile k).eng.slot o.slot)
    (s.modEng k (fun e => { e.setSlot o.slot r.1 with mmas := e.mmas.filter (fun p => p.seq != o.seq) }), if o.b = [] then 0 else o.row1)

/-- A context that waits takes a trap at its instruction; an MMA that waits for its operands ends as R212 gives. -/
def trapWaiting (s : State) (k c : Nat) (cause : Cause) (tval : Word) : State :=
  if ((s.tile k).eng.waiting c).isSome then
    let (s, r) := stopMma k c s
    let s := s.modCtx k c (fun x => { x with mrow := mrowAt x.mrow r })
    takeTrapAt s k c cause tval (s.ctx k c).pc (decide (r ≠ 0))
  else takeTrapAt s k c cause tval (s.ctx k c).pc false

/-- The MMA of the issuing context, which waits for its operands, is as `f` gives it. -/
def modMma (f : MmaOp → MmaOp) : M Unit :=
  modS (fun s => s.modEng s.curKey (fun e =>
    { e with mmas := e.mmas.map (fun o => if o.ctx = s.cur.ctx ∧ o.fetched = false then f o else o) }))

/-- The end of an MMA whose fetch stopped: a fault ends it before the row at which it stood, and a wait leaves it issued (R211, R212). -/
def mmaStop : Stop → M Unit
  | .trap c v => do
    let s ← getS
    let (s, r) := stopMma s.curKey s.cur.ctx s
    modS (fun _ => s)
    throw (.trapRow c v r)
  | .contain c v _ => do
    let s ← getS
    let (s, r) := stopMma s.curKey s.cur.ctx s
    modS (fun _ => s.modCur (fun x => { x with mrow := mrowAt x.mrow r }))
    throw (.contain c v r)
  | e => throw e

/-- What an M computation answers, with its stop as a value. -/
def tryM {α : Type} (x : M α) : M (Except Stop α) := fun w =>
  match x w with
  | .ok a w => .ok (.ok a) w
  | .error e w => .ok (.error e) w

/-- The rows of A from row `r0` on, after as many empty ones; at a stop, the rows before the one at which it stood. [log 20 DEDUCED] -/
def fetchA (p stride : Word) (ta k r0 : Nat) (at' : Bool) : M (List (List (BitVec 16)) × Option Stop) := do
  let w := codeWidth ta
  if at' then
    match ← tryM (fetchRuns (fun i => fetchRun p (i * stride.toInt) w 16 ta) k) with
    | .ok rows => pure (transpose 16 rows, none)
    | .error e => pure ([], some e)
  else
    (List.range (16 - r0)).foldlM (fun (acc : List (List (BitVec 16)) × Option Stop) i => do
      match acc.2 with
      | some _ => pure acc
      | none =>
        match ← tryM (fetchRun p ((r0 + i : Nat) * stride.toInt) w k ta) with
        | .ok row => pure (acc.1 ++ [row], none)
        | .error e => pure (acc.1, some e)) (List.replicate r0 [], none)

/-- MMA (R208 to R213). It is numbered and holds its place at its first issue, and then waits for the MMAs before it to have their operands, and for its
own. [log 20 DEDUCED] -/
def execMma (sl : BitVec 3) (pa pb : BitVec 5) (t u : BitVec 4) (c : BitVec 2) (m : BitVec 3) (s : State) :
    Host.Outcome State Fault Refusal :=
  runM (do
    let iw := wordOf (.mma sl pa pb t u c m)
    let (k, _) ← mmaForm pa pb t u c m iw
    liftA (needResource (← requester) 0)
    let a ← regS pa
    let b ← regS pb
    liftA (checkFmt a (some t.toNat))
    liftA (checkFmt b (some u.toNat))
    let r0 := s.curCtx.mmaRow.getD 0
    if (s.curTile.eng.waiting s.cur.ctx).isNone then
      if (s.curTile.eng.slot sl.toNat).handed then throw .retry
      let seq := nextSeq s.curTile.eng.mseq
      modS (fun s => s.modEng s.curKey (fun e => { e.setSlot sl.toNat { e.slot sl.toNat with st := .mma } with
        mseq := seq
        mmas := e.mmas ++ [{ ctx := s.cur.ctx, seq := seq, slot := sl.toNat, ta := t, tb := u, overwrite := c = 1, row0 := r0, row1 := r0
                             a := [], b := [], fetched := false }] }))
    if ((← getS).curTile.eng.mmas.find? (fun o => !o.fetched)).any (fun o => decide (o.ctx ≠ s.cur.ctx)) then throw .retry
    modMma (fun o => { o with a := [], b := [], row1 := r0 })
    match ← tryM (fetchB b (← regS (pb + 1)) u.toNat k (m.getLsbD 1)) with
    | .error e => mmaStop e
    | .ok cols => do
      let (rows, stop) ← fetchA a (← regS (pa + 1)) t.toNat k r0 (m.getLsbD 0)
      modMma (fun o => { o with a := rows, b := cols, row1 := max r0 (min 16 rows.length) })
      match stop with
      | some e => mmaStop e
      | none => do
        modMma (fun o => { o with fetched := true })
        modS (fun s => s.post (.mmaComplete s.cur.die s.cur.tile))) s

/-- MMA_COMPLETE (R211). -/
def execMmaComplete (die tile : Nat) (s : State) : Host.Outcome State Fault Refusal :=
  runE (completeMma (tileKey die tile)) s

/-! ### The accumulator ring (R214 to R216) -/

/-- The oldest MMA in flight to a slot. -/
def Engines.mmaTo (e : Engines) (i : Nat) : Option MmaOp := e.mmas.find? (fun o => decide (o.slot = i))

/-- ACCRD, ACCWR and MZERO need a slot that is FREE or idle, or trap ACCBUSY (R215, R216). -/
def accFree (sl : BitVec 3) : M Unit := do
  let e := (← getS).curTile.eng
  match e.mmaTo sl.toNat with
  | some o => trapM .accbusy (o.seq ++ sl.setWidth 32)
  | none => if (e.slot sl.toNat).handed then trapM .accbusy (0xFFFFFFFF#32 ++ sl.setWidth 32)

/-- MWAIT (R215). -/
def execMwait (sl : BitVec 3) (s : State) : Host.Outcome State Fault Refusal :=
  runM (do if (s.curTile.eng.mmaTo sl.toNat).isSome then throw .retry) s

/-- ACCRD (R215). -/
def execAccrd (d : BitVec 5) (sl : BitVec 3) (r : BitVec 4) (s : State) : Host.Outcome State Fault Refusal :=
  runM (do
    unbound d (wordOf (.accrd d sl r))
    accFree sl
    let x := s.curTile.eng.slot sl.toNat
    modS (fun s => s.modCur (fun y =>
      y.setV d (vecOf 32 ((List.range 16).map (fun n => (x.elem r.toNat n).toNat)))))) s

/-- ACCWR (R215). -/
def execAccwr (a : BitVec 5) (sl : BitVec 3) (r : BitVec 4) (s : State) : Host.Outcome State Fault Refusal :=
  runM (do
    unbound a (wordOf (.accwr a sl r))
    accFree sl
    let v := s.curCtx.vreg a
    modS (fun s => s.modEng s.curKey (fun e => e.setSlot sl.toNat
      ((List.range 16).foldl (fun (x : AccSlot) n => x.setElem r.toNat n (BitVec.ofNat 32 (elemOf v 32 n)))
        (e.slot sl.toNat))))) s

/-- MZERO (R215). -/
def execMzero (sl : BitVec 3) (s : State) : Host.Outcome State Fault Refusal :=
  runM (do
    accFree sl
    modS (fun s => s.modEng s.curKey (fun e => e.setSlot sl.toNat { e.slot sl.toNat with elems := [] }))) s

/-- The hand-over of the slot at the head, which waits while that slot is queued or draining; the job at the head of the queue starts draining (R214). -/
def handOver (job : Nat → EpiJob) : M Unit := do
  let e := (← getS).curTile.eng
  let h := e.head.toNat
  if (e.slot h).handed then throw .retry
  modS (fun s => (s.modEng s.curKey (fun e =>
    { e.setSlot h { e.slot h with st := .epiq } with head := e.head + 1, epiq := e.epiq ++ [job h] })))
  if e.epiq = [] then modS (fun s => s.post (.epiDrainStart s.cur.die s.cur.tile))

/-- MNEXT: the job is null (R215). -/
def execMnext (s : State) : Host.Outcome State Fault Refusal :=
  runM (handOver (fun h => { slot := h, tok := none, cfg := 0, dst := 0, stride := 0, ctx := s.cur.ctx, rm := 0, draws := 0
                             pc := s.curCtx.pc, waits := [] })) s

/-! ### Epilogue configurations (R217, R218) -/

/-- `n` bytes of a configuration from byte `o`. -/
def cfgField (c : BitVec 512) (o n : Nat) : Nat := bits c.toNat (8 * o) (8 * n)

def epQS (c : BitVec 512) : Bool := c.getLsbD 0
def epSC (c : BitVec 512) : Bool := c.getLsbD 1
def epBI (c : BitVec 512) : Bool := c.getLsbD 2
def epIN (c : BitVec 512) : Bool := c.getLsbD 10
def epOut (c : BitVec 512) : Nat := cfgField c 2 1
def epRM (c : BitVec 512) : Nat := bits c.toNat 24 3
def epSat (c : BitVec 512) : Bool := c.getLsbD 27
def epD (c : BitVec 512) : Bool := c.getLsbD 28
def epQSB (c : BitVec 512) : Word := BitVec.ofNat 64 (cfgField c 8 8)
def epBIAS (c : BitVec 512) : Word := BitVec.ofNat 64 (cfgField c 16 8)

/-- Whether a descriptor is valid (R217). -/
def epCfgOk (c : BitVec 512) : Bool :=
  decide (bits c.toNat 4 4 = 0 ∧ bits c.toNat 11 5 = 0 ∧ bits c.toNat 29 3 = 0 ∧ bits c.toNat 192 320 = 0)
    && [0, 1, 2, 3, 4, 5, 7].contains (epOut c)
    && decide (epRM c < 5) && !(epD c && decide (epRM c ≠ 0))
    && !(decide (epOut c = 7) && (!epIN c || decide (bits c.toNat 0 4 ≠ 0)))
    && !(epIN c && (decide (epOut c = 5) || decide (epOut c = 7)) && !epSat c)

/-- EPCFG (R218). -/
def execEpcfg (a : BitVec 5) (c : BitVec 2) (s : State) : Host.Outcome State Fault Refusal :=
  runM (do
    let p ← regS a
    let bs ← readM (accAt p 0 64 64 .load)
    let x : BitVec 512 := BitVec.ofNat 512 (natOfBytes bs)
    if epCfgOk x = false then trapM .illfmt p
    modS (fun s => s.modEng s.curKey (fun e => { e with epcfg := e.epcfg.setIfInBounds c.toNat (some x) }))) s

/-! ### EPI (R219, R220) -/

/-- Bytes of an element of OUT, and its format code of R45. -/
def outSize (o : Nat) : Nat := if o = 0 ∨ o = 7 then 4 else if o = 1 ∨ o = 2 then 2 else 1
def outFmt (o : Nat) : Nat :=
  match o with
  | 0 => 1
  | 1 => 2
  | 2 => 3
  | 3 => 4
  | 4 => 5
  | 5 => 6
  | _ => 9

/-- The access of row m of a job. -/
def epiRow (d stride : Word) (o m : Nat) (kind : AccKind) : Acc :=
  { accAt d (m * stride.toInt) (16 * outSize o) (outSize o) kind with declared := some (outFmt o) }

/-- A token that has room; else the instruction waits at issue (R23). -/
def tokenRoom (w : Nat) : M Unit := do
  if (← getS).curTile.eng.count w = 63 then throw .retry

/-- The count of a token rises by 1. -/
def addToken (w : Nat) : M Unit :=
  modS (fun s => s.modEng s.curKey (fun e => { e with tok := e.tok.setIfInBounds w (e.count w + 1) }))

/-- What an EPI of a booked helper may not need or touch (R342). -/
def epiBooked (c : BitVec 512) (d stride : Word) : M Unit := do
  let r ← requester
  let s ← getS
  let die (p : Word) : Nat := (resolveDie s r.tile p).getD (tileDie r.tile)
  let n := 16 * outSize (epOut c)
  let rows := (List.range 16).map (fun m => ((epiRow d stride (epOut c) m .store).p, n))
  let more := (if epQS c then [(epQSB c, 64)] else []) ++ (if epBI c then [(epBIAS c, 64)] else [])
  liftA (needAll r (1 :: (rows ++ more).flatMap (fun e => bytesNeed s r.tile (die e.1) (ptrOff e.1) e.2)))
  liftA (eachA (rows ++ more) (fun e => bookedRange r e.1 e.2))

/-- EPI (R219). A table slot that is not VALID is judged once the TLOADs of it that were issued before have completed (R153). -/
def execEpi (a b : BitVec 5) (w : BitVec 3) (c : BitVec 2) (s : State) : Host.Outcome State Fault Refusal :=
  runM (do
    let iw := wordOf (.epi a b w c)
    match (s.curTile.eng.epcfg[c.toNat]?).getD none with
    | none => illegal iw
    | some cfg => do
      match epTable cfg with
      | some t =>
        if (s.curTile.table t).valid = false ∧ loading s t ≠ [] then throw .retry
        require (s.curTile.table t).valid iw
      | none => pure ()
      let d ← regS a
      let stride ← regS b
      liftA (checkFmt d (some (outFmt (epOut cfg))))
      liftA (eachA (List.range 16) (fun m => checkForm (epiRow d stride (epOut cfg) m .store)))
      epiBooked cfg d stride
      tokenRoom w.toNat
      let rm : BitVec 3 := if epD cfg then s.curCtx.rm else BitVec.ofNat 3 (epRM cfg)
      handOver (fun h => { slot := h, tok := some w.toNat, cfg := cfg, dst := d, stride := stride, ctx := s.cur.ctx, rm := rm
                           draws := s.curCtx.draws, pc := s.curCtx.pc, waits := [], subreg := s.curTile.csr.subreg, handle := s.curCtx.handle
                           behind := ((epTable cfg).map (loading s)).getD [] })
      addToken w.toNat
      if epOut cfg ≠ 7 then countDraw rm) s

/-- Whether the oldest queued slot starts draining: no MMA to it is in flight, and no TLOAD of its table issued before the job (R153, R214). -/
def drainReady (e : Engines) : Bool :=
  match e.epiq with
  | [] => false
  | j :: _ => decide ((e.slot j.slot).st = .epiq) && (e.mmaTo j.slot).isNone && decide (j.behind = [])

/-- EPI_DRAIN_START (R214): the oldest queued slot starts draining. -/
def startDrain (k : Nat) (s : State) : State :=
  match (s.tile k).eng.epiq with
  | [] => s
  | j :: _ =>
    let e := (s.tile k).eng
    if drainReady e then
      (s.modEng k (fun e => e.setSlot j.slot { e.slot j.slot with st := .epi })).post (.epiDrainEnd (tileDie k) (tileId k))
    else s

/-- EPI_DRAIN_START (R214). -/
def execEpiDrainStart (die tile : Nat) (s : State) : Host.Outcome State Fault Refusal :=
  runE (startDrain (tileKey die tile)) s

/-- What a job reads before its rows: the super-scale and the biases (R219). -/
structure EpiData where
  scale : Fp
  bias : List Fp

/-- The values of what a job has read. -/
def EpiJob.data (j : EpiJob) : EpiData :=
  let (sc, bias) := j.reads.getD (0, 0)
  { scale := decodeFp .f32 sc.toNat, bias := (List.range 16).map (fun n => decodeFp .f32 (bits bias.toNat (32 * n) 32)) }

/-- The reads of a job; a bad super-scale is SCALE (R43, R219). -/
def epiReads (r : Requester) (c : BitVec 512) : A (BitVec 32 × BitVec 512) := do
  let scale ← if epQS c then do
      let p := epQSB c
      let bs ← readAcc r { accAt p 0 64 64 .load with declared := some 8 }
      let sc : BitVec 32 := BitVec.ofNat 32 (natOfBytes (bs.take 4))
      if badScale sc ∨ natOfBytes (bs.drop 4) ≠ 0 then trapA .scale p else pure sc
    else pure 0
  let bias ← if epBI c then do
      let bs ← readAcc r { accAt (epBIAS c) 0 64 4 .load with declared := some 1 }
      pure (BitVec.ofNat 512 (natOfBytes bs))
    else pure 0
  pure (scale, bias)

/-- A step of a job on a value and the flags so far. -/
def epiStep (on : Bool) (f : Nat → FRes) (x : Nat × Flags) : Nat × Flags :=
  if on then ((f x.1).val, x.2 ||| (f x.1).flags) else x

/-- The final conversion to OUT (R55 to R60, R219). -/
def epiOut (o : Nat) (rm : BitVec 3) (sat : Bool) (draw : BitVec 16) (x : Nat) : FRes :=
  match o with
  | 0 => cvtFF .f32 .f32 rm sat draw x
  | 1 => cvtFF .f32 .bf16 rm sat draw x
  | 2 => cvtFF .f32 .f16 rm sat draw x
  | 3 => cvtFF .f32 .e4 rm sat draw x
  | 4 => cvtFF .f32 .e5 rm sat draw x
  | 5 => cvtFI .f32 true 8 rm sat draw x
  | _ => { val := x, flags := 0 }

/-- One element of a job (R219): the bits written, and the flags. -/
def epiElem (j : EpiJob) (t : Option TableSlot) (x : EpiData) (draw : BitVec 16) (n : Nat) (v : BitVec 32) : Nat × Flags :=
  let c := j.cfg
  let f := decodeFp .f32
  let a : Nat × Flags := (v.toNat, 0)
  let a := epiStep (epIN c && decide (epOut c ≠ 7)) (fun y => cvtIF true 32 .f32 0 false 0 y) a
  let a := epiStep (epQS c) (fun y => superScale (f y) x.scale) a
  let a := epiStep (epSC c) (fun y => mulFp .f32 0 0 (f y) (f (cfgField c 4 4))) a
  let a := epiStep (epBI c) (fun y => addFp .f32 0 0 (f y) ((x.bias[n]?).getD (.fin false 0 0))) a
  let a := epiStep t.isSome (fun y => interp (t.getD {}) .f32 0 0 y) a
  epiStep true (fun y => epiOut (epOut c) j.rm (epSat c) draw y) a

/-- The draws of a job (R53). [log 16 DEDUCED] -/
def epiDraw (s : State) (k : Nat) (j : EpiJob) (n : Nat) : BitVec 16 :=
  let launch := match (s.tile k).work with
    | some u => u.launch
    | none => 0
  drawOf (drawKey (BitVec.ofNat 32 launch) (s.tile k).step.ssn (s.dieId k) (tileId (s.idKey k)) j.ctx) j.draws n

/-- The job at the head of the queue, which drains, is as `f` gives it. -/
def modJob (k : Nat) (f : EpiJob → EpiJob) : A Unit :=
  modA (fun s => s.modEng k (fun e => { e with epiq := match e.epiq with
    | [] => []
    | j :: l => f j :: l }))

/-- Row `m` of a job is written, and the job goes on behind it (R219). -/
def epiRowOut (r : Requester) (k m : Nat) (j : EpiJob) : A Unit := do
  let s ← getA
  let t := (epTable j.cfg).map (fun i => (s.tile k).table i)
  let es := (List.range 16).map (fun n => epiElem j t j.data (epiDraw s k j (16 * m + n)) n (((s.tile k).eng.slot j.slot).elem m n))
  writeAcc r (epiRow j.dst j.stride (epOut j.cfg) m .store) (es.flatMap (fun e => bytesOfNat (outSize (epOut j.cfg)) e.1))
  modJob k (fun j => { j with row := m + 1, flags := es.foldl (fun (f : Flags) e => f ||| e.2) j.flags })

/-- The job that drains goes on from where it stands: its reads, once, then its rows in order of m (R219). -/
def epiRun (k : Nat) : A Unit := do
  match ((← getA).tile k).eng.epiq with
  | [] => pure ()
  | j :: _ =>
    let r : Requester := { tile := k, ctx := j.ctx, engine := true, unit := epiKey, subreg := some j.subreg }
    if j.reads = none then
      let x ← twinStep k epiKey (epiReads r j.cfg)
      modJob k (fun j => { j with reads := some x })
    eachA ((List.range 16).filter (fun m => decide (j.row ≤ m))) (fun m => do
      match ((← getA).tile k).eng.epiq with
      | [] => pure ()
      | j :: _ => twinStep k epiKey (epiRowOut r k m j))

/-- A job has ended: its slot is FREE and zero, its token falls, and the next job may start (R214). -/
def endJob (s : State) (k : Nat) (j : EpiJob) : State :=
  let s := s.modEng k (fun e => { e.setSlot j.slot {} with epiq := e.epiq.drop 1 })
  let s := if (s.tile k).eng.epiq = [] then s else s.post (.epiDrainStart (tileDie k) (tileId k))
  dropToken s k j.tok

/-- EPI_DRAIN_END (R214, R219): the draining job's rows are written, or a run-time fault ends it; a job that waits goes on at its row. A
containment event is such a fault, and freezes its context too (R205, R413). [log 74 DEDUCED] -/
def endDrain (k : Nat) (s : State) : State :=
  match (s.tile k).eng.epiq with
  | [] => s
  | j :: _ =>
    let again (s : State) (w : PageWait) : State := s.modEng k (fun e => { e with epiq := match e.epiq with
      | [] => []
      | j :: l => { j with waits := [w] } :: l })
    if j.tok = none then endJob s k j
    else match epiRun k s with
      | .ok _ s =>
        let f : Flags := match (s.tile k).eng.epiq with
          | [] => 0
          | j :: _ => j.flags
        (endJob s k j).modCtx k j.ctx (fun x => x.orFlags f)
      | .error (.trap c v) s => opFault (endJob s k j) k j.ctx j.pc 0 c.code (ptrOff v)
      | .error (.contain c v) s =>
        containOp (opFault (endJob s k j) k j.ctx j.pc 0 c.code (ptrOff v)) k j.ctx j.handle j.pc c v
      | .error (.refer w) s => again s w
      | .error .stall s | .error (.queue _) s => s.post (.epiDrainEnd (tileDie k) (tileId k))
      | .error .never s => s

/-- EPI_DRAIN_END (R214). -/
def execEpiDrainEnd (die tile : Nat) (s : State) : Host.Outcome State Fault Refusal :=
  runE (endDrain (tileKey die tile)) s

end Sys2Proof.Machine
end

