-- ==== Sys2Proof/Machine/Copy.lean ====
section
/-! DEFINITION. The copy engine: COPY, COPY2D, COPYG, COPYR, WAITT (R221 to R227), PUT and GET (R236), and how their
operations proceed and end (R204, R205, R315). -/

namespace Sys2Proof.Machine

/-! ### Issue -/

/-- A descriptor of `n` bytes in the own scratchpad, aligned to `n`: MISALIGN or PERM where it is not (R198, R223, R237). [log 21 DEDUCED] -/
def ownDesc (p : Word) (n : Nat) : M (List Byte) := do
  liftA (checkFmt p none)
  if ptrOff p % n ≠ 0 then trapM .misalign p
  let s ← getS
  let k := s.curKey
  match (resolveDie s k p).map (fun d => spotFor s d k (ptrOff p)) with
  | some (.spad t _) => if t ≠ k then trapM .perm p
  | _ => trapM .perm p
  readM (accAt p 0 n n .load)

/-- `n` bytes of a descriptor from byte `o`, as a number. -/
def descField (bs : List Byte) (o n : Nat) : Nat := natOfBytes ((bs.drop o).take n)

/-- A pointer of a descriptor. -/
def descPtr (bs : List Byte) (o : Nat) : Word := BitVec.ofNat 64 (descField bs o 8)

/-- The issue checks of a contiguous range: R48, then STRADDLE (R222). -/
def rangeForm (p : Word) (n : Nat) (declared : Option Nat) : M Unit := do
  liftA (checkFmt p declared)
  if 2 ^ 40 < ptrOff p + n then trapM .straddle p

/-- The issue checks of rows: PTROVF with the base, then STRADDLE with the row (R222). [log 21 DEDUCED] -/
def rowsForm (p : Word) (rows n : Nat) (stride : Int) : M Unit := do
  liftA (checkFmt p none)
  liftA (eachA (List.range rows) (fun i => do
    let (q, o) := formPtr p (i * stride)
    if o then trapA .ptrovf p
    if 2 ^ 40 < ptrOff q + n then trapA .straddle q))

/-- The stream entry that a copy feeds: a copy binding that has not been fed, or ILLEGAL (R222). -/
def streamEntry (d : BitVec 5) (iw : Word32) : M Nat := do
  let e := (← regS d).toNat % 8
  let x := (← getS).curTile.desc e
  require (x.inUse && x.copy && x.slots == 0) iw
  pure e

/-- Groups of 64 bytes that cover `n` bytes. -/
def groups64 (n : Nat) : Nat := (n + 63) / 64

/-- An operation joins the copy engine, which holds 32 (R398), and adds 1 to its token; it gives its number. -/
def issueOp (o : EngineOp) : M Nat := do
  let s ← getS
  if Config.copyOps ≤ s.curTile.eng.ops.length then throw .retry
  tokenRoom o.tok
  let id := s.curTile.eng.nextOp
  modS (fun s => s.modEng s.curKey (fun e => { e with ops := e.ops ++ [{ o with id := id }], nextOp := id + 1 }))
  addToken o.tok
  pure id

/-- An operation as the issuing context starts it. -/
def newOp (s : State) (kind : OpKind) (w : BitVec 3) : EngineOp :=
  { id := 0, kind := kind, tok := w.toNat, stream := false, entry := 0, ctx := s.cur.ctx, x := 0, sd := 0, sa := 0, sb := 0
    desc := 0, done := 0, rows := [], flags := 0, pc := s.curCtx.pc, waits := [], subreg := s.curTile.csr.subreg, handle := s.curCtx.handle }

/-- Registers as an operation was issued with them (R399). -/
def issueRegs (s : State) (l : List (BitVec 5)) : List Word := l.map s.curCtx.sreg

/-- The number at a comparator of what an operation does for element `i`: the rows of a COPYG are told apart, since they go on independently (R315, R417). -/
def EngineOp.key (o : EngineOp) (i : Nat) : Nat := opKey o.id (if o.kind = .copyg then i + 1 else 0)

/-- An operation as a requester (R303), for element `i`. -/
def EngineOp.self (o : EngineOp) (k i : Nat) : Requester :=
  { tile := k, ctx := o.ctx, engine := true, unit := o.key i, subreg := some o.subreg }

/-- The event by which an operation goes on with element `elem`. -/
def EngineOp.resume (o : EngineOp) (k elem : Nat) : Instr :=
  if o.kind = .copyg then .gatherRowArrive (tileDie k) (tileId k) o.id elem else .copyComplete (tileDie k) (tileId k) o.id

/-- A copy of `n` bytes is issued; one of no bytes completes at once (R222). -/
def issueCopy (o : EngineOp) (n : Nat) : M Unit := do
  if n = 0 then pure ()
  else
    let id ← issueOp o
    if o.stream then
      modS (fun s => s.modIo s.curKey (fun io =>
        { io with descs := io.descs.setIfInBounds o.entry
                    { (io.descs[o.entry]?).getD {} with slots := BitVec.ofNat 32 (groups64 n) } }))
    modS (fun s => s.post (.copyComplete s.cur.die s.cur.tile id))

/-- COPY (R222). -/
def execCopy (d a b : BitVec 5) (w : BitVec 3) (sb : BitVec 1) (s : State) : Host.Outcome State Fault Refusal :=
  runM (do
    let iw := wordOf (.copy d a b w sb)
    controlOnly iw
    let n := (← regS b).toNat
    require (decide (n < 2 ^ 32)) iw
    let src ← regS a
    if sb = 1 then
      let e ← streamEntry d iw
      rangeForm src n none
      issueCopy { newOp s .copy w with stream := true, entry := e, sa := src, sb := BitVec.ofNat 64 n, regs := issueRegs s [d, a, b] } n
    else
      let dst ← regS d
      rangeForm dst n none
      rangeForm src n none
      issueCopy { newOp s .copy w with sd := dst, sa := src, sb := BitVec.ofNat 64 n, regs := issueRegs s [d, a, b] } n) s

/-- A 4-byte field of a descriptor, signed. -/
def descInt (bs : List Byte) (o : Nat) : Int := readInt true 32 (descField bs o 4)

/-- COPY2D: without .s the d field must be 0 (R223). [log 21 DEDUCED] -/
def execCopy2d (d a : BitVec 5) (w : BitVec 3) (sb : BitVec 1) (s : State) : Host.Outcome State Fault Refusal :=
  runM (do
    let iw := wordOf (.copy2d d a w sb)
    require (decide (sb = 1 ∨ d = 0)) iw
    controlOnly iw
    let p ← regS a
    let e ← if sb = 1 then streamEntry d iw else pure 0
    let bs ← ownDesc p 32
    let src := descPtr bs 0
    let dst := descPtr bs 8
    let rows := descField bs 16 4
    let rowb := descField bs 20 4
    if rows = 0 ∨ 65535 < rows ∨ rowb = 0 ∨ 2 ^ 24 < rowb ∨ 2 ^ 32 ≤ rows * rowb ∨ (sb = 1 ∧ dst ≠ 0) then
      trapM .illfmt p
    rowsForm src rows rowb (descInt bs 24)
    if sb = 0 then rowsForm dst rows rowb (descInt bs 28)
    issueCopy { newOp s .copy2d w with stream := sb = 1, entry := e, sd := dst, sa := src
                                       desc := BitVec.ofNat 512 (natOfBytes bs), regs := issueRegs s [d, a] } (rows * rowb)) s

/-- Fields of a COPYG descriptor (R224). -/
def gRowb (d : BitVec 512) : Nat := cfgField d 24 2
def gPtrs (d : BitVec 512) : Bool := d.getLsbD (8 * 26)
def gRows (d : BitVec 512) : Nat := cfgField d 28 4

/-- COPYG: one row for each index, which arrive in any order (R224). [log 21 DEDUCED] -/
def execCopyg (a b : BitVec 5) (w : BitVec 3) (s : State) : Host.Outcome State Fault Refusal :=
  runM (do
    let iw := wordOf (.copyg a b w)
    controlOnly iw
    let p ← regS a
    let bs ← ownDesc p 32
    let c : BitVec 512 := BitVec.ofNat 512 (natOfBytes bs)
    let rowb := gRowb c
    let n := gRows c
    if rowb % 4 ≠ 0 ∨ rowb < 4 ∨ 32768 < rowb ∨ n = 0 ∨ 65536 < n ∨ 2 ≤ descField bs 26 2 then trapM .illfmt p
    let idx := descPtr bs 16
    let width := if gPtrs c then 8 else 4
    rangeForm (descPtr bs 8) (rowb * n) none
    rangeForm idx (width * n) none
    if gPtrs c = false then liftA (checkFmt (descPtr bs 0) none)
    if ptrOff idx % width ≠ 0 then trapM .misalign idx
    match (resolveDie s s.curKey idx).map (fun d => spotFor s d s.curKey (ptrOff idx)) with
    | some (.spad t _) => if t ≠ s.curKey then trapM .perm idx
    | _ => trapM .perm idx
    let id ← issueOp { newOp s .copyg w with desc := c, sa := descPtr bs 0, sd := descPtr bs 8, sb := (← regS b), regs := issueRegs s [0, a, b] }
    modS (fun s => (List.range n).foldl (fun s i => s.post (.gatherRowArrive s.cur.die s.cur.tile id i)) s)) s

/-- Format code and bytes of a COPYR element (R225). -/
def rElem (y : Nat) : Nat × Nat :=
  match y with
  | 0 => (1, 4)
  | 1 => (2, 2)
  | 2 => (3, 2)
  | 3 => (9, 4)
  | _ => (10, 8)

/-- COPYR (R225). -/
def execCopyr (d a b : BitVec 5) (w : BitVec 3) (o : BitVec 2) (y : BitVec 3) (s : State) :
    Host.Outcome State Fault Refusal :=
  runM (do
    let iw := wordOf (.copyr d a b w o y)
    require (decide (o ≠ 3 ∧ y.toNat < 5)) iw
    controlOnly iw
    let (fmt, z) := rElem y.toNat
    let n := (← regS b).toNat * z
    require (decide (n < 2 ^ 32)) iw
    let dst ← regS d
    let src ← regS a
    rangeForm dst n (some fmt)
    rangeForm src n (some fmt)
    if ptrOff dst % z ≠ 0 then trapM .misalign dst
    if ptrOff src % z ≠ 0 then trapM .misalign src
    issueCopy { newOp s .copyr w with sd := dst, sa := src, sb := BitVec.ofNat 64 (n / z), x := y ++ o, regs := issueRegs s [d, a, b] } n) s

/-- WAITT (R226). -/
def execWaitt (m : BitVec 8) (s : State) : Host.Outcome State Fault Refusal :=
  runM (do
    if (List.range 8).any (fun w => m.getLsbD w && s.curTile.eng.count w != 0) then waitM (.tokens m false)) s

/-- TOKEN_WAIT_WAKE (R226): the context examines its wait again. -/
def execTokenWaitWake (die tile ctx : Nat) (s : State) : Host.Outcome State Fault Refusal :=
  runE (wakeCtx (tileKey die tile) ctx) s

/-! ### PUT and GET (R236) -/

/-- Link bytes per slot of a booking. -/
def Booking.linkBytes (b : Booking) : Nat := bits b.size.toNat 8 24

/-- A booked helper injects `n` bytes for another die: OVERRUN subcause 5 above its budget, which leaves nothing of the instruction (R342). Bytes are
counted once the instruction has issued. -/
def injectBytes (n : Nat) : M Unit := do
  let s ← getS
  match bookingOf s (← requester) with
  | none => pure ()
  | some (h, b) => do
    if b.linkBytes < b.injected + n then trapM .overrun (overrunVal 24 h 5)
    modS (fun s => s.modCsr s.curKey (fun r => { r with books := r.books.setIfInBounds h { b with injected := b.injected + n } }))

/-- PUT and GET: `loc` is the local side, `far` the remote one. -/
def packetCopy (kind : OpKind) (w : BitVec 3) (dst src : Word) (n : Nat) (loc far : Word) (iw : Word32) (regs : List Word) : M Unit := do
  require (decide (1 ≤ n ∧ n ≤ 1024)) iw
  rangeForm dst n none
  rangeForm src n none
  let s ← getS
  let k := s.curKey
  match (resolveDie s k loc).map (fun d => spotFor s d k (ptrOff loc)) with
  | some (.spad t _) => if t ≠ k then trapM .perm loc
  | some (.vault t _) => if t ≠ k then trapM .perm loc
  | _ => trapM .perm loc
  let r ← requester
  liftA (needAll r ([2, 24] ++ bytesNeed s k (tileDie (s.idKey k)) (ptrOff loc) n))
  liftA (bookedRange r loc n)
  liftA (bookedRange r far n)
  issueCopy { newOp s kind w with sd := dst, sa := src, sb := BitVec.ofNat 64 n, regs := regs } n
  if (resolveDie s k far).getD (tileDie (s.idKey k)) ≠ tileDie (s.idKey k) then injectBytes n

/-- PUT (R236). -/
def execPut (d a b : BitVec 5) (w : BitVec 3) (s : State) : Host.Outcome State Fault Refusal :=
  runM (do
    let dst ← regS d
    let src ← regS a
    packetCopy .put w dst src (← regS b).toNat src dst (wordOf (.put d a b w)) (issueRegs s [d, a, b])) s

/-- GET (R236). -/
def execGet (d a b : BitVec 5) (w : BitVec 3) (s : State) : Host.Outcome State Fault Refusal :=
  runM (do
    let dst ← regS d
    let src ← regS a
    packetCopy .get w dst src (← regS b).toNat dst src (wordOf (.get d a b w)) (issueRegs s [d, a, b])) s

/-! ### Progress of an operation -/

/-- An operation in flight, by number. -/
def Engines.op? (e : Engines) (id : Nat) : Option EngineOp := e.ops.find? (fun o => decide (o.id = id))

/-- An operation is replaced. -/
def setOp (s : State) (k : Nat) (o : EngineOp) : State :=
  s.modEng k (fun e => { e with ops := e.ops.map (fun x => if x.id = o.id then o else x) })

/-- An operation ends: its token falls. -/
def endOp (s : State) (k : Nat) (o : EngineOp) : State :=
  dropToken (s.modEng k (fun e => { e with ops := e.ops.filter (fun x => x.id != o.id) })) k (some o.tok)

/-- Whether an event belongs to operation `id` of a tile. -/
def opEvent (d t id : Nat) : Instr → Bool
  | .copyComplete d' t' i => decide (d' = d ∧ t' = t ∧ i = id)
  | .copygComplete d' t' i => decide (d' = d ∧ t' = t ∧ i = id)
  | .gatherRowArrive d' t' i _ => decide (d' = d ∧ t' = t ∧ i = id)
  | .collComplete d' t' i => decide (d' = d ∧ t' = t ∧ i = id)
  | .engineFault d' t' i _ _ => decide (d' = d ∧ t' = t ∧ i = id)
  | _ => false

/-- The tag of an operation (R205). -/
def EngineOp.tag (o : EngineOp) : BitVec 16 :=
  match o.kind with
  | .copyg => o.sb.setWidth 16
  | .coll => BitVec.ofNat 16 (cfgField o.desc 24 2)
  | _ => 0

/-- ENGINE_FAULT (R205): the operation stops. -/
def stopOp (k id : Nat) (cause : BitVec 8) (off : BitVec 40) (s : State) : State :=
  match (s.tile k).eng.op? id with
  | none => s
  | some o =>
    let s := { s with pending := s.pending.filter (fun e => !opEvent (tileDie k) (tileId k) id e) }
    opFault (endOp s k o) k o.ctx o.pc o.tag cause off.toNat

/-- ENGINE_FAULT (R205). -/
def execEngineFault (die tile op : Nat) (cause : BitVec 8) (off : BitVec 40) (s : State) :
    Host.Outcome State Fault Refusal := runE (stopOp (tileKey die tile) op cause off) s

/-- An operation meets a containment event: it ends as a run-time fault ends it, and its context is frozen (R205, R413, R455). [log 74 DEDUCED] -/
def containEnd (s : State) (k : Nat) (o : EngineOp) (c : Cause) (v : Word) : State :=
  containOp (stopOp k o.id c.code (BitVec.ofNat 40 (ptrOff v)) s) k o.ctx o.handle o.pc c v

/-- An access of an operation was not performed: it faults, is frozen, waits, or never ends (R205, R413). Of several rows that fail the lowest is the
one reported (R315). -/
def opStopped (s : State) (k : Nat) (o : EngineOp) (elem : Nat) : AccErr → State
  | .trap c v =>
    let off := BitVec.ofNat 40 (ptrOff v)
    if o.failed.any (fun e => decide (e.1 ≤ elem)) then s
    else
      let s := setOp s k { o with failed := some (elem, c.code, off) }
      let s := { s with pending := s.pending.filter (fun e => match e with
        | .engineFault d t i _ _ => !decide (d = tileDie k ∧ t = tileId k ∧ i = o.id)
        | _ => true) }
      s.post (.engineFault (tileDie k) (tileId k) o.id c.code off)
  | .contain c v => containEnd s k o c v
  | .refer w => setOp s k { o with waits := o.waits ++ [{ w with elem := elem }] }
  | .stall | .queue _ => s.post (o.resume k elem)
  | .never => s

/-- The pieces of a 2D copy's bytes `b` to `b + n - 1`, counted through its rows; fuel covers the rows. -/
def rowPieces (base : Word) (rowb : Nat) (stride : Int) : Nat → Nat → Nat → List (Word × Nat)
  | 0, _, _ => []
  | f + 1, b, n =>
    if n = 0 then []
    else
      let m := min n (rowb - b % rowb)
      let p := (formPtr base ((b / rowb : Nat) * stride + (b % rowb : Nat))).1
      (p, m) :: rowPieces base rowb stride f (b + m) (n - m)

/-- The length of a copy, and its source and destination as rows: row bytes and strides. -/
structure CopyShape where
  len : Nat
  rowb : Nat
  sstr : Int
  dstr : Int

def EngineOp.shape (o : EngineOp) : CopyShape :=
  match o.kind with
  | .copy2d =>
    let rowb := cfgField o.desc 20 4
    { len := cfgField o.desc 16 4 * rowb, rowb := rowb, sstr := readInt true 32 (cfgField o.desc 24 4)
      dstr := readInt true 32 (cfgField o.desc 28 4) }
  | _ => { len := o.sb.toNat, rowb := max 1 o.sb.toNat, sstr := 0, dstr := 0 }

/-- A contiguous access of an engine, whose form was checked at issue. -/
def engAcc (p : Word) (n : Nat) (kind : AccKind) : Acc := accAt p 0 n 1 kind

/-- Pieces are read in order. -/
def readRows (r : Requester) : List (Word × Nat) → A (List Byte)
  | [] => pure []
  | (p, n) :: l => do
    let a ← readAcc r (engAcc p n .load)
    let b ← readRows r l
    pure (a ++ b)

/-- What an operation has read of unit `i`, and how many pieces of it are written. -/
def EngineOp.read? (o : EngineOp) (i : Nat) : Option (List Byte × Nat) := (o.got.find? (fun e => decide (e.1 = i))).map (fun e => e.2)

/-- An operation, by its number, changes. -/
def modOp (k id : Nat) (f : EngineOp → EngineOp) : A Unit :=
  modA (fun s => s.modEng k (fun e => { e with ops := e.ops.map (fun x => if x.id = id then f x else x) }))

/-- Unit `i` of an operation has been read, with `n` pieces written. -/
def EngineOp.keep (i : Nat) (bs : List Byte) (n : Nat) (o : EngineOp) : EngineOp :=
  { o with got := o.got.filter (fun e => e.1 != i) ++ [(i, bs, n)] }

/-- Unit `i` of an operation has been performed. -/
def EngineOp.drop (i : Nat) (o : EngineOp) : EngineOp := { o with got := o.got.filter (fun e => e.1 != i) }

/-- Unit `i` is read, if it has not been: it is read whole before any of it is written, and once (R222, R399). -/
def readUnit (k : Nat) (o : EngineOp) (i : Nat) (read : Requester → A (List Byte)) : A (List Byte) :=
  match o.read? i with
  | some (bs, _) => pure bs
  | none => do
    let bs ← twinStep k (o.key i) (read (o.self k i))
    modOp k o.id (EngineOp.keep i bs 0)
    pure bs

/-- The pieces of unit `i` that are not written yet, from number `n` on, are written in order. -/
def writeUnit (k : Nat) (o : EngineOp) (i : Nat) (all : List Byte) : Nat → List (Word × Nat) → List Byte → A Unit
  | _, [], _ => modOp k o.id (EngineOp.drop i)
  | n, (p, m) :: l, bs => do
    if n < ((o.read? i).map (fun e => e.2)).getD 0 then pure ()
    else
      twinStep k (o.key i) (writeAcc (o.self k i) (engAcc p m .store) (bs.take m))
      modOp k o.id (EngineOp.keep i all (n + 1))
    writeUnit k o i all (n + 1) l (bs.drop m)

/-- Where group `g` of a copy goes: its pieces, in order (R223). -/
def EngineOp.target (o : EngineOp) (g : Nat) : List (Word × Nat) :=
  rowPieces o.sd o.shape.rowb o.shape.dstr 65 (64 * g) (min 64 (o.shape.len - 64 * g))

/-- Group `g` of a copy, read and then written (R222). -/
def copyGroup (k : Nat) (o : EngineOp) (g : Nat) : A (List Byte) := do
  let x := o.shape
  let n := min 64 (x.len - 64 * g)
  let bs ← readUnit k o g (fun r => readRows r (rowPieces o.sa x.rowb x.sstr 65 (64 * g) n))
  if o.stream then modOp k o.id (EngineOp.drop g)
  else writeUnit k o g bs 0 (o.target g) bs
  pure bs

/-- Piece number `n` of a unit's bytes. -/
def unitPiece : Nat → List (Word × Nat) → List Byte → Option (Word × List Byte)
  | _, [], _ => none
  | 0, (p, m) :: _, bs => some (p, bs.take m)
  | n + 1, (_, m) :: l, bs => unitPiece n l (bs.drop m)

/-- One element of a COPYR: the new value and its flags (R225). -/
def reduceElem (o y : Nat) (a b : Nat) : FRes :=
  let flt (f : FloatFmt) : FRes :=
    if o = 0 then addFp f 0 0 (decodeFp f a) (decodeFp f b) else minMaxFp f (decide (o = 2)) a b
  let int (w : Nat) : FRes :=
    { val := if o = 0 then intAdd w a b else if o = 1 then intMinS w a b else intMaxS w a b, flags := 0 }
  match y with
  | 0 => flt .f32
  | 1 => flt .bf16
  | 2 => flt .f16
  | 3 => int 32
  | _ => int 64

/-- The type and the bytes of an element of a COPYR. -/
def EngineOp.elemTy (o : EngineOp) : Nat := bits o.x.toNat 2 3
def EngineOp.elemSize (o : EngineOp) : Nat := (rElem o.elemTy).2

/-- An element of a COPYR from its destination's old bytes and its source's (R225). -/
def EngineOp.reduced (o : EngineOp) (src old : List Byte) : FRes := reduceElem (bits o.x.toNat 0 2) o.elemTy (natOfBytes old) (natOfBytes src)

/-- Element `i` of a COPYR at its home, in one step (R225). -/
def EngineOp.homeStep (o : EngineOp) (k i : Nat) (src : List Byte) : A (List Byte) :=
  rmwAcc (o.self k i) (accAt o.sd (o.elemSize * i : Nat) o.elemSize o.elemSize .amo) (fun old => some (bytesOfNat o.elemSize (o.reduced src old).val))

/-- Element `i` of a COPYR: its source is read, and the rest is one step at its home (R225). -/
def copyrElem (k : Nat) (o : EngineOp) (i : Nat) : A Flags := do
  let src ← readUnit k o i (fun r => readAcc r (accAt o.sa (o.elemSize * i : Nat) o.elemSize o.elemSize .load))
  let old ← twinStep k (o.key i) (o.homeStep k i src)
  modOp k o.id (EngineOp.drop i)
  pure (o.reduced src old).flags

/-- Whether a stream's port has room for a group (R162). -/
def portRoom (t : Tile) (o : EngineOp) : Bool :=
  let d := t.desc o.entry
  !(o.stream && d.inUse && d.copy) || decide ((t.port d.port).groups.length < 8)

/-- A group is delivered to the port of a stream. Where the binding has been removed the group is lost; where the entry has been bound again as a copy,
the new binding's port takes it (R162, R163). [log 73 DESIGN CHOICE] -/
def deliver (s : State) (k : Nat) (o : EngineOp) (bs : List Byte) : State :=
  let d := (s.tile k).desc o.entry
  if o.stream ∧ d.inUse ∧ d.copy then s.modIo k (fun io =>
    let p : StreamPort := (io.ports[d.port]?).getD {}
    { io with ports := io.ports.setIfInBounds d.port
                { groups := p.groups ++ [BitVec.ofNat 512 (natOfBytes bs)], delivered := p.delivered + 1 } })
  else s

/-- The operation as it stands in a state. -/
def opNow (s : State) (k : Nat) (o : EngineOp) : EngineOp := ((s.tile k).eng.op? o.id).getD o

/-- One group or element of an operation; the last one completes it (R222, R225, R236). -/
def advanceCopy (k id : Nat) (s : State) : State :=
  match (s.tile k).eng.op? id with
  | none => s
  | some o =>
    let go (s : State) (o : EngineOp) (total : Nat) : State :=
      let o := { o with done := o.done + 1, waits := [] }
      if o.done < total then (setOp s k o).post (.copyComplete (tileDie k) (tileId k) id)
      else (endOp s k o).modCtx k o.ctx (fun x => x.orFlags o.flags)
    if o.kind = .copyr then
      match copyrElem k o o.done s with
      | .ok f s => go s { opNow s k o with flags := o.flags ||| f } o.sb.toNat
      | .error e s => opStopped s k (opNow s k o) 0 e
    else if portRoom (s.tile k) o then
      match copyGroup k o o.done s with
      | .ok bs s => go (deliver s k o bs) (opNow s k o) (groups64 o.shape.len)
      | .error e s => opStopped s k (opNow s k o) 0 e
    else s.post (.copyComplete (tileDie k) (tileId k) id)

/-- COPY_COMPLETE (R222, R236). -/
def execCopyComplete (die tile op : Nat) (s : State) : Host.Outcome State Fault Refusal :=
  runE (advanceCopy (tileKey die tile) op) s

/-- The batches of 64 indices up to the one of row `i` are read in order (R315): the indices that have not been read yet, by row. -/
def readBatches (r : Requester) (idx : Word) (z n i : Nat) (have' : List (Nat × Nat)) : A (List (Nat × Nat)) :=
  ((List.range (min n (i / 64 * 64 + 64))).drop have'.length).mapM (fun j => do
    return (j, natOfBytes (← readAcc r (accAt idx (z * j : Nat) z z .load))))

/-- The index of row `i` among those read. -/
def batchIndex (l : List (Nat × Nat)) (i : Nat) : Nat := ((l.find? (fun e => decide (e.1 = i))).map (fun e => e.2)).getD 0

/-- The source of row `i` of a COPYG, which index `x` names (R224). -/
def rowSource (o : EngineOp) (x : Nat) : Acc :=
  let c := o.desc
  if gPtrs c then accAt (BitVec.ofNat 64 x) 0 (gRowb c) 1 .load else accAt o.sa (x * gRowb c : Nat) (gRowb c) 1 .load

/-- Where row `i` of a COPYG goes. -/
def rowTarget (o : EngineOp) (i : Nat) : Word × Nat := ((accAt o.sd (i * gRowb o.desc : Nat) (gRowb o.desc) 1 .store).p, gRowb o.desc)

/-- Row `i` of a COPYG is read and placed by `i`; once a row has failed none is placed any more (R224, R315). -/
def gatherRow (k : Nat) (o : EngineOp) (i x : Nat) : A Unit := do
  let bs ← readUnit k o i (fun r => readAcc r (rowSource o x))
  if o.failed.isNone then
    writeUnit k o i bs 0 [rowTarget o i] bs

/-- The access of an operation that had begun when the operation gave it up, for element `elem`: a read leaves nothing at its target, and of a unit that has
been read the next piece is written (R368). -/
def performOp (k elem : Nat) (o : EngineOp) : A Unit :=
  let u := if o.kind = .copyg then elem else o.done
  match o.read? u with
  | none => pure ()
  | some (bs, n) =>
    if o.kind = .copyr then do let _ ← o.homeStep k u bs
    else match unitPiece n (if o.kind = .copyg then [rowTarget o u] else o.target u) bs with
      | some (p, l) => writeRaw (o.self k elem) (engAcc p l.length .store) l
      | none => pure ()

/-- GATHER_ROW_ARRIVE (R315). -/
def arriveRow (k id i : Nat) (s : State) : State :=
  match (s.tile k).eng.op? id with
  | none => s
  | some o =>
    if o.rows.contains i then s
    else match twinStep k (o.key i) (readBatches (o.self k i) (BitVec.ofNat 64 (cfgField o.desc 16 8)) (if gPtrs o.desc then 8 else 4)
        (gRows o.desc) i o.batch) s with
    | .error e s => opStopped s k o i e
    | .ok l s =>
      let o := { o with batch := o.batch ++ l }
      match gatherRow k o i (batchIndex o.batch i) (setOp s k o) with
      | .ok _ s =>
        let o := opNow s k o
        if o.failed.isSome then s
        else
          let o := { o with rows := insertNat o.rows i }
          let s := setOp s k o
          if o.rows.length = gRows o.desc then s.post (.copygComplete (tileDie k) (tileId k) id) else s
      | .error e s => opStopped s k (opNow s k o) i e

/-- GATHER_ROW_ARRIVE (R315). -/
def execGatherRowArrive (die tile op row : Nat) (s : State) : Host.Outcome State Fault Refusal :=
  runE (arriveRow (tileKey die tile) op row) s

/-- COPYG_COMPLETE (R224): the token falls and an entry of TYPE 0x02 is posted. -/
def completeCopyg (k id : Nat) (s : State) : State :=
  match (s.tile k).eng.op? id with
  | none => s
  | some o => notify (endOp s k o) k (opPayload 0 0 0) o.tag 0 0x02

/-- COPYG_COMPLETE (R224). -/
def execCopygComplete (die tile op : Nat) (s : State) : Host.Outcome State Fault Refusal :=
  runE (completeCopyg (tileKey die tile) op) s

end Sys2Proof.Machine
end

