-- ==== Sys2Proof/Machine/Policy.lean ====
section
/-! DEFINITION. Saffron policy versions: PUBV, VSW and TKREC (R241 to R243), publication, switching and retirement (R377 to
R381). -/

namespace Sys2Proof.Machine

/-! ### Policy pages and versions (R373, R374) -/

/-- The dies of a job that hold a policy group, with its descriptor on each. -/
def groupDies (s : State) (job g : Nat) : List (Nat × Nat) :=
  (s.job job).dies.filterMap (fun d => (groupDesc s d g).map (fun p => (d, p)))

/-- A request by which the hardware itself walks the tables of a function; a policy page is closed to it. -/
def hwReq (d fn : Nat) : TrReq :=
  { die := d, fn := fn, sub := false, write := false, fetch := false, host := false, port := 0, ssn := 0, tileId := 0
    dieId := 0, pol := none }

/-- The value of a walk that reads tables only. -/
def W.value {α : Type} (x : W α) : Option α :=
  match x [] with
  | .ok a _ => some a
  | .error _ _ => none

/-- The HPAs of the policy descriptors of group `g` on die `d`: the level-0 entries of KIND 2 of the function's tables. -/
def policyPages (s : State) (d fn g : Nat) : List Nat :=
  let q := hwReq d fn
  let root := tctxField (s.tctx d fn) 0 8
  let table (i : Nat) : W Nat := do
    let a1 ← tableAt s q (root + 8 * i) (root + 8 * i)
    liftW (walkTable (read8 s d a1) a1 1 0 2 4096)
  let desc (t1 j : Nat) : W Nat := do
    let a0 ← tableAt s q (t1 + 8 * j) (t1 + 8 * j)
    let e := read8 s d a0
    if bits e 0 1 = 1 ∧ bits e 3 2 = 2 then tableAt s q a0 (bits e 21 17 * 2 ^ 21) else throw .page
  (List.range 256).flatMap (fun i =>
    match (table i).value with
    | none => []
    | some t1 => (List.range 512).filterMap (fun j => ((desc t1 j).value).filter (fun pd => decide (readAt s d (pd + 40) 1 = g))))

/-- How many publications version `v` lies back from `l`; 65,535 is followed by 1 (R378). -/
def versionBack (l v : Nat) : Nat := (l - 1 + 65535 - (v - 1)) % 65535

/-- The version after `v`. -/
def nextVersion (v : Nat) : Nat := if v = 65535 then 1 else v + 1

/-- Whether a tile's partition belongs to policy group `g` of job `job`. -/
def inPolicy (t : Tile) (job g : Nat) : Bool :=
  match t.work with
  | some u => decide (u.job = job) && decide (u.policy = g)
  | none => false

/-- Whether a launch of the group that runs holds a version selected, whichever tiles have a unit of it (R380, R382). -/
def selected (s : State) (job g v : Nat) : Bool :=
  s.launches.any (fun e => decide (e.2.phase = .running) && decide (e.2.job = job) && decide (bits e.2.block.toNat (8 * 22) 8 = g)
    && decide ((s.part (if bits e.2.block.toNat (8 * 20) 8 = 2 then job * 256 + bits e.2.block.toNat (8 * 21) 8 else implicitKey e.1)).pvSel.toNat = v))

/-- Whether a version may retire: not LATEST, nor about to become it, not selected and not pending anywhere in the group (R377, R378). -/
def retirable (s : State) (job g latest v : Nat) : Bool :=
  decide (v ≠ latest ∧ v ≠ nextVersion latest) && !selected s job g v && !(s.tiles.any (fun e => inPolicy e.2 job g
    && (decide (e.2.csr.pvCur.toNat = v) || (e.2.csr.pvPending && decide (e.2.csr.pvReq.toNat = v)))))

/-- The valid versions of a page, with their slots. -/
def pageVersions (s : State) (d pd : Nat) : List (Nat × Nat) :=
  (List.range 4).filterMap (fun i => if slotValid (slotWord s d pd i) then some (i, slotVer (slotWord s d pd i)) else none)

/-- The slot that a publication takes on a page: the first invalid one, else that of the oldest retirable version (R377). [log 14 DEDUCED] -/
def publishSlot (s : State) (job g d pd latest : Nat) : Option Nat :=
  match (List.range 4).find? (fun i => !slotValid (slotWord s d pd i)) with
  | some i => some i
  | none =>
    let old := (pageVersions s d pd).filter (fun e => retirable s job g latest e.2)
    (old.foldl (fun (acc : Option (Nat × Nat)) e => match acc with
      | some a => if versionBack latest a.2 < versionBack latest e.2 then some e else some a
      | none => some e) none).map (fun e => e.1)

/-- RETIRING of a slot is set or cleared. -/
def setRetiring (s : State) (d pd i : Nat) (on : Bool) : State :=
  let w := slotWord s d pd i
  writeAt s d (pd + 8 + 8 * i) 8 (w - bits w 1 1 * 2 + (if on then 2 else 0))

/-- Every policy page of a group: die and descriptor. -/
def groupPages (s : State) (job g : Nat) : List (Nat × Nat) :=
  (groupDies s job g).flatMap (fun e => (policyPages s e.1 (s.job job).fn g).map (fun pd => (e.1, pd)))

/-! ### PUBV, VSW (R241, R242) -/

/-- PUBV: publication of V + 1 is pending, and a slot of every page is reserved (R241, R377). -/
def pubv (s : State) (u : WorkUnit) : State × Word :=
  match groupDies s u.job u.policy with
  | [] => (s, 3)
  | (d0, gd) :: _ =>
    if u.policy = 255 then (s, 3)
    else if groupLearner s d0 gd ≠ u.part % 256 then (s, 2)
    else
      let latest := groupLatest s d0 gd
      let answer : Word := BitVec.ofNat 64 (nextVersion latest * 65536)
      if (s.part u.barKey).publish then (s, answer)
      else
        let pages := (groupPages s u.job u.policy).map (fun e => (e, publishSlot s u.job u.policy e.1 e.2 latest))
        if pages.any (fun e => e.2.isNone) then (s, 1)
        else
          let s := pages.foldl (fun (s : State) (e : (Nat × Nat) × Option Nat) => match e.2 with
            | some i => if slotValid (slotWord s e.1.1 e.1.2 i) then setRetiring s e.1.1 e.1.2 i true else s
            | none => s) s
          let taken := pages.filterMap (fun e => e.2.map (fun i => (e.1.1, e.1.2, i)))
          (s.modPart u.barKey (fun p => { p with publish := true, reserved := taken }), answer)

/-- PUBV (R241). -/
def execPubv (d : BitVec 5) (s : State) : Host.Outcome State Fault Refusal :=
  runM (do
    match (← getS).unit? with
    | none => setRegS d 3
    | some u => do
      let (s', v) := pubv s u
      modS (fun _ => s')
      setRegS d v) s

/-- Whether a version is resident in a group and not about to retire (R242, R377). -/
def resident (s : State) (job g v : Nat) : Bool :=
  match groupDies s job g with
  | [] => false
  | (d0, gd) :: _ =>
    let latest := groupLatest s d0 gd
    decide (v ≠ 0) && decide (versionBack latest v ≤ versionBack latest (groupOldest s d0 gd))
      && (groupPages s job g).all (fun e => match slotOf s e.1 e.2 v with
        | some i => !slotRetiring (slotWord s e.1 e.2 i)
        | none => false)

/-- VSW (R242). [log 53 DEDUCED] -/
def execVsw (d a : BitVec 5) (s : State) : Host.Outcome State Fault Refusal :=
  runM (do
    let v ← regS a
    require (decide (v.toNat < 65536)) (wordOf (.vsw d a))
    match (← getS).unit? with
    | none => setRegS d 3
    | some u =>
      if u.policy = 255 ∨ (groupDies s u.job u.policy).isEmpty then setRegS d 3
      else if v ≠ 0 ∧ resident s u.job u.policy v.toNat = false then setRegS d 1
      else do
        modS (fun s => s.modCsr s.curKey (fun r => { r with pvPending := true, pvReq := v.setWidth 16 }))
        setRegS d 0) s

/-! ### TKREC (R243) -/

/-- Accesses of which none takes effect unless all do (R270). -/
def allOrNone {α : Type} (x : A α) : A α := fun s =>
  match x s with
  | .ok a s' => .ok a s'
  | .error e _ => .error e s

/-- Whether `n` bytes at `p` lie in a kept region of tile `k`. -/
def inKept (s : State) (k : Nat) (p : Word) (n : Nat) : Bool :=
  let all (vault : Bool) (o : Nat) : Bool :=
    decide (regionOf s k vault o = .kept) && decide (regionOf s k vault (o + n - 1) = .kept)
  match (resolveDie s k p).map (fun d => spotFor s d k (ptrOff p)) with
  | some (.spad t o) => decide (t = k) && all false o
  | some (.vault t o) => decide (t = k) && all true o
  | _ => false

/-- The bytes of a token record (R243). -/
def tokenRecord (x : Word) (version part : Nat) (ssn : BitVec 32) : List Byte :=
  bytesOfNat 8 x.toNat ++ bytesOfNat 2 version ++ bytesOfNat 2 part ++ bytesOfNat 4 ssn.toNat

/-- TKREC (R243). [log 21 DEDUCED] -/
def execTkrec (a b : BitVec 5) (s : State) : Host.Outcome State Fault Refusal :=
  runM (do
    let x ← regS a
    let p ← regS b
    let k := s.curKey
    liftA (checkFmt p none)
    if ptrOff p % 64 ≠ 0 then trapM .misalign p
    if inKept s k p 64 = false then trapM .perm p
    let bs ← readM (accAt p 0 64 64 .load)
    let base := descPtr bs 0
    let size := descField bs 8 4
    let pos := descField bs 12 4
    if fmtOk base = false ∨ ptrOff base % 16 ≠ 0 ∨ size = 0 ∨ 2 ^ 20 < size ∨ descField bs 16 48 ≠ 0
        ∨ inKept s k base (16 * size) = false then trapM .illfmt p
    let part := match s.unit? with
      | some u => u.part % 256
      | none => 0
    let r ← requester
    let t := s.curTile
    liftA (allOrNone (do
      writeAcc r (accAt base (16 * (pos % size) : Nat) 16 16 .store) (tokenRecord x t.csr.pvCur.toNat part t.step.ssn)
      writeAcc r (accAt p 12 4 4 .store) (bytesOfNat 4 (pos + 1))))) s

/-! ### What a commit or an abort does (R377 to R381) -/

/-- A frame returns to the free list of a group's die unless a slot or a draft of a page still names it (R381). [log 14 DEDUCED] -/
def freeFrame (s : State) (d gd : Nat) (pages : List Nat) (f : Nat) : State :=
  let named := pages.any (fun pd => decide (bits (readAt s d pd 8) 21 17 * 2 ^ 21 = f) && decide (f ≠ 0)
    || (List.range 4).any (fun i => slotValid (slotWord s d pd i) && decide (slotFrame (slotWord s d pd i) = f)))
  if named then s
  else
    let n := groupPooln s d gd
    let s := writeAt s d (groupPool s d gd + 8 * n) 8 f
    writeAt s d (gd + 44) 4 (n + 1)

/-- A version's slot is cleared on every page of a die, and its frames are freed (R381). -/
def retireOn (s : State) (d gd : Nat) (pages : List Nat) (v : Nat) : State :=
  pages.foldl (fun s pd => match slotOf s d pd v with
    | some i =>
      let f := slotFrame (slotWord s d pd i)
      freeFrame (writeAt s d (pd + 8 + 8 * i) 8 0) d gd pages f
    | none => s) s

/-- The place of version `v` counted from LATEST − 3 with wrap (R381). -/
def versionFrom (latest v : Nat) : Nat := (v + 65535 + 3 - latest) % 65535

/-- Versions that may retire, and OLDEST after them (R381). -/
def retireAll (s : State) (job g : Nat) : State :=
  (groupDies s job g).foldl (fun s e =>
    let (d, gd) := e
    let pages := policyPages s d (s.job job).fn g
    let latest := groupLatest s d gd
    let vs := pages.foldl (fun (l : List Nat) pd => (pageVersions s d pd).foldl (fun l v => insertNat l v.2) l) []
    let s := (vs.filter (retirable s job g latest)).foldl (fun s v => retireOn s d gd pages v) s
    let left := pages.foldl (fun (l : List Nat) pd => (pageVersions s d pd).foldl (fun l v => insertNat l v.2) l) []
    let oldest := left.foldl (fun o v => if versionFrom latest v < versionFrom latest o then v else o) latest
    writeAt s d (gd + 42) 2 oldest) s

/-- PVPUB of every tile of the group follows the descriptors (R378, R381). [log 57 DEDUCED] -/
def showVersions (s : State) (job g : Nat) : State :=
  match groupDies s job g with
  | [] => s
  | (d, gd) :: _ =>
    let l := BitVec.ofNat 16 (groupLatest s d gd)
    let o := BitVec.ofNat 16 (groupOldest s d gd)
    { s with tiles := s.tiles.map (fun (e : Nat × Tile) =>
        (e.1, if inPolicy e.2 job g then { e.2 with csr := { e.2.csr with pubLatest := l, pubOldest := o } } else e.2)) }

/-- The learner's version is written into the slot that it has reserved on every page of the group (R378); a page that the group has gained since then takes
the slot that a reservation would. [log 14 DEDUCED] -/
def publishPages (s : State) (bar job g : Nat) : State :=
  (groupDies s job g).foldl (fun s e =>
    let (d, gd) := e
    let latest := groupLatest s d gd
    let pages := policyPages s d (s.job job).fn g
    pages.foldl (fun s pd =>
      let kept := ((s.part bar).reserved.find? (fun e => decide (e.1 = d ∧ e.2.1 = pd))).map (fun e => e.2.2)
      match kept.orElse (fun _ => publishSlot s job g d pd latest) with
      | none => s
      | some i =>
        let old := slotWord s d pd i
        let draft := bits (readAt s d pd 8) 21 17 * 2 ^ 21
        let f := if draft ≠ 0 then draft else match slotOf s d pd latest with
          | some j => slotFrame (slotWord s d pd j)
          | none => 0
        let s := writeAt s d (pd + 8 + 8 * i) 8 (nextVersion latest * 2 ^ 48 + f + 1)
        let s := writeAt s d pd 8 0
        if slotValid old then freeFrame s d gd pages (slotFrame old) else s) s) s

/-- After the resume broadcast of the learner: the version becomes LATEST, and is announced to the rollout partitions (R378). -/
def announce (s : State) (job g part : Nat) : State :=
  match groupDies s job g with
  | [] => s
  | (d0, gd0) :: _ =>
    let v := nextVersion (groupLatest s d0 gd0)
    let s := (groupDies s job g).foldl (fun s e => writeAt s e.1 (e.2 + 40) 2 v) s
    let s := showVersions (retireAll s job g) job g
    let payload : Word := BitVec.ofNat 64 (part % 256 * 65536 + v)
    let rollout (t : Tile) : Bool := match t.work with
      | some u => decide (u.job = job) && decide (u.policy = g) && decide (u.part ≠ part)
      | none => false
    (s.tiles.filter (fun e => rollout e.2)).foldl (fun s e => notify s e.1 payload 0 1 0x05) s

/-- The version that a rollout partition's requests give: a request of 0 takes LATEST, else the most recent prevails
(R242, R379). [log 53 DEDUCED] -/
def resolveSwitch (latest cur : Nat) (reqs : List Nat) : Nat :=
  if reqs.contains 0 then latest
  else match reqs with
    | [] => cur
    | v :: l => l.foldl (fun a b => if versionBack latest b < versionBack latest a then b else a) v

/-- LATEST of a job's policy group; 0 where the group is absent. -/
def latestOf (s : State) (job g : Nat) : Nat :=
  match groupDies s job g with
  | [] => 0
  | (d0, gd0) :: _ => groupLatest s d0 gd0

/-- The root of barrier `bar` decides a commit: LATEST is sampled, and the requests of all its members, those that halt too, give the version that
they then select; the learner's is the one that it publishes, or LATEST (R379, R380). -/
def sampleSwitch (s : State) (bar job part g : Nat) (tiles : List Nat) : State :=
  match groupDies s job g with
  | [] => s
  | (d0, gd0) :: _ =>
    let latest := groupLatest s d0 gd0
    let reqs := tiles.filterMap (fun k => let c := (s.tile k).csr; if c.pvPending then some c.pvReq.toNat else none)
    let v := if groupLearner s d0 gd0 = part % 256 then (if (s.part bar).publish then nextVersion latest else latest)
      else resolveSwitch latest (s.part bar).pvSel.toNat reqs
    s.modPart bar (fun p => { p with pvSel := BitVec.ofNat 16 v })

/-- The members of a barrier show the version that they have selected (R379, R380). -/
def showSelected (s : State) (bar : Nat) (tiles : List Nat) : State :=
  tiles.foldl (fun s k => s.modCsr k (fun r => { r with pvCur := (s.part bar).pvSel, pvPending := false })) s

/-- The commit of barrier `bar` of a partition takes its policy effects before the resume broadcast: the learner's version is written, the tiles select
theirs, versions retire (R378 to R381). A publication that is due is announced after the broadcast. [log 57 DEDUCED] -/
def commitPolicy (s : State) (bar job part g : Nat) (tiles : List Nat) : State :=
  match groupDies s job g with
  | [] => s
  | (d0, gd0) :: _ =>
    let pub := decide (groupLearner s d0 gd0 = part % 256) && (s.part bar).publish
    let s := if pub then publishPages s bar job g else s
    let s := s.modPart bar (fun p => { p with publish := false, reserved := [], announceDue := pub })
    let s := showSelected s bar tiles
    showVersions (retireAll s job g) job g

/-- The resume broadcast of a learner has been sent: what it has published is announced (R378). -/
def announceDue (s : State) (bar job part g : Nat) : State :=
  if (s.part bar).announceDue then announce (s.modPart bar (fun p => { p with announceDue := false })) job g part else s

/-- The abort of a learner's superstep releases its reservation (R377). -/
def abortPolicy (s : State) (bar job g : Nat) : State :=
  if (s.part bar).publish then
    let s := (groupPages s job g).foldl (fun (s : State) (e : Nat × Nat) =>
      (List.range 4).foldl (fun s i => if slotRetiring (slotWord s e.1 e.2 i) then setRetiring s e.1 e.2 i false else s) s) s
    s.modPart bar (fun p => { p with publish := false, reserved := [] })
  else s

end Sys2Proof.Machine
end

