-- ==== Sys2Proof/Machine/Hw.lean ====
section
/-! DEFINITION. Memory accesses of the queue controller, the dispatcher and firmware, which have no requesting tile (R320,
R325), and the release of a tile (R318). -/

namespace Sys2Proof.Machine

/-- For whom the hardware makes an access: the job and function, and the policy group, partition and version of the launch for which it acts
(R375). -/
structure HwFor where
  job : Nat
  fn : Nat
  pol : Option (Nat × Nat × Nat) := none
  deriving DecidableEq, Repr

/-- The pieces of `n` bytes at `p`: the pointer names its die, the bytes lie in the HBM window, every walk succeeds, and the sectors pass their checks.
A walk that is referred waits for the page service as any other (R166, R310). -/
def hwPieces (h : HwFor) (p : Word) (n : Nat) (write : Bool) : A (List Piece) := do
  let s ← getA
  if fmtOk p = false ∨ ptrFmt p ≠ 0 ∨ ptrDie p = 0xFFFF then trapA .illfmt p
  if s.hwRefused.contains (h.fn, p) then trapA .page p
  match ((s.job h.job).entry? (ptrDie p)).bind entryDie with
  | none => trapA .nomem p
  | some d =>
    if 0x4000000000 < ptrOff p + n then trapA .nomem p
    let ps ← (cutHbm (n / 1024 + 2) (ptrOff p) n).mapM (fun e => do
      let s ← getA
      let (s', x) := translate s { hwReq d h.fn with write := write, pol := h.pol } e.1
      set s'
      match x with
      | .ok l =>
        match l.home with
        | .hbm hpa => pure (Piece.hbm d hpa e.2 l)
        | .host port addr => pure (Piece.host port addr e.2)
      | .error .page => trapA .page p
      | .error .perm => trapA .perm p
      | .error .busy => throw .stall
      | .error (.refer stage tag) => throw (.refer { elem := 0, die := d, fn := h.fn, stage := stage, tag := tag, addr := p, write := write, size := n
                                                     data := 0, parked := none, solo := true }))
    let s ← getA
    let kind : AccKind := if write then .store else .load
    eachA ps (fun x => match x with
      | .hbm die hpa m _ => checkSeal s (accAt p 0 n 1 kind) die (hpa / 65536) ((hpa + m - 1) / 65536)
      | .host port addr m => checkSeal s (accAt p 0 n 1 kind) d (hostGranule port addr) (hostGranule port (addr + m - 1))
      | .tile _ _ _ _ | .shard _ => pure ())
    modA (fun s => ps.foldl (fun s x => match x with
      | .hbm die hpa m leaf => recordErrors s die (sectorsRead kind hpa m) leaf.tag
      | .tile _ _ _ _ | .host _ _ _ | .shard _ => s) s)
    if ps.any (fun x => x.broken s kind || x.mistagged s kind) then trapA .tagmm p
    pure ps

/-- Bytes that the hardware reads for a function. -/
def hwRead (h : HwFor) (p : Word) (n : Nat) : A (List Byte) := do
  let ps ← hwPieces h p n false
  let one (x : Piece) : A (List Byte) := do
    let s ← getA
    match x with
    | .hbm d hpa m _ => readHbm d hpa m (tctxField (s.tctx d h.fn) 40 1)
    | .host port addr m => pure (Memory.readN s.hostMem (port * 2 ^ 64 + addr) m)
    | .shard bs => pure bs
    | .tile _ _ _ _ => pure []
  let l ← ps.mapM one
  pure l.flatten

/-- Pieces are written by the hardware for a function; no undo record is made. -/
def hwPut (fn : Nat) : List Piece → List Byte → A Unit
  | [], _ => pure ()
  | x :: l, bs => do
    let m := x.size
    modA (fun s => match x with
      | .hbm d hpa _ leaf => writeHbm s d hpa leaf.tag (tctxField (s.tctx d fn) 40 1) (bs.take m)
      | .host port addr _ => { s with hostMem := Memory.writeN s.hostMem (port * 2 ^ 64 + addr) (bs.take m) }
      | .tile _ _ _ _ | .shard _ => s)
    hwPut fn l (bs.drop m)

/-- Bytes that the hardware writes for a function. -/
def hwWrite (h : HwFor) (p : Word) (bs : List Byte) : A Unit := do
  hwPut h.fn (← hwPieces h p bs.length true) bs

/-- How an access of the hardware ends: it is made, is refused, or waits for a page service. -/
inductive HwEnd (α : Type) where
  | made (a : α)
  | refused
  | waits (w : PageWait)

/-- The wait of an access of the hardware that a drop of translations holds: stage 0 names no translation (R300). -/
def dropWait : PageWait :=
  { elem := 0, die := 0, fn := 0, stage := 0, tag := 0, addr := 0, write := false, size := 0, data := 0, parked := none, solo := true }

/-- The state after an access, and how it ended. A drop that holds the walk back waits like a page, for stage 0 (R300). -/
def A.ends {α : Type} (x : A α) (s : State) : State × HwEnd α :=
  match x s with
  | .ok a s => (s, .made a)
  | .error (.refer w) s => (s, .waits w)
  | .error .stall s => (s, .waits dropWait)
  | .error _ s => (s, .refused)

/-- An event whose access waits happens again once the wait ends (R310). -/
def hwAgain (s : State) (h : HwFor) (ev : Instr) (w : PageWait) : State :=
  if s.hwWaits.any (fun x => decide (x.ev = some ev)) then s else
  { s with hwWaits := s.hwWaits ++ [{ ev := some ev, job := h.job, fn := h.fn, addr := w.addr, bytes := [], die := w.die, stage := w.stage, tag := w.tag }] }

/-- Refusals that an event has met are used up. -/
def hwSettled (s : State) (h : HwFor) : State := { s with hwRefused := s.hwRefused.filter (fun e => e.1 != h.fn) }

/-- Bytes that the hardware writes for a function, at once or when a wait for a page ends; whether the write was refused. -/
def hwStore (h : HwFor) (p : Word) (bs : List Byte) (s : State) : State × Bool :=
  match (hwWrite h p bs).ends s with
  | (s, .made _) => (hwSettled s h, true)
  | (s, .refused) => (hwSettled s h, false)
  | (s, .waits w) => ({ s with hwWaits := s.hwWaits ++ [{ pol := h.pol, ev := none, job := h.job, fn := h.fn, addr := p, bytes := bs, die := w.die
                                                          stage := w.stage, tag := w.tag }] }, true)

/-- The pointer `n` bytes on. -/
def ptrAdd (p : Word) (n : Nat) : Word := ptrWithOff p (ptrOff p + n)

/-! ### Launch parameter blocks (R325) -/

/-- A pointer of a block. -/
def blockPtr (b : BitVec 1024) (o : Nat) : Word := BitVec.ofNat 64 (blockField b o 8)

/-- For whom the dispatcher asks in the name of a launch: its group, partition and the version that it selects, LATEST before it runs (R375,
R380). -/
def Launch.hwFor (l : Launch) (s : State) (id : Nat) : HwFor :=
  let g := blockField l.block 22 1
  let bar := if blockField l.block 20 1 = 2 then l.part else implicitKey id
  { job := l.job, fn := l.fn
    pol := some (g, l.part, if l.phase = .running then (s.part bar).pvSel.toNat else latestOf s l.job g) }

/-- Whether COMPL of a block keeps the limits of R325. -/
def complOk (b : BitVec 1024) : Bool :=
  let p := blockPtr b 40
  fmtOk p && decide (ptrFmt p = 0 ∧ ptrDie p ≠ 0xFFFF ∧ ptrOff p % 64 = 0 ∧ ptrOff p + 192 ≤ 0x4000000000)

/-! ### Release (R318) -/

/-- The memories of a tile become zero, and its full/empty bits empty. -/
def zeroTile (s : State) (k : Nat) : State :=
  let inTile (a : Nat) : Bool :=
    decide (spadKey k 0 ≤ a ∧ a < spadKey k 0 + 2 ^ 20) || decide (vaultKey k 0 ≤ a ∧ a < vaultKey k 0 + 2 ^ 21)
  { s with mem := s.mem.filter (fun c => !inTile c.1), full := s.full.filter (fun a => !inTile a) }

/-- The die and the TILEID of an event that belongs to a tile's contexts, engines or streams. -/
def eventTile : Instr → Option (Nat × Nat)
  | .streamWake d t _ | .groupWaitWake d t _ | .inboxWaitWake d t _ | .waitpComplete d t _ | .tokenWaitWake d t _
  | .hwaitComplete d t _ | .queueWake d t _ | .deqLongWait d t _ | .overrunLatency d t _ | .remoteto d t _ => some (d, t)
  | .gatherElementReplay d t _ _ | .gatherRowArrive d t _ _ => some (d, t)
  | .ssbArrive d t | .mmaComplete d t | .epiDrainStart d t | .epiDrainEnd d t => some (d, t)
  | .copyComplete d t _ | .copygComplete d t _ | .collComplete d t _ => some (d, t)
  | .engineFault d t _ _ _ => some (d, t)
  | .remoteKeptWrite d t _ _ _ => some (d, t)
  | _ => none

/-- Whether an event belongs to tile `t` of die `d`. -/
def tileEvent (d t : Nat) (e : Instr) : Bool := decide (eventTile e = some (d, t))

/-- The waits of a tile's contexts and its accesses elsewhere are taken out of every queue, but for those of the contexts that `keep` names. -/
def dropWaitsBut (keep : Nat → Bool) (s : State) (k : Nat) : State :=
  let s := { s with pending := s.pending.filter (fun e => !tileEvent (tileDie k) (tileId k) e) }
  { s with dies := s.dies.map (fun (e : Nat × Die) => (e.1, { e.2 with
      feQ := e.2.feQ.filter (fun q => q.2.1 != k || keep q.2.2)
      waiters := e.2.waiters.filter (fun w => w.tile != k || keep w.ctx)
      parked := e.2.parked.filter (fun p => p.tile != k || keep p.ctx || (p.begun && p.left.isNone)) })) }

/-- The waits of a tile's contexts and its accesses elsewhere are taken out of every queue. -/
def dropWaits (s : State) (k : Nat) : State := dropWaitsBut (fun _ => false) s k

/-- Held entries of an inbox wait again for its room. -/
def repostHeld (s : State) (k : Nat) : State :=
  let mine (e : Instr) : Bool := match e with
    | .inboxHeldDeliver a b => decide (tileKey a b = k)
    | _ => false
  let s := { s with pending := s.pending.filter (fun e => !mine e) }
  (s.tile k).io.heldIn.foldl (fun s _ => s.post (.inboxHeldDeliver (tileDie k) (tileId k))) s

/-- A tile is released: it holds no unit, its state is that of reset, its memories are zero (R13, R318). -/
def releaseTile (s : State) (k : Nat) : State :=
  let s := zeroTile (dropWaits s k) k
  let s := s.modTile k (fun t => { testKernel := t.testKernel, testFailed := t.testFailed, kernels := t.kernels })
  repostHeld { s with pending := s.pending.filter (fun e => match e with
    | .stagingEntryComplete a b _ => decide (tileKey a b ≠ k)
    | .slotBoundary a b => decide (tileKey a b ≠ k)
    | _ => true) } k

/-- A unit counts as triggered; a twin's counts through the primary (R202, R416). -/
def triggerUnit (s : State) (k : Nat) : State :=
  match (s.tile k).work with
  | none => s
  | some u => if u.triggered ∨ s.idKey k ≠ k then s
    else (s.modTile k (fun t => { t with work := some { u with triggered := true } })).modLaunch u.launch
      (fun l => { l with trigCount := l.trigCount + 1 })

/-- A work unit ends: it counts as triggered, and its tile is released (R13, R202). -/
def endUnit (s : State) (k : Nat) : State :=
  match (s.tile k).work with
  | none => s
  | some u =>
    let s := triggerUnit s k
    let s := if s.idKey k = k then s.modLaunch u.launch (fun l => { l with ended := l.ended + 1 }) else s
    releaseTile s k

/-- What a boundary leaves of the pair of a tile: nothing sent, nothing answered (R417, R418). -/
def clearTwin (s : State) (k : Nat) : State :=
  modTwin s k (fun w => { w with sent := [], permits := [], answers := [], log := [], pos := 0, ended := false })

/-! ### The end of a launch (R327) -/

/-- Bytes 4 to 63 of a completion record. -/
def recordTail (s : State) (id : Nat) (l : Launch) : List Byte :=
  let cls := blockField l.block 20 1
  let f := l.runFault.orElse (fun _ => l.fault)
  let ssn : Nat := if cls = 2 then l.ssn.toNat else 0
  bytesOfNat 4 0 ++ bytesOfNat 4 (id % 2 ^ 32) ++ bytesOfNat 4 l.aborts ++ bytesOfNat 8 l.ended ++ bytesOfNat 4 ssn
    ++ (match f with
      | some f => bytesOfNat 1 f.cause.toNat ++ bytesOfNat 1 f.ctx ++ bytesOfNat 2 (tileId f.tile)
          ++ bytesOfNat 2 ((s.job l.job).virtual (tileDie f.tile)) ++ bytesOfNat 6 0 ++ bytesOfNat 8 f.tval.toNat
          ++ bytesOfNat 8 f.tpc.toNat
      | none => bytesOfNat 28 0)
    ++ bytesOfNat 8 0

/-- A launch ends with a status: bytes 4 to 63 of its record are written, and then DONE. Where COMPL is unusable no record
is written and the failure goes to the management error register (R326, R327). -/
def endLaunch (s : State) (id : Nat) (status : Nat) : State :=
  match Map.get? s.launches id with
  | none => s
  | some l =>
    if l.phase = .ended then s
    else
      let tail := recordTail s id l
      let h := l.hwFor s id
      let ks := s.tilesOf id
      let s := ks.foldl releaseTile s
      let s := s.setLaunch id { l with phase := .ended, status := BitVec.ofNat 8 status, frames := [] }
      let part := l.job * 256 + blockField l.block 21 1
      let s := s.modPart part (fun p =>
        let mine (c : Nat) : Bool := ks.contains (c / 16)
          || p.records.any (fun r => decide (r.launch = id) && decide (recordMember r.loc = c))
        { p with records := p.records.filter (fun r => r.launch != id)
                 groups := dropMembers mine p.groups, groupsAt := dropMembers mine p.groupsAt })
      let s := s.modPart part (fun p => if p.launch = some id then
        { p with launch := none, members := [], nodes := [], held := false, frozenHold := false, bar := .running }
        else p)
      let compl := blockPtr l.block 40
      if complOk l.block = false then recordMerr s l.modl 0 6 compl.toNat
      else match hwStore h (ptrAdd compl 4) tail s with
        | (s, false) => recordMerr s l.modl 0 6 compl.toNat
        | (s, true) => match hwStore h compl (bytesOfNat 4 (2 ^ 31 + status)) s with
          | (s, true) => s
          | (s, false) => recordMerr s l.modl 0 6 compl.toNat

end Sys2Proof.Machine
end

