-- ==== Sys2Proof/Machine/Superstep.lean ====
section
/-! DEFINITION. The instructions of a superstep (SSB, SSVOTE, PFL, HALT; R131, R132, R196 to R199), page-fetch staging (R289 to
R291), remote deltas (R271, R272), and what a tile and a controller do at a boundary (R276, R277, R284, R286). -/

namespace Sys2Proof.Machine

/-! ### Quiet tiles (R14, R23, R196, R206) -/

/-- Whether a helper of tile `k` has not halted: a LIVE helper, or a continuation that the tile created, wherever it is
(R14). -/
def helpersOut (s : State) (k : Nat) : Bool :=
  let t := s.tile k
  let recs := match t.work with
    | some u => (s.part u.part).records
    | none => []
  (t.ctxs.toList.drop 1).any (fun x => decide (x.st = .live))
    || recs.any (fun r => decide (r.origin.tile = k))
    || s.tiles.any (fun e => e.2.ctxs.toList.any (fun x => match x.origin with
      | some o => decide (o.tile = k) && decide (x.st = .live)
      | none => false))

/-- What SSB, and HALT in the control context, wait for (R132, R196, R206). -/
def tileQuiet (s : State) (k : Nat) : Bool :=
  let e := (s.tile k).eng
  !helpersOut s k && e.tok.toList.all (fun n => decide (n = 0)) && e.mmas.isEmpty && e.acc.toList.all (fun x => !x.handed)

/-! ### SSB and SSVOTE (R196, R197) -/

/-- The vote of a tile that arrives: abort if `a` or PEND (R196). -/
def arrivalVote (s : State) (k : Nat) (a : Bool) : BitVec 2 := if a || (s.tile k).step.pend then 1 else 0

/-- The SSB arrives at the barrier with its vote, operand and rop; the context waits for the outcome (R196, R281). -/
def arriveSsb (k : Nat) (a b : BitVec 5) (r : BitVec 3) (s : State) : State :=
  let x := s.ctx k 0
  let record := barrierRec (x.sreg b) (s.tile k).step.ssn 1 r (arrivalVote s k (decide (x.sreg a ≠ 0)))
  let s := s.modStep k (fun st => { st with arrived := true, halting := false, ssbReg := some b, votedAbort := decide (x.sreg a ≠ 0) })
  sendArrival (s.modCtx k 0 (fun x => { x with wait := some .barrier })) k record

/-- The instruction has ended for its context, which does not go on. -/
def goneM (f : State → State) : M Unit := modify (fun w => { w with s := f w.s, gone := true })

/-- SSB (R196). -/
def execSsb (a b : BitVec 5) (r : BitVec 3) (s : State) : Host.Outcome State Fault Refusal :=
  runM (do
    let iw := wordOf (.ssb a b r)
    let x := s.curCtx
    require (decide (r.toNat < 5) && (queueOf x a).isNone && (queueOf x b).isNone) iw
    controlOnly iw
    if s.cls ≠ 2 then ctxpriv 2 iw
    if tileQuiet s s.curKey then goneM (arriveSsb s.curKey a b r) else waitM (.ssb a b r)) s

/-- SSB_ARRIVE (R196): the waits have ended. -/
def ssbArrive (k : Nat) (s : State) : State :=
  match (s.ctx k 0).wait with
  | some (.ssb a b r) => arriveSsb k a b r s
  | _ => s

/-- SSB_ARRIVE (R196). -/
def execSsbArrive (die tile : Nat) (s : State) : Host.Outcome State Fault Refusal := runE (ssbArrive (tileKey die tile)) s

/-- SSVOTE (R197). -/
def execSsvote (a : BitVec 5) (s : State) : Host.Outcome State Fault Refusal :=
  runM (do
    if (← srcS a) ≠ 0 then modS (fun s => s.modStep s.curKey (fun st => { st with pend := true }))) s

/-! ### HALT (R131, R132) -/

/-- A helper ends: it leaves its groups, its bindings and its booking, and is IDLE (R131, R163, R188). -/
def endHelper (k c : Nat) (s : State) : State :=
  (dropBindings (leaveGroups (freeHandle s k c) k c) k c).setCtx k c {}

/-- Program messages of a unit that ends wait at its launch for the commit (R240). -/
def keepMessages (s : State) (k : Nat) : State :=
  match (s.tile k).work with
  | some u => if s.idKey k = k then s.modPart u.barKey (fun p => { p with msgs := p.msgs ++ (s.tile k).io.msgs }) else s
  | none => s

/-- The commit decision: every member tile and every controller concerned hears the outcome (R267, R284). A report of
nobody ends a boundary that concerns nobody. -/
def broadcastCommit (s : State) (g : Nat) (result : BitVec 128) : State :=
  let s := dropRecords s g
  let tiles := (s.part g).members.filter (fun k => (s.tile k).work.isSome)
  let ctls := s.controllersOf tiles g
  let result := if s.isIrrevocable g then result ||| 2#128 else result
  let s := nextGen (s.modPart g (fun p => { p with bar := .committing, result := result, undone := tiles ++ ctls.map controllerWho })) g
  let s := tiles.foldl (fun s k => s.modStep k (fun st => { st with bound := true })) s
  let s := tiles.foldl (fun s k => s.post (.commit (tileDie k) (tileId k))) s
  let s := ctls.foldl (fun s d => s.post (.controllerCommit g d)) s
  if tiles.isEmpty ∧ ctls.isEmpty then s.post (.reportDone g (2 ^ 61)) else s

/-- The tiles of a unit that ends: its tile, or both of its pair once both have ended, the primary last (R416). -/
def endingTiles (s : State) (k : Nat) : Option (List Nat) :=
  match (s.tile k).twin with
  | none => some [k]
  | some w => match (s.tile w.partner).twin with
    | some x => if x.ended then some (if w.primary then [w.partner, k] else [k, w.partner]) else none
    | none => some [k]

/-- A WP or PAR unit ends; the last one commits its launch (R132, R268, R332). -/
def endPlainUnit (k : Nat) (s : State) : State :=
  match (s.tile k).work, endingTiles s k with
  | none, _ => s
  | some _, none => modTwin (s.modCtx k 0 (fun x => { x with wait := some .barrier })) k (fun w => { w with ended := true })
  | some u, some ks =>
    if ks.any (fun k => (s.tile k).step.pend) then
      failLaunch (s.modCtx k 0 (fun x => { x with st := .stopped, wait := none })) u.launch
    else
      let s := ks.foldl (fun s k => endUnit ((List.range 11).foldl (fun s c => leaveGroups s k c) (keepMessages s k)) k) s
      match Map.get? s.launches u.launch with
      | none => s
      | some l =>
        if l.ended = blockField l.block 12 4 then broadcastCommit (s.modPart u.barKey (fun p => { p with members := [] })) u.barKey 0
        else s.post (.unitPlace u.launch)

/-- HALT in the control context once the tile is quiet (R132, R281). -/
def haltControl (k : Nat) (s : State) : State :=
  match (s.tile k).work with
  | none => s
  | some u =>
    if u.cls = 2 then
      let record := barrierRec 0 (s.tile k).step.ssn 0 0 (arrivalVote s k false)
      let s := s.modStep k (fun st => { st with arrived := true, halting := true, ssbReg := none })
      sendArrival (s.modCtx k 0 (fun x => { x with wait := some .barrier })) k record
    else endPlainUnit k s

/-- HALT (R131, R132). A helper waits for the MMAs that it issued (R206). -/
def execHalt (s : State) : Host.Outcome State Fault Refusal :=
  runM (do
    let k := s.curKey
    let c := s.cur.ctx
    if c ≠ 0 then
      if s.curTile.eng.mmas.any (fun o => o.ctx = c) then throw .retry
      goneM (endHelper k c)
    else if tileQuiet s k then goneM (haltControl k)
    else waitM (.tokens 0xFF true)) s

/-! ### PFL and staging (R198, R199, R289 to R291) -/

/-- The range of `n` bytes at `p` in one transit region of the own tile: vault or not, and its first byte (R199). [log 22 DEDUCED] -/
def transitRange (s : State) (k : Nat) (p : Word) (n : Nat) : Option (Bool × Nat) :=
  let all (vault : Bool) (o : Nat) : Bool :=
    decide (regionOf s k vault o = .transit) && decide (regionOf s k vault (o + n - 1) = .transit)
  match (resolveDie s k p).map (fun d => spotFor s d k (ptrOff p)) with
  | some (.spad t o) => if t = k ∧ all false o then some (false, o) else none
  | some (.vault t o) => if t = k ∧ all true o then some (true, o) else none
  | _ => none

/-- Offset in the own scratchpad of `n` bytes at `p`. -/
def ownSpad (s : State) (k : Nat) (p : Word) (n : Nat) : Option Nat :=
  match (resolveDie s k p).map (fun d => spotFor s d k (ptrOff p)) with
  | some (.spad t o) => if t = k ∧ o + n ≤ Config.spadBytes then some o else none
  | _ => none

/-- Whether two destination ranges of tile `k` overlap. [log 59 DEDUCED] -/
def dstOverlap (s : State) (k : Nat) (a b : StagingEntry) : Bool :=
  match transitRange s k a.dst a.len, transitRange s k b.dst b.len with
  | some (va, oa), some (vb, ob) => va == vb && decide (oa < ob + b.len) && decide (ob < oa + a.len)
  | _, _ => false

/-- The status of a PFL (R199): 0 OK, 1 FULL, 2 BADDESC, 3 RANGE. [log 22 DEDUCED] -/
def pflStatus (s : State) (k : Nat) (bs : List Byte) (e : StagingEntry) : Nat :=
  let flags := descField bs 22 2
  let list := (s.tile k).step.fetchList
  if Config.fetchEntries ≤ list.length then 1
  else if fmtOk e.src = false ∨ fmtOk e.dst = false ∨ ptrFmt e.src ≠ 0 ∨ ptrOff e.dst % 64 ≠ 0 ∨ 2 ≤ flags ∨ e.len = 0
      ∨ e.len % 64 ≠ 0 ∨ (e.gather ∧ (e.rowb = 0 ∨ e.rowb % 64 ≠ 0 ∨ e.len % e.rowb ≠ 0 ∨ fmtOk e.idx = false
        ∨ ptrOff e.idx % 4 ≠ 0)) ∨ (e.gather = false ∧ (e.rowb ≠ 0 ∨ e.idx ≠ 0)) then 2
  else if 0x4000000000 < ptrOff e.src + (if e.gather then 1 else e.len) ∨ (transitRange s k e.dst e.len).isNone
      ∨ (e.gather ∧ (ownSpad s k e.idx (4 * (e.len / e.rowb))).isNone) ∨ list.any (dstOverlap s k e) then 3
  else 0

/-- PFL (R198, R199): an entry that is OK is appended, and its fetch starts. [log 22 DEDUCED] -/
def execPfl (d a : BitVec 5) (s : State) : Host.Outcome State Fault Refusal :=
  runM (do
    controlOnly (wordOf (.pfl d a))
    let p ← srcS a
    let bs ← ownDesc p 32
    roomS d
    let k := s.curKey
    let st := s.curTile.step
    let e : StagingEntry := {
      id := 64 * st.ssn.toNat + st.fetchList.length, src := descPtr bs 0, dst := descPtr bs 8, len := descField bs 16 4
      rowb := descField bs 20 2, gather := bits (descField bs 22 2) 0 1 = 1, idx := descPtr bs 24, st := 0
      pc := s.curCtx.pc, waits := [], subreg := s.curTile.csr.subreg }
    let v := pflStatus s k bs e
    if v = 0 then modS (fun s =>
      (s.modStep k (fun st => { st with fetchList := st.fetchList ++ [e] })).post
        (.stagingEntryComplete s.cur.die s.cur.tile e.id))
    dstS d (BitVec.ofNat 64 v)) s

/-- Staged bytes are written `n` bytes into an entry's destination. -/
def stagePut (k : Nat) (e : StagingEntry) (n : Nat) (bs : List Byte) (s : State) : State :=
  match transitRange s k e.dst e.len with
  | some (vault, o) => putPlain s k vault (o + n) bs
  | none => s

/-- Rows of an entry, and the bytes of one; without gather it has one row (R198). -/
def StagingEntry.rowCount (e : StagingEntry) : Nat := if e.gather then e.len / e.rowb else 1
def StagingEntry.rowBytes (e : StagingEntry) : Nat := if e.gather then e.rowb else e.len

/-- The staging engine as a requester, for row `i` of an entry (R303). -/
def StagingEntry.self (e : StagingEntry) (k i : Nat) : Requester :=
  { tile := k, ctx := 0, engine := true, unit := stageKey e.id i, subreg := some e.subreg }

/-- The indices of the batches up to that of row `i` are read (R315). -/
def readIndices (r : Requester) (e : StagingEntry) (i : Nat) : A StagingEntry := do
  if e.gather then
    let l ← readBatches r e.idx 4 e.rowCount i e.batch
    pure { e with batch := e.batch ++ l }
  else pure e

/-- Row `i` of an entry is fetched (R198, R289). -/
def stageRow (r : Requester) (e : StagingEntry) (i : Nat) : A Unit := do
  let bs ← readAcc r (accAt e.src (if e.gather then batchIndex e.batch i * e.rowb else 0 : Nat) e.rowBytes 1 .load)
  modA (stagePut r.tile e (i * e.rowBytes) bs)

/-- Rows of an entry that have neither arrived nor wait are fetched, until one faults; a row that waits lets the later ones go on, and so does one that is
held (R290, R315). The entry, whether a row is held, and the fault. [log 59 DEDUCED] -/
def stageRows (k : Nat) : List Nat → StagingEntry → Bool → State → State × StagingEntry × Bool × Option AccErr
  | [], e, h, s => (s, e, h, none)
  | i :: l, e, h, s =>
    if e.rows.contains i || e.waits.any (fun w => decide (w.elem = i)) then stageRows k l e h s
    else
      let waits (w : PageWait) : StagingEntry := { e with waits := e.waits ++ [{ w with elem := i }] }
      match twinStep k (stageKey e.id i) (readIndices (e.self k i) e i) s with
      | .error (.refer w) s => (s, waits w, h, none)
      | .error .stall s => (s, e, true, none)
      | .error x s => (s, e, h, some x)
      | .ok e s => match twinStep k (stageKey e.id i) (stageRow (e.self k i) e i) s with
        | .ok _ s => stageRows k l { e with rows := insertNat e.rows i } h s
        | .error (.refer w) s => stageRows k l { e with waits := e.waits ++ [{ w with elem := i }] } h s
        | .error .stall s => stageRows k l e true s
        | .error x s => (s, e, h, some x)

/-- Every entry of the list and of the staged set, oldest first. -/
def Step.entries (st : Step) : List StagingEntry := st.staged ++ st.fetchList

/-- An entry is replaced. -/
def setEntry (s : State) (k : Nat) (e : StagingEntry) : State :=
  let put (l : List StagingEntry) : List StagingEntry := l.map (fun x => if x.id = e.id then e else x)
  s.modStep k (fun st => { st with fetchList := put st.fetchList, staged := put st.staged })

/-- STAGING_ENTRY_COMPLETE (R289, R290): the entry becomes PRESENT or FAILED, or goes on waiting. A fault raises its event and posts its
entry, a containment event too. [log 59 DEDUCED] -/
def completeEntry (k id : Nat) (s : State) : State :=
  match (s.tile k).step.entries.find? (fun e => decide (e.id = id)) with
  | none => s
  | some e =>
    if e.st ≠ 0 then s
    else
      let fail (s : State) (e : StagingEntry) (c : Cause) (v : Word) : State :=
        opFault (setEntry s k { e with st := 2, waits := [] }) k 0 e.pc 0 c.code (ptrOff v)
      match stageRows k (List.range e.rowCount) e false s with
      | (s, e, _, some (.trap c v)) => fail s e c v
      | (s, e, _, some (.contain c v)) => containOp (fail s e c v) k 0 none e.pc c v
      | (s, e, held, _) =>
        if e.rows.length = e.rowCount then setEntry s k { e with st := 1, waits := [] }
        else
          let s := setEntry s k e
          if held then s.post (.stagingEntryComplete (tileDie k) (tileId k) id) else s

/-- STAGING_ENTRY_COMPLETE (R290). -/
def execStagingEntryComplete (die tile entry : Nat) (s : State) : Host.Outcome State Fault Refusal :=
  runE (completeEntry (tileKey die tile) entry) s

/-! ### Remote deltas (R271, R272) -/

/-- REMOTE_KEPT_WRITE (R271, R272). -/
def execRemoteKeptWrite (die tile : Nat) (vault : Bool) (off : Nat) (bytes : List (BitVec 8)) (s : State) :
    Host.Outcome State Fault Refusal := runE (landWrite (tileKey die tile) vault off bytes) s

/-! ### Forced events (R278, R279, R419) -/

/-- FORCED_EVENT (R279). -/
def execForcedEvent (die tile : Nat) (code : BitVec 8) (s : State) : Host.Outcome State Fault Refusal :=
  runE (fun s => raiseForced s (tileKey die tile) code 1) s

/-- A number for the structure in which a parity error was found (R419). -/
def parityCode : ParityPlace → Nat
  | .transitSpad _ => 0
  | .transitVault _ => 7
  | .deltaPool => 1
  | .pointerTable => 2
  | .regFile => 3
  | .queue => 4
  | .accumulator => 8
  | .retainedKept => 5
  | .reservedArea => 6

/-- PARITY_ERROR: a transit line is marked, for the next superstep where the outcome is decided; kept data and the reserved area cannot be
repaired (R278, R279). -/
def parityError (k : Nat) (p : ParityPlace) (s : State) : State :=
  let s := s.modStep k (fun st =>
    let line := match p with
      | .transitSpad l => [l]
      | .transitVault l => [8192 + l]
      | _ => []
    let add (l : List Nat) : List Nat := line.foldl insertNat l
    let (n, seen) := Map.getD st.parityRun (parityCode p) (0, false)
    { st with badLines := if st.bound then st.badLines else add st.badLines, badLater := if st.bound then add st.badLater else st.badLater
              parityRun := Map.set st.parityRun (parityCode p) (if seen then n else n + 1, true) })
  raiseForced s k 0x20 (if p = .retainedKept ∨ p = .reservedArea then 3 else 1)

/-- PARITY_ERROR (R278). -/
def execParityError (die tile : Nat) (place : ParityPlace) (s : State) : Host.Outcome State Fault Refusal :=
  runE (parityError (tileKey die tile) place) s

/-! ### A tile's commit (R277, R284) -/

/-- A line as its deltas leave it: each byte from the delta that wrote it last (R284). -/
def mergedLine (old : Vec) (l : Option LocalDelta) (r : Option RemoteDelta) : List Byte :=
  (List.range 64).map (fun i =>
    let own : Byte := match l with
      | some d => vecByte d.data i
      | none => vecByte old i
    match r with
    | some d => if d.last.getLsbD i then vecByte d.data i else own
    | none => own)

/-- The full/empty bits of the line at key `a` in a set of full words. -/
def mergeFull (fe : BitVec 16) (a : Nat) (full : List Nat) : List Nat :=
  (List.range 16).foldl (fun f i => if fe.getLsbD i then insertNat f (a + 4 * i) else removeNat f (a + 4 * i)) full

/-- Deltas are merged into the retained version, with the full/empty bits of the local ones (R284). -/
def mergeDeltas (s : State) (k : Nat) : State :=
  let st := (s.tile k).step
  let lines := (st.locals.map (fun e => e.1)) ++ (st.remotes.map (fun e => e.1))
  let s := (lines.foldl insertNat []).foldl (fun s line =>
    let l := Map.get? st.locals line
    let bs := mergedLine (retainedLine s k line) l (Map.get? st.remotes line)
    let s' := { s with mem := Memory.writeN s.mem (lineKey k line) bs }
    match l with
    | some d => if line < 8192 then { s' with full := mergeFull d.fe (lineKey k line) s'.full } else s'
    | none => s') s
  s.modStep k (fun st => { st with locals := [], remotes := [] })

/-- Program messages are posted to the tiles that they name (R240). -/
def postMessages (s : State) (l : List HeldMsg) : State :=
  let both (s : State) (k : Nat) : List Nat := match (s.tile k).twin with
    | some w => [k, w.partner]
    | none => [k]
  l.foldl (fun s m => (both s m.tile).foldl (fun s k => notify s k m.payload m.tag 1 0x07) s) s

/-- Copy entries of a descriptor table are freed (R21, R163). -/
def ringsOnly (l : Vector StreamDesc 8) : Vector StreamDesc 8 := mapV l (fun d => if d.copy then {} else d)

/-- Bindings that name a copy entry are removed. -/
def keepRings (io : TileIo) (binds : Vector (BitVec 4) 8) : Vector (BitVec 4) 8 :=
  mapV binds (fun b => if ((io.descs[(b.extractLsb' 0 3).toNat]?).getD {}).copy then 0 else b)

/-- The commit column of R277 for a tile, under outcome code `out`. -/
def commitTileState (out : BitVec 2) (t : Tile) : Tile :=
  let c := t.ctx 0
  let c := { c with wait := none, draws := 0, replay := none, mmaRow := none, tload := none, binds := keepRings t.io c.binds }
  let st := t.step
  let descs := ringsOnly t.io.descs
  { t with
    ctxs := Vector.ofFn (fun i : Fin 11 => if i.val = 0 then c else {})
    eng := { epcfg := t.eng.epcfg, tables := t.eng.tables, nextOp := t.eng.nextOp }
    io := { inbox := t.io.inbox, heldIn := t.io.heldIn, descs := descs, descsAt := descs }
    csr := { t.csr with books := Vector.replicate 16 {} }
    step := Step.settle { ssn := st.ssn + 1, out := out, bound := true, deferred := st.deferred, badLater := st.badLater, retained := c
                          staged := st.staged.filter (fun e => decide (e.st = 0)) ++ st.fetchList } }

/-- COMMIT: deltas, frame, the commit column, done (R284). A HALT ends the unit. -/
def commitTile (k : Nat) (s : State) : State :=
  match (s.tile k).work with
  | none => s
  | some u =>
    let g := u.barKey
    let result := (s.part g).result
    let st := (s.tile k).step
    let s := mergeDeltas s k
    let s := match st.ssbReg with
      | some b => goOn ((asCtx s k 0).modCur (fun x => x.setS b (result.extractLsb' 64 64)))
      | none => s
    let s := if s.idKey k = k then postMessages s (s.tile k).io.msgs else s
    let s := clearTwin s k
    let s := if st.trig then triggerUnit s k else s
    let s := s.modTile k (commitTileState (if result.getLsbD 1 then 3 else 1))
    let s := if st.halting then endUnit s k else s
    s.post (.reportDone g k)

/-- COMMIT (R284). -/
def execCommit (die tile : Nat) (s : State) : Host.Outcome State Fault Refusal := runE (commitTile (tileKey die tile)) s

/-! ### A tile's abort (R277, R286) -/

/-- The full/empty bits of transit lines are empty; transit lines with a parity error are zero (R286). -/
def clearTransit (s : State) (k : Nat) : State :=
  let inTransit (a : Nat) : Bool :=
    decide (spadKey k 0 ≤ a ∧ a < spadKey k 0 + 2 ^ 20) && decide (regionOf s k false (a - spadKey k 0) = .transit)
  let s := { s with full := s.full.filter (fun a => !inTransit a) }
  let st := (s.tile k).step
  (st.badLines ++ st.badLater).foldl (fun s l =>
    { s with mem := Memory.writeN s.mem (lineKey k l) (List.replicate 64 0) }) s

/-- The control context as the retained frame and R28 give it. -/
def reloadCtx (x retained : Ctx) : Ctx :=
  { retained with frm := x.frm, scopes := x.scopes, tcause := x.tcause, tpc := x.tpc, tval := x.tval, st := .resident
                  tstat := 0, mrow := 0, rptidx := 0, draws := 0, wait := none, frame := none, replay := none, refused := [], mmaRow := none, tload := none }

/-- An entry of the inbox that an abort of superstep `n` removes (R25). -/
def staleEntry (n : BitVec 32) (e : BitVec 128) : Bool :=
  decide (e.extractLsb' 8 2 = 0) && decide (e.extractLsb' 32 32 = n)

/-- What is left of a tile's engines while contexts of it are frozen: the operations of those, with the accumulators and the tokens as they stand
(R414). [log 81 DEDUCED] -/
def Engines.onlyFrozen (frozen : Nat → Bool) (e : Engines) : Engines :=
  let mmas := e.mmas.filter (fun o => frozen o.ctx)
  let epiq := e.epiq.filter (fun j => frozen j.ctx)
  let ops := e.ops.filter (fun o => frozen o.ctx)
  let bare : Engines := { epcfg := e.epcfg, tables := e.tables, nextOp := e.nextOp }
  if mmas.isEmpty && epiq.isEmpty && ops.isEmpty then bare
  else { bare with acc := e.acc, head := e.head, mseq := e.mseq, tok := e.tok, mmas := mmas, epiq := epiq, ops := ops }

/-- A staged entry as an abort leaves it: what it had asked of other dies is asked again (R291). -/
def StagingEntry.again (e : StagingEntry) : StagingEntry := { e with waits := e.waits.filter (fun w => w.parked.isNone) }

/-- The abort column of R277 for a tile. FROZEN contexts, and their operations, stay as they stand (R414). The request that a tile has made of its policy version is dropped, and
PVSEL keeps the number (R28). [log 53 DEDUCED] -/
def abortTileState (t : Tile) : Tile :=
  let st := t.step
  let descs := ringsOnly t.io.descsAt
  let ctx (i : Fin 11) : Ctx :=
    let x := t.ctxs[i]
    if x.st = .frozen then x else if i.val = 0 then reloadCtx x st.retained else {}
  let stale := staleEntry st.ssn
  { t with
    ctxs := Vector.ofFn ctx
    eng := { t.eng.onlyFrozen (fun c => decide ((t.ctx c).st = .frozen)) with
             tables := mapV t.eng.tables (fun x => if x.ssn = st.ssn then { x with valid := false } else x) }
    io := { inbox := t.io.inbox.filter (fun e => !stale e), heldIn := t.io.heldIn.filter (fun e => !stale e)
            descs := descs, descsAt := descs }
    csr := { t.csr with books := Vector.replicate 16 {}, pvPending := false }
    step := Step.settle {
              ssn := st.ssn, retry := if st.retry = 0xFFFF then st.retry else st.retry + 1, mine := st.pend || st.forced || st.votedAbort
              out := 2, bound := true, deferred := st.deferred, badLater := st.badLater, retained := st.retained
              staged := st.staged.map StagingEntry.again
              parityRun := st.parityRun.filterMap (fun r => if r.2.2 then some (r.1, r.2.1, false) else none) } }

/-- Fetches of the list appended in the superstep that aborts are cancelled (R291). -/
def cancelList (s : State) (k : Nat) : State :=
  let list := (s.tile k).step.fetchList
  { s with pending := s.pending.filter (fun e => match e with
    | .stagingEntryComplete d t id => !(decide (tileKey d t = k) && list.any (fun x => x.id = id))
    | _ => true) }

/-- A tile of a WP or PAR launch with a frozen context keeps it, and everything else of the unit is gone (R414). -/
def keepFrozen (k : Nat) (s : State) : State :=
  (s.modTile k abortTileState).modTile k (fun t => { t with
    ctxs := mapV t.ctxs (fun x => if x.st = .frozen then x else {}) })

/-- What a WP or PAR launch keeps of a tile's parity events and mismatches (R418, R419). -/
def keepRuns (g k : Nat) (s : State) : State :=
  let t := s.tile k
  s.modPart g (fun p => { p with
    parityRuns := match t.step.parityRun.filterMap (fun r => if r.2.2 then some (r.1, r.2.1) else none) with
      | [] => Map.erase p.parityRuns k
      | l => Map.set p.parityRuns k l,
    pairRuns := match t.twin with
      | some w => if w.mismatches = 0 then p.pairRuns else Map.set p.pairRuns k (w.partner, w.mismatches)
      | none => p.pairRuns })

/-- The staged set of a tile goes on fetching what it had asked of other dies (R291). -/
def refetch (k : Nat) (s : State) : State :=
  ((s.tile k).step.staged.filter (fun e => decide (e.st = 0))).foldl (fun s e =>
    let ev := Instr.stagingEntryComplete (tileDie k) (tileId k) e.id
    if s.pending.contains ev then s else s.post ev) s

/-- What an abort makes of a tile: contexts and operations stop, deltas and transit bits go, the abort column and the frame apply (R286). A
tile of a WP or PAR launch is released, and leaves its groups as the barrier's end restores them (R192, R332). An abort that a switch makes leaves RETRY, and MINE is 0 (R387). -/
def undoTile (k : Nat) (s : State) : State :=
  match (s.tile k).work with
  | none => s
  | some u =>
    let s := clearTransit (dropWaitsBut (fun c => decide ((s.ctx k c).st = .frozen)) (cancelList (clearTwin s k) k) k) k
    let old := (s.tile k).step
    let s := if u.cls = 2 then s else keepRuns u.barKey k s
    let s := if u.cls = 2 then refetch k (repostHeld (s.modTile k abortTileState) k)
      else if (s.tile k).ctxs.toList.any (fun x => decide (x.st = .frozen)) then keepFrozen k s
      else releaseTile s k
    if (s.part u.barKey).switchAbort && u.cls = 2 then s.modStep k (fun st => { st with retry := old.retry, mine := false }) else s

/-- ABORT: the tile is as the abort makes it, and reports done (R286). -/
def abortTile (k : Nat) (s : State) : State :=
  match (s.tile k).work with
  | none => s
  | some u => (undoTile k s).post (.reportDone u.barKey k)

/-- ABORT (R286). -/
def execAbort (die tile : Nat) (s : State) : Host.Outcome State Fault Refusal := runE (abortTile (tileKey die tile)) s

/-! ### Controllers (R275, R276, R284, R286) -/

/-- What a controller keeps of barrier `g` is cleared: undo log, irrevocable mark, seals changed. -/
def clearLog (g : Nat) (x : Die) : Die :=
  { x with undo := x.undo.filter (fun r => r.part != g), irrevocable := x.irrevocable.filter (fun r => r.1 != g)
           sealLog := x.sealLog.filter (fun e => e.1 != g) }

/-- CONTROLLER_COMMIT (R284). -/
def controllerCommit (g d : Nat) (s : State) : State := (s.modDie d (clearLog g)).post (.reportDone g (controllerWho d))

/-- CONTROLLER_COMMIT (R284). -/
def execControllerCommit (part die : Nat) (s : State) : Host.Outcome State Fault Refusal :=
  runE (controllerCommit part die) s

/-- A recorded line is written back with its tags; a poisoned one stays poisoned (R276, R317). -/
def replayRec (d key : Nat) (s : State) (r : UndoRec) : State :=
  let bs := bytesOfNat 64 r.data.toNat
  let s := writeHbm s d (r.line * 64) (r.tags.extractLsb' 0 4) key (bs.take 32)
  let s := writeHbm s d (r.line * 64 + 32) (r.tags.extractLsb' 4 4) key (bs.drop 32)
  if r.poisoned then s.modDie d (fun x => { x with
    syndromes := Map.set (Map.set x.syndromes (2 * r.line) .uncorrectable) (2 * r.line + 1) .uncorrectable })
  else s

/-- The log of a controller is replayed, seals return to what they were, and the log is clear (R186, R276). -/
def replayLog (g d : Nat) (s : State) : State :=
  let x := s.die d
  let key := tctxField (s.tctx d (s.job (barJob s g)).fn) 40 1
  let s := (x.undo.filter (fun r => decide (r.part = g))).foldl (replayRec d key) s
  let s := s.modDie d (fun x => { x with seals := (x.sealLog.filter (fun e => decide (e.1 = g))).foldl (fun l e =>
    if e.2.2 then insertNat l e.2.1 else removeNat l e.2.1) x.seals })
  s.modDie d (clearLog g)

/-- CONTROLLER_ABORT (R276, R186). Where the controller had marked the superstep irrevocable the outcome is UNRECOVERABLE (R288). -/
def controllerAbort (g d : Nat) (s : State) : State :=
  if (s.die d).irrevocable.any (fun r => r.1 = g) then jobUnrecoverable s (barJob s g)
  else (replayLog g d s).post (.reportDone g (controllerWho d))

/-- CONTROLLER_ABORT (R276). -/
def execControllerAbort (part die : Nat) (s : State) : Host.Outcome State Fault Refusal :=
  runE (controllerAbort part die) s

end Sys2Proof.Machine
end

