-- ==== Sys2Proof/Machine/Barrier.lean ====
section
/-! DEFINITION. The barrier tree (R280 to R283), the root's decisions and the ends of a boundary (R267, R268, R284, R286, R332,
R333), quarantine at a boundary and the removal of units (R419, R424, R425). -/

namespace Sys2Proof.Machine

/-! ### Records (R281) -/

def recVote (r : BitVec 128) : BitVec 2 := r.extractLsb' 0 2
def recOp (r : BitVec 128) : BitVec 3 := r.extractLsb' 3 3
def recCount (r : BitVec 128) : Nat := bits r.toNat 6 26
def recSsn (r : BitVec 128) : BitVec 32 := r.extractLsb' 32 32
def recValue (r : BitVec 128) : Word := r.extractLsb' 64 64

/-- The identity of a reduction (R281). -/
def ropIdentity (op : BitVec 3) : Word :=
  match op.toNat with
  | 1 => 0x7FFFFFFFFFFFFFFF
  | 2 => 0x8000000000000000
  | 4 => 0xFFFFFFFFFFFFFFFF
  | _ => 0

/-- A reduction of two values (R196). -/
def ropCombine (op : BitVec 3) (x y : Word) : Word :=
  match op.toNat with
  | 0 => x + y
  | 1 => if x.slt y then x else y
  | 2 => if x.slt y then y else x
  | 3 => x ||| y
  | _ => x &&& y

/-- The merge of records in order (R281, R282). -/
def mergeRecs (ssn : BitVec 32) (l : List (BitVec 128)) : BitVec 128 :=
  let counted := l.filter (fun r => decide (recCount r ≠ 0))
  let vote := l.foldl (fun v r => v ||| recVote r) 0
  match counted with
  | [] => barrierRec 0 ssn 0 0 vote
  | r :: _ =>
    let op := recOp r
    barrierRec (counted.foldl (fun v x => ropCombine op v (recValue x)) (ropIdentity op)) ssn
      ((counted.map recCount).sum) op vote

/-- A later record of one child: its counted part replaces the earlier one, votes are kept. -/
def joinRec (old : Option (BitVec 128)) (new : BitVec 128) : BitVec 128 :=
  match old with
  | none => new
  | some o => (if recCount new = 0 then o else new) ||| (recVote o ||| recVote new).setWidth 128

/-! ### The tree (R282) -/

def modNode (m : Nat) : Nat := 2 ^ 40 + m
def rootNode : Nat := 2 ^ 41

/-- The tree over the members: die nodes, module nodes, the root. The reductions are integer operations, so the shape of the
fabric part of the tree changes no result (R282). -/
def buildNodes (members : List Nat) : Map BarrierNode :=
  let dies := members.foldl (fun l k => insertNat l (tileDie k)) []
  let mods := dies.foldl (fun l d => insertNat l (d / 8)) []
  let m : Map BarrierNode := dies.map (fun d => (d, { children := members.filter (fun k => decide (tileDie k = d)) }))
  let m := mods.foldl (fun m x => Map.set m (modNode x) { children := dies.filter (fun d => decide (d / 8 = x)) }) m
  Map.set m rootNode { children := mods.map modNode }

/-- The tree of `g` over its members, with nothing reported. -/
def rebuildTree (s : State) (g : Nat) : State := s.modPart g (fun p =>
  { p with nodes := buildNodes (p.members.filter (fun k => decide (s.idKey k = k))) })

/-- Whether every child of a node has reported. -/
def BarrierNode.complete (n : BarrierNode) : Bool := n.children.all (fun c => n.reported.contains c)

/-- Whether SSBs of different OP have arrived (R283). -/
def mixedOps (p : Partition) : Bool :=
  let ops := (p.nodes.filter (fun e => decide (e.1 < 2 ^ 40))).flatMap (fun e =>
    (e.2.recs.filter (fun r => decide (recCount r.2 ≠ 0))).map (fun r => recOp r.2))
  match ops with
  | [] => false
  | o :: l => l.any (fun x => x != o)

/-- The launch of a barrier. -/
def barLaunch (s : State) (g : Nat) : Option Nat := if g < 2 ^ 80 then (s.part g).launch else some (g - 2 ^ 80)

/-- A field of a launch's block; 0 where there is no launch. -/
def launchField (s : State) (id : Option Nat) (o n : Nat) : Nat :=
  match id.bind (fun i => Map.get? s.launches i) with
  | some l => blockField l.block o n
  | none => 0

/-- The policy group of a barrier. -/
def barPolicy (s : State) (g : Nat) : Nat := launchField s (barLaunch s g) 22 1

/-- The root decides abort; the outcome is UNRECOVERABLE where a controller has marked the superstep irrevocable (R267, R288). -/
def rootAbort (g : Nat) (s : State) : State :=
  if s.isIrrevocable g then jobUnrecoverable s (barJob s g) else broadcastAbort s g (s.part g).members

/-- Whether a member has sent a forced vote that the root has still to receive: the superstep cannot commit (R272, R278, R279). -/
def votesOut (s : State) (g : Nat) : Bool := (s.part g).members.any (fun k => (s.tile k).step.forced)

/-- The root decides (R267, R283, R288); at a commit it samples LATEST (R379). A forced vote that is on its way is awaited. [log 80 DEDUCED] -/
def decideRoot (g : Nat) (merged : BitVec 128) (complete : Bool) (s : State) : State :=
  let p := s.part g
  let v := recVote merged
  if v = 3#2 then jobUnrecoverable s (barJob s g)
  else if p.bar ≠ .running then s
  else if v.getLsbD 0 then rootAbort g s
  else if complete && !votesOut s g then
    if mixedOps p then rootAbort g s
    else broadcastCommit (sampleSwitch s g (barJob s g) g (barPolicy s g) p.members) g merged
  else s

/-- BARRIER_RECORD (R283): a node merges a record, and forwards when all its children have reported or a vote bit appears. -/
def arriveRecord (g level node child : Nat) (rec' : BitVec 128) (s : State) : State :=
  let p := s.part g
  if (p.bar ≠ .running ∧ p.bar ≠ .aborting) ∨ recSsn rec' ≠ p.ssn then s
  else match Map.get? p.nodes node with
    | none => s
    | some n =>
      let more := s.pending.any (fun e => match e with
        | .barrierRecord h l m c _ => decide (h = g ∧ l = level ∧ m = node ∧ c = child)
        | _ => false)
      let final : Bool := decide (level = 0) || ((Map.getD p.nodes child { children := [] }).full && !more)
      let n := { n with recs := Map.set n.recs child (joinRec (Map.get? n.recs child) rec')
                        reported := if final then insertNat n.reported child else n.reported }
      let merged := mergeRecs p.ssn (n.recs.map (fun e => e.2))
      let whole := n.complete && !n.full
      let v := recVote merged
      let up := whole || decide (v ||| n.sent ≠ n.sent)
      let n' := if up then { n with sent := v, full := n.full || whole } else n
      let s := s.modPart g (fun p => { p with nodes := Map.set p.nodes node n' })
      if level = 2 then decideRoot g merged n.complete s
      else if up then s.post (.barrierRecord g (level + 1) (if level = 0 then modNode (node / 8) else rootNode) node merged)
      else s

/-- BARRIER_RECORD (R283). -/
def execBarrierRecord (part level node child : Nat) (rec' : BitVec 128) (s : State) : Host.Outcome State Fault Refusal :=
  runE (arriveRecord part level node child rec') s

/-! ### Quarantine and the removal of units (R346, R418, R419, R424, R425) -/

/-- A tile enters the quarantine list of its module (R419). -/
def quarantine (s : State) (k : Nat) : State :=
  s.modModl (tileDie k / 8) (fun x => { x with quarantine := insertNat x.quarantine k })

def State.quarantined (s : State) (k : Nat) : Bool := (s.modl (tileDie k / 8)).quarantine.contains k

/-- Tiles of a gang whose test kernel failed are quarantined (R346). -/
def quarantineTests (s : State) (gang : List Nat) : State :=
  (gang.filter (fun k => (s.tile k).testFailed)).foldl (fun s k =>
    (quarantine s k).modTile k (fun t => { t with testFailed := false })) s

/-- Tiles that an abort quarantines: a third PARITY in a row from one structure, a second mismatch of a pair (R418, R419). -/
def quarantineAbort (s : State) (g : Nat) (members : List Nat) : State :=
  let p := s.part g
  members.foldl (fun s k =>
    let t := s.tile k
    let parity : Nat := (if t.step.parityRun = [] then (Map.getD p.parityRuns k []).map (fun r => r.2) else t.step.parityRun.map (fun r => r.2.1)).foldl max 0
    let pair : Nat := match t.twin with
      | some x => x.mismatches
      | none => ((Map.get? p.pairRuns k).map (fun r => r.2)).getD 0
    if 3 ≤ parity ∨ 2 ≤ pair then quarantine s k else s) s

/-- The PAYLOAD of a RESIZE entry (R425). -/
def resizePayload (unit module kind partsz : Nat) (adopt : Bool) : Word :=
  BitVec.ofNat 64 (unit % 2 ^ 24 * 2 ^ 40 + module % 2 ^ 12 * 2 ^ 28 + adopt.toNat * 2 ^ 27 + kind * 2 ^ 24 + partsz % 2 ^ 24)

/-- PARTSZ of every member; a pair counts once (R29, R416). -/
def setSizes (s : State) (g : Nat) : State :=
  let m := (s.part g).members
  let n := (m.filter (fun k => decide (s.idKey k = k))).length
  m.foldl (fun s k => s.modCsr k (fun r => { r with partsz := BitVec.ofNat 24 n })) s

/-- A unit is taken from its tile; it counts as ended (R424). -/
def removeUnit (s : State) (k : Nat) : State := endUnit ((List.range 11).foldl (fun s c => leaveGroups s k c) s) k

/-- Resident CON units on quarantined tiles are removed: RESIZE entries, PARTSZ (R419, R424, R425). -/
def shrinkUnits (s : State) (g : Nat) : State :=
  let p := s.part g
  let bad (k : Nat) : Bool := s.quarantined k || (match (s.tile k).twin with
    | some w => s.quarantined w.partner
    | none => false)
  let lost := p.members.filter (fun k => bad k && (s.tile k).work.isSome)
  let left := p.members.filter (fun k => !lost.contains k)
  let uids := lost.filterMap (fun k => ((s.tile k).work).map (fun u => u.uid))
  let s := lost.foldl removeUnit s
  let s := s.modPart g (fun p => { p with members := left, groupsAt := p.groups })
  if lost.isEmpty then s
  else
    let n := (left.filter (fun k => decide (s.idKey k = k))).length
    uids.dedup.foldl (fun s u => left.foldl (fun s k => notify s k (resizePayload u 0 2 n false) 0 1 0x06) s) (setSizes s g)

/-! ### The ends of a boundary (R267, R268, R332, R333) -/

/-- The resume broadcast is sent (R267); a publication that is due is announced after it (R378). -/
def resumePart (s : State) (g : Nat) : State :=
  let m := (s.part g).members
  let s := s.modPart g (fun p => { p with bar := .running, held := false, holdAbort := false, switchAbort := false })
  let s := m.foldl (fun s k => s.post (.resumeBroadcast (tileDie k) (tileId k))) (rebuildTree s g)
  announceDue s g (barJob s g) g (barPolicy s g)

/-- After a boundary the partition goes on, unless a command, a frozen context or a new die map holds it (R385 to R387, R412, R414). -/
def holdOrResume (s : State) (g : Nat) (aborted : Bool) : State :=
  let p := s.part g
  if (p.holding && (!aborted || p.holdAbort)) || p.frozenHold || (s.job (barJob s g)).mapWaits then
    s.modPart g (fun p => { p with bar := .running, held := true, holdAbort := aborted })
  else resumePart s g

/-- The members of a barrier that still hold its units: a tile whose unit has halted may have been taken by another launch. -/
def ownMembers (s : State) (g : Nat) : List Nat := (s.part g).members.filter (fun k => (s.tile k).work.any (fun u => decide (u.barKey = g)))

/-- The end of a partition's commit (R284, R333). [log 57 DEDUCED] -/
def finishCommit (g : Nat) (s : State) : State :=
  let id := barLaunch s g
  let job := barJob s g
  let policy := barPolicy s g
  if g < 2 ^ 80 then
    let s := s.modPart g (fun p => { p with ssn := p.ssn + 1, groupsAt := p.groups })
    let s := commitPolicy s g job g policy (ownMembers s g)
    let s := s.modPart g (fun p => { p with members := ownMembers s g })
    let s := setSizes s g
    let s := shrinkUnits (quarantineTests s (s.part g).gang) g
    match id with
    | none => s
    | some id =>
      let s := s.modLaunch id (fun l => { l with consec := 0, ssn := (s.part g).ssn })
      if (s.part g).members.isEmpty then endLaunch (announceDue s g job g policy) id 0 else holdOrResume s g false
  else
    let part := job * 256 + launchField s id 21 1
    let s := announceDue (commitPolicy s g job part policy []) g job part policy
    let s := postMessages s (s.part g).msgs
    let s := (s.modPart g (fun p => { p with msgs := [], bar := .running })).modPart part (fun p => { p with groupsAt := p.groups })
    let s := quarantineTests s (s.part part).gang
    match id with
    | some id => endLaunch s id 0
    | none => s

/-- Whether one more consecutive abort ends a launch (R333). -/
def retryEnds (l : Launch) : Bool :=
  let m := blockField l.block 28 2
  decide (m ≠ 0) && decide (m < l.consec)

/-- A partition as an abort of launch `id`, which held the tiles `ks`, leaves it: the group table of the last commit, without contexts of a WP or
PAR launch, whose superstep begins with none; none of the launch's records (R192, R277, R335). [log 46 DEDUCED] -/
def revertPart (id : Nat) (ks : List Nat) (p : Partition) : Partition :=
  let rec' (r : ContRecord) : Bool := decide (r.launch = id)
  let mine (c : Nat) : Bool := ks.contains (c / 16) || p.records.any (fun r => rec' r && decide (recordMember r.loc = c))
  { p with groups := if p.launch = some id then p.groupsAt else dropMembers mine p.groupsAt
           records := p.records.filter (fun r => !rec' r) }

/-- A WP or PAR launch that has failed ends FAULT, or is placed again from unit 0, which counts as a re-run; one that a switch
stopped is placed again at resume, which does not (R332, R387). [log 58 DEDUCED] -/
def runAgain (g id : Nat) (s : State) : State :=
  match Map.get? s.launches id with
  | none => s
  | some l =>
    let p := s.part g
    let s := s.modPart g (fun p => { p with switchAbort := false, holdAbort := false })
    if p.switchAbort = false ∧ (bits (blockField l.block 27 1) 1 1 = 0 ∨ retryEnds l) then endLaunch s id 4
    else
      let s := s.setLaunch id { l with next := 0, ended := 0, trigCount := 0, runFault := none
                                       aborts := if p.switchAbort then l.aborts else l.aborts + 1 }
      if p.holding then s.modPart g (fun q => { q with held := true, holdAbort := p.switchAbort }) else s.post (.unitPlace id)

/-- What an abort leaves of the groups, records, messages, publication and frames of the launch of a barrier (R192, R240, R277, R335, R378). -/
def revertLaunch (g id : Nat) (s : State) : State :=
  let p := s.part g
  let job := barJob s g
  let part := job * 256 + launchField s (some id) 21 1
  let s := (s.modPart part (revertPart id p.members)).modPart g (fun p => { p with msgs := [] })
  (abortPolicy s g job (barPolicy s g)).modLaunch id (fun l => { l with frames := [] })

/-- The end of an abort (R286, R332, R333). [log 58 DEDUCED] -/
def finishAbort (g : Nat) (s : State) : State :=
  let s := dropRecords s g
  match barLaunch s g with
  | none => s
  | some id =>
    let p := s.part g
    let s := revertLaunch g id s
    if g < 2 ^ 80 then
      let s := shrinkUnits (quarantineAbort s g p.members) g
      let s := s.modLaunch id (fun l =>
        if p.switchAbort then l else { l with aborts := l.aborts + 1, consec := l.consec + 1 })
      match Map.get? s.launches id with
      | none => s
      | some l =>
        if p.frozenHold then holdOrResume (s.setLaunch id { l with runFault := none }) g true
        else if p.switchAbort = false ∧ retryEnds l then endLaunch s id 4
        else
          let s := s.setLaunch id { l with runFault := none }
          if (s.part g).members.isEmpty then endLaunch s id 0 else holdOrResume s g true
    else
      match Map.get? s.launches id with
      | none => s
      | some l =>
        let s := quarantineAbort s g p.members
        let s := s.modPart g (fun p => { p with bar := .running, members := [] })
        let s := s.setLaunch id (if p.switchAbort then l else { l with consec := l.consec + 1 })
        if p.frozenHold then s.modPart g (fun p => { p with held := true }) else runAgain g id s

/-- REPORT_DONE (R267): when all are in, the boundary ends. -/
def reportDone (g who : Nat) (s : State) : State :=
  let s := s.modPart g (fun p => { p with undone := p.undone.filter (fun w => w != who) })
  let p := s.part g
  if p.undone.isEmpty then match p.bar with
    | .committing => finishCommit g s
    | .aborting => finishAbort g s
    | _ => s
  else s

/-- REPORT_DONE (R267). -/
def execReportDone (part who : Nat) (s : State) : Host.Outcome State Fault Refusal := runE (reportDone part who) s

/-- RESUME_BROADCAST: the tile may issue; events of the interval since the outcome take their place (R267, R279). -/
def resumeTile (k : Nat) (s : State) : State :=
  let l := (s.tile k).step.deferred
  let s := s.modStep k (fun st => { st with bound := false, settled := false, deferred := [], badLines := st.badLater.foldl insertNat st.badLines, badLater := [] })
  let s := l.foldl (fun s e => if e.2 = 0 then raiseEvent s k e.1 else raiseForced s k e.1 e.2) s
  if linkStuck s (tileDie k / 8) then raiseForced s k 0x21 1 else s

/-- RESUME_BROADCAST (R267). -/
def execResumeBroadcast (die tile : Nat) (s : State) : Host.Outcome State Fault Refusal :=
  runE (resumeTile (tileKey die tile)) s

/-! ### Launches that are ended at once (R288, R431) -/

/-- A launch is ended at once with a status: where `back`, memory returns to the last commit as an abort restores it, unless a controller has
marked the superstep irrevocable; records and broadcasts of its barrier are dropped (R288, R327, R431). [log 42 DEDUCED] -/
def cutLaunch (back : Bool) (status key : Nat) (l : Launch) (s : State) : State :=
  let g := if blockField l.block 20 1 = 2 then l.part else implicitKey key
  let tiles := s.tilesOf key
  let running := decide (l.phase = .running)
  let s := if running then s.dies.foldl (fun s e =>
      let x := s.die e.1
      let k := tctxField (s.tctx e.1 l.fn) 40 1
      let s := if !back || x.irrevocable.any (fun r => decide (r.1 = g)) then s
        else (x.undo.filter (fun r => decide (r.part = g))).foldl (replayRec e.1 k) s
      s.modDie e.1 (clearLog g)) s
    else s
  let gone (e : Instr) : Bool := match e with
    | .commit d t | .abort d t | .resumeBroadcast d t | .workUnitStart d t => tiles.contains (tileKey d t)
    | .controllerCommit h _ | .controllerAbort h _ => decide (h = g)
    | .reportDone h _ => decide (h = g)
    | .dispatchCheck h | .unitPlace h | .conLaunchStart h => decide (h = key)
    | _ => false
  let s := if running then nextGen (dropRecords { s with pending := s.pending.filter (fun e => !gone e) } g) g else s
  let s := s.modModl l.modl (fun x => { x with
    heldLaunches := x.heldLaunches.map (fun (e : Nat × List Nat) => (e.1, e.2.filter (fun k => k != key))) })
  let s := if decide (l.phase = .held) then s.post (.ringScanResume l.modl l.fn l.ring) else s
  endLaunch s key status

/-- The launches of a job that has no checkpoint end UNRECOVERABLE; its partitions are free again (R288). [log 32 DEDUCED] -/
def endUnrecoverable (j : Nat) (s : State) : State :=
  let s := (s.launches.filter (fun e => decide (e.2.job = j) && decide (e.2.phase ≠ .ended))).foldl (fun s e => cutLaunch false 6 e.1 e.2 s) s
  let run (p : Partition) : Partition := { p with bar := .running }
  let s := { s with parts := s.parts.map (fun (e : Nat × Partition) => (e.1, if (s.job j).parts.contains e.1 then run e.2 else e.2)) }
  s.modJob j (fun x => { x with stopped := false })

end Sys2Proof.Machine
end

