-- ==== Sys2Proof/Machine/Task.lean ====
section
/-! DEFINITION. Task instructions (R200 to R203), and how continuation records become ready and are resumed (R314, R335). -/

namespace Sys2Proof.Machine

/-! ### CONT (R200, R201) -/

/-- A pointer with its die written out and no alias, so that any tile of the job resolves it alike. -/
def plainPtr (s : State) (k : Nat) (p : Word) : Word :=
  let p := if ptrDie p = 0xFFFF then ptrWithDie p (s.dieId k) else p
  match (resolveDie s k p).map (fun d => spotFor s d k (ptrOff p)) with
  | some (.spad t o) => ptrWithOff p (0x8000000000 + tileId t * 2 ^ 20 + o)
  | some (.vault t o) => ptrWithOff p (0xC000000000 + tileId t * 2 ^ 21 + o)
  | _ => p

/-- Whether a record may lie at `p`: in HBM or in a transit region. A place that does not exist is left to the access. -/
def contPlace (s : State) (k : Nat) (p : Word) : Bool :=
  match (resolveDie s k p).map (fun d => spotFor s d k (ptrOff p)) with
  | some (.spad t o) => decide (regionOf s t false o = .transit)
  | some (.vault t o) => decide (regionOf s t true o = .transit)
  | some (.control _) => false
  | _ => true

/-- Records of a partition that are ready and not resumed. -/
def readyRecords (p : Partition) : List ContRecord := p.records.filter (fun r => r.ready)

/-- CONT (R200): the record is written, and the helper yields its slot; a pair makes one record (R417). [log 18 DEDUCED] -/
def execCont (a b : BitVec 5) (s : State) : Host.Outcome State Fault Refusal :=
  runM (do
    let iw := wordOf (.cont a b)
    let k := s.curKey
    let c := s.cur.ctx
    let x := s.curCtx
    let p ← srcS a
    let mask ← srcS b
    require (decide (c ≠ 0) && x.handle.isNone && !x.holdsBinding && !inGroup s k c && decide (maskCount mask ≤ 16)) iw
    liftA (checkFmt p none)
    if ptrOff p % 64 ≠ 0 then trapM .misalign p
    if contPlace s k p = false then trapM .perm p
    if s.curTile.eng.mmas.any (fun o => o.ctx = c) then throw .retry
    match s.unit? with
    | none => illegal iw
    | some u => do
      if Config.fifoRoom ≤ (readyRecords (s.part u.part)).length then throw .retry
      let origin := x.origin.getD { tile := k, ssn := s.curTile.step.ssn }
      let next := goOn s
      let y := next.curCtx
      writeM (accAt p 0 (recordLen mask) 64 .store)
        (recordBytes y y.pc mask false origin.ssn (tileId origin.tile) (s.dieId origin.tile))
      let r : ContRecord := { loc := plainPtr s k p, origin := origin, ready := true, wait := none, frame := none, launch := u.launch }
      goneM (fun s =>
        let s := s.setCtx k c {}
        if s.idKey k ≠ k then s
        else (s.modPart u.part (fun q => { q with records := q.records ++ [r] })).post (.continuationResume u.part))) s

/-! ### TRIG and WAITP (R202, R203) -/

/-- TRIG (R202). -/
def execTrig (s : State) : Host.Outcome State Fault Refusal :=
  runM (do
    if s.cls = 2 then modS (fun s => s.modStep s.curKey (fun st => { st with trig := true }))
    else
      releaseAt 4
      modS (fun s => triggerUnit s s.curKey)) s

/-- The launch that a producer slot of a block names (R325, R334). -/
def producer (s : State) (u : WorkUnit) (i : Nat) : Option Nat :=
  match Map.get? s.launches u.launch with
  | none => none
  | some l =>
    let w := blockField l.block (48 + 8 * i) 8
    if bits w 32 1 = 1 then some (u.launch / 2 ^ 32 * 2 ^ 32 + bits w 0 32) else none

/-- Whether a launch has triggered or ended; one that has not been consumed has not (R202, R334). -/
def launchDone (s : State) (id : Nat) : Bool :=
  match Map.get? s.launches id with
  | some l => decide (l.phase = .ended) || (decide (l.phase = .running) && decide (l.trigCount = blockField l.block 12 4))
  | none => false

/-- Whether a launch has ended with a status other than OK. -/
def launchFailed (s : State) (id : Nat) : Bool :=
  match Map.get? s.launches id with
  | some l => decide (l.phase = .ended) && decide (l.status ≠ 0)
  | none => false

/-- WAITP (R203). -/
def execWaitp (d a : BitVec 5) (s : State) : Host.Outcome State Fault Refusal :=
  runM (do
    let v ← srcS a
    require (decide (v.toNat < 16)) (wordOf (.waitp d a))
    roomS d
    match s.unit? with
    | none => dstS d 0
    | some u => do
      let sel := (List.range 4).filter (fun i => v.getLsbD i)
      let ids := sel.filterMap (fun i => (producer s u i).map (fun id => (i, id)))
      if ids.any (fun e => !launchDone s e.2) then waitM .producers
      dstS d (pack ((ids.filter (fun e => launchFailed s e.2)).map (fun e => (e.1, 1))))) s

/-- WAITP_COMPLETE (R203): the context examines its producers again. -/
def execWaitpComplete (die tile ctx : Nat) (s : State) : Host.Outcome State Fault Refusal :=
  runE (wakeCtx (tileKey die tile) ctx) s

/-! ### Records that become ready and are resumed (R314, R335) -/

/-- CONTINUATION_READY: the record joins the end of its gang's FIFO. -/
def recordReady (part : Nat) (loc : Word) (s : State) : State :=
  match (s.part part).records.find? (fun r => decide (r.loc = loc)) with
  | none => s
  | some r => (s.modPart part (fun p =>
      { p with records := p.records.filter (fun x => x != r) ++ [{ r with ready := true, wait := none }] })).post
        (.continuationResume part)

/-- CONTINUATION_READY (R314). -/
def execContinuationReady (part : Nat) (rec' : BitVec 64) (s : State) : Host.Outcome State Fault Refusal :=
  runE (recordReady part rec') s

/-- Helpers of a tile on which a record may resume: IDLE, not tied, numbered no higher than HELPERS. -/
def freeHelpers (t : Tile) : List Nat :=
  match t.work with
  | none => []
  | some u => (List.range 11).filter (fun c => decide (1 ≤ c ∧ c ≤ u.helpers) && decide ((t.ctx c).st = .idle)
      && !(t.csr.books.toList.any (fun b => decide (b.tied = some c))))

/-- Helpers that are free on a tile, and on its twin. -/
def freeOn (s : State) (k : Nat) : List Nat :=
  let l := freeHelpers (s.tile k)
  match (s.tile k).twin with
  | some w => l.filter (freeHelpers (s.tile w.partner)).contains
  | none => l

/-- The tile and the helper on which the head record resumes: most free helpers, then lowest die index, then lowest TILEID; a pair takes it as one
tile (R417). -/
def resumePlace (s : State) (part : Nat) : Option (Nat × Nat) :=
  let cand := s.tiles.filterMap (fun (e : Nat × Tile) => match e.2.work with
    | some u => if u.part = part ∧ s.idKey e.1 = e.1 ∧ e.2.step.bound = false ∧ freeOn s e.1 ≠ [] then
        some (e.1, (freeOn s e.1).length, s.dieId e.1) else none
    | none => none)
  let best := cand.foldl (fun (acc : Option (Nat × Nat × Nat)) e => match acc with
    | none => some e
    | some b => if b.2.1 < e.2.1 ∨ (b.2.1 = e.2.1 ∧ (e.2.2 < b.2.2 ∨ (e.2.2 = b.2.2 ∧ tileId e.1 < tileId b.1))) then some e
      else some b) none
  best.bind (fun b => (freeOn s b.1).head?.map (fun c => (b.1, c)))

/-- A loop level from the eight bytes of a record or a frame (R27). -/
def levelOf (w : Word) : LoopLevel := { len := w.extractLsb' 54 10, start := w.extractLsb' 32 22, count := w.extractLsb' 0 32 }

/-- The context that a record holds (R201). -/
def recordCtx (bs : List Byte) (origin : Origin) : Ctx :=
  let f (o n : Nat) : Nat := descField bs o n
  let mask : Word := BitVec.ofNat 64 (f 8 8)
  let vecs := (List.range 32).filter (fun i => mask.getLsbD (32 + i))
  let scalars := (List.range 32).filter (fun i => mask.getLsbD i)
  let base := 192 + 64 * vecs.length
  let x : Ctx := {
    st := .live, pc := BitVec.ofNat 64 (f 0 8), liveMask := mask, origin := some origin
    loops := Vector.ofFn (fun i : Fin 4 => levelOf (BitVec.ofNat 64 (f (16 + 8 * i.val) 8)))
    frm := BitVec.ofNat 8 (f 48 1), qmap := BitVec.ofNat 8 (f 49 1), depth := min 4 (f 50 1)
    tstat := BitVec.ofNat 12 (bits (f 51 1) 0 1 * 2), rptidx := BitVec.ofNat 14 (f 52 4)
    k := Vector.ofFn (fun i : Fin 8 => if i.val = 0 then 0 else BitVec.ofNat 16 (f (64 + 2 * i.val) 2))
    scopes := Vector.ofFn (fun i : Fin 32 => if i.val < 5 then 0 else BitVec.ofNat 32 (f (80 + 4 * (i.val - 5)) 4)) }
  let x := (indexed 0 vecs).foldl (fun x e => x.setV (BitVec.ofNat 5 e.2) (BitVec.ofNat 512 (f (192 + 64 * e.1) 64))) x
  (indexed 0 scalars).foldl (fun x e => x.setS (BitVec.ofNat 5 e.2) (BitVec.ofNat 64 (f (base + 8 * e.1) 8))) x

/-- What the hardware does for a tile of a pair apart from its instructions is compared with nothing (R417). [log 35 DEDUCED] -/
def alone {α : Type} (k : Nat) (f : State → State × α) (s : State) : State × α :=
  let r := f (s.modTile k (fun t => { t with twin := none }))
  (r.1.modTile k (fun t => { t with twin := (s.tile k).twin }), r.2)

/-- A resumed context that was inside a repeat frame goes on at its replay (R86, R87); a wait is given back, with the page that it is for, if any. -/
def resumeFrame (s : State) : State × Option (Option PageWait) :=
  let x := s.curCtx
  if x.tstat.getLsbD 1 = false then (s, none)
  else
    let m : M Unit := do
      let r ← fetchM x.pc
      require (decide (bits r.toNat 26 6 = 0x0F) && decide (bits r.toNat 0 4 = 0)) r
      let ws ← captureFrame x.pc r
      let i := bits x.rptidx.toNat 8 6
      let j := bits x.rptidx.toNat 0 4
      require (decide (i < bits r.toNat 16 6 + 1 ∧ j < ws.length)) r
      enterFrame x.pc r ws i j
    match m { s := s } with
    | .ok _ w => (w.s, none)
    | .error (.trap c v) w => (takeTrap w.s c v, none)
    | .error (.contain c v _) w => (containCtx w.s w.s.curKey w.s.cur.ctx c v false, none)
    | .error (.refer ws _ _) w => (w.s, some ws.head?)
    | .error _ w => (w.s, some none)

/-- The bytes of a record: its header first, for its live mask, and then the whole. -/
def readRecord (r : Requester) (loc : Word) : A (List Byte) := do
  let h ← readRaw r (accAt loc 0 16 64 .load)
  readRaw r (accAt loc 0 (recordLen (BitVec.ofNat 64 (descField h 8 8))) 64 .load)

/-- The tiles of a pair, or the tile alone. -/
def bothTiles (s : State) (k : Nat) : List Nat :=
  match (s.tile k).twin with
  | some w => [k, w.partner]
  | none => [k]

/-- Helper `c` of each tile of a list becomes `x` and goes on; a wait for its code is given back. -/
def loadHelpers (c : Nat) (x : Ctx) : List Nat → State → State × Option (Option PageWait)
  | [], s => (s, none)
  | k :: l, s => match alone k resumeFrame (asCtx (s.setCtx k c x) k c) with
    | (s, none) => loadHelpers c x l s
    | (s, some w) => (s, some w)

/-- CONTINUATION_RESUME (R335): the head ready record is loaded on a free helper, at a pair on both tiles, with its places in groups; its frame
becomes free. A record that cannot be read yet waits again; one that cannot be read at all leaves its helper with that trap. [log 24 DEDUCED] -/
def resumeRecord (part : Nat) (s : State) : State :=
  match (readyRecords (s.part part)).head?, resumePlace s part with
  | some r, some (k, c) =>
    let ks := bothTiles s k
    let take (s : State) : State := renameMember s part (recordMember r.loc) (groupMember k c)
    let back (s : State) : State := renameMember s part (groupMember k c) (recordMember r.loc)
    let drop (s : State) : State :=
      let s := s.modPart part (fun p => { p with records := p.records.filter (fun x => x != r) })
      match r.frame with
      | some f => s.modLaunch r.launch (fun l => { l with frames := removeNat l.frames f })
      | none => s
    let trapped (s : State) : State := ks.foldl (fun s k => s.setCtx k c { st := .live, origin := some r.origin }) (take (drop s))
    let again (s : State) (w : PageWait) : State := s.modPart part (fun p => { p with records := p.records.map (fun x =>
      if x = r then { x with ready := false, wait := some (w.die, w.fn, w.stage, w.tag), addr := w.addr, refused := false }
      else x) })
    let read : A (List Byte) := if r.refused ∧ r.addr = r.loc then trapA .page r.loc
      else readRecord { tile := k, ctx := c, engine := true } r.loc
    match read s with
    | .ok bs s => match loadHelpers c { recordCtx bs r.origin with refused := if r.refused then [r.addr] else [] } ks (take s) with
      | (s, none) => drop s
      | (s, some w) =>
        let s := back (ks.foldl (fun s k => s.setCtx k c {}) s)
        match w with
        | some w => again s w
        | none => s.post (.continuationResume part)
    | .error (.refer w) s => again s w
    | .error (.trap e v) s => ks.foldl (fun s k => takeTrapAt s k c e v 0 false) (trapped s)
    | .error (.contain e v) s => ks.foldl (fun s k => containCtx s k c e v false) (trapped s)
    | .error .stall s | .error (.queue _) s => s.post (.continuationResume part)
    | .error .never s => s
  | _, _ => s

/-- CONTINUATION_RESUME (R335). -/
def execContinuationResume (part : Nat) (s : State) : Host.Outcome State Fault Refusal := runE (resumeRecord part) s

end Sys2Proof.Machine
end

