-- ==== Sys2Proof/Machine/Book.lean ====
section
/-! DEFINITION. Helpers (R228 to R231) and the Sumac calendar (R232 to R235, R337 to R343). -/

namespace Sys2Proof.Machine

/-! ### START and HWAIT (R228, R229, R231) -/

/-- Whether a helper is tied to a booking (R230). -/
def tied (t : Tile) (c : Nat) : Bool := t.csr.books.toList.any (fun b => decide (b.tied = some c))

/-- The helper that START and START.B choose: `h`, or the lowest free one (R229). -/
def chooseHelper (t : Tile) (h : Nat) : Option Nat :=
  if h = 0 then (freeHelpers t).head? else if (freeHelpers t).contains h then some h else none

/-- A helper at its start: R15, with its target, arguments and live mask (R229). -/
def startCtx (control : Ctx) (pc x y mask : Word) : Ctx :=
  let c : Ctx := { st := .live, pc := pc, frm := control.frm, scopes := control.scopes, liveMask := mask }
  (c.setS 1 x).setS 2 y

/-- The fields and operands of START and START.B (R228, R229): target, arguments, live mask. -/
def startForm (d a b : BitVec 5) (h : BitVec 4) (iw : Word32) : M (Word × Word × Word × Word) := do
  let s ← getS
  let x := s.curCtx
  let helpers := match s.unit? with
    | some u => u.helpers
    | none => 0
  require (decide (h.toNat ≤ 10 ∧ h.toNat ≤ helpers) && !b.getLsbD 0 && (queueOf x d).isNone && (queueOf x b).isNone) iw
  controlOnly iw
  let mask ← regS d
  let p ← srcS a
  require (decide (maskCount mask ≤ 16)) iw
  if bits p.toNat 56 8 ≠ 0 then trapM .illfmt p
  if ptrOff p % 4 ≠ 0 then trapM .misalign p
  pure (p, ← regS b, ← regS (b + 1), mask)

/-- START (R229). -/
def execStart (d a b : BitVec 5) (h : BitVec 4) (s : State) : Host.Outcome State Fault Refusal :=
  runM (do
    let (p, x, y, mask) ← startForm d a b h (wordOf (.start d a b h))
    match chooseHelper s.curTile h.toNat with
    | none => setRegS d 0x0100
    | some c => do
      modS (fun s => s.setCtx s.curKey c (startCtx (s.ctx s.curKey 0) p x y mask))
      setRegS d (BitVec.ofNat 64 c)) s

/-- The handle of a tile. -/
def Tile.book (t : Tile) (h : Nat) : Booking := (t.csr.books[h]?).getD {}

/-- A handle is replaced. -/
def setBook (s : State) (k h : Nat) (b : Booking) : State :=
  s.modCsr k (fun r => { r with books := r.books.setIfInBounds h b })

/-- START.B (R230). -/
def execStartB (d a b : BitVec 5) (h n : BitVec 4) (s : State) : Host.Outcome State Fault Refusal :=
  runM (do
    let (p, x, y, mask) ← startForm d a b h (wordOf (.startB d a b h n))
    let k := s.curKey
    let e := s.curTile.book n.toNat
    match e.stat with
    | .free | .running => setRegS d 0x0300
    | .lapsed => setRegS d 0x0200
    | .booked =>
      if e.tied.isSome then setRegS d 0x0400
      else if e.start ≤ s.curTile.csr.slot then
        modS (fun s => setBook s k n.toNat { e with stat := .lapsed })
        setRegS d 0x0200
      else match chooseHelper s.curTile h.toNat with
        | none => setRegS d 0x0100
        | some c => do
          modS (fun s => setBook s k n.toNat { e with tied := some c, pc := p, arg1 := x, arg2 := y, live := mask })
          setRegS d (BitVec.ofNat 64 c)) s

/-- HWAIT (R231). -/
def execHwait (d a : BitVec 5) (s : State) : Host.Outcome State Fault Refusal :=
  runM (do
    let m ← srcS a
    let c := s.cur.ctx
    require (m &&& ~~~0x7FE#64 == 0 && !(decide (c ≠ 0) && m.getLsbD c)) (wordOf (.hwait d a))
    roomS d
    let t := s.curTile
    let named := (List.range 11).filter (fun i => m.getLsbD i)
    if named.any (fun i => decide ((t.ctx i).st = .live) || tied t i) then waitM (.helpers (m.setWidth 11))
    dstS d (pack ((named.filter (fun i => decide ((t.ctx i).st = .faulted))).map (fun i => (i, 1))))) s

/-- HWAIT_COMPLETE (R231): the context examines its helpers again. -/
def execHwaitComplete (die tile ctx : Nat) (s : State) : Host.Outcome State Fault Refusal :=
  runE (wakeCtx (tileKey die tile) ctx) s

/-! ### The calendar (R232, R337 to R339) -/

/-- Fields of a booking's size (R232). -/
def bkDur (size : Word) : Nat := bits size.toNat 0 7
def bkBytes (size : Word) : Nat := bits size.toNat 8 24
def bkVq (size : Word) : Nat := bits size.toNat 32 2

/-- The units and banks of a mask, which bookings do not share (R338). -/
def bkUnits (mask : Word) : Word := mask &&& 0xFFFF1F#64

/-- Whether a handle holds resources, and holds them in slot `n` (R337). -/
def Booking.holds (b : Booking) : Bool := b.stat == .booked || b.stat == .running
def Booking.covers (b : Booking) (n : Nat) : Bool := b.holds && decide (b.start ≤ n ∧ n < b.start + bkDur b.size)

/-- The bookings of a tile that hold slot `n`, but for handle `h`. -/
def bookedIn (t : Tile) (h : Option Nat) (n : Nat) : List Booking :=
  ((indexed 0 t.csr.books.toList).filter (fun e => decide (some e.1 ≠ h) && e.2.covers n)).map (fun e => e.2)

/-- Vault quarters and link bytes of bookings. -/
def quarters (l : List Booking) : Nat := (l.map (fun b => if b.mask.getLsbD 5 then bkVq b.size + 1 else 0)).sum
def linkSum (l : List Booking) : Nat := (l.map (fun b => if b.mask.getLsbD 24 then bkBytes b.size else 0)).sum

/-- The die slots that slot `n` of a tile overlaps (R339). [log 12 DESIGN CHOICE] -/
def dieSlots (c : TileCsr) (n : Nat) : List Nat :=
  if c.aligned then [c.dieSlot0 + n] else [c.dieSlot0 + n, c.dieSlot0 + n + 1]

/-- Whether a booking of a tile is charged in die slot `m`: its window overlaps it (R339). [log 12 DESIGN CHOICE] -/
def chargedIn (c : TileCsr) (b : Booking) (m : Nat) : Bool :=
  let last := c.dieSlot0 + b.start + bkDur b.size - (if c.aligned then 1 else 0)
  b.holds && b.mask.getLsbD 24 && decide (c.dieSlot0 + b.start ≤ m ∧ m ≤ last)

/-- Link bytes that bookings of partition `p` hold in slot `m` of a die, but for handle `h` of tile `k` (R339). -/
def dieLink (s : State) (d p m k : Nat) (h : Option Nat) : Nat :=
  (s.tiles.map (fun e => match e.2.work with
    | some u => if tileDie e.1 = d ∧ u.part = p then
        ((indexed 0 e.2.csr.books.toList).map (fun b =>
          if (e.1 ≠ k ∨ some b.1 ≠ h) ∧ chargedIn e.2.csr b.2 m then bkBytes b.2.size else 0)).sum
      else 0
    | none => 0)).sum

/-- Whether slot `n` is free on tile `k` for a request, leaving handle `h` out of account (R338). -/
def slotFree (s : State) (k : Nat) (mask size : Word) (h : Option Nat) (n : Nat) : Bool :=
  let t := s.tile k
  let l := bookedIn t h n
  let part := match t.work with
    | some u => u.part
    | none => 0
  let lq := (Map.getD (s.die (tileDie k)).lq (part % 256) 0).toNat
  l.all (fun b => bkUnits b.mask &&& bkUnits mask == 0)
    && (!mask.getLsbD 5 || decide (quarters l + bkVq size + 1 ≤ 4))
    && (!mask.getLsbD 24 || (decide (linkSum l + bkBytes size ≤ 32768)
      && (dieSlots t.csr n).all (fun m => decide (dieLink s (tileDie k) part m k h + bkBytes size ≤ lq))))

/-- Whether a window of the request's length is free from slot `n`. -/
def windowFree (s : State) (k : Nat) (mask size : Word) (h : Option Nat) (n : Nat) : Bool :=
  (List.range (bkDur size)).all (fun i => slotFree s k mask size h (n + i))

/-- A request that is BADREQ (R233). -/
def badRequest (mask size : Word) : Bool :=
  mask &&& 0xFFFFFFFFFC0000C0#64 != 0 || size &&& 0xFFFFFFFC00000080#64 != 0 || mask &&& 0x1FFFFFF#64 == 0
    || decide (bkDur size = 0 ∨ 64 < bkDur size) || (mask.getLsbD 24 != decide (bkBytes size ≠ 0))
    || (decide (bkVq size ≠ 0) && !mask.getLsbD 5)

/-- The FREE handles of a tile. -/
def freeHandles (t : Tile) : List Nat := ((indexed 0 t.csr.books.toList).filter (fun e => e.2.stat == .free)).map (fun e => e.1)

/-- What BOOK answers: the handle and the start slot, or a status (R233, R338). Which FREE handle it is is a free value. [log 13 DESIGN CHOICE] -/
def bookSearch (s : State) (k : Nat) (mask size : Word) : Except Nat (Nat × Nat) :=
  let t := s.tile k
  if badRequest mask size then .error 3
  else match (freeHandles t)[pickOf s.free (freeHandles t).length]? with
    | none => .error 2
    | some h =>
      match ((List.range (65 - bkDur size)).map (fun i => t.csr.slot + 1 + i)).find? (windowFree s k mask size none) with
      | none => .error 1
      | some n => .ok (h, n)

/-- The result word of BOOK (R233). -/
def bookWord (cur handle start : Nat) : Word := pack [(18, start - cur), (12, start % 64), (8, handle)]

/-- BOOK (R233). -/
def execBook (d a b : BitVec 5) (s : State) : Host.Outcome State Fault Refusal :=
  runM (do
    controlOnly (wordOf (.book d a b))
    let mask ← srcS a
    let size ← srcS b
    roomS d
    let k := s.curKey
    match bookSearch s k mask size with
    | .error e => dstS d (BitVec.ofNat 64 e)
    | .ok (h, n) => do
      modS (fun s => setBook { s with free := s.free + 1 } k h { stat := .booked, mask := mask, size := size, start := n })
      dstS d (bookWord s.curTile.csr.slot h n)) s

/-- BOOKQ (R233). -/
def execBookq (d a b : BitVec 5) (s : State) : Host.Outcome State Fault Refusal :=
  runM (do
    controlOnly (wordOf (.bookq d a b))
    let mask ← srcS a
    let size ← srcS b
    dstS d (match bookSearch s s.curKey mask size with
      | .error e => BitVec.ofNat 64 e
      | .ok (_, n) => bookWord s.curTile.csr.slot 0 n)) s

/-- UNBOOK (R234). -/
def execUnbook (d a : BitVec 5) (s : State) : Host.Outcome State Fault Refusal :=
  runM (do
    let iw := wordOf (.unbook d a)
    controlOnly iw
    let v ← srcS a
    require (decide (v.toNat < 16)) iw
    roomS d
    match (s.curTile.book v.toNat).stat with
    | .free => dstS d 1
    | .running => dstS d 2
    | _ => do
      modS (fun s => setBook s s.curKey v.toNat {})
      dstS d 0) s

/-- The slot that CALQ reads (R235). -/
def calqSlot (cur : Nat) (v : Word) : Option Nat :=
  if 256 ≤ v.toNat then none
  else if v.getLsbD 7 then (if bits v.toNat 0 7 ≤ 64 then some (cur + bits v.toNat 0 7) else none)
  else if v.getLsbD 6 then none
  else some (cur + (v.toNat + 64 - cur % 64) % 64)

/-- CALQ (R235). -/
def execCalq (d a : BitVec 5) (s : State) : Host.Outcome State Fault Refusal :=
  runM (do
    let iw := wordOf (.calq d a)
    let v ← srcS a
    match calqSlot s.curTile.csr.slot v with
    | none => illegal iw
    | some n =>
      let l := bookedIn s.curTile none n
      let mask := l.foldl (fun (m : Word) b => m ||| b.mask) 0
      let q := quarters l
      dstS d (pack [(0, bits mask.toNat 0 24), (24, decide (linkSum l ≠ 0) |>.toNat), (25, if q = 0 then 0 else q - 1),
        (32, linkSum l % 2 ^ 24)])) s

/-! ### Slot boundaries (R340, R341) -/

/-- A booked helper ends by OVERRUN of subcause `sub`: what it waits for is given up, and accesses that have not begun are withdrawn (R342). -/
def overrunHelper (k c h sub : Nat) (s : State) : State :=
  let ws := match (s.ctx k c).wait with
    | some (.pages ws _ _) => ws
    | _ => []
  trapWaiting (giveUp s k ws) k c .overrun (overrunVal 0xFF h sub)

/-- RUNNING bookings whose last slot was `b` − 1: a helper still LIVE takes OVERRUN subcause 2. -/
def endBookings (k b : Nat) (s : State) : State :=
  (List.range 16).foldl (fun s h =>
    let e := (s.tile k).book h
    if e.stat = .running ∧ e.start + bkDur e.size ≤ b then
      match e.tied with
      | some c => if (s.ctx k c).st = .live ∧ (s.ctx k c).handle = some h then
          overrunHelper k c h 2 s
        else setBook s k h {}
      | none => setBook s k h {}
    else s) s

/-- Handles that are BOOKED and not FIXED, by start slot and then number. -/
def movable (t : Tile) : List Nat :=
  let l := (List.range 16).filter (fun h => (t.book h).stat == .booked && !(t.book h).mask.getLsbD 25)
  let insert (l : List Nat) (h : Nat) : List Nat :=
    l.takeWhile (fun j => decide ((t.book j).start ≤ (t.book h).start)) ++ [h]
      ++ l.dropWhile (fun j => decide ((t.book j).start ≤ (t.book h).start))
  l.foldl insert []

/-- Compaction at boundary `b` (R341). -/
def compact (k b : Nat) (s : State) : State :=
  ((movable (s.tile k)).foldl (fun (acc : State × Nat) h =>
    let e := (acc.1.tile k).book h
    let lo := max acc.2 (if e.tied.isSome then b else b + 1)
    let n := (((List.range (e.start - lo + 1)).map (fun i => lo + i)).find? (fun n =>
      decide (n ≤ e.start) && windowFree acc.1 k e.mask e.size (some h) n)).getD e.start
    (setBook acc.1 k h { e with start := n }, n)) (s, 0)).1

/-- BOOKED bookings with start slot `b` lapse, or start their helpers (R230, R340). -/
def startBookings (k b : Nat) (s : State) : State :=
  (List.range 16).foldl (fun s h =>
    let e := (s.tile k).book h
    if e.stat = .booked ∧ e.start ≤ b then
      match e.tied with
      | none => setBook s k h { e with stat := .lapsed }
      | some c =>
        let x := startCtx (s.ctx k 0) e.pc e.arg1 e.arg2 e.live
        (setBook s k h { e with stat := .running, injected := 0 }).setCtx k c { x with handle := some h }
    else s) s

/-- A tile that runs no test kernel takes the set that IMAGE gave last (R436). -/
def takeKernels (k : Nat) (s : State) : State :=
  let set := (s.modl (tileDie k / 8)).kernels
  if (s.tile k).testKernel ∨ (s.tile k).kernels = set then s else s.modTile k (fun t => { t with kernels := set })

/-- SLOT_BOUNDARY (R340): the slot advances; bookings end, move, lapse and start in that order, and each budget of link bytes
begins afresh. A tile between an outcome and its resume broadcast holds no bookings. A new test kernel set is taken (R436). -/
def slotBoundary (k : Nat) (s : State) : State :=
  let s := takeKernels k s
  match (s.tile k).work with
  | none => s
  | some _ =>
    let b := (s.tile k).csr.slot + 1
    let s := s.modCsr k (fun r => { r with slot := b, books := mapV r.books (fun e => { e with injected := 0 }) })
    startBookings k b (compact k b (endBookings k b s))

/-- SLOT_BOUNDARY (R340). -/
def execSlotBoundary (die tile : Nat) (s : State) : Host.Outcome State Fault Refusal :=
  runE (slotBoundary (tileKey die tile)) s

/-- OVERRUN_LATENCY (R342): accesses of a waiting booked helper that have not begun are withdrawn, one that has begun is still
performed; it takes subcause 4 if it waits on another tile's memory or on a fetch. -/
def overrunLatency (k c : Nat) (s : State) : State :=
  let x := s.ctx k c
  match x.handle, x.wait with
  | some h, some _ => overrunHelper k c h 4 s
  | _, _ => s

/-- OVERRUN_LATENCY (R342). -/
def execOverrunLatency (die tile ctx : Nat) (s : State) : Host.Outcome State Fault Refusal :=
  runE (overrunLatency (tileKey die tile) ctx) s

end Sys2Proof.Machine
end

