-- ==== Sys2Proof/Machine/Crypto.lean ====
section
/-! DEFINITION. The cryptographic standards that the spec names (R394, R434 to R439): SHA-384 (FIPS 180-4), AES-256 (FIPS 197) with XTS (IEEE 1619) and key wrap
(RFC 3394), ECDSA and ECDH over brainpoolP384r1 (RFC 5639). The spec names them and does not restate them: what stands here is PRESUMED from the standards.
[log 84 PRESUMED] -/

namespace Sys2Proof.Machine

/-! ### SHA-384 (FIPS 180-4) -/

/-- A number, from its bytes with the highest first. -/
def beNat (bs : List Byte) : Nat := bs.foldl (fun n b => n * 256 + b.toNat) 0

/-- `n` bytes of a number, the highest first. -/
def beBytes (n x : Nat) : List Byte := (List.range n).map (fun i => BitVec.ofNat 8 (x / 256 ^ (n - 1 - i)))

/-- The constants of the rounds of SHA-384. -/
def shaK : List Word :=
  [0x428A2F98D728AE22, 0x7137449123EF65CD, 0xB5C0FBCFEC4D3B2F, 0xE9B5DBA58189DBBC,
   0x3956C25BF348B538, 0x59F111F1B605D019, 0x923F82A4AF194F9B, 0xAB1C5ED5DA6D8118,
   0xD807AA98A3030242, 0x12835B0145706FBE, 0x243185BE4EE4B28C, 0x550C7DC3D5FFB4E2,
   0x72BE5D74F27B896F, 0x80DEB1FE3B1696B1, 0x9BDC06A725C71235, 0xC19BF174CF692694] ++
  [0xE49B69C19EF14AD2, 0xEFBE4786384F25E3, 0x0FC19DC68B8CD5B5, 0x240CA1CC77AC9C65,
   0x2DE92C6F592B0275, 0x4A7484AA6EA6E483, 0x5CB0A9DCBD41FBD4, 0x76F988DA831153B5,
   0x983E5152EE66DFAB, 0xA831C66D2DB43210, 0xB00327C898FB213F, 0xBF597FC7BEEF0EE4,
   0xC6E00BF33DA88FC2, 0xD5A79147930AA725, 0x06CA6351E003826F, 0x142929670A0E6E70] ++
  [0x27B70A8546D22FFC, 0x2E1B21385C26C926, 0x4D2C6DFC5AC42AED, 0x53380D139D95B3DF,
   0x650A73548BAF63DE, 0x766A0ABB3C77B2A8, 0x81C2C92E47EDAEE6, 0x92722C851482353B,
   0xA2BFE8A14CF10364, 0xA81A664BBC423001, 0xC24B8B70D0F89791, 0xC76C51A30654BE30,
   0xD192E819D6EF5218, 0xD69906245565A910, 0xF40E35855771202A, 0x106AA07032BBD1B8] ++
  [0x19A4C116B8D2D0C8, 0x1E376C085141AB53, 0x2748774CDF8EEB99, 0x34B0BCB5E19B48A8,
   0x391C0CB3C5C95A63, 0x4ED8AA4AE3418ACB, 0x5B9CCA4F7763E373, 0x682E6FF3D6B2B8A3,
   0x748F82EE5DEFB2FC, 0x78A5636F43172F60, 0x84C87814A1F0AB72, 0x8CC702081A6439EC,
   0x90BEFFFA23631E28, 0xA4506CEBDE82BDE9, 0xBEF9A3F7B2C67915, 0xC67178F2E372532B] ++
  [0xCA273ECEEA26619C, 0xD186B8C721C0C207, 0xEADA7DD6CDE0EB1E, 0xF57D4F7FEE6ED178,
   0x06F067AA72176FBA, 0x0A637DC5A2C898A6, 0x113F9804BEF90DAE, 0x1B710B35131C471B,
   0x28DB77F523047D84, 0x32CAAB7B40C72493, 0x3C9EBE0A15C9BEBC, 0x431D67C49C100D4C,
   0x4CC5D4BECB3E42B6, 0x597F299CFC657E2A, 0x5FCB6FAB3AD6FAEC, 0x6C44198C4A475817]

/-- The working variables of a hash. -/
structure Sha where
  a : Word
  b : Word
  c : Word
  d : Word
  e : Word
  f : Word
  g : Word
  h : Word
  deriving DecidableEq, Repr

/-- The initial hash value of SHA-384. -/
def shaInit : Sha :=
  { a := 0xCBBB9D5DC1059ED8, b := 0x629A292A367CD507, c := 0x9159015A3070DD17, d := 0x152FECD8F70E5939
    e := 0x67332667FFC00B31, f := 0x8EB44A8768581511, g := 0xDB0C2E0D64F98FA7, h := 0x47B5481DBEFA4FA4 }

/-- One round, with its constant and word of the schedule. -/
def Sha.round (x : Sha) (kw : Word × Word) : Sha :=
  let s1 := x.e.rotateRight 14 ^^^ x.e.rotateRight 18 ^^^ x.e.rotateRight 41
  let ch := (x.e &&& x.f) ^^^ (~~~x.e &&& x.g)
  let t1 := x.h + s1 + ch + kw.1 + kw.2
  let s0 := x.a.rotateRight 28 ^^^ x.a.rotateRight 34 ^^^ x.a.rotateRight 39
  let maj := (x.a &&& x.b) ^^^ (x.a &&& x.c) ^^^ (x.b &&& x.c)
  { a := t1 + (s0 + maj), b := x.a, c := x.b, d := x.c, e := x.d + t1, f := x.e, g := x.f, h := x.g }

/-- The schedule of a block, newest word first, after 16 + `n` words. -/
def shaSchedule (block : List Word) : Nat → List Word
  | 0 => block.reverse
  | n + 1 =>
    let w := shaSchedule block n
    let at' (i : Nat) : Word := (w[i]?).getD 0
    let s0 (x : Word) : Word := x.rotateRight 1 ^^^ x.rotateRight 8 ^^^ x >>> 7
    let s1 (x : Word) : Word := x.rotateRight 19 ^^^ x.rotateRight 61 ^^^ x >>> 6
    (s1 (at' 1) + at' 6 + s0 (at' 14) + at' 15) :: w

/-- A block of 128 bytes joins the hash. -/
def Sha.block (x : Sha) (bs : List Byte) : Sha :=
  let words := (List.range 16).map (fun i => BitVec.ofNat 64 (beNat ((bs.drop (8 * i)).take 8)))
  let y := (shaK.zip (shaSchedule words 64).reverse).foldl Sha.round x
  { a := x.a + y.a, b := x.b + y.b, c := x.c + y.c, d := x.d + y.d, e := x.e + y.e, f := x.f + y.f, g := x.g + y.g, h := x.h + y.h }

/-- The blocks of a padded message, `n` of them. -/
def shaBlocks : Nat → List Byte → Sha → Sha
  | 0, _, x => x
  | n + 1, bs, x => shaBlocks n (bs.drop 128) (x.block (bs.take 128))

/-- SHA-384 of bytes, 48 bytes. [log 84 PRESUMED] -/
def sha384 (bs : List Byte) : List Byte :=
  let padded := bs ++ [0x80] ++ List.replicate ((239 - bs.length % 128) % 128) 0 ++ beBytes 16 (8 * bs.length)
  let x := shaBlocks (padded.length / 128) padded shaInit
  [x.a, x.b, x.c, x.d, x.e, x.f].flatMap (fun w => beBytes 8 w.toNat)

/-! ### AES-256 (FIPS 197) -/

/-- The product with x in the field of AES. -/
def xtime (b : Byte) : Byte := (b <<< 1) ^^^ (if b.msb then 0x1B else 0)

/-- The product in the field of AES. -/
def gfMul (a b : Byte) : Byte :=
  ((List.range 8).foldl (fun (acc : Byte × Byte) i => (if b.getLsbD i then acc.1 ^^^ acc.2 else acc.1, xtime acc.2)) (0, a)).1

/-- The inverse in the field of AES, 0 for 0: the power 254. -/
def gfInv (b : Byte) : Byte :=
  ((List.range 7).foldl (fun (acc : Byte × Byte) _ => (gfMul acc.1 acc.2, gfMul acc.2 acc.2)) (1, gfMul b b)).1

/-- The substitution of a byte. -/
def subByte (b : Byte) : Byte :=
  let x := gfInv b
  x ^^^ x.rotateLeft 1 ^^^ x.rotateLeft 2 ^^^ x.rotateLeft 3 ^^^ x.rotateLeft 4 ^^^ 0x63

/-- The inverse substitution of a byte. -/
def invSubByte (b : Byte) : Byte := gfInv (b.rotateLeft 1 ^^^ b.rotateLeft 3 ^^^ b.rotateLeft 6 ^^^ 0x05)

/-- Bytes combined by exclusive or. -/
def xorBytes (a b : List Byte) : List Byte := List.zipWith (fun x y => x ^^^ y) a b

/-- The first 8 + `n` words of a key schedule, newest first, each of 4 bytes. -/
def aesWords (key : List Byte) : Nat → List (List Byte)
  | 0 => ((List.range 8).map (fun i => (key.drop (4 * i)).take 4)).reverse
  | n + 1 =>
    let w := aesWords key n
    let last := (w.head?).getD []
    let rcon := (List.range (n / 8)).foldl (fun b _ => xtime b) (1 : Byte)
    let t := if n % 8 = 0 then xorBytes ((last.drop 1 ++ last.take 1).map subByte) [rcon, 0, 0, 0]
      else if n % 8 = 4 then last.map subByte else last
    xorBytes ((w[7]?).getD []) t :: w

/-- The 15 round keys of a key of 32 bytes. -/
def aesKeys (key : List Byte) : List (List Byte) :=
  let w := (aesWords key 52).reverse.flatten
  (List.range 15).map (fun i => (w.drop (16 * i)).take 16)

/-- The bytes of a block by place: row `i % 4`, column `i / 4`; row `r` moves by `step × r` columns. -/
def moveRows (step : Nat) (b : List Byte) : List Byte :=
  (List.range 16).map (fun i => (b[(i + 4 * step * (i % 4)) % 16]?).getD 0)

/-- Each column is multiplied by the circulant of four coefficients. -/
def mixColumns (m : List Byte) (b : List Byte) : List Byte :=
  (List.range 16).map (fun i => (List.range 4).foldl (fun acc j =>
    acc ^^^ gfMul ((m[(j + 4 - i % 4) % 4]?).getD 0) ((b[i / 4 * 4 + j]?).getD 0)) 0)

/-- AES-256 of a block of 16 bytes. [log 84 PRESUMED] -/
def aesEnc (key b : List Byte) : List Byte :=
  let ks := aesKeys key
  let rk (i : Nat) : List Byte := (ks[i]?).getD []
  let b := (List.range 13).foldl (fun b i => xorBytes (mixColumns [2, 3, 1, 1] (moveRows 1 (b.map subByte))) (rk (i + 1))) (xorBytes b (rk 0))
  xorBytes (moveRows 1 (b.map subByte)) (rk 14)

/-- The inverse of AES-256. [log 84 PRESUMED] -/
def aesDec (key b : List Byte) : List Byte :=
  let ks := aesKeys key
  let rk (i : Nat) : List Byte := (ks[i]?).getD []
  let b := (List.range 13).foldl (fun b i =>
    mixColumns [14, 11, 13, 9] (xorBytes ((moveRows 3 b).map invSubByte) (rk (13 - i)))) (xorBytes b (rk 14))
  xorBytes ((moveRows 3 b).map invSubByte) (rk 0)

/-! ### XTS and key wrap (IEEE 1619, RFC 3394) -/

/-- The next tweak of a data unit: the product with x, low byte first. -/
def xtsNext (t : List Byte) : List Byte :=
  let n := 2 * natOfBytes t
  bytesOfNat 16 (if 2 ^ 128 ≤ n then Nat.xor (n % 2 ^ 128) 0x87 else n)

/-- Blocks of a data unit under a running tweak. -/
def xtsBlocks (key : List Byte) : Nat → List Byte → List Byte → List Byte
  | 0, _, _ => []
  | n + 1, t, bs => xorBytes (aesEnc key (xorBytes (bs.take 16) t)) t ++ xtsBlocks key n (xtsNext t) (bs.drop 16)

/-- AES-256-XTS of a data unit of whole blocks, with its tweak; the key is two keys of 32 bytes. [log 84 PRESUMED] -/
def xtsEnc (key : List Byte) (tweak : Nat) (bs : List Byte) : List Byte :=
  xtsBlocks (key.take 32) (bs.length / 16) (aesEnc (key.drop 32) (bytesOfNat 16 tweak)) bs

/-- The steps of a key wrap: the integrity register, and the four halves of a key of 32 bytes. [log 84 PRESUMED] -/
def keyWrap (kek key : List Byte) : List Byte :=
  let r0 := (List.range 4).map (fun i => (key.drop (8 * i)).take 8)
  let step (acc : List Byte × List (List Byte)) (t : Nat) : List Byte × List (List Byte) :=
    let i := t % 4
    let b := aesEnc kek (acc.1 ++ (acc.2[i]?).getD [])
    (xorBytes (b.take 8) (beBytes 8 (t + 1)), acc.2.set i (b.drop 8))
  let (a, r) := (List.range 24).foldl step (List.replicate 8 0xA6, r0)
  a ++ r.flatten

/-- A key of 32 bytes is unwrapped; none where the integrity check fails. [log 84 PRESUMED] -/
def keyUnwrap (kek bs : List Byte) : Option (List Byte) :=
  let r0 := (List.range 4).map (fun i => (bs.drop (8 + 8 * i)).take 8)
  let step (acc : List Byte × List (List Byte)) (t : Nat) : List Byte × List (List Byte) :=
    let i := (23 - t) % 4
    let b := aesDec kek (xorBytes acc.1 (beBytes 8 (24 - t)) ++ (acc.2[i]?).getD [])
    (b.take 8, acc.2.set i (b.drop 8))
  let (a, r) := (List.range 24).foldl step (bs.take 8, r0)
  if a = List.replicate 8 0xA6 then some r.flatten else none

/-! ### brainpoolP384r1 (RFC 5639) -/

/-- The prime of the field. -/
def curveP : Nat := 0x8CB91E82A3386D280F5D6F7E50E641DF152F7109ED5456B412B1DA197FB71123ACD3A729901D1A71874700133107EC53
/-- The coefficient A. -/
def curveA : Nat := 0x7BC382C63D8C150C3C72080ACE05AFA0C2BEA28E4FB22787139165EFBA91F90F8AA5814A503AD4EB04A8C7DD22CE2826
/-- The coefficient B. -/
def curveB : Nat := 0x04A8C7DD22CE28268B39B55416F0447C2FB77DE107DCD2A62E880EA53EEB62D57CB4390295DBC9943AB78696FA504C11
/-- The order of the base point. -/
def curveN : Nat := 0x8CB91E82A3386D280F5D6F7E50E641DF152F7109ED5456B31F166E6CAC0425A7CF3AB6AF6B7FC3103B883202E9046565
/-- A point; none is the point at infinity. -/
abbrev Point := Option (Nat × Nat)
/-- The base point. -/
def curveG : Point := some
  (0x1D1C64F068CF45FFA2A63A81B7C13F6B8847A3E77EF14FE3DB7FCAFE0CBD10E8E826E03436D646AAEF87B2E247D4AF1E,
   0x8ABE1D7520F9C2A45CB1EB8E95CFD55262B70B29FEEC5864E19C054FF99129280E4646217791811142820341263C5315)

/-- A power modulo `m`, with as many bits of the exponent as there is fuel. -/
def powMod (m : Nat) : Nat → Nat → Nat → Nat
  | 0, _, _ => 1 % m
  | n + 1, b, e => let r := powMod m n (b * b % m) (e / 2)
                   if e % 2 = 1 then b * r % m else r

/-- The inverse modulo a prime below 2^384. -/
def invMod (m a : Nat) : Nat := powMod m 384 (a % m) (m - 2)

/-- A difference modulo `m`. -/
def subMod (m a b : Nat) : Nat := (a + (m - b % m)) % m

/-- The sum of two points. -/
def ecAdd (x y : Point) : Point :=
  match x, y with
  | none, y => y
  | x, none => x
  | some (x1, y1), some (x2, y2) =>
    if x1 = x2 ∧ (y1 + y2) % curveP = 0 then none
    else
      let l := if x1 = x2 then (3 * x1 * x1 + curveA) * invMod curveP (2 * y1) % curveP
        else subMod curveP y2 y1 * invMod curveP (subMod curveP x2 x1) % curveP
      let x3 := subMod curveP (l * l) (x1 + x2)
      some (x3, subMod curveP (l * subMod curveP x1 x3) y1)

/-- A multiple of a point, with as many bits of the factor as there is fuel. -/
def ecMul : Nat → Nat → Point → Point
  | 0, _, _ => none
  | n + 1, k, x => let y := ecMul n (k / 2) (ecAdd x x)
                   if k % 2 = 1 then ecAdd x y else y

/-- The public half of a private key. [log 84 PRESUMED] -/
def publicKey (d : Nat) : Point := ecMul 384 d curveG

/-- A public key as an uncompressed point, 97 bytes (R395). -/
def pointBytes (x : Point) : List Byte := [0x04] ++ beBytes 48 ((x.map (fun e => e.1)).getD 0) ++ beBytes 48 ((x.map (fun e => e.2)).getD 0)

/-- The point that 97 bytes name, if it lies on the curve. -/
def pointOf (bs : List Byte) : Point :=
  let x := beNat ((bs.drop 1).take 48)
  let y := beNat ((bs.drop 49).take 48)
  if bs.head? = some 0x04 ∧ x < curveP ∧ y < curveP ∧ y * y % curveP = (x * x * x + curveA * x + curveB) % curveP then some (x, y) else none

/-- An ECDSA signature with SHA-384 under a private key and a nonce: r, then s, 48 bytes each (R394, R434). [log 84 PRESUMED] -/
def ecdsaSign (d nonce : Nat) (bs : List Byte) : List Byte :=
  let r := ((ecMul 384 nonce curveG).map (fun e => e.1)).getD 0 % curveN
  let s := invMod curveN nonce * (beNat (sha384 bs) + r * d) % curveN
  beBytes 48 r ++ beBytes 48 s

/-- Whether an ECDSA signature of bytes verifies under a public key. [log 84 PRESUMED] -/
def ecdsaVerify (key : Point) (bs sig : List Byte) : Bool :=
  let r := beNat (sig.take 48)
  let s := beNat ((sig.drop 48).take 48)
  let w := invMod curveN s
  let x := ecAdd (ecMul 384 (beNat (sha384 bs) * w % curveN) curveG) (ecMul 384 (r * w % curveN) key)
  key.isSome && decide (0 < r ∧ r < curveN ∧ 0 < s ∧ s < curveN) && (match x with
    | some (v, _) => decide (v % curveN = r)
    | none => false)

/-- The key-encryption key of a private key and another party's public key: the first 32 bytes of the digest of the shared secret's x-coordinate (R439). [log 84 PRESUMED] -/
def sharedKey (d : Nat) (key : Point) : List Byte :=
  (sha384 (beBytes 48 (((ecMul 384 d key).map (fun e => e.1)).getD 0))).take 32

end Sys2Proof.Machine
end

