-- ==== Sys2Proof/Machine/HostMem.lean ====
section
/-! DEFINITION. Host accesses to die memory through BAR4 (R257, R264, R429), and the containment of a function (R413, R414). -/

namespace Sys2Proof.Machine

/-! ### Frozen functions (R413, R414) -/

/-- The jobs of a function of a module. -/
def jobsOf (s : State) (m fn : Nat) : List Nat :=
  (s.jobs.filter (fun e => decide (e.2.fn = fn) && e.2.box.contains m)).map (fun e => e.1)

/-- A function is frozen: its requests are refused, and every partition of its jobs raises CONTAIN and is held. [log 52 DEDUCED] -/
def freezeFn (s : State) (m fn : Nat) : State :=
  let s := s.modModl m (fun x => { x with frozenFns := insertNat x.frozenFns fn })
  let js := jobsOf s m fn
  let tiles := (s.tiles.filter (fun e => match e.2.work with
    | some u => js.contains u.job
    | none => false)).map (fun e => e.1)
  tiles.foldl (fun s k => match (s.tile k).work with
    | some u => raiseForced (s.modPart u.barKey (fun p => { p with frozenHold := true })) k 0x24 1
    | none => s) s

/-- Whether the boot of a module ended in RECOVERY or ROLLBACK (R435). -/
def recovering (s : State) (m : Nat) : Bool := decide ((s.modl m).bootState = 0x80) || decide ((s.modl m).bootState = 0x81)

/-- Whether a module presents a function, and its BAR0 answers; in RECOVERY and ROLLBACK it presents function 0 alone (R414,
R428, R435). -/
def fnAnswers (s : State) (m fn : Nat) : Bool :=
  let x := s.modl m
  decide (fn ≤ x.na + x.nb) && !x.frozenFns.contains fn && x.powered && (decide (fn = 0) || !recovering s m)

/-- Whether BAR2 and BAR4 of a function answer: in RECOVERY and ROLLBACK a module presents only BAR0 (R435). [log 52 DEDUCED] -/
def barsAnswer (s : State) (m fn : Nat) : Bool := fnAnswers s m fn && !recovering s m

/-- The port through which a virtual function is seen; function 0 is seen through both, A first (R428). -/
def fnPort (s : State) (m fn : Nat) : Nat := if fn ≤ (s.modl m).na then 0 else 1

/-- Whether a function answers through a port: function 0 through both, a virtual function through its own (R428). -/
def fnHere (s : State) (m port fn : Nat) : Bool :=
  fnAnswers s m fn && decide (port < 2) && (decide (fn = 0) || decide (port = fnPort s m fn))

/-! ### BAR4 (R429) -/

/-- The kinds of host access. -/
inductive HostKind where
  | read | write | add
  deriving DecidableEq, Repr

/-- How a host access ends. -/
inductive HostEnd where
  | done (bytes : List Byte)
  /-- Unsupported Request; `freeze` where it is a containment event. -/
  | refused (freeze : Bool)
  | poisoned
  | waits (die stage tag : Nat)

/-- The answer of a FetchAdd at a location that holds `old`. -/
def hostSum (old v : List Byte) : List Byte := bytesOfNat old.length (natOfBytes old + natOfBytes v)

/-- A host access to a window of tile memory: the tile holds a unit of the function, and the region allows it (R168, R429). -/
def hostTile (fn t : Nat) (vault : Bool) (off n : Nat) (k : HostKind) (v : List Byte) (s : State) : State × HostEnd :=
  let mine := match (s.tile t).work with
    | some u => decide (u.fn = fn) && !(s.modl (tileDie t / 8)).quarantine.contains t
    | none => false
  let ok (i : Nat) : Bool := match regionOf s t vault (off + i) with
    | .kept => decide (k ≠ .add)
    | .transit => true
    | .reserved => decide (k = .read)
    | .outside => false
  if mine = false ∨ (List.range n).all ok = false then (s, .refused false)
  else
    let old := (List.range n).map (fun i => tileByte s (t + 1) t vault (off + i))
    let put (s : State) (bs : List Byte) : State :=
      let kept := ((List.range n).takeWhile (fun i => decide (regionOf s t vault (off + i) = .kept))).length
      (twinsOf s (t + 1) t).foldl (fun s t =>
        putPlain (if kept = 0 then s else landWrite t vault off (bs.take kept) s) t vault (off + kept) (bs.drop kept)) s
    match k with
    | .read => (s, .done old)
    | .write => (put s v, .done [])
    | .add => (put s (hostSum old v), .done old)

/-- The pieces of a host access to the HBM window are translated in order of address (R306, R310, R429). -/
def hostPieces (d fn port : Nat) (write : Bool) : List (Nat × Nat) → State → State × Except HostEnd (List Piece)
  | [], s => (s, .ok [])
  | (off, n) :: l, s =>
    let q : TrReq := { hwReq d fn with write := write, host := true, port := port }
    match translate s q off with
    | (s, .error .page) => (s, .error (.refused true))
    | (s, .error .perm) => (s, .error (.refused false))
    | (s, .error .busy) => (s, .error (.waits d 0 0))
    | (s, .error (.refer stage tag)) => (s, .error (.waits d stage tag))
    | (s, .ok leaf) =>
      let p : Piece := match leaf.home with
        | .hbm hpa => .hbm d hpa n leaf
        | .host port addr => .host port addr n
      match hostPieces d fn port write l s with
      | (s, .ok ps) => (s, .ok (p :: ps))
      | y => y

/-- Whether a host write reaches sealed memory (R185). -/
def Piece.sealedFor (s : State) (d : Nat) : Piece → Bool
  | .hbm die hpa n _ => (s.die die).seals.contains (hpa / 65536) || (s.die die).seals.contains ((hpa + n - 1) / 65536)
  | .host port addr n => (s.die d).seals.contains (hostGranule port addr) || (s.die d).seals.contains (hostGranule port (addr + n - 1))
  | .tile _ _ _ _ | .shard _ => false

/-- A piece of a host access that has been checked is read, or read and written. -/
def hostPiece (fn : Nat) (k : HostKind) (v : List Byte) (p : Piece) (s : State) : State × List Byte :=
  let new (old : List Byte) : List Byte := match k with
    | .add => hostSum old v
    | .read | .write => v
  match p with
  | .hbm d hpa n leaf =>
    let key := tctxField (s.tctx d fn) 40 1
    match readHbm d hpa n key s with
    | .error _ s => (s, [])
    | .ok old s => if k = .read then (s, old) else (writeHbm s d hpa leaf.tag key (new old), old)
  | .host port addr n =>
    let old := Memory.readN s.hostMem (port * 2 ^ 64 + addr) n
    if k = .read then (s, old)
    else ({ s with hostMem := Memory.writeN s.hostMem (port * 2 ^ 64 + addr) (new old) }, old)
  | .tile _ _ _ _ | .shard _ => (s, [])

/-- The pieces of a host access are made in order. -/
def hostMake (fn : Nat) (k : HostKind) : List Piece → List Byte → State → State × List Byte
  | [], _, s => (s, [])
  | p :: l, v, s =>
    let (s, x) := hostPiece fn k (v.take p.size) p s
    let (s, y) := hostMake fn k l (v.drop p.size) s
    (s, x ++ y)

/-- A host access to the HBM window of a die: translation, seals, then the syndromes of the sectors that are read, the most severe first (R317). -/
def hostHbm (d fn port : Nat) (k : HostKind) (o n : Nat) (v : List Byte) (s : State) : State × HostEnd :=
  match hostPieces d fn port (decide (k ≠ .read)) (cutHbm (n / 1024 + 2) o n) s with
  | (s, .error e) => (s, e)
  | (s, .ok ps) =>
    let kind : AccKind := match k with
      | .read => .load
      | .write => .store
      | .add => .amo
    if k ≠ .read ∧ ps.any (Piece.sealedFor s d) then (s, .refused false)
    else
      let s := ps.foldl (fun s p => match p with
        | .hbm die hpa m leaf => recordErrors s die (sectorsRead kind hpa m) leaf.tag
        | .tile _ _ _ _ | .host _ _ _ | .shard _ => s) s
      if ps.any (Piece.broken s kind) then (s, .poisoned)
      else if ps.any (Piece.mistagged s kind) then (s, .refused true)
      else
        let (s, old) := hostMake fn k ps v s
        (s, .done (if k = .write then [] else old))

/-- A host access to BAR4 of a function (R429). [log 36 DESIGN CHOICE, 52 DEDUCED] -/
def hostTry (m port fn addr n : Nat) (k : HostKind) (v : List Byte) (s : State) : State × HostEnd :=
  let d := 8 * m + bits addr 40 3
  let off := addr % 2 ^ 40
  if barsAnswer s m fn = false ∨ fnHere s m port fn = false ∨ 2 ^ 43 ≤ addr ∨ 2 ^ 40 < off + n ∨ n = 0
      ∨ (k = .add ∧ ((n ≠ 4 ∧ n ≠ 8) ∨ off % n ≠ 0)) then (s, .refused false)
  else match spotOf d (tileKey (d + 1) 0) off, spotOf d (tileKey (d + 1) 0) (off + n - 1) with
  | .spad t o, .spad u _ => if t = u then hostTile fn t false o n k v s else (s, .refused false)
  | .vault t o, .vault u _ => if t = u then hostTile fn t true o n k v s else (s, .refused false)
  | .hbm o, .hbm _ => hostHbm d fn port k o n v s
  | _, _ => (s, .refused false)

/-- The host receives a completion. [log 52 DEDUCED] -/
def complete (s : State) (addr : Nat) (data : List Byte) (status : Nat) : State :=
  { s with completions := s.completions ++ [{ addr := addr, data := data, status := status }] }

/-- The kind of a host access by its number. -/
def HostWait.hostKind (w : HostWait) : HostKind := if w.kind = 0 then .read else if w.kind = 1 then .write else .add

/-- A host access is made, and completes or waits. A write that succeeds has no completion. [log 52 DEDUCED] -/
def hostAccess (w : HostWait) (s : State) : State :=
  match hostTry w.modl w.port w.fn w.addr w.size w.hostKind w.bytes s with
  | (s, .done bs) => if w.kind = 1 then s else complete s w.addr bs 0
  | (s, .refused false) => complete s w.addr [] 1
  | (s, .refused true) => complete (freezeFn s w.modl w.fn) w.addr [] 1
  | (s, .poisoned) => complete s w.addr [] 2
  | (s, .waits d stage tag) => { s with hostWaits := s.hostWaits ++ [{ w with die := d, stage := stage, tag := tag }] }

/-- HOST_ATOMIC_FETCHADD (R257, R427, R429): Swap and CAS complete with Unsupported Request. -/
def execHostAtomicFetchadd (modl : Nat) (fn : Nat × Nat) (addr size : Nat) (value : Nat × BitVec 64) (s : State) : Host.Outcome State Fault Refusal :=
  runE (fun s => if value.1 ≠ 0 then complete s addr [] 1
    else hostAccess { modl := modl, port := fn.1, fn := fn.2, addr := addr, size := size, kind := 2, bytes := bytesOfNat size value.2.toNat } s) s

end Sys2Proof.Machine
end

