-- ==== Sys2Proof/Machine/Launch.lean ====
section
/-! DEFINITION. Launch rings (R320 to R324), the dispatcher's checks (R325, R326), the placement of units (R328 to R332,
R416), and the start of a unit (R15, R266, R331). -/

namespace Sys2Proof.Machine

/-! ### Rings (R320 to R322) -/

/-- The job of a function that the queue controller and the dispatcher act for. [log 51 DEDUCED] -/
def fnJob (s : State) (m fn : Nat) : Option Nat := (jobsOf s m fn).find? (fun j => !(s.job j).off && !(s.job j).lost)

/-- The number of a ring in a module's maps. -/
def ringNo (fn r : Nat) : Nat := fn * 64 + r

/-- Ring `r` of a function. -/
def ringOf (s : State) (m fn r : Nat) : Ring := Map.getD (s.modl m).rings (ringNo fn r) {}

/-- A ring changes. -/
def setRing (s : State) (m fn r : Nat) (x : Ring) : State := s.modModl m (fun y => { y with rings := Map.set y.rings (ringNo fn r) x })

/-- For whom the queue controller acts when it serves a ring of a function. -/
def ringFor (s : State) (m fn : Nat) : HwFor := { job := (fnJob s m fn).getD 0, fn := fn }

/-- A function reads `n` bytes at `p` for one of its rings, if it has a job. -/
def fnRead (m fn : Nat) (p : Word) (n : Nat) : A (List Byte) := do
  let s ← getA
  if (fnJob s m fn).isNone then trapA .nomem p
  hwRead (ringFor s m fn) p n

/-- A control block of a ring, checked (R320): BASE, SIZE and HEAD. -/
def ringControl (bs : List Byte) : Option (Word × Nat × Nat) :=
  let base := descPtr bs 0
  let size := descField bs 8 4
  if descField bs 12 4 ≠ 0 ∨ descField bs 32 32 ≠ 0 ∨ isPow2 size = false ∨ size < 2 ∨ 4096 < size ∨ fmtOk base = false
      ∨ ptrFmt base ≠ 0 ∨ ptrOff base % 128 ≠ 0 ∨ ptrDie base = 0xFFFF then none
  else some (base, size, descField bs 24 8)

/-- The control block of a ring, read and checked. -/
def readControl (m fn : Nat) (p : Word) : A (Word × Nat × Nat) := do
  if ptrOff p % 64 ≠ 0 ∨ ptrDie p = 0xFFFF then trapA .illfmt p
  match ringControl (← fnRead m fn p 64) with
  | some c => pure c
  | none => trapA .illfmt p

/-- RINGBASE takes `v`; while a control block waits for a page service, what the write asks for is kept, and it is examined again with the ring
(R310, R320). [log 48 DEDUCED] -/
def examineRingbase (m fn r : Nat) (v : Word) (s : State) : State :=
  let h := ringFor s m fn
  let x := { ringOf s m fn r with asked := none }
  let again (s : State) (w : PageWait) : State := hwAgain (setRing s m fn r { x with asked := some v }) h (.ringScanResume m fn r) w
  let examine (s : State) : State := match (readControl m fn v).ends s with
    | (s, .waits w) => again s w
    | (s, .refused) => recordMerr (setRing (hwSettled s h) m fn r { x with base := v, enabled := false }) m fn 5 (0x200 + 8 * r)
    | (s, .made (_, _, head)) => setRing (hwSettled s h) m fn r { base := v, tail := BitVec.ofNat 64 head, enabled := true }
  if v = 0 then setRing s m fn r { x with base := 0, enabled := false }
  else if x.enabled = false then examine s
  else match (readControl m fn x.base).ends s with
    | (s, .waits w) => again s w
    | (s, .refused) => examine s
    | (s, .made (_, _, head)) =>
      if head < x.tail.toNat then recordMerr (setRing (hwSettled s h) m fn r x) m fn 2 (0x200 + 8 * r) else examine s

/-- A write to RINGBASE (R320). [log 48 DEDUCED] -/
def writeRingbase (m fn r : Nat) (v : Word) (s : State) : State :=
  if fnAnswers s m fn = false ∨ 64 ≤ r then s else examineRingbase m fn r v s

/-- RINGBASE_WRITE (R320). -/
def execRingbaseWrite (modl fn ring : Nat) (value : BitVec 64) (s : State) : Host.Outcome State Fault Refusal :=
  runE (writeRingbase modl fn ring value) s

/-- The launch ID of the launch in slot `n` of a ring (R324). -/
def launchId (fn r n : Nat) : Nat := fn * 2 ^ 27 + r * 2 ^ 21 + n % 2 ^ 21

/-- The key of a launch of a module. -/
def launchKey (m id : Nat) : Nat := m * 2 ^ 32 + id

/-- Launches of a ring that have been consumed and whose placement has not begun. -/
def heldOf (s : State) (m fn r : Nat) : List Nat := Map.getD (s.modl m).heldLaunches (ringNo fn r) []

/-- A consumed block is handed to the dispatcher (R322, R327): bytes 64 to 191 of its record are written. -/
def handBlock (m fn r j head : Nat) (bs : List Byte) (s : State) : State :=
  let block : BitVec 1024 := BitVec.ofNat 1024 (natOfBytes bs)
  let key := launchKey m (launchId fn r head)
  let l : Launch := { block := block, modl := m, fn := fn, ring := r, job := j, phase := .held }
  let s := if complOk block then (hwStore (l.hwFor s key) (ptrAdd (blockPtr block 40) 64) bs s).1 else s
  let s := s.setLaunch key l
  let s := s.modModl m (fun x => { x with
    heldLaunches := Map.set x.heldLaunches (ringNo fn r) (Map.getD x.heldLaunches (ringNo fn r) [] ++ [key]) })
  s.post (.dispatchCheck key)

/-- What a scan of a ring finds in its next slot: nothing published, or HEAD and the 128 bytes, once HEAD has been written (R322). -/
def takeSlot (m fn : Nat) (x : Ring) : A (Option (Nat × List Byte)) := do
  let (base, size, head) ← readControl m fn x.base
  if x.tail.toNat ≤ head then pure none
  else
    let slot := ptrAdd base (128 * (head % size))
    let q ← fnRead m fn (ptrAdd slot 120) 8
    if natOfBytes q ≠ (head + 1) % 2 ^ 64 then pure none
    else
      let body ← fnRead m fn slot 120
      hwWrite (ringFor (← getA) m fn) (ptrAdd x.base 24) (bytesOfNat 8 (head + 1))
      pure (some (head, body ++ q))

/-- The address that a failed scan records: the slot's, or the control block's where that cannot be read. -/
def scanAddr (m fn : Nat) (x : Ring) (s : State) : Word :=
  match (readControl m fn x.base).ends s with
  | (_, .made (base, size, head)) => ptrAdd base (128 * (head % size))
  | _ => x.base

/-- The scan of a ring (R322, R435): at most `n` slots, as far as four launches are held. A slot or a control block that cannot be
read, or a HEAD that cannot be written, disables the ring; one that waits for a page service holds the scan (R310). [log 48 DEDUCED] -/
def scanRing (m fn r : Nat) : Nat → State → State
  | 0, s => s
  | n + 1, s =>
    let x := ringOf s m fn r
    let h := ringFor s m fn
    if x.enabled = false ∨ (s.modl m).bootState ≠ 4 ∨ (s.modl m).frozenFns.contains fn ∨ 4 ≤ (heldOf s m fn r).length
        ∨ (fnJob s m fn).isNone then s
    else match (takeSlot m fn x).ends s with
      | (s, .waits w) => hwAgain s h (.ringScanResume m fn r) w
      | (t, .refused) =>
        recordMerr (setRing (hwSettled t h) m fn r { x with base := 0, enabled := false }) m fn 11 ((scanAddr m fn x s).toNat % 2 ^ 48)
      | (s, .made none) => hwSettled s h
      | (s, .made (some (head, bs))) => scanRing m fn r n (handBlock m fn r h.job head bs (hwSettled s h))

/-- A write to TAILR raises TAIL to the maximum, and the ring is examined (R322). -/
def writeTail (m fn r : Nat) (v : Word) (s : State) : State :=
  if fnAnswers s m fn = false ∨ 64 ≤ r then s
  else
    let x := ringOf s m fn r
    scanRing m fn r 4 (setRing s m fn r { x with tail := if x.tail.toNat < v.toNat then v else x.tail })

/-- TAILR_WRITE (R322). -/
def execTailrWrite (modl fn ring : Nat) (value : BitVec 64) (s : State) : Host.Outcome State Fault Refusal :=
  runE (writeTail modl fn ring value) s

/-- RING_SCAN_RESUME (R322): a paused scan, or a write to RINGBASE that waited, goes on. -/
def execRingScanResume (modl fn ring : Nat) (s : State) : Host.Outcome State Fault Refusal :=
  runE (fun s => scanRing modl fn ring 4 (match (ringOf s modl fn ring).asked with
    | some v => examineRingbase modl fn ring v s
    | none => s)) s

/-! ### Tiles of a gang (R328, R330, R416) -/

/-- Tiles in the order of placement: die index, then TILEID (R330). -/
def placeOrder (s : State) (j : Nat) (tiles : List Nat) : List Nat :=
  let job := s.job j
  (job.dies.flatMap (fun d => ((tiles.filter (fun k => decide (tileDie k = d))).map tileId).foldl insertNat []
    |>.map (tileKey d)))

/-- Whether a tile can take units at all: its module has power, and it is not quarantined (R419). -/
def usableTile (s : State) (k : Nat) : Bool := (s.modl (tileDie k / 8)).powered && !s.quarantined k

/-- Free tiles of a partition's gang in the order of placement. -/
def freeTiles (s : State) (j part : Nat) : List Nat :=
  (placeOrder s j (s.part part).gang).filter (fun k => usableTile s k && (match (s.tile k).work with
    | some u => (s.job u.job).off && decide (u.job ≠ j)
    | none => true))

/-- The distance of two numbers. -/
def apart (a b : Nat) : Nat := (a - b) + (b - a)

/-- The tile of the twin of a unit on tile `k`, among `free` (R416): on another die, or, where the gang lies on one die, with
row and column at least two away. [log 50 DEDUCED] -/
def twinFor (gang free : List Nat) (k : Nat) : Option Nat :=
  if gang.all (fun t => decide (tileDie t = tileDie k)) then
    free.find? (fun t => decide (2 ≤ apart (tileId t / 32) (tileId k / 32)) && decide (2 ≤ apart (tileId t % 32) (tileId k % 32)))
  else free.find? (fun t => decide (tileDie t ≠ tileDie k))

/-- The tiles of the next unit: one, or a pair (R330, R416). [log 50 DEDUCED] -/
def nextPlace (gang free : List Nat) (paired : Bool) : Option (List Nat) :=
  match free with
  | [] => none
  | k :: l => if paired then (twinFor gang l k).map (fun t => [k, t]) else some [k]

/-- The tiles of `n` units placed together; none where one finds no place. -/
def placeAll (gang : List Nat) (paired : Bool) : Nat → List Nat → Option (List (List Nat))
  | 0, _ => some []
  | n + 1, free => do
    let ks ← nextPlace gang free paired
    let l ← placeAll gang paired n (free.filter (fun k => !ks.contains k))
    pure (ks :: l)

/-! ### The checks (R325, R326) -/

/-- Whether a pointer of a block is outside the limits: FMT 0 and a named die (R325). -/
def badPtr (p : Word) : Bool := !fmtOk p || decide (ptrFmt p ≠ 0) || decide (ptrDie p = 0xFFFF)

/-- Whether a word of the scope initialisation block is reserved (R191). -/
def badScopeWord (w : Nat) : Bool :=
  decide (w ≠ 0) && (decide (bits w 28 4 ≠ 1) || decide (bits w 24 4 ≠ 0) || decide (bits w 0 24 = 0))

/-- Lines of the regions of a block in the scratchpad, and in the vault. -/
def spadLines (b : BitVec 1024) : Nat := blockField b 112 2 + blockField b 114 2
def vaultLines (b : BitVec 1024) : Nat := blockField b 116 2 + blockField b 118 2

/-- What a launch gives its tiles to begin with: the words of the scope initialisation block, and the bytes of the regions (R325). -/
structure InitBytes where
  scopes : List Byte
  spad : List Byte
  vault : List Byte
  deriving DecidableEq, Repr

/-- The bytes that a field of a block points to; zeros where it points nowhere (R325). [log 48 DEDUCED] -/
def initBytes (h : HwFor) (b : BitVec 1024) (o n : Nat) : A (List Byte) :=
  let p := blockPtr b o
  if p = 0 then pure (List.replicate n 0) else if badPtr p then trapA .illfmt p else hwRead h p n

/-- Everything that a block's pointers give a tile. -/
def readInit (h : HwFor) (b : BitVec 1024) : A InitBytes := do
  let w ← initBytes h b 32 108
  let x ← initBytes h b 96 (64 * spadLines b)
  let y ← initBytes h b 104 (64 * vaultLines b)
  pure { scopes := w, spad := x, vault := y }

/-- Fields of a block outside the limits of R325, but for its pointers to bytes. [log 48 DEDUCED] -/
def badFields (b : BitVec 1024) : Bool :=
  let f (o n : Nat) : Nat := blockField b o n
  let image := blockPtr b 0
  let area := blockPtr b 80
  decide (bits (f 27 1) 2 6 ≠ 0 ∨ f 30 2 ≠ 0 ∨ f 92 4 ≠ 0)
  || (List.range 4).any (fun i => decide (f (48 + 8 * i) 8 / 2 ^ 33 ≠ 0))
  || badPtr image || decide (ptrBlk image ≠ 0 ∨ ptrOff image % 64 ≠ 0 ∨ 0x4000000000 ≤ ptrOff image)
  || decide (f 8 4 % 4 ≠ 0 ∨ 2 ^ 24 ≤ f 8 4 ∨ f 16 4 = 0 ∨ 33554432 < f 16 4 ∨ 2 < f 20 1 ∨ 10 < f 23 1)
  || decide (f 24 1 = 0 ∨ 12 < f 24 1 ∨ 52 < f 25 1 ∨ f 26 1 = 0 ∨ 8 < f 26 1)
  || !complOk b
  || decide (65536 < f 88 4) || (if f 88 4 = 0 then decide (area ≠ 0)
      else badPtr area || decide (ptrOff area % 64 ≠ 0 ∨ 0x4000000000 ≤ ptrOff area))
  || decide (Config.reservedBase < 64 * spadLines b + 16384 * f 24 1 ∨ Config.vaultBytes < 64 * vaultLines b + 16384 * f 25 1)
  || decide (0 < f 116 2 ∧ f 25 1 = 0)

/-- What a block gives its tiles, or nothing where it is BADBLOCK (R326, step 1; R373, R440). Bytes that the block points to and that cannot be read
count as outside the limits. [log 48 DEDUCED] -/
def readBlock (key : Nat) (l : Launch) : A (Option InitBytes) := do
  let s ← getA
  let b := l.block
  let prod (i : Nat) : Bool :=
    let w := blockField b (48 + 8 * i) 8
    decide (bits w 32 1 = 1) && (decide (bits w 27 5 ≠ l.fn) || decide (bits w 0 32 = key % 2 ^ 32))
  let policy := blockField b 22 1
  let inGroup : Bool := match groupDies s l.job policy with
    | (d, g) :: _ => decide (groupLearner s d g = l.part % 256) || groupRollout s d g (l.part % 256)
    | [] => false
  if badFields b ∨ (s.part l.part).gang = [] ∨ (policy ≠ 255 ∧ inGroup = false) ∨ (List.range 4).any prod
      ∨ (bits (blockField b 27 1) 0 1 = 1 ∧ (s.modl l.modl).records.contains 2 = false) then pure none
  else
    let i ← readInit (l.hwFor s key) b
    pure (if (List.range 27).any (fun n => badScopeWord (descField i.scopes (4 * n) 4)) then none else some i)

/-- Whether the undo logs of every stack used and the continuation area can be granted (R326, step 4): the reservations of the
launches that run on a die must lie in a stack, and the area in HBM of the job. [log 49 DEDUCED] -/
def granted (s : State) (l : Launch) : Bool :=
  let gangDies := (s.part l.part).gang.foldl (fun n k => insertNat n (tileDie k)) []
  let used (d : Nat) : Nat := (s.launches.map (fun e =>
    if e.2.phase = .running ∧ (s.part e.2.part).gang.any (fun k => decide (tileDie k = d)) then blockField e.2.block 26 1
    else 0)).sum
  let n := 1216 * blockField l.block 88 4
  let area := blockPtr l.block 80
  gangDies.all (fun d => decide ((used d + blockField l.block 26 1) * 10 ^ 9 ≤ Config.stackFrameEnd))
    && (decide (n = 0) || (decide (ptrOff area + n ≤ 0x4000000000)
      && (((s.job l.job).entry? (ptrDie area)).bind entryDie).isSome))

/-- Whether a block asks for paired dispatch. -/
def Launch.paired (l : Launch) : Bool := bits (blockField l.block 27 1) 0 1 = 1

/-- The tiles that a CON launch takes, unit by unit; none where its class cannot be honoured (R330, R416). [log 50 DEDUCED] -/
def conTiles (s : State) (l : Launch) : Option (List (List Nat)) :=
  let units := blockField l.block 12 4
  let free := freeTiles s l.job l.part
  let need := if l.paired then 2 * units else units
  if blockField l.block 16 4 < need ∨ free.length < need then none
  else placeAll (s.part l.part).gang l.paired units free

/-- Whether the gang of a WP or PAR launch can hold a unit: its lowest tile, with a twin where the launch is paired (R330, R416). [log 50 DEDUCED] -/
def gangHolds (s : State) (l : Launch) : Bool :=
  (nextPlace (s.part l.part).gang ((placeOrder s l.job (s.part l.part).gang).filter (usableTile s)) l.paired).isSome

/-! ### Placement (R15, R318, R330) -/

/-- The scope table that a launch's block gives (R31, R100). -/
def scopeTable (bs : List Byte) : Vector (BitVec 32) 32 :=
  Vector.ofFn (fun i : Fin 32 => if i.val < 5 then 0 else BitVec.ofNat 32 (descField bs (4 * (i.val - 5)) 4))

/-- The work unit that unit `uid` of a launch is on its tile. -/
def unitOf (l : Launch) (key uid : Nat) : WorkUnit :=
  let f (o n : Nat) : Nat := blockField l.block o n
  { launch := key, uid := uid, part := l.part, job := l.job, modl := l.modl, fn := l.fn, cls := f 20 1
    image := blockPtr l.block 0, helpers := f 23 1, spool := f 24 1, vpool := f 25 1, skl := f 112 2, stl := f 114 2
    vkl := f 116 2, vtl := f 118 2, policy := f 22 1, triggered := false }

/-- The control context of a unit as its start finds it (R15). -/
def unitStart (l : Launch) (uid : Nat) (scopes : Vector (BitVec 32) 32) : Ctx :=
  let image := blockPtr l.block 0
  let x : Ctx := { pc := ptrAdd image (blockField l.block 8 4), scopes := scopes }
  (x.setS 1 (BitVec.ofNat 64 uid)).setS 2 (ptrAdd (blockPtr l.block 40) 64)

/-- The die slot that a die is in for a partition: that of a tile whose slots run, else the first (R339). -/
def dieSlotNow (s : State) (d part : Nat) : Nat :=
  (s.tiles.filterMap (fun e => match e.2.work with
    | some u => if tileDie e.1 = d ∧ u.part = part then some (e.2.csr.dieSlot0 + e.2.csr.slot) else none
    | none => none)).foldl max 0

/-- A unit is placed on tile `k`: its regions hold the initial bytes, its registers those of R15, and its CSRs show the launch. What has been posted
to the tile's inbox since it was released stays (R25, R240).
Its control context has not started. -/
def placeUnit (key uid : Nat) (l : Launch) (i : InitBytes) (twin : Option Twin) (k : Nat) (s : State) : State :=
  let b := l.block
  let s := zeroTile s k
  let s := { s with mem := Memory.writeN (Memory.writeN s.mem (spadKey k 0) i.spad) (vaultKey k 0) i.vault }
  let x := unitStart l uid (scopeTable i.scopes)
  let policy := blockField b 22 1
  let (latest, oldest) := match groupDies s l.job policy with
    | (d, g) :: _ => if policy = 255 then (0, 0) else (groupLatest s d g, groupOldest s d g)
    | [] => (0, 0)
  let (n, s) := s.fresh
  let csr : TileCsr := {
    partsz := BitVec.ofNat 24 (s.part l.part).gang.length
    pvCur := if blockField b 20 1 = 2 then BitVec.ofNat 16 latest else (s.part (implicitKey key)).pvSel
    pubLatest := BitVec.ofNat 16 latest, pubOldest := BitVec.ofNat 16 oldest, scopebase := blockPtr b 32
    dieSlot0 := dieSlotNow s (tileDie k) l.part, aligned := decide (blockField b 20 1 = 2) || Config.freeAligned n }
  let runs := s.part (implicitKey key)
  let parity := (Map.getD runs.parityRuns k []).map (fun (r : Nat × Nat) => (r.1, r.2, false))
  let strikes (w : Twin) : Nat := match Map.get? runs.pairRuns k with
    | some r => if r.1 = w.partner then r.2 else 0
    | none => 0
  let t : Tile := {
    work := some (unitOf l key uid), csr := csr, step := { retained := x, parityRun := parity }
    twin := twin.map (fun w => { w with mismatches := strikes w }) }
  s.modTile k (fun old => { t.setCtx 0 x with
    testKernel := old.testKernel, testFailed := old.testFailed, kernels := old.kernels, io := { t.io with inbox := old.io.inbox, heldIn := old.io.heldIn } })

/-- A unit is placed on its tile, or on both tiles of its pair. -/
def placeOn (key uid : Nat) (l : Launch) (i : InitBytes) (ks : List Nat) (s : State) : State :=
  match ks with
  | [k, t] => placeUnit key uid l i (some { partner := k, primary := false }) t
      (placeUnit key uid l i (some { partner := t, primary := true }) k s)
  | _ => ks.foldl (fun s k => placeUnit key uid l i none k s) s

/-- The units of a CON launch are placed, one entry of `l` each, from unit `uid` on. -/
def placeUnits (key : Nat) (x : Launch) (i : InitBytes) : Nat → List (List Nat) → State → State
  | _, [], s => s
  | uid, ks :: l, s => placeUnits key x i (uid + 1) l (placeOn key uid x i ks s)

/-- The launch leaves its ring's list, and a scan that it paused goes on (R322, R328). -/
def takeLaunch (key : Nat) (l : Launch) (s : State) : State :=
  let held := heldOf s l.modl l.fn l.ring
  let s := s.modModl l.modl (fun x => { x with
    heldLaunches := Map.set x.heldLaunches (ringNo l.fn l.ring) (held.filter (fun k => k != key))
    turns := Map.set x.turns l.fn l.ring })
  if 4 ≤ held.length then s.post (.ringScanResume l.modl l.fn l.ring) else s

/-- The next place of a WP or PAR launch: none while no tile is free or TILES units are resident (R330). -/
def unitSpot (s : State) (key : Nat) : Option (List Nat) :=
  match Map.get? s.launches key with
  | none => none
  | some l =>
    let here := (s.tilesOf key).length
    let more := if l.paired then 2 else 1
    if l.phase ≠ .running ∨ blockField l.block 12 4 ≤ l.next ∨ blockField l.block 16 4 < here + more
        ∨ (s.part (implicitKey key)).bar ≠ .running ∨ (s.part (implicitKey key)).held
        ∨ (s.part (implicitKey key)).holding ∨ (s.part (implicitKey key)).stoppedMid then none
    else nextPlace (s.part l.part).gang (freeTiles s l.job l.part) l.paired

/-- The next unit of a WP or PAR launch takes the lowest-numbered free tile, if there is one, and begins with `i` (R330). -/
def placeWith (key : Nat) (i : InitBytes) (s : State) : State :=
  match Map.get? s.launches key, unitSpot s key with
  | some l, some ks =>
    let s := placeOn key l.next l i ks s
    let s := s.setLaunch key { l with next := l.next + 1 }
    let s := ks.foldl (fun s k => s.post (.workUnitStart (tileDie k) (tileId k))) s
    if l.next + 1 < blockField l.block 12 4 then s.post (.unitPlace key) else s
  | _, _ => s

/-- Bytes that cannot be read any more when a unit is placed are free values. [log 48 DEDUCED] -/
def freeInit (b : BitVec 1024) (s : State) : State × InitBytes :=
  let n := 108 + 64 * spadLines b + 64 * vaultLines b
  let bs := (List.range n).map (fun i => Config.freeByte (s.free + i))
  ({ s with free := s.free + n },
    { scopes := bs.take 108, spad := (bs.drop 108).take (64 * spadLines b), vault := bs.drop (108 + 64 * spadLines b) })

/-- UNIT_PLACE (R330): the initial bytes are read, which may wait for a page service (R310), and the unit is placed. -/
def placeNext (key : Nat) (s : State) : State :=
  match Map.get? s.launches key with
  | none => s
  | some l =>
    if (unitSpot s key).isNone then s
    else
      let h := l.hwFor s key
      match (readInit h l.block).ends s with
      | (s, .waits w) => hwAgain s h (.unitPlace key) w
      | (s, .made i) => placeWith key i (hwSettled s h)
      | (s, .refused) =>
        let (s, i) := freeInit l.block (hwSettled s h)
        placeWith key i s

/-- A launch that passes every check is placed, or begins to be; it selects LATEST (R330, R331, R380). The first unit of a WP or PAR launch is
placed at once where there is a tile for it (R328). [log 50 DEDUCED] -/
def beginLaunch (key : Nat) (l : Launch) (i : InitBytes) (s : State) : State :=
  let run : Launch := { l with phase := .running }
  let v := BitVec.ofNat 16 (latestOf s l.job (blockField l.block 22 1))
  if blockField l.block 20 1 = 2 then
    match conTiles s l with
    | none => endLaunch s key 3
    | some ks =>
      let s := s.setLaunch key run
      let s := s.modPart l.part (fun p => { p with
        launch := some key, ssn := 0, members := ks.flatten, bar := .running, undone := [], held := false, groupsAt := p.groups
        publish := false, reserved := [], pvSel := v, frozenHold := false, switchAbort := false, gen := p.genTop })
      (placeUnits key run i 0 ks s).post (.conLaunchStart key)
  else if gangHolds s l = false then endLaunch s key 3
  else
    let s := (s.setLaunch key run).setPart (implicitKey key) { launch := some key, pvSel := v, gen := (s.part l.part).genTop }
    if (unitSpot s key).isSome then placeWith key i s else s.post (.unitPlace key)

/-- DISPATCH_CHECK (R326): the first failing check decides the outcome. What the block points to is read first, and may wait for a page service
(R310). -/
def dispatch (key : Nat) (s : State) : State :=
  match Map.get? s.launches key with
  | none => s
  | some l =>
    if l.phase ≠ .held then s
    else
      let h := l.hwFor s key
      let units := blockField l.block 12 4
      let ends (s : State) (status : Nat) : State := endLaunch (takeLaunch key l (hwSettled s h)) key status
      match (readBlock key l).ends s with
      | (s, .waits w) => hwAgain s h (.dispatchCheck key) w
      | (s, .refused) => ends s 5
      | (s, .made none) => ends s 5
      | (s, .made (some i)) =>
        if units = 0 then ends s 1
        else if 16777216 < units then ends s 2
        else if granted s l = false then ends s 7
        else beginLaunch key l i (takeLaunch key l (hwSettled s h))

/-- DISPATCH_CHECK (R326). -/
def execDispatchCheck (launch : Nat) (s : State) : Host.Outcome State Fault Refusal := runE (dispatch launch) s

/-- Whether a command, or a new die map, stops the dispatch of a job's units and launches (R385, R404, R412, R421). -/
def Job.holdsDispatch (j : Job) : Bool :=
  j.mapWaits || match j.cmd with
  | some c => c.begun && !c.released
  | none => false

/-- Whether a launch has been read and found good. -/
def blockGood (s : State) (key : Nat) (l : Launch) : Bool :=
  match ((readBlock key l).ends s).2 with
  | .made (some _) => true
  | .made none | .refused | .waits _ => false

/-- Whether a WP or PAR launch that passes every check waits, not yet begun to be placed, for a free tile (R322, R330). [log 50 DEDUCED] -/
def waitsForTile (s : State) (key : Nat) (l : Launch) : Bool :=
  let units := blockField l.block 12 4
  decide (blockField l.block 20 1 ≠ 2 ∧ 0 < units ∧ units ≤ 16777216)
    && (nextPlace (s.part l.part).gang (freeTiles s l.job l.part) l.paired).isNone && gangHolds s l && granted s l
    && blockGood s key l

/-- Whether it is a held launch's turn (R322, R328, R330): it is the first of its ring, no ring between the one served last and
its own has a launch that could begin, a CON launch waits for an earlier one of its partition, and a WP or PAR launch for a
free tile. -/
def dispatchTurn (s : State) (key : Nat) : Bool :=
  match Map.get? s.launches key with
  | none => true
  | some l =>
    let x := s.modl l.modl
    let can (r : Nat) : Bool := match (heldOf s l.modl l.fn r).head? with
      | none => false
      | some k => match Map.get? s.launches k with
        | none => true
        | some y => !(decide (blockField y.block 20 1 = 2) && (s.part y.part).launch.isSome)
            && !(s.hwWaits.any (fun w => decide (w.ev = some (.dispatchCheck k))))
            && !(s.job y.job).off && !(s.job y.job).stopped && !(s.job y.job).holdsDispatch && !waitsForTile s k y
    let last := Map.getD x.turns l.fn 63
    let order := (List.range 64).map (fun i => (last + 1 + i) % 64)
    decide (l.phase ≠ .held) || (decide ((heldOf s l.modl l.fn l.ring).head? = some key)
      && decide (order.find? can = some l.ring))

/-- UNIT_PLACE (R330). -/
def execUnitPlace (launch : Nat) (s : State) : Host.Outcome State Fault Refusal := runE (placeNext launch) s

/-- The control context of a placed unit starts; its first slot begins (R13, R15, R337). [log 12 DESIGN CHOICE] -/
def startUnit (k : Nat) (s : State) : State :=
  match (s.tile k).work with
  | none => s
  | some _ =>
    if (s.ctx k 0).st ≠ .idle then s
    else (s.modCtx k 0 (fun x => { x with st := .resident })).modStep k (fun st => { st with
      retained := { st.retained with st := .resident } })

/-- WORK_UNIT_START (R15). -/
def execWorkUnitStart (die tile : Nat) (s : State) : Host.Outcome State Fault Refusal := runE (startUnit (tileKey die tile)) s

/-- CON_LAUNCH_START (R331): the tree is built over the members, which select LATEST (R380), and every control context starts. -/
def startCon (key : Nat) (s : State) : State :=
  match Map.get? s.launches key with
  | none => s
  | some l =>
    let ks := (s.part l.part).members
    let v := BitVec.ofNat 16 (latestOf s l.job (blockField l.block 22 1))
    let s := (s.modLaunch key (fun l => { l with ssn := 0 })).modPart l.part (fun p => { p with pvSel := v })
    let s := showSelected s l.part ks
    ks.foldl (fun s k => startUnit k s) (setSizes (rebuildTree s l.part) l.part)

/-- CON_LAUNCH_START (R331). -/
def execConLaunchStart (launch : Nat) (s : State) : Host.Outcome State Fault Refusal := runE (startCon launch) s

end Sys2Proof.Machine
end

