-- ==== Sys2Proof/Machine/Translation.lean ====
section
/-! DEFINITION. The control window of a die and the answers of page services (R300, R308, R311 to R314, R319, R339, R372, R430),
and accesses parked at remote targets (R367, R368). -/

namespace Sys2Proof.Machine

/-! ### Everything that waits on a page service -/

/-- Waits that satisfy `p` restart: contexts execute again, elements and engine operations go on (R311, R313). -/
def resumeWaits (p : PageWait → Bool) (s : State) : State :=
  let wakeC (k : Nat) (s : State) (c : Nat) : State :=
    let x := s.ctx k c
    match x.wait with
    | some (.pages ws _ _) =>
      let m := ws.filter p
      if m.isEmpty ∨ x.st = .frozen then s
      else if m.any (fun w => w.solo) then wakeCtx k c s
      else m.foldl (fun s w => s.post (.gatherElementReplay (tileDie k) (tileId k) c w.elem)) s
    | _ => s
  let wakeOp (k : Nat) (s : State) (o : EngineOp) : State :=
    (o.waits.filter p).foldl (fun s w => s.post (o.resume k w.elem))
      (if o.waits.any p then setOp s k { o with waits := o.waits.filter (fun w => !p w) } else s)
  let wakeEntry (k : Nat) (s : State) (e : StagingEntry) : State :=
    if e.waits.any p then
      (setEntry s k { e with waits := e.waits.filter (fun w => !p w) }).post (.stagingEntryComplete (tileDie k) (tileId k) e.id)
    else s
  s.tiles.foldl (fun s e =>
    let k := e.1
    let s := (List.range 11).foldl (wakeC k) s
    let s := (s.tile k).eng.ops.foldl (wakeOp k) s
    let s := (s.tile k).step.entries.foldl (wakeEntry k) s
    match (s.tile k).eng.epiq with
    | j :: l => if j.waits.any p then
        (s.modEng k (fun e => { e with epiq := { j with waits := j.waits.filter (fun w => !p w) } :: l })).post (.epiDrainEnd (tileDie k) (tileId k)) else s
    | [] => s) s

/-- The wait of the lowest element (R315, R368). -/
def lowestWait (ws : List PageWait) : Option PageWait :=
  ws.foldl (fun a w => match a with
    | none => some w
    | some b => if w.elem < b.elem then some w else some b) none

/-- Waits that satisfy `p` are refused: a context meets PAGE when it executes again, an engine operation at once, for the lowest of its rows
(R311, R315). -/
def refuseWaits (p : PageWait → Bool) (cause : Cause) (s : State) : State :=
  let note (k : Nat) (s : State) (c : Nat) : State :=
    match (s.ctx k c).wait with
    | some (.pages ws _ _) =>
      s.modCtx k c (fun x => { x with refused := x.refused ++ ((ws.filter p).map (fun w => w.addr)) })
    | _ => s
  let opEnd (k : Nat) (s : State) (o : EngineOp) : State :=
    match lowestWait (o.waits.filter p) with
    | some w =>
      let s := o.waits.foldl (fun s v => if p v then refuseTwin s k (o.key v.elem) cause v.addr else s) s
      opStopped s k { o with waits := o.waits.filter (fun w => !p w) } w.elem (.trap cause w.addr)
    | none => s
  let entryEnd (k : Nat) (s : State) (e : StagingEntry) : State :=
    match lowestWait (e.waits.filter p) with
    | some w =>
      let s := e.waits.foldl (fun s v => if p v then refuseTwin s k (stageKey e.id v.elem) cause v.addr else s) s
      opFault (setEntry s k { e with st := 2, waits := [] }) k 0 e.pc 0 cause.code (ptrOff w.addr)
    | none => s
  let s := s.tiles.foldl (fun s e =>
    let k := e.1
    let s := (List.range 11).foldl (note k) s
    let s := (s.tile k).eng.ops.foldl (opEnd k) s
    let s := (s.tile k).step.entries.foldl (entryEnd k) s
    match (s.tile k).eng.epiq with
    | j :: _ => match j.waits.find? p with
      | some w => opFault (endJob (refuseTwin s k epiKey cause w.addr) k j) k j.ctx j.pc 0 cause.code (ptrOff w.addr)
      | none => s
    | [] => s) s
  resumeWaits p s

/-- Every wait is changed by `f`, also those of records and of host accesses. -/
def mapWaits (f : PageWait → PageWait) (s : State) : State :=
  let ctx (x : Ctx) : Ctx := match x.wait with
    | some (.pages ws done part) => { x with wait := some (.pages (ws.map f) done part) }
    | _ => x
  let tile (t : Tile) : Tile := { t with
    ctxs := mapV t.ctxs ctx
    eng := { t.eng with ops := t.eng.ops.map (fun o => { o with waits := o.waits.map f })
                        epiq := t.eng.epiq.map (fun j => { j with waits := j.waits.map f }) }
    step := { t.step with fetchList := t.step.fetchList.map (fun e => { e with waits := e.waits.map f })
                          staged := t.step.staged.map (fun e => { e with waits := e.waits.map f }) } }
  { s with tiles := s.tiles.map (fun (e : Nat × Tile) => (e.1, tile e.2)) }

/-- Whether a wait is on a tag of a function and stage of a die. -/
def onTag (d fn stage tag : Nat) (w : PageWait) : Bool := decide (w.die = d ∧ w.fn = fn ∧ w.stage = stage ∧ w.tag = tag)

/-- Records of helpers that wait on a tag become ready, refused or not (R314). -/
def answerRecords (d fn stage tag : Nat) (refused : Bool) (s : State) : State :=
  let mine (r : ContRecord) : Bool := decide (r.wait = some (d, fn, stage, tag)) && !r.ready
  s.parts.foldl (fun s e =>
    let rs := e.2.records.filter mine
    if rs.isEmpty then s
    else
      let s := s.modPart e.1 (fun p => { p with records := p.records.map (fun r =>
        if mine r then { r with wait := none, refused := refused } else r) })
      rs.foldl (fun s r => s.post (.continuationReady e.1 r.loc)) s) s

/-- Host accesses that wait on a tag are made again, or refused (R310, R429). -/
def answerHost (d fn stage tag : Nat) (refused : Bool) (s : State) : State :=
  let mine (w : HostWait) : Bool := decide (w.die = d ∧ w.fn = fn ∧ w.stage = stage ∧ w.tag = tag)
  let ws := s.hostWaits.filter mine
  let s := { s with hostWaits := s.hostWaits.filter (fun w => !mine w) }
  ws.foldl (fun s w => if refused then complete s w.addr [] 1 else hostAccess w s) s

/-- What the queue controllers and dispatchers could not go on with ends its wait: an event happens again, and a write is made; where the service has
refused, the event meets the refusal, and a write is not made (R310, R311, R326). -/
def answerHw (d fn stage tag : Nat) (refused : Bool) (s : State) : State :=
  let mine (w : HwWait) : Bool := decide (w.die = d ∧ w.fn = fn ∧ w.stage = stage ∧ w.tag = tag)
  let ws := s.hwWaits.filter mine
  let s := { s with hwWaits := s.hwWaits.filter (fun w => !mine w) }
  ws.foldl (fun s w => match w.ev with
    | some e => (if refused then { s with hwRefused := s.hwRefused ++ [(w.fn, w.addr)] } else s).post e
    | none =>
      let (s, ok) := if refused then (s, false) else hwStore { job := w.job, fn := w.fn, pol := w.pol } w.addr w.bytes s
      if ok then s else recordMerr s (s.job w.job).modl 0 6 w.addr.toNat) s

/-- A tag is answered RETRY: accesses of the die restart, and those parked here for another die are serviced (R311, R367). -/
def answerRetry (d fn stage tag : Nat) (s : State) : State :=
  let s := resumeWaits (fun w => onTag d fn stage tag w && w.parked.isNone) s
  let parked := (s.die d).parked.filter (fun p => decide (p.fn = fn ∧ p.stage = stage ∧ p.tag = tag))
  let s := parked.foldl (fun s p => s.post (.serviced d p.id)) s
  answerHw d fn stage tag false (answerHost d fn stage tag false (answerRecords d fn stage tag false s))

/-- A tag is answered REFUSE (R311). -/
def answerRefuse (d fn stage tag : Nat) (s : State) : State :=
  let s := refuseWaits (onTag d fn stage tag) .page s
  let s := s.modDie d (fun x => { x with
    parked := x.parked.filter (fun p => !decide (p.fn = fn ∧ p.stage = stage ∧ p.tag = tag)) })
  answerHw d fn stage tag true (answerHost d fn stage tag true (answerRecords d fn stage tag true s))

/-! ### The control window (R8, R298, R300, R308, R311, R319, R372, R430) -/

/-- A write through BAR2 that is not made is recorded in the physical function's MERR, with the BAR offset of the register. [log 52 DEDUCED] -/
def refuseWrite (s : State) (d off : Nat) (code : BitVec 8) : State :=
  recordMerr s (d / 8) 0 code (d % 8 * 2 ^ 28 + off)

/-- Whether the physical function that reaches a die's control window answers (R414, R429). -/
def windowAnswers (s : State) (d : Nat) : Bool := barsAnswer s (d / 8) 0

/-- Whether a job of a function is resident on a die (R300). -/
def fnResident (s : State) (d fn : Nat) : Bool :=
  s.jobs.any (fun e => decide (e.2.fn = fn) && !e.2.off && e.2.dies.contains d)

/-- Whether a value sets a reserved bit of the word at offset `off` of a translation context, or a reserved encoding. -/
def tctxReserved (off : Nat) (v : Word) : Bool :=
  if off = 40 then decide (63 < bits v.toNat 0 8 ∨ bits v.toNat 12 52 ≠ 0) else decide (48 ≤ off ∧ v ≠ 0)

/-- A write to a translation context: what the agent has cached for it drops, and no translation of the function begins before that is done (R300). [log 1 DESIGN CHOICE] -/
def tctxWrite (d off : Nat) (v : Word) (s : State) : State :=
  let f := off / 64
  if windowAnswers s d = false ∨ 0x800 ≤ off ∨ off % 8 ≠ 0 then s
  else if tctxReserved (off % 64) v then refuseWrite s d off 1
  else if fnResident s d f then refuseWrite s d off 2
  else
    let old := s.tctx d f
    let lo := 8 * (off % 64)
    let new : BitVec 512 := (old &&& ~~~(((BitVec.allOnes 64).setWidth 512) <<< lo)) ||| v.setWidth 512 <<< lo
    let drop : Word := BitVec.ofNat 64 (2 ^ 63 + f * 256 + 7)
    (s.modDie d (fun x => { x with tctx := x.tctx.setIfInBounds f new, tinv := x.tinv ++ [drop] })).post (.tinvComplete d)

/-- TCTX_WRITE (R300). -/
def execTctxWrite (die off : Nat) (value : BitVec 64) (s : State) : Host.Outcome State Fault Refusal :=
  runE (tctxWrite die off value) s

/-- A write to TINV (R308). -/
def writeTinv (d : Nat) (v : Word) (s : State) : State :=
  let n := v.toNat
  if windowAnswers s d = false then s
  else if bits n 38 26 ≠ 0 ∨ bits n 13 3 ≠ 0 ∨ bits n 4 4 ≠ 0 ∨ bits n 2 2 = 3 ∨ bits n 0 2 = 0 then refuseWrite s d 0x800 1
  else (s.modDie d (fun x => { x with tinv := x.tinv ++ [v] })).post (.tinvComplete d)

/-- TINV (R308). [log 8 DESIGN CHOICE] -/
def execTinv (die : Nat) (value : BitVec 64) (s : State) : Host.Outcome State Fault Refusal :=
  runE (writeTinv die value) s

/-- Whether an invalidation drops a cached entry: its function, the structures of its STAGE, and, under SCOPE 0, a range that meets the 64 KiB of ADDR
(R308). -/
def tinvDrops (w : Word) (e : KeptEntry) : Bool :=
  let n := w.toNat
  let a := bits n 16 22 * 65536
  let meets : Bool := match e.level with
    | 0 | 2 => decide (e.range = a / 2 ^ 30)
    | 1 | 3 => decide (e.range = a / 2 ^ 21)
    | 4 => decide (e.range / 64 = a / 65536)
    | 5 => decide (e.range = a / 2 ^ 25)
    | _ => decide (e.range = a / 65536)
  let stage : Bool := if e.level < 5 then w.getLsbD 0 else w.getLsbD 1
  stage && (decide (bits n 2 2 = 2) || (decide (e.fn = bits n 8 5) && (decide (bits n 2 2 = 1) || meets)))

/-- A drop of a translation context is done: what it held back goes on (R300). -/
def endDrop (d : Nat) (s : State) : State :=
  let fns := (List.range 32).filter (fun f => !(s.die d).dropping f)
  fns.foldl (fun s f => answerHw 0 f 0 0 false (answerHost d f 0 0 false s)) s

/-- TINV_COMPLETE (R308): the oldest invalidation completes; TINVST.BUSY is set while the list is not empty. [log 8 DESIGN CHOICE] -/
def completeTinv (d : Nat) (s : State) : State :=
  match (s.die d).tinv with
  | [] => s
  | w :: l =>
    let s := s.modDie d (fun x => { x with tinv := l, kept := x.kept.filter (fun e => !tinvDrops w e) })
    if w.getLsbD 63 then endDrop d s else s

/-- TINV_COMPLETE (R308). [log 8 DESIGN CHOICE] -/
def execTinvComplete (die : Nat) (s : State) : Host.Outcome State Fault Refusal := runE (completeTinv die) s

/-- TINVST of a die (R308). -/
def tinvst (s : State) (d : Nat) : Word := if (s.die d).tinv = [] then 0 else 1

/-- A write to PRESP (R311). -/
def writePresp (d : Nat) (v : Word) (s : State) : State :=
  let n := v.toNat
  let fn := bits n 16 5
  let stage := bits n 14 1 + 1
  let tag := bits n 0 12
  if windowAnswers s d = false then s
  else if bits n 21 43 ≠ 0 ∨ bits n 15 1 ≠ 0 ∨ 2 ≤ bits n 12 2 then refuseWrite s d 0x810 1
  else if (s.die d).reqs.any (fun r => decide (r.fn = fn ∧ r.stage = stage ∧ r.tag = tag)) = false then refuseWrite s d 0x810 3
  else
    let mine (r : PageReq) : Bool := decide (r.fn = fn ∧ r.stage = stage ∧ r.tag = tag)
    let same (a b : PageReq) : Bool := decide (a.fn = b.fn ∧ a.stage = b.stage ∧ a.granule = b.granule) && a.sub == b.sub
    let s := s.modDie d (fun x => { x with
      reqs := x.reqs.filter (fun r => !mine r)
      answered := (x.reqs.filter mine).foldl (fun l r => l.filter (fun y => !same y r) ++ [r]) x.answered })
    if bits n 12 2 = 0 then answerRetry d fn stage tag s else answerRefuse d fn stage tag s

/-- PRESP_RETRY (R311). -/
def execPrespRetry (die : Nat) (value : BitVec 64) (s : State) : Host.Outcome State Fault Refusal :=
  runE (writePresp die value) s

/-- PRESP_REFUSE (R311). -/
def execPrespRefuse (die : Nat) (value : BitVec 64) (s : State) : Host.Outcome State Fault Refusal :=
  runE (writePresp die value) s

/-- A held miss that can be appended, or refused because its ring descriptor is malformed (R310, R312). -/
def heldReady (s : State) (d : Nat) : Option HeldMiss :=
  let x := s.die d
  x.heldMisses.find? (fun h =>
    let r := ringDescAt s d h.fn h.stage
    !ringDescOk s d r || (ringHasRoom s d r && (freeTag x h.fn h.stage h.granule h.sub s.free).isSome))

/-- The first held miss that can be appended gets a tag and its record (R312). -/
def appendHeld (d : Nat) (s : State) : State :=
  match heldReady s d with
  | none => s
  | some h =>
    let r := ringDescAt s d h.fn h.stage
    let s := s.modDie d (fun x => { x with heldMisses := x.heldMisses.filter (fun y => y.id != h.id) })
    if ringDescOk s d r = false then answerRefuse d h.fn h.stage h.id (recordMerr s (d / 8) 0 4 r)
    else match freeTag (s.die d) h.fn h.stage h.granule h.sub s.free with
      | none => s
      | some tag =>
        let s := { appendRequest s d r tag h.bytes with free := s.free + 1 }
        let s := s.modDie d (fun x => { x with
          reqs := x.reqs ++ [{ fn := h.fn, stage := h.stage, tag := tag, granule := h.granule, sub := h.sub }]
          parked := x.parked.map (fun p => if p.fn = h.fn ∧ p.stage = h.stage ∧ p.tag = h.id then { p with tag := tag } else p) })
        let s := mapWaits (fun w => if onTag d h.fn h.stage h.id w then { w with tag := tag } else w) s
        { s with
          parts := s.parts.map (fun (e : Nat × Partition) => (e.1, { e.2 with records := e.2.records.map (fun x =>
            if x.wait = some (d, h.fn, h.stage, h.id) then { x with wait := some (d, h.fn, h.stage, tag) } else x) }))
          hwWaits := s.hwWaits.map (fun w =>
            if w.die = d ∧ w.fn = h.fn ∧ w.stage = h.stage ∧ w.tag = h.id then { w with tag := tag } else w)
          hostWaits := s.hostWaits.map (fun w =>
            if w.die = d ∧ w.fn = h.fn ∧ w.stage = h.stage ∧ w.tag = h.id then { w with tag := tag } else w) }

/-- REQUEST_APPEND_RESUME (R312). -/
def execRequestAppendResume (die : Nat) (s : State) : Host.Outcome State Fault Refusal := runE (appendHeld die) s

/-- HPA of the first granule of a controller's half of its stack (R319, R432). -/
def controllerBase (c : Nat) : Nat := c / 2 * 2 ^ 37 + c % 2 * (732416 * 65536)

/-- Whether a granule of HPA stands in word `w` of the dirty bitmap of controller `c` (R319). -/
def inDirtyWord (c w g : Nat) : Bool :=
  let g0 := controllerBase c / 65536 + 64 * w
  decide (g0 ≤ g ∧ g < g0 + 64 ∧ g < controllerBase c / 65536 + 732416)

/-- A word of a dirty bitmap (R319). -/
def dirtyWord (x : Die) (c w : Nat) : Nat :=
  (x.dirty.filter (inDirtyWord c w)).foldl (fun n g => n + 2 ^ (g - (controllerBase c / 65536 + 64 * w))) 0

/-- A word of a dirty bitmap is cleared by a read of it (R319). -/
def clearDirty (x : Die) (c w : Nat) : Die := { x with dirty := x.dirty.filter (fun g => !inDirtyWord c w g) }

/-- A read of a word of a dirty bitmap returns and clears it (R319). [log 55 DEDUCED] -/
def readDirty (d c w : Nat) (s : State) : State :=
  let addr := d % 8 * 2 ^ 28 + (0x100000 + 0x20000 * c + 8 * w)
  if windowAnswers s d = false ∨ 4 ≤ c ∨ 0x4000 ≤ w then complete s addr [] 1
  else complete (s.setDie d (clearDirty (s.die d) c w)) addr (bytesOfNat 8 (dirtyWord (s.die d) c w)) 0

/-- DIRTY_BITMAP_READ (R319). -/
def execDirtyBitmapRead (die controller word : Nat) (s : State) : Host.Outcome State Fault Refusal :=
  runE (readDirty die controller word) s

/-- Whether a launch of policy group `g` is resident on a die (R372). -/
def groupResident (s : State) (d g : Nat) : Bool :=
  s.launches.any (fun e => decide (e.2.phase = .running) && decide (blockField e.2.block 22 1 = g)
    && (s.job e.2.job).dies.contains d)

/-- A write to POLGRP (R372). [log 52 DEDUCED] -/
def writePolgrp (d g : Nat) (v : Word) (s : State) : State :=
  if windowAnswers s d = false ∨ 254 < g then s
  else if v.toNat % 64 ≠ 0 then refuseWrite s d (0x2000 + 8 * g) 1
  else if groupResident s d g then refuseWrite s d (0x2000 + 8 * g) 2
  else s.modDie d (fun x => { x with polgrp := Map.set x.polgrp g v })

/-- POLGRP_WRITE (R372). -/
def execPolgrpWrite (die group : Nat) (value : BitVec 64) (s : State) : Host.Outcome State Fault Refusal :=
  runE (writePolgrp die group value) s

/-- A write to MERRC (R430). -/
def writeMerrc (m fn : Nat) (v : Word) (s : State) : State :=
  if fnAnswers s m fn = false then s
  else if v.toNat / 2 ≠ 0 then recordMerr s m fn 1 0x1008
  else if v = 1 then s.modModl m (fun x => { x with merr := Map.erase x.merr fn })
  else s

/-- MERRC_WRITE (R430). -/
def execMerrcWrite (modl fn : Nat) (value : BitVec 64) (s : State) : Host.Outcome State Fault Refusal :=
  runE (writeMerrc modl fn value) s

/-- A write to a register of a die's control window that has no behaviour of its own: TINVST, which is read-only, DTCTL, COLLTO and the link
quotas (R308, R319, R339, R360); other offsets hold no register that a write changes. -/
def writeWindow (d off : Nat) (v : Word) (s : State) : State :=
  if off = 0x808 then (if v.toNat / 2 ≠ 0 then refuseWrite s d off 1 else s)
  else if off = 0x818 then
    if v.toNat / 2 ≠ 0 then refuseWrite s d off 1 else s.modDie d (fun x => { x with dtctl := v = 1 })
  else if off = 0x820 then
    if v.toNat / 2 ^ 24 ≠ 0 then refuseWrite s d off 1
    else s.modDie d (fun x => { x with switch := { x.switch with collto := v.setWidth 24 } })
  else if 0x900 ≤ off ∧ off < 0x1100 ∧ off % 8 = 0 then
    if v.toNat / 2 ^ 32 ≠ 0 then refuseWrite s d off 1
    else s.modDie d (fun x => { x with lq := Map.set x.lq ((off - 0x900) / 8) (v.setWidth 32) })
  else s

/-- Whether a value sets a reserved bit of MBST or BOOTST (R431, R435). -/
def bar0Reserved (fn off : Nat) (v : Word) : Bool :=
  if off = 0x1108 then decide (fn = 0) && decide (bits v.toNat 8 55 ≠ 0) else decide (off = 0x1200) && decide (v.toNat / 2 ^ 16 ≠ 0)

/-- A host write to a management register without behaviour of its own (R8). In BAR0 these are MERR, MBST and BOOTST, which are read-only; a
reserved bit that is set is recorded. [log 52 DEDUCED] -/
def writeRegister (m fn bar off : Nat) (v : Word) (s : State) : State :=
  if bar = 0 ∧ fnAnswers s m fn ∧ bar0Reserved fn off v then recordMerr s m fn 1 off
  else if barsAnswer s m fn = false ∨ fn ≠ 0 ∨ bar ≠ 2 ∨ 2 ^ 31 ≤ off then s
  else writeWindow (8 * m + off / 2 ^ 28) (off % 2 ^ 28) v s

/-- REGISTER_WRITE (R8). -/
def execRegisterWrite (modl fn bar off : Nat) (value : BitVec 64) (s : State) : Host.Outcome State Fault Refusal :=
  runE (writeRegister modl fn bar off value) s

/-- What the register at an offset of a die's control window reads as: a write-only one, and an offset without a register, as 0 (R8, R298, R300, R308, R311,
R319, R339, R360, R372). [log 52 DEDUCED] -/
def windowWord (s : State) (d off : Nat) : Word :=
  let x := s.die d
  if off < 0x800 then BitVec.ofNat 64 (tctxField (s.tctx d (off / 64)) (off % 64) 8)
  else if off = 0x808 then tinvst s d
  else if off = 0x818 then (if x.dtctl then 1 else 0)
  else if off = 0x820 then x.switch.collto.setWidth 64
  else if 0x900 ≤ off ∧ off < 0x1100 then (Map.getD x.lq ((off - 0x900) / 8) 0).setWidth 64
  else if 0x2000 ≤ off ∧ off < 0x2000 + 8 * 255 then Map.getD x.polgrp ((off - 0x2000) / 8) 0
  else if 0x100000 ≤ off ∧ off < 0x180000 then BitVec.ofNat 64 (dirtyWord x ((off - 0x100000) / 0x20000) ((off - 0x100000) % 0x20000 / 8))
  else 0

/-! ### Parked accesses (R314, R367, R368) -/

/-- The parked access of a die under a number. -/
def parkedAt (s : State) (d id : Nat) : Option Parked := (s.die d).parked.find? (fun p => decide (p.id = id))

/-- A parked access changes, or leaves the fault queue. -/
def setParked (s : State) (d id : Nat) (f : Parked → Option Parked) : State :=
  s.modDie d (fun x => { x with parked := x.parked.filterMap (fun p => if p.id = id then f p else some p) })

/-- Whether a wait is on parked access `id` of a die. -/
def onParked (d id : Nat) (w : PageWait) : Bool := decide (w.die = d ∧ w.parked = some id)

/-- An instruction whose access to the HBM of another die writes there. -/
def remoteWrite (i : Instr) (s : State) : Option (Host.Outcome State Fault Refusal) :=
  match i with
  | .st d b n w imm => some (execSt d b n w imm s)
  | .stRel d b n w e => some (execStRel d b n w e s)
  | .stv d b n imm => some (execStv d b n imm s)
  | .stvRel d b n e => some (execStvRel d b n e s)
  | .amoAdd d a b r e w => some (execAmoAdd d a b r e w s)
  | .amoMin d a b r e w => some (execAmoMin d a b r e w s)
  | .amoMax d a b r e w => some (execAmoMax d a b r e w s)
  | .amoAnd d a b r e w => some (execAmoAnd d a b r e w s)
  | .amoOr d a b r e w => some (execAmoOr d a b r e w s)
  | .amoXor d a b r e w => some (execAmoXor d a b r e w s)
  | .amoSwap d a b r e w => some (execAmoSwap d a b r e w s)
  | .amoCas d a b r e w => some (execAmoCas d a b r e w s)
  | .enq d a b tr => some (execEnq d a b tr s)
  | .deq d a b tr => some (execDeq d a b tr s)
  | _ => none

/-- What an engine of tile `k`, which is as it was in `u`, does at other places: its own tile stays as it is in `s`, and so do its events. -/
def elsewhere (k : Nat) (s u : State) : State :=
  { u.setTile k (s.tile k) with
    cur := s.cur, pending := s.pending ++ (u.pending.drop s.pending.length).filter (fun e => !tileEvent (tileDie k) (tileId k) e) }

/-- The access of an engine operation, or of the epilogue job that drains, which had begun when it was given up, is performed, and nothing else of
the operation (R205, R368). [log 29 DEDUCED] -/
def performEngine (d id k : Nat) (g : Tile) (s : State) : State :=
  let u := s.setTile k g
  let mine := onParked d id
  let done (x : A Unit) : State := match x u with
    | .ok _ t => elsewhere k s t
    | .error _ _ => s
  match g.eng.ops.find? (fun o => o.waits.any mine), g.eng.epiq with
  | some o, _ => done (performOp k (((o.waits.find? mine).map (fun w => w.elem)).getD 0) o)
  | none, j :: _ =>
    if j.waits.any mine && j.reads.isSome then
      done (epiRowOut { tile := k, ctx := j.ctx, engine := true, unit := epiKey, subreg := some j.subreg } k j.row j)
    else s
  | none, [] => s

/-- An access that had begun when its requester gave it up is performed at the target, as the requester's tile `g` made it;
nothing returns to the requester (R342, R368). [log 29 DEDUCED] -/
def performLeft (d id : Nat) (p : Parked) (g : Tile) (s : State) : State :=
  let k := p.tile
  let back (t : State) : State := { t.setTile k (s.tile k) with cur := s.cur }
  let u := (asCtx (s.setTile k g) k p.ctx).modCtx k p.ctx (fun x => { x with wait := none })
  let went (t : State) : Bool := decide ((t.ctx k p.ctx).wait = none) && decide ((t.ctx k p.ctx).st = (g.ctx p.ctx).st)
    && decide ((t.ctx k p.ctx).tstat = (g.ctx p.ctx).tstat)
  match (g.ctx p.ctx).wait with
  | some (.pages ws _ _) => match ws.find? (onParked d id) with
    | some w =>
      if w.solo then match nextWord { s := u } with
        | .ok iw x => match decode iw with
          | .ok i => match remoteWrite i x.s with
            | some (.next t) => if went t then back t else s
            | _ => s
          | .error _ => s
        | .error _ _ => s
      else if w.write then match writeRaw { tile := k, ctx := p.ctx, engine := false } w.acc (bytesOfNat w.size w.data.toNat) u with
        | .ok _ t => back t
        | .error _ _ => s
      else s
    | none => performEngine d id k g s
  | _ => performEngine d id k g s

/-- SERVICED (R367): the access leaves the fault queue and is performed by what waits on it. [log 29 DEDUCED] -/
def serviced (d id : Nat) (s : State) : State :=
  match parkedAt s d id with
  | none => s
  | some p =>
    let s := setParked s d id (fun _ => none)
    match p.left with
    | none => resumeWaits (onParked d id) s
    | some g => performLeft d id p { g with twin := none } s

/-- SERVICED (R367). -/
def execServiced (die parked : Nat) (s : State) : Host.Outcome State Fault Refusal := runE (serviced die parked) s

/-- KEEPWAIT (R367): the requester's count restarts; the first notice of an access posts an entry of TYPE 0x03. A request that
waits at the ingress of a full queue has no notice, nor does one that its requester has given up. [log 36 DESIGN CHOICE] -/
def keepwait (d id : Nat) (s : State) : State :=
  match ((s.die d).parked.take Config.faultQueueRoom).find? (fun p => decide (p.id = id)) with
  | none => s
  | some p =>
    let u := setParked s d id (fun p => some { p with noticed := true, silent := 0 })
    if p.left.isSome then s else if p.noticed then u else notify u p.tile p.addr 0 0 0x03

/-- KEEPWAIT (R367). -/
def execKeepwait (die parked : Nat) (s : State) : Host.Outcome State Fault Refusal := runE (keepwait die parked) s

/-- WITHDRAWN (R314, R367): an access that has not begun is dropped; an unbooked helper with a live mask that waited on it
becomes a continuation, and any other requester makes its access again. [log 29 DEDUCED] -/
def withdrawn (d id : Nat) (s : State) : State :=
  match parkedAt s d id with
  | none => s
  | some p =>
    if p.begun then s
    else
      let s := setParked s d id (fun _ => none)
      match (s.ctx p.tile p.ctx).wait with
      | some (.pages ws done part) =>
        let again := resumeWaits (onParked d id) s
        if ws.any (onParked d id) ∧ becomesCont s p.tile p.ctx
            ∧ (s.tile p.tile).eng.mmas.any (fun o => o.ctx = p.ctx) = false then
          let ws := ws.map (fun w => if onParked d id w then { w with parked := none } else w)
          match makeCont s p.tile p.ctx ws false with
          | (s, none) => s
          | (u, some l) => if l = ws then again else u.modCtx p.tile p.ctx (fun x => { x with wait := some (.pages l done part) })
        else again
      | _ => resumeWaits (onParked d id) s

/-- WITHDRAWN (R367). -/
def execWithdrawn (die parked : Nat) (s : State) : Host.Outcome State Fault Refusal := runE (withdrawn die parked) s

/-- BEGUN (R314, R367): the withdrawal came too late; the requester keeps waiting. [log 29 DEDUCED] -/
def execBegun (die parked : Nat) (s : State) : Host.Outcome State Fault Refusal :=
  runE (fun s => setParked s die parked (fun p => some { p with begun := true })) s

/-- The parked accesses among waits. -/
def parkedWaits (s : State) (ws : List PageWait) : List PageWait :=
  ws.filter (fun w => match w.parked with
    | some id => (parkedAt s w.die id).isSome
    | none => false)

/-- The parked access of the lowest element among waits (R368). -/
def firstParked (s : State) (ws : List PageWait) : Option PageWait :=
  lowestWait (parkedWaits s ws)

/-- REMOTETO (R368): eight intervals have passed with no notice. A context traps with the address of its lowest parked access, an engine
operation faults; what has not begun is withdrawn. From 11 on the number is that of an engine operation; 2^40 more names the epilogue
job that drains, and from 2^41 more on the entry of a page-fetch list. [log 1 DESIGN CHOICE, 29 DEDUCED] -/
def remoteTo (k c : Nat) (s : State) : State :=
  let code := Cause.remoteto.code
  if c < 11 then
    match (s.ctx k c).wait with
    | some (.pages ws _ _) => match firstParked s ws with
      | none => s
      | some w =>
        let key := if w.solo then c else elemKey c w.elem
        trapWaiting (refuseTwin (giveUp s k ws) k key .remoteto w.addr) k c .remoteto w.addr
    | _ => s
  else if c - 11 < 2 ^ 40 then
    match (s.tile k).eng.op? (c - 11) with
    | none => s
    | some o => match firstParked s o.waits with
      | none => s
      | some w => opStopped (refuseTwin (giveUp s k o.waits) k (o.key w.elem) .remoteto w.addr) k o w.elem (.trap .remoteto w.addr)
  else if c - 11 < 2 ^ 41 then
    match (s.tile k).eng.epiq with
    | [] => s
    | j :: _ => match firstParked s j.waits with
      | none => s
      | some w => opFault (endJob (refuseTwin (giveUp s k j.waits) k epiKey .remoteto w.addr) k j) k j.ctx j.pc 0 code (ptrOff w.addr)
  else
    match (s.tile k).step.entries.find? (fun e => decide (e.id = c - 11 - 2 ^ 41)) with
    | none => s
    | some e => match firstParked s e.waits with
      | none => s
      | some w =>
        let s := refuseTwin (giveUp s k e.waits) k (stageKey e.id w.elem) .remoteto w.addr
        opFault (setEntry s k { e with st := 2, waits := [] }) k 0 e.pc 0 code (ptrOff w.addr)

/-- REMOTETO (R368). -/
def execRemoteto (die tile ctx : Nat) (s : State) : Host.Outcome State Fault Refusal :=
  runE (remoteTo (tileKey die tile) ctx) s

end Sys2Proof.Machine
end

