-- ==== Sys2Proof/Machine/Mailbox.lean ====
section
/-! DEFINITION. The management mailbox (R431): command blocks, outcomes, and what commands read and write in host memory. -/

namespace Sys2Proof.Machine

/-! ### Host memory (R393, R431) -/

/-- `n` bytes of host memory at an address that a command gives, through port A. -/
def hostBytes (s : State) (a n : Nat) : List Byte := Memory.readN s.hostMem a n

/-- Whether the host does not complete a read of `n` bytes of its memory, or completes it with an error (R431). -/
def hostMute (s : State) (a n : Nat) : Bool := s.hostMuted.any (fun x => decide (a ≤ x ∧ x < a + n))

/-- A number of `n` bytes in host memory. -/
def hostNat (s : State) (a n : Nat) : Nat := natOfBytes (hostBytes s a n)

/-- Bytes that a command writes to host memory. -/
def hostPut (s : State) (a : Nat) (bs : List Byte) : State := { s with hostMem := Memory.writeN s.hostMem a bs }

/-- `n` free bytes, as a signature, an encryption or a measurement that the model does not compute yields. -/
def freeBytes (s : State) (n : Nat) : State × List Byte :=
  ({ s with free := s.free + n }, (List.range n).map (fun i => Config.freeByte (s.free + i)))

/-! ### Commands -/

/-- A command ends with an ST. -/
def mbEnd (s : State) (m : Nat) (st : BitVec 8) : State := s.modModl m (fun x => { x with mbBusy := false, mbSt := st })

/-- MBST of a module (R431). -/
def mbst (s : State) (m : Nat) : Word := pack [(63, (s.modl m).mbBusy.toNat), (0, (s.modl m).mbSt.toNat)]

/-- Whether firmware runs that answers the mailbox; in RECOVERY and ROLLBACK only IMAGE is accepted (R435). -/
inductive MbState where
  | silent | imageOnly | ready
  deriving DecidableEq, Repr

def mbState (s : State) (m : Nat) : MbState :=
  let x := s.modl m
  if x.powered = false ∨ x.frozenFns.contains 0 then .silent
  else if x.bootState = 4 then .ready
  else if x.bootState = 0x80 ∨ x.bootState = 0x81 then .imageOnly
  else .silent

/-- A command of the mailbox: while BUSY the write is ignored and recorded; else `n` bytes of the block at PTR are read, examined
with `ok`, and `run` is what the command does (R431). [log 43 DESIGN CHOICE] -/
def mailbox (m : Nat) (ptr n : Nat) (image : Bool) (ok : List Byte → Bool) (run : List Byte → State → State) (s : State) : State :=
  match mbState s m with
  | .silent => s
  | st =>
    if (s.modl m).mbBusy then recordMerr s m 0 2 0x1100
    else if st = .imageOnly ∧ image = false then mbEnd s m 3
    else
      let a := ptr / 256 * 256 % 2 ^ 64
      let bs := hostBytes s a n
      if hostMute s a n then mbEnd s m 4 else if ok bs then run bs s else mbEnd s m 2

/-- BADOP (R431): an opcode that the mailbox does not know. -/
def badOp (m : Nat) (s : State) : State :=
  match mbState s m with
  | .silent => s
  | .imageOnly => if (s.modl m).mbBusy then recordMerr s m 0 2 0x1100 else mbEnd s m 3
  | .ready => if (s.modl m).mbBusy then recordMerr s m 0 2 0x1100 else mbEnd s m 1

/-- BADOP (R431). -/
def execBadop (modl : Nat) (_value : BitVec 64) (s : State) : Host.Outcome State Fault Refusal := runE (badOp modl) s

/-! ### Scatter lists (R393) -/

/-- The extents of a scatter list: addresses and lengths; none where a length is no multiple of 4 KiB, or where the list cannot be read. -/
def scatterList (s : State) (a : Nat) : Option (List (Nat × Nat)) :=
  let n := hostNat s a 8
  let l := (List.range n).map (fun i => (hostNat s (a + 8 + 16 * i) 8, hostNat s (a + 16 + 16 * i) 8))
  if hostMute s a (8 + 16 * n) || l.any (fun e => decide (e.2 % 4096 ≠ 0)) then none else some l

/-- The host address of byte `o` of a logical space. -/
def areaAddr : List (Nat × Nat) → Nat → Option Nat
  | [], _ => none
  | (a, n) :: l, o => if o < n then some (a + o) else areaAddr l (o - n)

/-- Bytes of a logical space are written; bytes past its end are not. -/
def areaPut (l : List (Nat × Nat)) : Nat → List Byte → State → State
  | _, [], s => s
  | o, b :: bs, s =>
    let s := match areaAddr l o with
      | some a => hostPut s a [b]
      | none => s
    areaPut l (o + 1) bs s

/-- `n` bytes of a logical space from byte `o`. -/
def areaRead (s : State) (l : List (Nat × Nat)) (o n : Nat) : List Byte :=
  (List.range n).map (fun i => match areaAddr l (o + i) with
    | some a => Memory.read s.hostMem a
    | none => 0)

/-! ### Tiles and jobs that a command names -/

/-- A WP or PAR launch that containment holds without units, and in whose gang a tile lies: its units have been stopped and their tiles released (R332, R414,
R415). -/
def frozenGang (s : State) (k : Nat) : Option Nat :=
  ((s.parts.filter (fun e => decide (2 ^ 80 ≤ e.1) && e.2.frozenHold && e.2.held && (s.part (barOwner s e.1)).gang.contains k)).head?).map (fun e => e.1)

/-- The tile of module `m` that a job-virtual DIEID and a TILEID name: among the jobs of the module, the one whose unit is
there, or one of whose launches containment holds with that tile in its gang. [log 42 DEDUCED] -/
def namedTile (s : State) (m die tile : Nat) : Option Nat :=
  (s.jobs.filterMap (fun e => match (e.2.entry? die).bind entryDie with
    | some d => if d / 8 = m ∧ bits ((e.2.entry? die).getD 0).toNat 62 2 = 1 then
        (match (s.tile (tileKey d tile)).work with
          | some u => if u.job = e.1 then some (tileKey d tile) else none
          | none => match frozenGang s (tileKey d tile) with
            | some g => if barJob s g = e.1 then some (tileKey d tile) else none
            | none => none) else none
    | none => none)).head?

end Sys2Proof.Machine
end

