-- ==== Sys2Proof/Machine/Fabric.lean ====
section
/-! DEFINITION. The scale-up fabric: what links carry (R355 to R357), routing (R352), collective packets at a hop, in a reduction and at an endpoint (R353, R358 to R364), multicast (R365). -/

namespace Sys2Proof.Machine

/-! ### Packets (R350, R359) -/

/-- The wire size of an element: partials travel as F32 or at their type, unreduced data at its own size (R354, R359). -/
def pktWire (p : Packet) : Nat :=
  match p.ctype.toNat with
  | 0 => 4
  | 1 => if p.red = 3 then 2 else 4
  | 2 => 4
  | 3 => 8
  | _ => 1

/-- Data flits of a packet (R350). -/
def pktFlits (p : Packet) : Nat := (p.elems.length * pktWire p + 63) / 64

/-- The partition of a packet's job. -/
def pktPart (p : Packet) : Nat := p.job * 256 + p.part

/-- Whether a packet carries an older generation (R358). -/
def pktOld (s : State) (p : Packet) : Bool :=
  if p.issuers.isEmpty then decide (2 ≥ p.kind.toNat) && decide ((s.part (pktPart p)).gen ≠ p.gen) else pktStale s p

/-! ### Links and detours (R355 to R357) -/

/-- Flits of a link are on their way to its far end; around a link that is down they carry DET and INGRESS (R357). -/
def sendFlits (s : State) (sw n : Nat) (l : List (BitVec 16 × Option Packet)) : State :=
  match linkPeer sw n with
  | none => s
  | some (far, p) =>
    let up := (s.link sw n).up
    let mark (x : Packet) : Packet := { x with det := !up, ingress := if up then 0 else p % 16 }
    l.foldl (fun s e => s.post (.linkFlitReceive far p e.1 true (e.2.map mark))) s

/-- A packet crosses a link: its flits are numbered, kept until they are acknowledged, and sent (R355). [log 36 DESIGN CHOICE] -/
def transmit (s : State) (sw port : Nat) (pkt : Packet) : State :=
  let seq := (s.link sw port).txSeq
  let n := pktFlits pkt + 1
  let flits := (List.range n).map (fun i => (seq + BitVec.ofNat 16 i, if i + 1 = n then some pkt else none))
  let s := s.modLink sw port (fun l => { l with txSeq := seq + BitVec.ofNat 16 n, unacked := l.unacked ++ flits })
  sendFlits s sw port flits

/-- Whether a sender may hold the flits of one more packet until they are acknowledged (R355). -/
def windowRoom (s : State) (sw port : Nat) (pkt : Packet) : Bool :=
  decide ((s.link sw port).unacked.length + pktFlits pkt + 1 ≤ Config.linkWindow)

/-- A packet that came by port `ingress` leaves a switch by a port that leads somewhere, or is held there (R355, R356), behind those of its VC (R351). -/
def sendOut (s : State) (sw ingress port : Nat) (pkt : Packet) : State :=
  let n := linkNo s pkt.job sw port
  let q := 4 * n + pkt.vc.toNat
  if portOpen s pkt.job sw port && windowRoom s sw n pkt && Map.getD (s.sw sw).out q [] = [] then transmit s sw n pkt
  else
    let s := s.modSw sw (fun x => { x with out := Map.set x.out q (Map.getD x.out q [] ++ [(ingress, pkt)]) })
    if portOpen s pkt.job sw port then s else reportHeld s sw n

/-- Packets held for a link leave by its port, in order of VC. -/
def flushLink (s : State) (sw n : Nat) : State :=
  (List.range 4).foldl (fun s vc =>
    let q := Map.getD (s.sw sw).out (4 * n + vc) []
    q.foldl (fun s p => sendOut s sw p.1 (n % 16) p.2) (s.modSw sw (fun x => { x with out := Map.erase x.out (4 * n + vc) }))) s

/-- The events by which a switch deals with a packet that has arrived (R352, R353, R370). -/
def arrivePkt (s : State) (sw port : Nat) (pkt : Packet) : State :=
  let swept := match (s.sw sw).sweep with
    | some w => w.begun && decide (w.job = pkt.job)
    | none => false
  if pkt.kind = 5 then s.post (.markArrive sw port pkt.job)
  else if swept then s.post (.sweepPacketArrive sw port pkt)
  else
    let s := s.modSw sw (fun x => { x with inq := Map.set x.inq port (Map.getD x.inq port [] ++ [pkt]) })
    if pkt.kind = 2 then s.post (.collHop sw port) else s.post (.packetRoute sw port pkt.vc.toNat)

/-- Flits on their way to a switch over a link. -/
def flitTo (sw n : Nat) : Instr → Bool
  | .linkFlitReceive a b _ _ _ => decide (a = sw ∧ b = n)
  | _ => false

/-- The flit that a link expects is accepted: it makes progress, and the last flit of a packet acknowledges all of them and brings the packet
(R355). -/
def acceptFlit (sw port from' p : Nat) (seq : BitVec 16) (pkt : Option Packet) (s : State) : State :=
  let s := (s.modLink sw port (fun l => { l with rxSeq := l.rxSeq + 1 })).modLink from' p (fun l => { l with replays := 0 })
  match pkt with
  | none => s
  | some x =>
    let rest := ((s.link from' p).unacked.dropWhile (fun e => e.1 != seq)).drop 1
    arrivePkt (flushLink (s.modLink from' p (fun l => { l with unacked := rest })) from' p) sw (port % 16) x

/-- Flits that a link holds are accepted as far as their numbers follow (R357); fuel covers the flits held. -/
def acceptEarly (sw port from' p : Nat) : Nat → State → State
  | 0, s => s
  | n + 1, s =>
    let l := s.link sw port
    match l.early.find? (fun e => decide (e.1 = l.rxSeq)) with
    | none => s
    | some e => acceptEarly sw port from' p n (acceptFlit sw port from' p e.1 e.2
        (s.modLink sw port (fun l => { l with early := l.early.filter (fun x => x.1 != e.1) })))

/-- LINK_FLIT_RECEIVE (R355): the next expected number with a good CRC is accepted and acknowledged. On a detour a later number is held, and a
duplicate discarded (R357); any other flit is discarded, and the receiver names the number that it expects. -/
def receiveFlit (sw port : Nat) (seq : BitVec 16) (good : Bool) (pkt : Option Packet) (s : State) : State :=
  let l := s.link sw port
  match linkPeer sw port with
  | none => s
  | some (from', p) =>
    let detour := !(s.link from' p).up
    if good ∧ seq = l.rxSeq then acceptEarly sw port from' p l.early.length (acceptFlit sw port from' p seq pkt s)
    else if good ∧ detour then
      if (seq - l.rxSeq).getLsbD 15 ∨ l.early.any (fun e => decide (e.1 = seq)) then s
      else s.modLink sw port (fun l => { l with early := l.early ++ [(seq, pkt)] })
    else
      let named := s.pending.any (fun e => match e with
        | .linkReplay a b n => decide (a = from' ∧ b = p ∧ n = l.rxSeq)
        | _ => false)
      if named ∨ (s.link from' p).unacked = [] then s else s.post (.linkReplay from' p l.rxSeq)

/-- LINK_FLIT_RECEIVE (R355). -/
def execLinkFlitReceive (sw port : Nat) (seq : BitVec 16) (good : Bool) (pkt : Option Packet) (s : State) :
    Host.Outcome State Fault Refusal := runE (receiveFlit sw port seq good pkt) s

/-- Every flit that a link still holds is sent again, from number `seq` on where it is among them. -/
def resend (s : State) (sw port : Nat) (seq : Option (BitVec 16)) : State :=
  match linkPeer sw port with
  | none => s
  | some (far, p) =>
    let s := { s with pending := s.pending.filter (fun e => !flitTo far p e) }
    let l := (s.link sw port).unacked
    sendFlits s sw port (match seq with
      | some n => if l.any (fun e => e.1 = n) then l.dropWhile (fun e => e.1 != n) else l
      | none => l)

/-- LINK_DOWN (R355, R357): what the link still held takes a detour, if there is one. -/
def linkDown (sw port : Nat) (s : State) : State :=
  match linkPeer sw port with
  | none => s
  | some (far, p) =>
    if (s.link sw port).up = false then s
    else
      let s := (s.modLink sw port (fun l => { l with up := false, replays := 0 })).modLink far p (fun l => { l with up := false })
      let again (s : State) (a b : Nat) : State :=
        if detourFor s a b then resend s a b none
        else match linkPeer a b with
          | some (x, y) => { s with pending := s.pending.filter (fun e => !flitTo x y e) }
          | none => s
      reportLink (again (again s sw port) far p) [swModule sw, swModule far]

/-- LINK_DOWN (R357). -/
def execLinkDown (sw port : Nat) (s : State) : Host.Outcome State Fault Refusal := runE (linkDown sw port) s

/-- LINK_REPLAY (R355): the sender replays from the flit that the receiver named; after eight replays without progress the
link is down. -/
def replayLink (sw port : Nat) (seq : BitVec 16) (s : State) : State :=
  if 8 ≤ (s.link sw port).replays ∧ (s.link sw port).up then linkDown sw port s
  else resend (s.modLink sw port (fun l => { l with replays := l.replays + 1 })) sw port (some seq)

/-- LINK_REPLAY (R355). -/
def execLinkReplay (sw port : Nat) (seq : BitVec 16) (s : State) : Host.Outcome State Fault Refusal :=
  runE (replayLink sw port seq) s

/-- LINK_RETRAIN (R355): the link takes traffic again, first what it still held; so do the links that it helps to replace. -/
def linkRetrain (sw port : Nat) (s : State) : State :=
  match linkPeer sw port with
  | none => s
  | some (far, p) =>
    let s := (s.modLink sw port (fun l => { l with up := true, replays := 0 })).modLink far p (fun l => { l with up := true, replays := 0 })
    let s := resend (resend s sw port none) far p none
    let held (x : Switch) : List Nat := (x.out.map (fun (e : Nat × List (Nat × Packet)) => e.1 / 4) ++ x.links.map (fun (e : Nat × Link) => e.1)).dedup
    let all := (s.dies.map (fun e => (e.1, held e.2.switch))) ++ s.modls.map (fun e => (fabricSw e.1, held e.2.fabric))
    let again (s : State) (a n : Nat) : State :=
      flushLink (if (s.link a n).up || (s.link a n).unacked.isEmpty || !detourFor s a n then s else resend s a n none) a n
    all.foldl (fun s e => e.2.foldl (fun s n => again s e.1 n) s) s

/-- LINK_RETRAIN (R355). -/
def execLinkRetrain (sw port : Nat) (s : State) : Host.Outcome State Fault Refusal := runE (linkRetrain sw port) s

/-! ### Routing by address (R352) -/

/-- The first packet of an input queue that satisfies `f`, and the state without it. -/
def takeIn (s : State) (sw port : Nat) (f : Packet → Bool) : Option (Packet × State) :=
  let q := Map.getD (s.sw sw).inq port []
  (q.find? f).map (fun p =>
    let rest := q.erase p
    let m (x : Switch) : Map (List Packet) := if rest.isEmpty then Map.erase x.inq port else Map.set x.inq port rest
    (p, s.modSw sw (fun x => { x with inq := m x })))

/-- PACKET_ROUTE (R352, R358): the head packet of a VC goes on by its target address. At its target die it enters the mesh, which takes it to its target;
what its body asks for there is internal to the part (R350), and the accesses of this model act on their targets without such packets. [log 7 DESIGN CHOICE] -/
def routePacket (sw port vc : Nat) (s : State) : State :=
  match takeIn s sw port (fun p => decide (p.kind ≠ 2 ∧ p.vc.toNat = vc)) with
  | none => s
  | some (p, s) =>
    if pktOld s p then s
    else match ((s.job p.job).entry? (ptrDie p.target)).bind entryDie with
      | none => s
      | some d => match routePort s p.job sw d with
        | some q => sendOut s sw port q p
        | none => s

/-- PACKET_ROUTE (R352). -/
def execPacketRoute (sw port vc : Nat) (s : State) : Host.Outcome State Fault Refusal := runE (routePacket sw port vc) s

/-! ### Reduction (R359) -/

/-- ⊕ on two elements: the value, and whether it overflowed. -/
def combineElem (red : BitVec 2) (ctype : BitVec 3) (x y : BitVec 64) : BitVec 64 × Bool :=
  let flt : Bool := ctype = 0 ∨ ctype = 1
  let w := if ctype = 3 then 64 else 32
  if flt then
    let a := decodeFp .f32 x.toNat
    let b := decodeFp .f32 y.toNat
    let r := if red = 0 then addFp .f32 0 0 a b else minMaxFp .f32 (red = 2) x.toNat y.toNat
    let finite (v : Fp) : Bool := match v with
      | .fin _ _ _ => true
      | _ => false
    let inf : Bool := match decodeFp .f32 r.val with
      | .inf _ => true
      | _ => false
    let v := if (decodeFp .f32 r.val).isNan then FloatFmt.f32.nan else r.val
    (BitVec.ofNat 64 v, finite a && finite b && inf)
  else
    let f := if red = 0 then intAdd w else if red = 1 then intMinS w else intMaxS w
    (BitVec.ofNat 64 (f x.toNat y.toNat), false)

/-- The merge of two packets (R359, R360). -/
def mergePkt (a b : Packet) : Packet :=
  let es := (a.elems.zip b.elems).map (fun e => combineElem a.red a.ctype e.1 e.2)
  { a with elems := es.map (fun e => e.1), leaves := a.leaves + b.leaves
           ovf := a.ovf || b.ovf || es.any (fun e => e.2), issuers := a.issuers ++ b.issuers }

/-- The canonical order of an ordered reduction (R362): `n` is one more than the level, or 0 below the last. -/
def orderedValue : Nat → List Packet → Option Packet
  | n, g =>
    let place (acc : List Packet) (p : Packet) : List Packet :=
      acc.takeWhile (fun q => decide (q.srcDie ≤ p.srcDie)) ++ [p] ++ acc.dropWhile (fun q => decide (q.srcDie ≤ p.srcDie))
    let fold (l : List Packet) : Option Packet := match l with
      | [] => none
      | p :: l => some (l.foldl mergePkt p)
    match n with
    | 0 => fold (g.foldl place [])
    | n + 1 =>
      let direct := (g.filter (fun p => decide (p.depth ≤ n))).foldl place []
      let deep := g.filter (fun p => decide (n < p.depth))
      let groups := (List.range 16).filterMap (fun v =>
        orderedValue n (deep.filter (fun p => decide (bits p.path.toNat (4 * n) 4 = v))))
      fold (direct ++ groups)

/-! ### Outcomes at the issuers (R205, R364) -/

/-- Both tiles of a pair for its primary, else the tile (R416, R417). -/
def pairTiles (s : State) (k : Nat) : List Nat :=
  match (s.tile k).twin with
  | some w => if w.primary then [k, w.partner] else [k]
  | none => [k]

/-- The issuers of a packet, with the twins of primaries. -/
def issuersOf (s : State) (p : Packet) : List (Nat × Nat) := p.issuers.flatMap (fun e => (pairTiles s e.1).map (fun k => (k, e.2)))

/-- A packet meets a run-time fault: its issuers receive STATUS 2 with a cause (R205, R353). -/
def faultPkt (s : State) (p : Packet) (cause : BitVec 8) (off : Nat) : State :=
  (issuersOf s p).foldl (fun s e => s.post (.engineFault (tileDie e.1) (tileId e.1) e.2 cause (BitVec.ofNat 40 off))) s

/-- Deliveries that an operation's route makes: each MCAST multiplies the branches that follow it (R238). -/
def collEnds (desc : BitVec 512) : Nat :=
  (List.range (cfgField desc 23 1)).foldl (fun n i =>
    let e := cfgField desc (32 + 4 * i) 4
    if bits e 28 4 = 1 then n * ((List.range 16).filter (fun p => decide (bits e p 1 = 1))).length else n) 1

/-- A packet meets a multicast to no port: nothing is left to accept what its issuers sent, where their routes deliver nowhere (R239, R364). -/
def endBranch (s : State) (p : Packet) : State :=
  (issuersOf s p).foldl (fun s e => match (s.tile e.1).eng.op? e.2 with
    | some o => if collEnds o.desc = 0 then s.post (.collComplete (tileDie e.1) (tileId e.1) e.2) else s
    | none => s) s

/-- An acknowledgement of one endpoint returns to each issuer; with the last, its operation completes (R364). -/
def ackPkt (s : State) (p : Packet) : State :=
  (issuersOf s p).foldl (fun s e =>
    match (s.tile e.1).eng.op? e.2 with
    | none => s
    | some o =>
      let o := { o with done := o.done + 1 }
      let s := setOp s e.1 o
      if o.done = collEnds o.desc then s.post (.collComplete (tileDie e.1) (tileId e.1) e.2) else s) s

/-- COLL_COMPLETE (R239, R364). -/
def completeColl (k id : Nat) (s : State) : State :=
  match (s.tile k).eng.op? id with
  | none => s
  | some o => endOp s k o

/-- COLL_COMPLETE (R364). -/
def execCollComplete (die tile op : Nat) (s : State) : Host.Outcome State Fault Refusal :=
  runE (completeColl (tileKey die tile) op) s

/-! ### A hop (R353, R360) -/

/-- The key of a slot: job, partition and SEL (R360). -/
def slotKey (p : Packet) (sel : Nat) : Nat := pktPart p * 2 ^ 16 + sel

/-- A slot is replaced, or removed. -/
def setSlot (x : Switch) (key : Nat) (r : Option RedSlot) : Switch :=
  { x with slots := match r with
    | some r => if x.slots.any (fun y => decide (y.key = key)) then x.slots.map (fun y => if y.key = key then r else y)
        else x.slots ++ [r]
    | none => x.slots.filter (fun y => y.key != key) }

/-- A packet meets a REDUCE in unordered mode: the state, and the packet that acts on the next entry, if one does (R360). [log 37 DEDUCED] -/
def reduceSlot (s : State) (sw port : Nat) (p : Packet) (sel arg : Nat) : State × Option Packet :=
  let key := slotKey p sel
  let bit := 1#16 <<< port
  match (s.sw sw).slots.find? (fun r => decide (r.key = key)) with
  | none =>
    if 256 ≤ (s.sw sw).slots.length ∨ arg ≤ p.leaves then (s, some p)
    else (s.modSw sw (fun x => setSlot x key (some { key := key, pkt := { p with contrib := bit }, expect := arg, late := false })), none)
  | some r =>
    if r.late then
      let n := r.pkt.leaves + p.leaves
      let r' := if r.expect ≤ n then none else some { r with pkt := { r.pkt with leaves := n } }
      (s.modSw sw (fun x => setSlot x key r'), some p)
    else
      let m := mergePkt r.pkt p
      let m := { m with contrib := m.contrib ||| bit }
      if r.expect ≤ m.leaves then (s.modSw sw (fun x => setSlot x key none), some { m with contrib := 0 })
      else (s.modSw sw (fun x => setSlot x key (some { r with pkt := m })), none)

/-- Whether a port of a switch leads nowhere for a packet, or is the switch's own (R353). -/
def badPort (s : State) (p : Packet) (sw port : Nat) : Bool := ownMesh sw port || (linkEnd s p.job sw port).isNone

/-- A packet acts on its op-list entries at a switch (R353); fuel covers the eight entries. -/
def actPkt : Nat → Nat → Nat → Packet → State → State
  | 0, _, _, _, s => s
  | f + 1, sw, port, p, s =>
    match p.ops with
    | [] => s
    | e :: rest =>
      let op := bits e.toNat 28 4
      let arg := bits e.toNat 16 12
      let sel := bits e.toNat 0 16
      let p := { p with ops := rest, nhop := p.nhop - 1 }
      if op = 0 then
        if badPort s p sw sel then faultPkt s p Cause.nomem.code 0 else sendOut s sw port sel p
      else if op = 1 then
        let ports := (List.range 16).filter (fun q => decide (bits sel q 1 = 1))
        let good := ports.filter (fun q => !badPort s p sw q)
        let s := if good.length < ports.length then faultPkt s p Cause.nomem.code 0 else s
        let id := (s.sw sw).nextEntry
        let s := if ports.isEmpty then endBranch s p else if good.isEmpty then s else s.modSw sw (fun x => { x with
          store := x.store ++ [{ id := id, ingress := port, pkt := p, ports := good }], nextEntry := id + 1 })
        good.foldl (fun s q =>
          let s := s.post (.mcastBranchSend sw q id)
          if portOpen s p.job sw q then s else reportHeld s sw (linkNo s p.job sw q)) s
      else if op = 2 then
        let p := { p with
          path := p.path ||| BitVec.ofNat 32 (port * 2 ^ (4 * p.depth)), depth := p.depth + 1 }
        if p.ord then actPkt f sw port p s
        else match reduceSlot s sw port p sel arg with
          | (s, some p) => actPkt f sw port p s
          | (s, none) => s
      else if isFabric sw then faultPkt s p Cause.nomem.code 0
      else s.post (.collEndpointArrival sw p)

/-- COLL_HOP (R353): the oldest collective packet of a port acts. [log 36 DESIGN CHOICE] -/
def hopColl (sw port : Nat) (s : State) : State :=
  match takeIn s sw port (fun p => decide (p.kind = 2)) with
  | none => s
  | some (p, s) => if pktOld s p then s else actPkt 9 sw port { p with det := false, ingress := 0 } s

/-- COLL_HOP (R353). -/
def execCollHop (sw port : Nat) (s : State) : Host.Outcome State Fault Refusal := runE (hopColl sw port) s

/-- The ingress of a partial: the lowest port that has contributed to it. [log 37 DEDUCED] -/
def partialPort (p : Packet) : Nat := ((List.range 16).find? (fun i => p.contrib.getLsbD i)).getD 0

/-- COLL_SLOT_TIMEOUT (R360): the partial of an open slot moves on; a LIMIT of 0 disables the time-out. -/
def slotTimeout (sw slot : Nat) (s : State) : State :=
  if (s.sw sw).collto = 0 then s
  else match (s.sw sw).slots.find? (fun r => decide (r.key = slot)) with
    | none => s
    | some r => if r.late then s
      else actPkt 9 sw (partialPort r.pkt) r.pkt (s.modSw sw (fun x => setSlot x slot (some { r with late := true })))

/-- COLL_SLOT_TIMEOUT (R360). -/
def execCollSlotTimeout (sw slot : Nat) (s : State) : Host.Outcome State Fault Refusal := runE (slotTimeout sw slot) s

/-- MCAST_BRANCH_SEND (R365): a stored packet leaves on a branch; with its last branch it leaves the store. -/
def branchSend (sw port entry : Nat) (s : State) : State :=
  match (s.sw sw).store.find? (fun e => decide (e.id = entry) && e.ports.contains port) with
  | none => s
  | some e =>
    let e' := { e with ports := e.ports.filter (fun q => q != port) }
    let s := s.modSw sw (fun x => { x with store :=
      if e'.ports.isEmpty then x.store.filter (fun y => y.id != entry) else x.store.map (fun y => if y.id = entry then e' else y) })
    if pktOld s e.pkt then s else sendOut s sw e.ingress port e.pkt

/-- MCAST_BRANCH_SEND (R365). -/
def execMcastBranchSend (sw port entry : Nat) (s : State) : Host.Outcome State Fault Refusal := runE (branchSend sw port entry) s

/-- Whether a branch of a stored packet may leave: no earlier packet of the store owes that branch (R365). -/
def branchFirst (s : State) (sw port entry : Nat) : Bool :=
  match (s.sw sw).store.find? (fun e => e.ports.contains port) with
  | some e => decide (e.id = entry)
  | none => true

/-- Whether the store has room for a packet of an ingress port; while it has none, that ingress accepts nothing more (R365). -/
def storeRoom (s : State) (sw port : Nat) : Bool :=
  decide (((s.sw sw).store.filter (fun e => decide (e.ingress = port))).length < Config.mcastRoom)

/-! ### Endpoints (R239, R361, R362) -/

/-- The bytes that a result delivers, converted to its type, and whether the conversion overflowed (R359, R361). -/
def resultBytes (p : Packet) : List Byte × Bool :=
  if p.ctype = 1 ∧ p.red ≠ 3 then
    let l := p.elems.map (fun x =>
      let r := cvtFF .f32 .bf16 0 false 0 x.toNat
      let inf (f : FloatFmt) (v : Nat) : Bool := match decodeFp f v with
        | .inf _ => true
        | _ => false
      (r.val, inf .bf16 r.val && !inf .f32 x.toNat))
    (l.flatMap (fun e => bytesOfNat 2 e.1), l.any (fun e => e.2))
  else (p.elems.flatMap (fun x => bytesOfNat (pktWire p) x.toNat), false)

/-- The address of a packet's delivery in the windows of endpoint tile `t` (R239, R350). -/
def deliverPtr (s : State) (t : Nat) (p : Packet) : Word :=
  let off := bits p.dst.toNat 0 21
  let base := if bits p.dst.toNat 31 1 = 0 then 0x8000000000 + tileId t * 2 ^ 20 else 0xC000000000 + tileId t * 2 ^ 21
  ptrWithDie (BitVec.ofNat 64 (base + off)) ((s.job p.job).virtual (tileDie t))

/-- A delivery at endpoint tile `t`: the elements are stored for the first issuer, an entry of TYPE 0x01 is posted, the
issuers are acknowledged (R239, R364). [log 37 DEDUCED] -/
def deliverPkt (t : Nat) (p : Packet) (s : State) : State :=
  let (bs, wrap) := resultBytes p
  let ovf := p.ovf || wrap
  let k := (p.issuers.head?.map (fun e => e.1)).getD t
  let store (t : Nat) : A Unit := writeRaw { tile := if k = s.idKey t then t else k, ctx := 0, engine := true }
    (accAt (deliverPtr s t p) 0 bs.length 1 .store) bs
  let all : A Unit := if k = t then eachA (pairTiles s t) store else store t
  match all s with
  | .ok _ s =>
    let s := (pairTiles s t).foldl (fun s t => notify s t (opPayload (if ovf then 1 else 0) 0 0) p.tag 0 0x01) s
    ackPkt s p
  | .error (.trap c v) s => faultPkt s p c.code (ptrOff v)
  | .error (.contain c v) s => (issuersOf s p).foldl (fun s e => match (s.tile e.1).eng.op? e.2 with
    | some o => containEnd s e.1 o c v
    | none => s) s
  | .error .stall s => { s with pending := .collEndpointArrival (tileDie t) { p with
      ovf := ovf, red := 3, ctype := 4, count := bs.length, elems := bs.map (fun b => b.setWidth 64) } :: s.pending }
  | .error _ s => s

/-- The key of an endpoint's context (R361). -/
def endKey (p : Packet) : Nat := (pktPart p * 1024 + p.srcTile) * 2 ^ 16 + p.tag.toNat

/-- COLL_ENDPOINT_ARRIVAL (R361, R362): a contribution joins its context; with the last one the result is delivered. A
packet that no reduction concerns is delivered at once. [log 37 DEDUCED] -/
def endArrive (d : Nat) (p : Packet) (s : State) : State :=
  let t := tileKey d p.srcTile
  let key := endKey p
  if pktOld s p then s
  else if p.red = 3 then deliverPkt t p s
  else if p.ord then
    let cs := (s.die d).ordered
    let put (s : State) (o : OrdCtx) : State := s.modDie d (fun x => { x with
      ordered := x.ordered.filter (fun y => y.key != key) ++ [o] })
    let finish (s : State) (l : List Packet) : State :=
      match orderedValue ((l.map (fun p => p.depth)).foldl max 0) l with
      | some m => deliverPkt t m (put s { key := key, leaves := l.take 1, total := 0 })
      | none => s
    match cs.find? (fun o => decide (o.key = key)) with
    | some o =>
      if o.total = 0 then faultPkt s p Cause.illfmt.code 0
      else
        let l := o.leaves ++ [p]
        if o.total ≤ l.length then finish s l else put s { o with leaves := l }
    | none =>
      if Config.orderedContexts ≤ (cs.filter (fun o => decide (o.total ≠ 0))).length then faultPkt s p Cause.nomem.code 0
      else if p.total ≤ 1 then finish s [p] else put s { key := key, leaves := [p], total := p.total }
  else
    let cs := (s.die d).endpoints
    let put (s : State) (r : RedSlot) : State := s.modDie d (fun x => { x with
      endpoints := x.endpoints.filter (fun y => y.key != key) ++ [r] })
    let arrived (s : State) (m : Packet) : State :=
      if p.total ≤ m.leaves then deliverPkt t m (put s { key := key, pkt := { m with elems := [] }, expect := p.total, late := true })
      else put s { key := key, pkt := m, expect := p.total, late := false }
    match cs.find? (fun r => decide (r.key = key)) with
    | some r => if r.late then faultPkt s p Cause.illfmt.code 0 else arrived s (mergePkt r.pkt p)
    | none =>
      if Config.reduceSlots ≤ (cs.filter (fun r => !r.late)).length then faultPkt s p Cause.nomem.code 0 else arrived s p

/-- COLL_ENDPOINT_ARRIVAL (R361). -/
def execCollEndpointArrival (die : Nat) (pkt : Packet) (s : State) : Host.Outcome State Fault Refusal := runE (endArrive die pkt) s

end Sys2Proof.Machine
end

