-- ==== Sys2Proof/Machine/Net.lean ====
section
/-! DEFINITION. The network instructions COLL (R237 to R239, R354) and MSG (R240); PUT and GET stand in Copy.lean. -/

namespace Sys2Proof.Machine

/-! ### COLL (R237 to R239, R354) -/

/-- The element size of a TYPE (R237). -/
def collSize (ctype : Nat) : Nat :=
  match ctype with
  | 0 => 4
  | 1 => 2
  | 2 => 4
  | 3 => 8
  | _ => 1

/-- Entry `i` of the op list of a descriptor (R238). -/
def collEntry (bs : List Byte) (i : Nat) : Nat := descField bs (32 + 4 * i) 4

/-- Whether an entry of the op list is well formed; the last of `n`, and it alone, is DELIVER (R238). -/
def entryOk (n i e : Nat) : Bool :=
  let op := bits e 28 4
  let arg := bits e 16 12
  let sel := bits e 0 16
  if n ≤ i then decide (e = 0)
  else if op = 3 then decide (i + 1 = n ∧ arg = 0 ∧ sel = 0)
  else decide (i + 1 < n) && (if op = 0 then decide (arg = 0 ∧ sel < 16)
    else if op = 1 then decide (arg = 0) else decide (op = 2 ∧ 1 ≤ arg))

/-- TOTAL: the ARG of the last REDUCE, or 1 (R354). -/
def collTotal (bs : List Byte) : Nat :=
  (List.range (descField bs 23 1)).foldl (fun n i =>
    if bits (collEntry bs i) 28 4 = 2 then bits (collEntry bs i) 16 12 else n) 1

/-- Whether a descriptor follows R237, R238 and R354. -/
def collOk (s : State) (k : Nat) (bs : List Byte) : Bool :=
  let src := descPtr bs 0
  let dst := descPtr bs 8
  let count := descField bs 16 4
  let ctype := descField bs 20 1
  let red := descField bs 21 1
  let n := descField bs 23 1
  let z := collSize ctype
  let total := collTotal bs
  let reduces := (List.range n).any (fun i => decide (bits (collEntry bs i) 28 4 = 2))
  let wire := if ctype = 3 then 8 else 4
  let own : Bool := match (resolveDie s k src).map (fun d => spotFor s d k (ptrOff src)) with
    | some (.spad t _) | some (.vault t _) => decide (t = k)
    | _ => false
  let aliasOk : Bool := decide ((0x9000000000 ≤ ptrOff dst ∧ ptrOff dst < 0x9000100000)
    ∨ (0xD000000000 ≤ ptrOff dst ∧ ptrOff dst < 0xD000200000))
  fmtOk src && own && fmtOk dst && decide (ptrDie dst = 0xFFFF) && aliasOk
    && decide (1 ≤ count ∧ count * z ≤ 1024 ∧ ctype ≤ 4 ∧ red ≤ 3 ∧ (ctype = 4 → red = 3))
    && decide (descField bs 22 1 < 2 ∧ 1 ≤ n ∧ n ≤ 8 ∧ descField bs 26 6 = 0)
    && (List.range 8).all (fun i => entryOk n i (collEntry bs i))
    && decide (¬ (red = 3 ∧ reduces)) && decide (¬ (ctype = 1 ∧ red ≠ 3 ∧ 256 < count))
    && decide (¬ (descField bs 22 1 = 1 ∧ 65536 < total * count * wire))

/-- The elements of a contribution: BF16 is widened to F32 where it is reduced (R359). [log 37 DEDUCED] -/
def collElems (ctype red : Nat) (data : List Byte) : List (BitVec 64) :=
  let z := collSize ctype
  (List.range (data.length / z)).map (fun i =>
    let x := natOfBytes ((data.drop (z * i)).take z)
    BitVec.ofNat 64 (if ctype = 1 ∧ red ≠ 3 then x * 65536 else x))

/-- The packet of a descriptor (R350, R354). -/
def collPacket (s : State) (k id : Nat) (bs data : List Byte) : Packet :=
  let dst := descPtr bs 8
  let n := descField bs 23 1
  let vault := decide (0xD000000000 ≤ ptrOff dst)
  let (part, job, gen) := match (s.tile k).work with
    | some u => (u.part % 256, u.job, (s.part u.barKey).gen)
    | none => (0, 0, 0)
  { kind := 2, vc := 2, ord := descField bs 22 1 = 1, ovf := false, det := false, nhop := n, part := part, job := job
    gen := gen, ingress := 0, srcDie := s.dieId k, srcTile := tileId k, tag := BitVec.ofNat 16 (descField bs 24 2)
    count := descField bs 16 4, leaves := 1, total := collTotal bs, contrib := 0, ctype := BitVec.ofNat 3 (descField bs 20 1)
    red := BitVec.ofNat 2 (descField bs 21 1)
    dst := BitVec.ofNat 32 ((if vault then 2 ^ 31 else 0) + ptrOff dst % 2 ^ 21), path := 0
    ops := (List.range n).map (fun i => BitVec.ofNat 32 (collEntry bs i))
    elems := collElems (descField bs 20 1) (descField bs 21 1) data, target := 0, op := id, depth := 0, issuers := [(k, id)]
    body := [] }

/-- A packet is injected into its die switch on the own-mesh port (R349). -/
def injectPkt (s : State) (k : Nat) (p : Packet) : State := arrivePkt s (tileDie k) (tileDie k % 8) p

/-- COLL (R237 to R239). The packet of a pair is injected once (R417). [log 37 DEDUCED] -/
def execColl (a : BitVec 5) (w : BitVec 3) (s : State) : Host.Outcome State Fault Refusal :=
  runM (do
    let p ← regS a
    let bs ← ownDesc p 64
    if collOk s s.curKey bs = false then trapM .illfmt p
    let r ← requester
    let k := s.curKey
    let src := descPtr bs 0
    let n := descField bs 16 4 * collSize (descField bs 20 1)
    liftA (needAll r (24 :: bytesNeed s k ((resolveDie s k src).getD (tileDie k)) (ptrOff src) n))
    liftA (bookedRange r src n)
    let wire := if descField bs 20 1 = 1 ∧ descField bs 21 1 ≠ 3 then 2 * n else n
    tokenRoom w.toNat
    match ← tryA (readRaw { r with engine := true } (accAt src 0 n 1 .load)) with
    | .ok data => do
      let _ ← liftA (paired r (bs ++ data) (pure []))
      let id ← issueOp { newOp s .coll w with desc := BitVec.ofNat 512 (natOfBytes bs), regs := issueRegs s [0, a] }
      injectBytes (64 * (1 + (wire + 63) / 64))
      if s.idKey k = k then modS (fun s => injectPkt s k (collPacket s k id bs data))
    | .error (.trap c v) => do
      let id ← issueOp { newOp s .coll w with desc := BitVec.ofNat 512 (natOfBytes bs), regs := issueRegs s [0, a] }
      modS (fun s => s.post (.engineFault s.cur.die s.cur.tile id c.code (BitVec.ofNat 40 (ptrOff v))))
    | .error e => throw e.stop) s

/-! ### MSG (R240) -/

/-- The tile that a target pointer of MSG names. -/
def msgTarget (s : State) (k : Nat) (p : Word) (d : Nat) : Option Nat :=
  let off := ptrOff p
  if 0x8000000000 ≤ off ∧ off < 0x8040000000 then
    let t := tileKey d ((off - 0x8000000000) / 2 ^ 20)
    some (if t = s.idKey k then k else t)
  else if 0x9000000000 ≤ off ∧ off < 0x9000100000 ∧ d = tileDie (s.idKey k) then some k
  else none

/-- The die whose tile windows a pointer of MSG reaches; an ADOPTED index has none (R426). -/
def msgDie (s : State) (k : Nat) (p : Word) : Option Nat :=
  let adopted : Bool := match (s.tile k).work with
    | some u => ((s.job u.job).entry? (ptrDie p)).any entryAdopted
    | none => false
  if adopted then none else resolveDie s k p

/-- MSG (R240). -/
def execMsg (d a b : BitVec 5) (s : State) : Host.Outcome State Fault Refusal :=
  runM (do
    let p ← regS d
    let payload ← regS a
    let tag ← regS b
    liftA (checkFmt p none)
    require (decide (bits tag.toNat 16 48 = 0)) (wordOf (.msg d a b))
    let k := s.curKey
    match msgDie s k p with
    | none => trapM .nomem p
    | some die =>
      match msgTarget s k p die with
      | none => trapM .nomem p
      | some t =>
        let mine := match s.unit? with
          | some u => decide (t = k) || s.tileInJob t u.job
          | none => false
        if mine = false then throw (.contain .perm p 0)
        liftA (needAll (← requester) [24])
        if Config.heldMessages ≤ s.curTile.io.msgs.length then throw .retry
        if die ≠ tileDie (s.idKey k) then injectBytes 64
        let m : HeldMsg := { src := k, tile := s.idKey t, tag := tag.setWidth 16, payload := payload }
        modS (fun s => s.modIo k (fun io => { io with msgs := io.msgs ++ [m] }))) s

end Sys2Proof.Machine
end

