-- ==== Sys2Proof/Machine/Save.lean ====
section
/-! DEFINITION. What a save of a job holds, how its parts move to other dies, and how it is loaded (R390 to R405, R410). -/

namespace Sys2Proof.Machine

/-! ### What belongs to a job -/

/-- The barriers of a job: its partitions, and the implicit supersteps of its WP and PAR launches. -/
def jobBars (s : State) (j : Nat) : List Nat :=
  (s.job j).parts ++ (s.launches.filter (fun e => decide (e.2.job = j) && decide (e.2.phase = .running)
    && decide (blockField e.2.block 20 1 ≠ 2))).map (fun e => implicitKey e.1)

/-- The tiles that hold a unit of a job. -/
def jobTiles (s : State) (j : Nat) : List Nat :=
  (s.tiles.filter (fun e => match e.2.work with
    | some u => decide (u.job = j)
    | none => false)).map (fun e => e.1)

/-- Whether an event in flight belongs to a job as a whole, and travels with its save. -/
def jobEvent (s : State) (j : Nat) : Instr → Bool
  | .barrierRecord g _ _ _ _ => decide (barJob s g = j)
  | .unitPlace l => decide ((Map.get? s.launches l).map (fun x => x.job) = some j)
  | .conLaunchStart l => decide ((Map.get? s.launches l).map (fun x => x.job) = some j)
  | .dispatchCheck l => decide ((Map.get? s.launches l).map (fun x => x.job) = some j)
  | .continuationReady p _ => decide (p / 256 = j)
  | .continuationResume p => decide (p / 256 = j)
  | .workUnitStart d t => (jobTiles s j).contains (tileKey d t)
  | .resumeBroadcast d t => (jobTiles s j).contains (tileKey d t)
  | _ => false

/-- Whether an event in flight belongs to one of the tiles of a job. -/
def jobTileEvent (s : State) (j : Nat) (e : Instr) : Bool :=
  (jobTiles s j).any (fun k => tileEvent (tileDie k) (tileId k) e) || (match e with
    | .stagingEntryComplete d t _ => (jobTiles s j).contains (tileKey d t)
    | .inboxHeldDeliver d t => (jobTiles s j).contains (tileKey d t)
    | .slotBoundary d t => (jobTiles s j).contains (tileKey d t)
    | _ => false)

/-- A switch, cut to the packets of a job; its links stay. -/
def cutSwitch (j : Nat) (x : Switch) : Switch :=
  let mine (p : Packet) : Bool := decide (p.job = j)
  { inq := [], out := x.out.map (fun (e : Nat × List (Nat × Packet)) => (e.1, e.2.filter (fun p => mine p.2)))
    slots := x.slots.filter (fun r => mine r.pkt), store := x.store.filter (fun r => mine r.pkt), nextEntry := x.nextEntry
    sweep := x.sweep }

/-- A switch without the packets of a job. -/
def clearSwitch (j : Nat) (x : Switch) : Switch :=
  let other (p : Packet) : Bool := decide (p.job ≠ j)
  { x with inq := x.inq.map (fun (e : Nat × List Packet) => (e.1, e.2.filter other))
           out := x.out.map (fun (e : Nat × List (Nat × Packet)) => (e.1, e.2.filter (fun p => other p.2)))
           slots := x.slots.filter (fun r => other r.pkt), store := x.store.filter (fun r => other r.pkt), sweep := none }

/-- The offsets of the HBM window that the tables of a function map on a die, by the size in which they are copied; what the agent has cached plays
no part. -/
def mappedOffs (s : State) (q : TrReq) : List (Nat × Nat) :=
  let s := { s with keeps := [] }
  let look {α : Type} (x : W α) : Option α := match x [] with
    | .ok a _ => some a
    | .error _ _ => none
  let t := s.tctx q.die q.fn
  let root := if q.sub then tctxField t 8 8 else tctxField t 0 8
  (List.range 256).flatMap (fun i =>
    let loc := root + 8 * i
    match look (do
      let a1 ← tableAt s q loc loc
      let t1 ← liftW (walkTable (read8 s q.die a1) a1 1 0 2 4096)
      pure (a1, t1)) with
    | none => []
    | some (a1, t1) => (List.range 512).flatMap (fun n =>
      let base := i * 2 ^ 30 + n * 2 ^ 21
      match look (tableAt s q a1 (t1 + 8 * n)) with
      | none => []
      | some a0 => if bits (read8 s q.die a0) 0 1 = 0 then []
        else if q.sub then (List.range 2048).map (fun k => (base + 1024 * k, 1024))
        else (List.range 32).map (fun k => (base + 65536 * k, 65536))))

/-- The granules, of HBM or of host memory, in which the pages of a function on a die lie, as seals name them. -/
def mappedGranules (s : State) (d fn : Nat) : List Nat :=
  let one (sub : Bool) : List Nat :=
    let q := { hwReq d fn with sub := sub }
    (mappedOffs s q).filterMap (fun o => match walk { s with keeps := [] } q o.1 with
      | .ok l => match l.home with
        | .hbm a => some (a / 65536)
        | .host port a => some (hostGranule port a)
      | .error _ => none)
  one false ++ one true

/-- The record of a die, cut to a job: its barriers' logs, its tiles' waits, its packets, the seals of its pages, the accounts of its partitions
(R401). -/
def cutDie (s : State) (j d : Nat) (x : Die) : Die :=
  let bars := jobBars s j
  let tiles := jobTiles s j
  let pages := if x.seals = [] then [] else mappedGranules s d (s.job j).fn
  { x with seals := x.seals.filter pages.contains
           lq := x.lq.filter (fun q => (s.job j).parts.contains (j * 256 + q.1))
           undo := x.undo.filter (fun r => bars.contains r.part), irrevocable := x.irrevocable.filter (fun r => bars.contains r.1)
           sealLog := x.sealLog.filter (fun r => bars.contains r.1), switch := cutSwitch j x.switch
           endpoints := x.endpoints.filter (fun r => decide (r.pkt.job = j))
           ordered := x.ordered.filter (fun o => o.leaves.any (fun p => decide (p.job = j)))
           waiters := x.waiters.filter (fun w => tiles.contains w.tile), feQ := x.feQ.filter (fun q => tiles.contains q.2.1)
           parked := [] }

/-- Whether an address of `mem` lies in a window of one of the tiles. -/
def inTiles (tiles : List Nat) (a : Nat) : Bool :=
  let o := a % 2 ^ 40
  if 0x8000000000 ≤ o ∧ o < 0x8040000000 then tiles.contains (tileKey (a / 2 ^ 40) ((o - 0x8000000000) / 2 ^ 20))
  else decide (0xC000000000 ≤ o ∧ o < 0xC080000000) && tiles.contains (tileKey (a / 2 ^ 40) ((o - 0xC000000000) / 2 ^ 21))

/-- The save of module index `i` of a job, MODID `m`, as the job stands (R390 to R403). [log 39 DESIGN CHOICE, 68 DESIGN CHOICE] -/
def makeSave (s : State) (j i m hbm : Nat) (ck : Nat) (area : List (Nat × Nat)) (keeper : Option Nat) : Save :=
  let tiles := (jobTiles s j).filter (fun k => decide (tileDie k / 8 = m))
  let dies := (s.job j).dies.filter (fun d => decide (d / 8 = m))
  let bars := jobBars s j
  let launches := s.launches.filter (fun e => decide (e.2.job = j))
  let held (l : List Nat) : List Nat := l.filter (fun k => launches.any (fun e => decide (e.1 = k)))
  let lostBy (x : Switch) : Bool := match x.sweep with
    | some w => w.lost
    | none => false
  let late (x : Switch) : Nat := match x.sweep with
    | some w => w.late.length
    | none => 0
  { job := s.job j, index := i, modl := m, parts := s.parts.filter (fun e => bars.contains e.1)
    tiles := s.tiles.filter (fun e => tiles.contains e.1), launches := launches
    mem := s.mem.filter (fun c => inTiles tiles c.1 || (decide (hbm ≠ 0) && dies.contains (c.1 / 2 ^ 40)
      && decide (c.1 % 2 ^ 40 < 0x4000000000)))
    full := s.full.filter (inTiles tiles), dies := dies.map (fun d => (d, cutDie s j d (s.die d)))
    fabric := cutSwitch j (s.modl m).fabric
    held := (s.modl m).heldLaunches.map (fun (e : Nat × List Nat) => (e.1, held e.2))
    events := if i = 0 then s.pending.filter (jobEvent s j) else []
    hbm := hbm, lost := lostBy (s.modl m).fabric || dies.any (fun d => lostBy (s.die d).switch)
    late := late (s.modl m).fabric + (dies.map (fun d => late (s.die d).switch)).sum
    ck := ck, area := area, keeper := keeper, buddy := false, host := false }

/-! ### Moving to other dies (R402, R410) -/

/-- Where the dies, the modules and the bytes of HBM of a saved job lie now: pieces give the HPA before, the size, the HPA
now. -/
structure Move where
  die : Nat → Nat
  modl : Nat → Nat
  pieces : Nat → List (Nat × Nat × Nat)

/-- The place of an HPA among pieces. -/
def pieceAt (l : List (Nat × Nat × Nat)) (a : Nat) : Option Nat :=
  (l.find? (fun p => decide (p.1 ≤ a ∧ a < p.1 + p.2.1))).map (fun p => p.2.2 + (a - p.1))

def Move.hbm (v : Move) (d a : Nat) : Option Nat := pieceAt (v.pieces d) a
def Move.tile (v : Move) (k : Nat) : Nat := tileKey (v.die (tileDie k)) (tileId k)
def Move.launch (v : Move) (l : Nat) : Nat := launchKey (v.modl (l / 2 ^ 32)) (l % 2 ^ 32)
def Move.bar (v : Move) (g : Nat) : Nat := if g < 2 ^ 80 then g else implicitKey (v.launch (g - 2 ^ 80))
def Move.member (v : Move) (c : Nat) : Nat := groupMember (v.tile (c / 16)) (c % 16)
def Move.node (v : Move) (n : Nat) : Nat :=
  if n < 2 ^ 40 then v.die n else if n < 2 ^ 41 then modNode (v.modl (n - 2 ^ 40)) else n
def Move.child (v : Move) (n c : Nat) : Nat := if n < 2 ^ 40 then v.tile c else v.node c

/-- The place of a byte of `mem`. -/
def Move.key (v : Move) (a : Nat) : Option Nat :=
  let d := a / 2 ^ 40
  let o := a % 2 ^ 40
  if o < 0x4000000000 then (v.hbm d o).map (hbmKey (v.die d)) else some (v.die d * 2 ^ 40 + o)

/-- A map under other keys. -/
def moveKeys {α : Type} (f : Nat → Nat) (m : Map α) : Map α := m.foldl (fun n e => Map.set n (f e.1) e.2) []

def Move.origin (v : Move) (o : Origin) : Origin := { o with tile := v.tile o.tile }
def Move.packet (v : Move) (p : Packet) : Packet := { p with issuers := p.issuers.map (fun e => (v.tile e.1, e.2)) }
def Move.msg (v : Move) (m : HeldMsg) : HeldMsg := { m with src := v.tile m.src, tile := v.tile m.tile }

/-- A wait at a word or at a ring, in its new place. -/
def Move.wait (v : Move) : Wait → Wait
  | .fe key fn d x => .fe ((v.key key).getD key) fn d x
  | .ring block => .ring ((v.key block).getD block)
  | w => w

/-- A tile of a save in its new place. -/
def Move.tileState (v : Move) (t : Tile) : Tile :=
  { t with work := t.work.map (fun u => { u with launch := v.launch u.launch, modl := v.modl u.modl })
           ctxs := mapV t.ctxs (fun x => { x with origin := x.origin.map v.origin, wait := x.wait.map v.wait })
           twin := t.twin.map (fun w => { w with partner := v.tile w.partner })
           io := { t.io with msgs := t.io.msgs.map v.msg } }

/-- A node of a barrier tree in its new place. -/
def Move.nodeState (v : Move) (n : Nat) (x : BarrierNode) : BarrierNode :=
  { x with children := x.children.map (v.child n), recs := moveKeys (v.child n) x.recs
           reported := (x.reported.map (v.child n)).foldl insertNat [] }

/-- A group in its new place. -/
def Move.group (v : Move) (g : Group) : Group :=
  let f (l : List Nat) : List Nat := (l.map v.member).foldl insertNat []
  { g with members := f g.members, joining := f g.joining, arrived := f g.arrived }

/-- A partition of a save in its new place. -/
def Move.part (v : Move) (p : Partition) : Partition :=
  let groups (m : Map Group) : Map Group := m.map (fun (e : Nat × Group) => (e.1, v.group e.2))
  { p with reserved := p.reserved.filterMap (fun e => (v.hbm e.1 e.2.1).map (fun a => (v.die e.1, a, e.2.2)))
           gang := p.gang.map v.tile, launch := p.launch.map v.launch, members := p.members.map v.tile
           nodes := moveKeys v.node (p.nodes.map (fun (e : Nat × BarrierNode) => (e.1, v.nodeState e.1 e.2)))
           groups := groups p.groups, groupsAt := groups p.groupsAt
           records := p.records.map (fun r => { r with origin := v.origin r.origin, launch := v.launch r.launch }), msgs := p.msgs.map v.msg }

/-- A switch of a save in its new place. -/
def Move.switch (v : Move) (x : Switch) : Switch :=
  let seg (l : List Swept) : List Swept := l.map (fun e => { e with pkt := v.packet e.pkt })
  { x with out := x.out.map (fun (e : Nat × List (Nat × Packet)) => (e.1, e.2.map (fun p => (p.1, v.packet p.2))))
           slots := x.slots.map (fun r => { r with pkt := v.packet r.pkt }), store := x.store.map (fun r => { r with pkt := v.packet r.pkt })
           sweep := x.sweep.map (fun w => { w with main := seg w.main, late := seg w.late, overflow := seg w.overflow }) }

/-- An event of a save in its new place. -/
def Move.event (v : Move) : Instr → Instr
  | .barrierRecord g l n c r => .barrierRecord (v.bar g) l (v.node n) (v.child n c) r
  | .unitPlace l => .unitPlace (v.launch l)
  | .conLaunchStart l => .conLaunchStart (v.launch l)
  | .dispatchCheck l => .dispatchCheck (v.launch l)
  | .workUnitStart d t => .workUnitStart (v.die d) t
  | .resumeBroadcast d t => .resumeBroadcast (v.die d) t
  | e => e

/-! ### The HBM image (R402) -/

/-- The pieces of HBM of a die that the translations of a function give before and now: the HPA before, the size, the HPA
now. Policy pages are left to `movePolicy`. -/
def imagePieces (old new : State) (fn d e : Nat) : List (Nat × Nat × Nat) :=
  let one (sub : Bool) : List (Nat × Nat × Nat) :=
    let q := { hwReq d fn with sub := sub }
    let old := { old with keeps := [] }
    let new := { new with keeps := [] }
    (mappedOffs old q).filterMap (fun o => match walk old q o.1, walk new { q with die := e } o.1 with
      | .ok a, .ok b => match a.policy || b.policy, a.home, b.home with
        | false, .hbm x, .hbm y => some (x, o.2, y)
        | _, _, _ => none
      | _, _ => none)
  one false ++ one true

/-- The pieces of policy backings: each page's slots and draft take free frames of the group's pool on the target, one for
each distinct backing, and its descriptor is rebuilt (R402). -/
def movePolicy (old : State) (fn d e : Nat) (s : State) : State × List (Nat × Nat × Nat) :=
  let q := hwReq d fn
  (mappedOffs old q).foldl (fun (acc : State × List (Nat × Nat × Nat)) o =>
    let (s, l) := acc
    match walk old q o.1, walk s { q with die := e } o.1 with
    | .ok a, .ok b => match decide (o.1 % 2 ^ 21 = 0) && a.policy && b.policy, a.home, b.home with
      | true, .hbm x, .hbm y =>
        let g := readAt old d (x + 40) 1
        match groupDesc old d g, groupDesc s e g with
        | some og, some ng =>
          let take (acc : State × List (Nat × Nat × Nat)) (f : Nat) : State × List (Nat × Nat × Nat) :=
            let (s, l) := acc
            let n := groupPooln s e ng
            if l.any (fun p => decide (p.1 = f)) ∨ n = 0 then (s, l)
            else (writeAt s e (ng + 44) 4 (n - 1), l ++ [(f, 2 ^ 21, readAt s e (groupPool s e ng + 8 * (n - 1)) 8)])
          let draft := bits (readAt old d x 8) 21 17 * 2 ^ 21
          let words := (List.range 4).map (fun i => slotWord old d x i)
          let frames := (words.filter slotValid).map slotFrame ++ (if draft = 0 then [] else [draft])
          let (s, l) := frames.foldl take (s, l)
          let now (f : Nat) : Nat := ((l.find? (fun p => decide (p.1 = f))).map (fun p => p.2.2)).getD 0
          let s := (indexed 0 words).foldl (fun s w => writeAt s e (y + 8 + 8 * w.1) 8
            (if slotValid w.2 then slotVer w.2 * 2 ^ 48 + now (slotFrame w.2) + bits w.2 0 2 else 0)) s
          let s := writeAt (writeAt s e y 8 (if draft = 0 then 0 else now draft)) e (y + 40) 1 g
          (writeAt (writeAt s e (ng + 40) 2 (groupLatest old d og)) e (ng + 42) 2 (groupOldest old d og), l)
        | _, _ => (s, l)
      | _, _, _ => (s, l)
    | _, _ => (s, l)) (s, [])

/-- Whether the image of a save holds an HPA: every byte, or those of dirty granules (R383, R409). [log 39 DESIGN CHOICE] -/
def Save.holds (x : Save) (d a : Nat) : Bool :=
  decide (x.hbm = 1) || (decide (x.hbm = 2) && (Map.getD x.dies d {}).dirty.contains (a / 65536))

/-! ### Loading (R404) -/

/-- The image of a die is loaded: target bytes that it covers become those of the save, with their tags, under the key of the
function on the target. -/
def loadHbm (x : Save) (d e fn : Nat) (l : List (Nat × Nat × Nat)) (s : State) : State :=
  let back := l.map (fun p => (p.2.2, p.2.1, p.1))
  let covers (a : Nat) : Bool := match pieceAt back a with
    | some o => x.holds d o
    | none => false
  let s := { s with mem := s.mem.filter (fun c => !(decide (c.1 / 2 ^ 40 = e) && decide (c.1 % 2 ^ 40 < 0x4000000000)
    && covers (c.1 % 2 ^ 40))) }
  let mem := (x.mem.filter (fun c => decide (c.1 / 2 ^ 40 = d))).foldl (fun m c =>
    if 0x4000000000 ≤ c.1 % 2 ^ 40 ∨ x.holds d (c.1 % 2 ^ 40) = false then m
    else match pieceAt l (c.1 % 2 ^ 40) with
      | some a => Memory.write m (hbmKey e a) c.2
      | none => m) s.mem
  let s := { s with mem := mem }
  let key := tctxField (s.tctx e fn) 40 1
  let old := Map.getD x.dies d {}
  let sectors := l.flatMap (fun p => ((List.range ((p.2.1 + 31) / 32)).filter (fun i => x.holds d (p.1 + 32 * i))).map (fun i => p.2.2 / 32 + i))
  let tags := old.tags.filterMap (fun t => if x.holds d (32 * t.1) then (pieceAt l (32 * t.1)).map (fun a => (a / 32, t.2)) else none)
  s.modDie e (fun y => { y with
    tags := tags.foldl (fun m (t : Nat × BitVec 4) => Map.set m t.1 t.2) (y.tags.filter (fun t => !covers (32 * t.1))),
    sectorKeys := sectors.foldl (fun m i => Map.set m i key) y.sectorKeys,
    dirty := if y.dtctl then (sectors.map (fun i => i / 2048)).foldl insertNat y.dirty else y.dirty,
    syndromes := y.syndromes.filter (fun t => !covers (32 * t.1)) })

/-- The records of a die are loaded: logs, seals, waits of the queue controller, endpoint contexts, link quotas, and what its
switch held (R401, R404). -/
def loadDie (v : Move) (x : Save) (d : Nat) (s : State) : State :=
  let old := Map.getD x.dies d {}
  let sealNow (g : Nat) : Option Nat := if g < 2 ^ 80 then (v.hbm d (g * 65536)).map (fun a => a / 65536) else some g
  let late := old.switch.slots.map (fun r => { r with pkt := v.packet r.pkt })
  s.modDie (v.die d) (fun y => { y with
    undo := y.undo ++ old.undo.filterMap (fun r => (v.hbm d (r.line * 64)).map (fun a =>
      { r with part := v.bar r.part, line := a / 64 }))
    irrevocable := y.irrevocable ++ old.irrevocable.map (fun r => (v.bar r.1, r.2))
    seals := (old.seals.filterMap sealNow).foldl insertNat y.seals
    sealLog := y.sealLog ++ old.sealLog.filterMap (fun r => (sealNow r.2.1).map (fun g => (v.bar r.1, g, r.2.2)))
    lq := old.lq.foldl (fun m q => Map.set m q.1 q.2) y.lq
    waiters := y.waiters ++ old.waiters.filterMap (fun w => (v.key w.block).map (fun b => { w with block := b, tile := v.tile w.tile }))
    feQ := y.feQ ++ old.feQ.filterMap (fun q => (v.key q.1).map (fun a => (a, v.tile q.2.1, q.2.2)))
    endpoints := y.endpoints ++ old.endpoints.map (fun r => { r with pkt := v.packet r.pkt })
    ordered := y.ordered ++ old.ordered.map (fun o => { o with leaves := o.leaves.map v.packet })
    switch := { y.switch with slots := y.switch.slots ++ late } })

/-- Tile memories and tile records are loaded (R404, step 3). -/
def loadTiles (v : Move) (x : Save) (s : State) : State :=
  let tiles := x.tiles.map (fun (e : Nat × Tile) => v.tile e.1)
  let s := { s with mem := s.mem.filter (fun c => !inTiles tiles c.1), full := s.full.filter (fun a => !inTiles tiles a) }
  let s := { s with
    mem := x.mem.foldl (fun m c => if 0x4000000000 ≤ c.1 % 2 ^ 40 then match v.key c.1 with
      | some a => Memory.write m a c.2
      | none => m else m) s.mem
    full := (x.full.filterMap v.key).foldl insertNat s.full }
  x.tiles.foldl (fun s e => s.setTile (v.tile e.1) (v.tileState e.2)) s

/-- What job-wide records hold: partitions, launches, the launches held by a module, events (R401). Held launches are examined again, those too whose check
waited for a page service. -/
def loadJob (v : Move) (j : Nat) (x : Save) (s : State) : State :=
  let fault (f : FirstFault) : FirstFault := { f with tile := v.tile f.tile }
  let launch (l : Launch) : Launch :=
    { l with modl := v.modl l.modl, job := j, fault := l.fault.map fault, runFault := l.runFault.map fault }
  let parts := x.parts.foldl (fun m e => Map.set m (v.bar e.1) (v.part e.2)) s.parts
  let launches := x.launches.foldl (fun m e => Map.set m (v.launch e.1) (launch e.2)) s.launches
  let s := { s with parts := parts, launches := launches }
  let s := { s with pending := s.pending ++ x.events.map v.event }
  (x.launches.filter (fun e => decide (e.2.phase = .held))).foldl (fun s e =>
    let check := Instr.dispatchCheck (v.launch e.1)
    if s.pending.contains check then s else s.post check) s

/-- Launches that a module's dispatcher held (R401). -/
def loadHeld (v : Move) (x : Save) (s : State) : State :=
  s.modModl (v.modl x.modl) (fun y => { y with
    heldLaunches := x.held.foldl (fun m e => Map.set m e.1 (Map.getD m e.1 [] ++ e.2.map v.launch)) y.heldLaunches
    fabric := { y.fabric with slots := y.fabric.slots ++ x.fabric.slots.map (fun r => { r with pkt := v.packet r.pkt }) } })

/-- Whether a COPYG still owes a row. -/
def openRows (o : EngineOp) : List Nat := (List.range (gRows o.desc)).filter (fun i => !o.rows.contains i)

/-- A loaded tile's work goes on: its engines, its staging entries, its held messages and its waits have their events again. -/
def rewire (k : Nat) (s : State) : State :=
  let d := tileDie k
  let t := tileId k
  let s := repostHeld s k
  let x := s.tile k
  let s := if x.twin.any (fun w => w.primary && !w.sent.isEmpty) then s.post (.pairCompare d t) else s
  let s := (List.range 11).foldl (fun s c => match (x.ctx c).wait.bind (wakeEvent d t c) with
    | some e => s.post e
    | none => s) s
  let s := x.step.entries.foldl (fun s e => if e.st = 0 then s.post (.stagingEntryComplete d t e.id) else s) s
  let s := x.eng.ops.foldl (fun s o =>
    if o.kind = .coll then s
    else if o.kind = .copyg then
      if openRows o = [] then s.post (.copygComplete d t o.id)
      else (openRows o).foldl (fun s i => s.post (.gatherRowArrive d t o.id i)) s
    else s.post (.copyComplete d t o.id)) s
  let s := x.eng.mmas.foldl (fun s _ => s.post (.mmaComplete d t)) s
  x.eng.epiq.foldl (fun s j => s.post (if (x.eng.slot j.slot).st = .epi then .epiDrainEnd d t else .epiDrainStart d t)) s

/-- Records whose access waited when the job was switched off make it again (R314, R392). -/
def rewireRecords (part : Nat) (s : State) : State :=
  ((s.part part).records.filter (fun r => r.wait.isSome)).foldl (fun s r => s.post (.continuationReady part r.loc)) s

/-- The output port of a swept packet that no port of its switch takes, so that it acts there again. [log 38 DEDUCED] -/
def noPort : Nat := 16

/-- A packet of a sweep goes back to its output port, or into the mesh (R371). -/
def reinject (sw : Nat) (e : Swept) (s : State) : State :=
  if e.port = noPort ∨ (ownMesh sw e.port ∧ e.pkt.kind ≠ 2) then arrivePkt s sw e.ingress e.pkt
  else if ownMesh sw e.port then s.post (.collEndpointArrival sw e.pkt)
  else sendOut s sw e.ingress e.port e.pkt

/-- A switch re-injects its segments in order (R371), without the packets that `drop` names. -/
def reinjectAll (v : Move) (sw : Nat) (drop : Packet → Bool) (x : Switch) (s : State) : State :=
  match x.sweep with
  | none => s
  | some w => ((w.main ++ w.late ++ w.overflow).map (fun e => { e with pkt := v.packet e.pkt })).foldl
      (fun s e => if drop e.pkt then s else reinject sw e s) s

/-- Whether a packet belongs to a barrier that was rolled back, whose tiles are `tiles` (R405). -/
def pktOf (bars tiles : List Nat) (p : Packet) : Bool :=
  p.issuers.any (fun e => tiles.contains e.1) || (p.issuers.isEmpty && bars.contains (pktPart p))

/-- A FORCED partition of a LOST save is rolled back, as an abort that the switch makes, and is ABORT-HELD; a WP or PAR launch with IDEM = 0,
which is never run twice, is not spared as one that the switch stopped (R332, R387, R405). [log 40 DEDUCED] -/
def rollBack (g : Nat) (tiles : List Nat) (s : State) : State :=
  let idem := decide (g < 2 ^ 80) || decide (bits (launchField s (barLaunch s g) 27 1) 1 1 = 1)
  let s := s.modPart g (fun p => { p with switchAbort := idem, members := if g < 2 ^ 80 then p.members else tiles })
  let s := tiles.foldl (fun s k => undoTile k s) s
  let s := s.dies.foldl (fun s e => replayLog g e.1 s) s
  let s := dropRecords s g
  let s := match barLaunch s g with
    | some id => revertLaunch g id s
    | none => s
  nextGen (s.modPart g (fun p => { p with stoppedMid := false, held := true, holdAbort := true, bar := .running })) g

/-- The way of a job's saves to the dies that its map names now. -/
def moveOf (s : State) (j fn : Nat) (dieMap : List Word) (xs : List Save) : State × Move :=
  let new : Job := { s.job j with dieMap := dieMap }
  let dieNow (x : Save) (d : Nat) : Nat := ((new.entry? (x.job.virtual d)).bind entryDie).getD d
  let dieTo (d : Nat) : Nat := match xs.find? (fun x => x.job.dies.contains d) with
    | some x => dieNow x d
    | none => d
  let modTo (m : Nat) : Nat := match xs.find? (fun x => decide (x.modl = m)) with
    | some x => match new.entry? (8 * x.index) with
      | some e => bits e.toNat 3 32
      | none => m
    | none => m
  let all := xs.flatMap (fun x => x.dies.map (fun (e : Nat × Die) => (x, e.1)))
  let (s, tables) := all.foldl (fun (acc : State × List (Nat × List (Nat × Nat × Nat))) e =>
    let (s, l) := acc
    if e.1.hbm = 0 then (s, l ++ [(e.2, [(0, 2 ^ 38, 0)])])
    else
      let old : State := { s with mem := e.1.mem, dies := e.1.dies }
      let (s, pol) := movePolicy old fn e.2 (dieTo e.2) s
      (s, l ++ [(e.2, imagePieces old s fn e.2 (dieTo e.2) ++ pol)])) (s, [])
  (s, { die := dieTo, modl := modTo, pieces := fun d => Map.getD tables d [] })

/-- A job is loaded from the saves of its modules, in the order of R404. The saves have been found whole; `none` where a
partition that must be rolled back has an irrevocable superstep (R405). [log 40 DEDUCED] -/
def loadSaves (j : Nat) (dieMap : List Word) (box : List Nat) (xs : List Save) (s : State) : Option State :=
  match xs.find? (fun x => decide (x.index = 0)) with
  | none => none
  | some x0 =>
    let fn := x0.job.fn
    let (s, v) := moveOf s j fn dieMap xs
    let bars := jobBars s j
    let s := { s with launches := s.launches.filter (fun e => e.2.job ≠ j), parts := s.parts.filter (fun e => !bars.contains e.1) }
    let tiles := xs.flatMap (fun x => x.tiles.map (fun e => v.tile e.1))
    let s := (jobTiles s j).foldl (fun s k => if tiles.contains k then dropWaits s k else releaseTile s k) s
    let pages (d : Nat) : List Nat := mappedGranules s d fn
    let s := (xs.flatMap (fun x => x.dies.map (fun e => v.die e.1))).foldl (fun s d => if (s.die d).seals = [] then s
      else s.modDie d (fun y => { y with seals := y.seals.filter (fun g => !(pages d).contains g) })) s
    let s := s.setJob j { x0.job with
      modl := box.headD 0, dieMap := dieMap, box := box, cmd := none, off := false, stopped := false, leaving := [], unmapping := none
      adopted := (s.job j).adopted, mapAt := (s.job j).mapAt
      ck := max x0.job.ck (s.job j).ck, manifest := (s.job j).manifest }
    let s := { s with pending := s.pending.filter (fun e => !(jobEvent s j e || jobTileEvent s j e)) }
    let s := { s with dies := s.dies.map (fun (e : Nat × Die) => (e.1, { e.2 with
      undo := e.2.undo.filter (fun r => barJob s r.part ≠ j), irrevocable := e.2.irrevocable.filter (fun r => barJob s r.1 ≠ j)
      sealLog := e.2.sealLog.filter (fun r => barJob s r.1 ≠ j), switch := clearSwitch j e.2.switch
      endpoints := e.2.endpoints.filter (fun r => r.pkt.job ≠ j)
      ordered := e.2.ordered.filter (fun o => o.leaves.all (fun p => p.job ≠ j)) })) }
    let s := { s with modls := s.modls.map (fun (e : Nat × Modl) => (e.1, { e.2 with fabric := clearSwitch j e.2.fabric })) }
    let s := xs.foldl (fun s x => if x.hbm = 0 then s
      else x.dies.foldl (fun s d => loadHbm x d.1 (v.die d.1) fn (v.pieces d.1) s) s) s
    let s := xs.foldl (fun s x => x.dies.foldl (fun s d => loadDie v x d.1 s) s) s
    let s := loadJob v j x0 s
    let s := xs.foldl (fun s x => loadHeld v x (loadTiles v x s)) s
    let lost := xs.any (fun x => x.lost)
    let forced := (jobBars s j).filter (fun g => (s.part g).stoppedMid)
    if lost ∧ forced.any (fun g => s.isIrrevocable g) then none
    else
      let tilesOf (s : State) (g : Nat) : List Nat := (s.tiles.filter (fun e => match e.2.work with
        | some u => decide (u.barKey = g)
        | none => false)).map (fun e => e.1)
      let back := if lost then forced.flatMap (tilesOf s) else []
      let s := if lost then forced.foldl (fun s g => rollBack g (tilesOf s g) s) s else s
      let drop (p : Packet) : Bool := lost && pktOf forced back p
      let s := xs.foldl (fun s x =>
        let s := x.dies.foldl (fun s d => reinjectAll v (v.die d.1) drop d.2.switch s) s
        reinjectAll v (fabricSw (v.modl x.modl)) drop x.fabric s) s
      let s := (jobTiles s j).foldl (fun s k => rewire k s) s
      let s := s.parts.foldl (fun s e => if decide (e.1 / 256 = j) then rewireRecords e.1 s else s) s
      let go (s : State) (g : Nat) : State :=
        let p := s.part g
        let s := s.modPart g (fun p => { p with holding := false, stoppedMid := false })
        if p.frozenHold then s
        else if g < 2 ^ 80 then (if p.held then resumePart s g else s)
        else if lost && forced.contains g then runAgain g (g - 2 ^ 80) (s.modPart g (fun p => { p with held := false }))
        else (s.modPart g (fun p => { p with held := false, holdAbort := false, switchAbort := false })).post (.unitPlace (g - 2 ^ 80))
      let s := (jobBars s j).foldl go s
      some (box.foldl (fun s m => (List.range 64).foldl (fun s r => scanRing m fn r 4 s) s) s)

end Sys2Proof.Machine
end

