-- ==== Sys2Proof/Machine/Layout.lean ====
section
/-! DEFINITION. The bytes of a save: context frames (R396), tile records (R397, R398), engine operations (R399), bookings (R400), die records
(R401), memory images (R402), switch sections (R403), and the area that holds them (R393 to R395). -/

namespace Sys2Proof.Machine

/-- `n` bytes: those of `l`, then zeros. -/
def padTo (n : Nat) (l : List Byte) : List Byte := (l ++ List.replicate n 0).take n

/-- A word of 8 bytes. -/
def word8 (n : Nat) : List Byte := bytesOfNat 8 n

/-- A section of a die record: a count of 8 bytes, then its entries (R401). -/
def counted (l : List (List Byte)) : List Byte := word8 l.length ++ l.flatten

/-! ### Context frames (R396) -/

/-- The code of a context's state in a frame (R396). -/
def CtxState.code : CtxState → Nat
  | .idle => 0 | .live => 1 | .faulted => 2 | .frozen => 3 | .resident => 4 | .stopped => 5

/-- Whether the instruction at the PC has begun: elements are out or complete, or it waits at a word or a ring (R392, R396). -/
def Ctx.begun (x : Ctx) : Bool :=
  x.replay.isSome || (match x.wait with
    | some (.pages _ _ _) | some (.fe _ _ _ _) | some (.ring _) => true
    | _ => false)

/-- A context frame of 2,688 bytes (R396). -/
def contextFrame (t : Tile) (c : Nat) : List Byte :=
  let x := t.ctx c
  let tie := (indexed 0 t.csr.books.toList).find? (fun e => decide (e.2.tied = some c))
  let handle := match x.handle, tie with
    | some h, _ => h
    | none, some e => e.1
    | none, none => 0
  let state := x.st.code + 16 * (tie.isSome && x.handle.isNone).toNat + 32 * (handle % 16)
  let (done, part) := match x.wait with
    | some (.pages _ d p) => (d, p)
    | _ => x.replay.getD (0, 0)
  let row := x.mmaRow.orElse (fun _ => (t.eng.waiting c).map (fun o => o.row1))
  let sqi := match x.frame with
    | some f => f.i * 256 + f.j
    | none => 0
  let resume := sqi + 2 ^ 16 * x.frame.isSome.toNat + 2 ^ 20 * (row.getD 0 % 16) + 2 ^ 24 * row.isSome.toNat
    + 2 ^ 25 * (decide (c = 0) && t.step.arrived).toNat + 2 ^ 26 * x.begun.toNat
  (List.range 0x940).map (frameByte x) ++ word8 state ++ word8 x.liveMask.toNat ++ word8 x.frm.toNat
    ++ word8 x.tcause.toNat ++ word8 x.tpc.toNat ++ word8 x.tval.toNat ++ word8 x.tstat.toNat
    ++ word8 x.rptidx.toNat ++ word8 x.mrow.toNat ++ word8 x.draws.toNat ++ word8 resume
    ++ word8 done.toNat ++ bytesOfNat 64 part.toNat
    ++ (List.range 27).flatMap (fun i => bytesOfNat 4 ((x.scopes[i + 5]?).getD 0).toNat) ++ List.replicate 52 0

/-! ### Engine operations and staging (R399) -/

def OpKind.code : OpKind → Nat
  | .copy => 0 | .copy2d => 1 | .copyg => 2 | .copyr => 3 | .put => 4 | .get => 5 | .coll => 6

/-- A record of 128 bytes: KIND, bytes 1 to 4, three registers, the descriptor, DONE, NEXT and WINDOW (R399). -/
def record128 (kind : Nat) (four : List Nat) (regs : List Word) (desc : List Byte) (done next window : Nat) : List Byte :=
  padTo 8 (bytesOfNat 1 kind ++ four.flatMap (bytesOfNat 1)) ++ padTo 24 (regs.flatMap (fun r => word8 r.toNat)) ++ padTo 64 desc
    ++ word8 done ++ word8 next ++ word8 (window % 2 ^ 64) ++ word8 0

def emptyRecord : List Byte := record128 0xFF [] [] [] 0 0 0

/-- Bits 0 and up of a window: unit `done + i` is out. -/
def windowOf (done next : Nat) (out : Nat → Bool) : Nat :=
  (List.range (next - done)).foldl (fun n i => if out (done + i) then n + 2 ^ i else n) 0

/-- DONE, NEXT and WINDOW of an operation: its units are groups of 64 bytes, rows, or a packet (R399). A unit of which a part has been performed
is out. -/
def EngineOp.progress (o : EngineOp) : Nat × Nat × Nat :=
  let units (bytes unit : Nat) : Nat × Nat × Nat :=
    let d := bytes / max 1 unit
    let n := if bytes % max 1 unit = 0 then d else d + 1
    (d, n, windowOf d n (fun _ => true))
  match o.kind with
  | .copyg =>
    let d := ((List.range (gRows o.desc)).find? (fun i => !o.rows.contains i)).getD (gRows o.desc)
    let n := o.rows.foldl (fun m i => max m (i + 1)) d
    (d, n, windowOf d n (fun i => !o.rows.contains i))
  | .copy2d => units (64 * o.done) (cfgField o.desc 20 4)
  | .copyr => units (o.done * (rElem (bits o.x.toNat 2 3)).2) 64
  | .coll => (0, 1, 1)
  | .copy | .put | .get => (o.done, o.done, 0)

/-- The record of an engine operation (R399). -/
def opRecord (o : EngineOp) : List Byte :=
  let (d, n, w) := o.progress
  record128 o.kind.code [o.tok % 8 + 8 * o.stream.toNat + 16 * o.entry, o.ctx, if o.kind = .copyr then o.x.toNat else 0, 0] o.regs
    (bytesOfNat 64 o.desc.toNat) d n w

/-- The record of a staging entry (R399). -/
def stagingRecord (e : StagingEntry) : List Byte :=
  let d := ((List.range e.rowCount).find? (fun i => !e.rows.contains i)).getD e.rowCount
  let n := e.rows.foldl (fun m i => max m (i + 1)) d
  record128 8 [0, 0, 0, e.st] []
    (word8 e.src.toNat ++ word8 e.dst.toNat ++ bytesOfNat 4 e.len ++ bytesOfNat 2 e.rowb ++ bytesOfNat 2 e.gather.toNat ++ word8 e.idx.toNat)
    d n (windowOf d n (fun i => !e.rows.contains i))

/-- `n` records, those of a list first. -/
def recordTable (n : Nat) (l : List (List Byte)) : List Byte := ((l ++ List.replicate n emptyRecord).take n).flatten

/-! ### Bookings (R400) -/

/-- A booking record of 32 bytes, under the tile's slot. -/
def bookingRecord (slot : Nat) (b : Booking) : List Byte :=
  let dur := max 1 (b.size.toNat % 128)
  let rel := match b.stat with
    | .booked | .lapsed => b.start - slot
    | .running => b.start + dur - slot
    | .free => 0
  word8 b.mask.toNat ++ word8 b.size.toNat ++ bytesOfNat 1 b.stat.code
    ++ bytesOfNat 1 (b.tied.isSome.toNat + 2 * (b.tied.getD 0 % 16)) ++ bytesOfNat 1 rel ++ bytesOfNat 1 0 ++ bytesOfNat 4 b.injected ++ word8 0

/-! ### Tile records (R397, R398) -/

/-- The saved state of a barrier as the header codes it: 0 DRAIN-HELD, 1 ABORT-HELD, 2 FORCED (R385, R395). -/
def barSaved (p : Partition) : Nat := if p.stoppedMid then 2 else if p.held ∧ p.holdAbort then 1 else 0

/-- The boundary record of a tile, 40,768 bytes (R397). -/
def boundaryRecord (s : State) (k : Nat) : List Byte :=
  let t := s.tile k
  let u := asCtx s k 0
  let csr (n : Nat) : List Byte := word8 ((csrRead u n).getD 0).toNat
  let bar := (t.work.map (fun u => u.barKey)).getD 0
  let cfg (i : Nat) : Option (BitVec 512) := (t.eng.epcfg[i]?).getD none
  let written := (List.range 4).foldl (fun n i => n + (cfg i).isSome.toNat * 2 ^ i) 0
  let slot (i : Nat) : List Byte :=
    let x := t.table i
    word8 (x.valid.toNat + x.ssn.toNat * 2 ^ 32) ++ List.replicate 24 0 ++ bytesOfNat 32 x.header.toNat
      ++ padTo 4096 (x.segs.flatMap (fun g => bytesOfNat 16 g.toNat))
  let full (line : Nat) : Nat := (List.range 16).foldl (fun n i => n + (feBit s k k (64 * line + 4 * i)).toNat * 2 ^ i) 0
  bytesOfNat 2 (s.dieId k) ++ bytesOfNat 2 (tileId k) ++ bytesOfNat 1 ((t.work.map (fun u => u.part % 256)).getD 0)
    ++ bytesOfNat 1 (barSaved (s.part bar)) ++ bytesOfNat 1 t.io.inbox.length ++ bytesOfNat 1 (written + 16 * t.step.forced.toNat)
    ++ csr 0x002 ++ List.replicate 48 0
    ++ csr 0x010 ++ csr 0x011 ++ csr 0x012 ++ csr 0x020 ++ csr 0x021 ++ csr 0x030 ++ csr 0x055 ++ csr 0x040 ++ csr 0x031 ++ csr 0x060
    ++ csr 0x062 ++ word8 t.eng.mseq.toNat ++ word8 (s.part bar).gen.toNat ++ List.replicate 24 0
    ++ contextFrame t 0
    ++ padTo 512 (t.io.inbox.flatMap (fun e => bytesOfNat 16 e.toNat))
    ++ (List.range 4).flatMap (fun i => bytesOfNat 64 ((cfg i).getD 0).toNat)
    ++ (List.range 4).flatMap slot
    ++ (List.range 6144).flatMap (fun l => bytesOfNat 2 (full l))
    ++ recordTable 64 (t.step.staged.map stagingRecord)

/-- The live record of a tile, 53,184 bytes (R398). Every access of the model is performed in one step, so that no response is outstanding. [log 10 DESIGN CHOICE] -/
def liveRecord (t : Tile) : List Byte :=
  let queue (i : Nat) : List Byte :=
    let q := (t.io.queues[i]?).getD []
    word8 q.length ++ padTo 128 (q.flatMap (fun w => word8 w.toNat))
  let acc (i : Nat) : List Byte := (List.range 256).flatMap (fun n => bytesOfNat 4 (Map.getD (t.eng.slot i).elems n 0).toNat)
  let job (j : EpiJob) : List Byte :=
    padTo 8 (bytesOfNat 1 j.slot ++ bytesOfNat 1 (j.tok.getD 0) ++ bytesOfNat 1 j.rm.toNat) ++ word8 j.dst.toNat ++ word8 j.stride.toNat
      ++ bytesOfNat 64 j.cfg.toNat ++ word8 0
  let port (i : Nat) : List Byte :=
    let p := t.port i
    word8 p.groups.length ++ word8 p.delivered ++ List.replicate 16 0 ++ padTo 512 (p.groups.flatMap (fun v => bytesOfNat 64 v.toNat))
  (List.range 10).flatMap (fun i => contextFrame t (i + 1)) ++ (List.range 8).flatMap queue ++ (List.range 8).flatMap acc
    ++ padTo 64 (t.eng.tok.toList.flatMap (fun n => bytesOfNat 1 n.toNat)) ++ padTo 768 (t.eng.epiq.flatMap job)
    ++ recordTable 32 (t.eng.ops.map opRecord) ++ recordTable 64 (t.step.fetchList.map stagingRecord)
    ++ t.csr.books.toList.flatMap (bookingRecord t.csr.slot) ++ List.replicate 2048 0
    ++ t.io.descsAt.toList.flatMap (fun d => (List.range 32).map (descByte d)) ++ (List.range 2).flatMap port

/-! ### Memory images (R402) -/

/-- Scratchpad kept and transit bytes, the reserved area, vault kept and transit bytes. -/
def memoryImage (s : State) (k : Nat) : List Byte :=
  match (s.tile k).work with
  | none => []
  | some u => Memory.readN s.mem (spadKey k 0) (64 * (u.skl + u.stl)) ++ (List.range 4096).map (reservedByte (s.tile k))
      ++ Memory.readN s.mem (vaultKey k 0) (64 * (u.vkl + u.vtl))

/-- The lines of a tile's delta pools: the kept line, 0 local or 1 remote, the written mask, the mask of bytes last written remotely, and
the bytes. [log 39 DESIGN CHOICE] -/
def deltaLines (t : Tile) : List Byte :=
  let line (n kind : Nat) (mask last : BitVec 64) (data : Vec) : List Byte :=
    word8 n ++ word8 kind ++ word8 mask.toNat ++ word8 last.toNat ++ bytesOfNat 64 data.toNat
  counted (t.step.locals.map (fun e => line e.1 0 (BitVec.allOnes 64) 0 e.2.data)
    ++ t.step.remotes.map (fun e => line e.1 1 e.2.mask e.2.last e.2.data))

/-- What the tables of a function map on a die, granule by granule of 64 KiB, or as sub-pages of 1 KiB: the offset and the leaf. -/
def mappedLeaves (s : State) (d fn : Nat) (sub : Bool) : List (Nat × Leaf) :=
  let q := { hwReq d fn with sub := sub }
  (mappedOffs s q).filterMap (fun o => match walk { s with keeps := [] } q o.1 with
    | .ok l => some (o.1, l)
    | .error _ => none)

/-- The HPA of a leaf that lies in HBM. -/
def Leaf.hpa? (l : Leaf) : Option Nat :=
  match l.home with
  | .hbm a => some a
  | .host _ _ => none

/-- The offset of a physical line among the pages of a function. -/
def logicalOff (s : State) (d fn a : Nat) : Nat :=
  let find (sub : Bool) (n : Nat) : Option Nat := (mappedLeaves s d fn sub).findSome? (fun e => match e.2.hpa? with
    | some x => if !e.2.policy && decide (x ≤ a ∧ a < x + n) then some (e.1 + (a - x)) else none
    | none => none)
  ((find false 65536).orElse (fun _ => find true 1024)).getD a

/-- An extent of the HBM image: 16 bytes that name it, and its bytes. [log 39 DESIGN CHOICE] -/
def extentBytes (v size : Nat) (l : Leaf) (off : Nat) (bs : List Byte) : List Byte :=
  bytesOfNat 2 v ++ bytesOfNat 1 size ++ bytesOfNat 1 ((!l.logged).toNat) ++ bytesOfNat 1 l.tag.toNat ++ List.replicate 3 0 ++ word8 off ++ bs

/-- Whether a save takes the granule of an HPA: every one, or only those whose bits are set (R402, R409). -/
def takesGranule (s : State) (d hbm a : Nat) : Bool := decide (hbm = 1) || (s.die d).dirty.contains (a / 65536)

/-- A policy page: its slots, its DRAFT flag, and of each distinct backing, once, the granules that the save takes: a mask of 32 bits, and their bytes. -/
def policyExtent (s : State) (d hbm : Nat) (a : Nat) : List Byte :=
  let words := (List.range 4).map (fun i => slotWord s d a i)
  let draft := bits (readAt s d a 8) 21 17 * 2 ^ 21
  let slot (w : Nat) : Nat := if slotValid w then slotVer w * 2 ^ 48 + bits w 0 2 else 0
  let frames := ((words.filter slotValid).map slotFrame ++ (if draft = 0 then [] else [draft])).dedup
  let taken (f : Nat) : List Nat := (List.range 32).filter (fun i => takesGranule s d hbm (f + 65536 * i))
  words.flatMap (fun w => word8 (slot w)) ++ word8 (decide (draft ≠ 0)).toNat
    ++ frames.flatMap (fun f => bytesOfNat 4 ((taken f).map (fun i => 2 ^ i)).sum
      ++ (taken f).flatMap (fun i => Memory.readN s.mem (hbmKey d (f + 65536 * i)) 65536))

/-- The HBM image of a die: whole pages and sub-pages, or only what lies in dirty granules, in sub-pages of 1 KiB (R402, R409). A page is read by its granules,
which lie anywhere where a second stage maps them (R305). -/
def hbmImage (s : State) (j d hbm : Nat) : List Byte :=
  let fn := (s.job j).fn
  let v := (s.job j).virtual d
  let pages := mappedLeaves s d fn false
  let read (a n : Nat) : List Byte := Memory.readN s.mem (hbmKey d a) n
  let parts (o n : Nat) (l : Leaf) (a : Nat) : List Byte := if takesGranule s d hbm a then
      (List.range n).flatMap (fun i => extentBytes v 1 l (o + 1024 * i) (read (a + 1024 * i) 1024)) else []
  let granule (o : Nat) : List Byte := match (pages.find? (fun e => decide (e.1 = o))).bind (fun e => e.2.hpa?) with
    | some a => read a 65536
    | none => List.replicate 65536 0
  pages.flatMap (fun e => match e.2.hpa? with
    | none => []
    | some a =>
      if e.2.policy then (if e.1 % 2 ^ 21 = 0 then extentBytes v 0 e.2 e.1 (policyExtent s d hbm a) else [])
      else if hbm ≠ 1 then parts e.1 64 e.2 a
      else if e.1 % 2 ^ 21 = 0 then extentBytes v 0 e.2 e.1 ((List.range 32).flatMap (fun i => granule (e.1 + 65536 * i)))
      else if (pages.find? (fun x => decide (x.1 = e.1 / 2 ^ 21 * 2 ^ 21))).any (fun x => x.2.hpa?.isSome) then [] else parts e.1 64 e.2 a)
    ++ (mappedLeaves s d fn true).flatMap (fun e => match e.2.hpa? with
      | some a => parts e.1 1 e.2 a
      | none => [])

/-- The undo records of a die, each as die index, OFF, tag and 64 bytes (R401). -/
def undoSection (s : State) (j d : Nat) : List Byte :=
  let bars := jobBars s j
  ((s.die d).undo.filter (fun r => bars.contains r.part)).flatMap (fun r =>
    word8 ((s.job j).virtual d) ++ word8 (logicalOff s d (s.job j).fn (64 * r.line)) ++ word8 r.tags.toNat ++ bytesOfNat 64 r.data.toNat)

/-! ### Die records (R401) -/

/-- The die on which a node of a barrier tree stands: its own, or the partition's lowest-numbered die of the module (R282). -/
def nodeDie (p : Partition) (n : Nat) : Nat :=
  let low (f : Nat → Bool) : Nat := ((p.members.map tileDie).filter f).foldl (fun a d => match a with
    | none => some d
    | some b => some (min b d)) none |>.getD 0
  if n < 2 ^ 40 then n else if n < 2 ^ 41 then low (fun d => decide (d / 8 = n - 2 ^ 40)) else low (fun _ => true)

/-- The partition that a barrier belongs to, 0 to 255. -/
def barPart (s : State) (g : Nat) : Nat := if g < 2 ^ 80 then g % 256 else launchField s (some (g - 2 ^ 80)) 21 1

/-- A context as a die record names it: DIEID, TILEID, number. -/
def memberBytes (s : State) (c : Nat) : List Byte :=
  bytesOfNat 2 (s.dieId (c / 16)) ++ bytesOfNat 2 (tileId (c / 16)) ++ bytesOfNat 4 (c % 16)

/-- The nodes of barrier trees that stand on a die. The spec fixes no widths; the model gives every number 8 bytes. [log 39 DESIGN CHOICE] -/
def nodeEntries (s : State) (j d : Nat) : List (List Byte) :=
  (jobBars s j).flatMap (fun g =>
    let p := s.part g
    (p.nodes.filter (fun e => decide (nodeDie p e.1 = d))).map (fun e =>
      let level := if e.1 < 2 ^ 40 then 0 else if e.1 < 2 ^ 41 then 1 else 2
      let bit (c : Nat) : Nat := if level = 0 then tileId c else if level = 1 then c % 8 else (c - 2 ^ 40) % 1024
      word8 (barPart s g) ++ word8 level ++ bytesOfNat 16 (mergeRecs p.ssn (e.2.recs.map (fun r => r.2))).toNat
        ++ bytesOfNat 128 (e.2.reported.foldl (fun n c => n ||| 2 ^ bit c) 0) ++ word8 e.2.sent.toNat))

/-- The die record of a die of a job (R401). What belongs to no die stands in the record of the die that is given it. [log 39 DESIGN CHOICE] -/
def dieRecord (s : State) (j d : Nat) : List Byte :=
  let job := s.job j
  let x := s.die d
  let bars := jobBars s j
  let first := decide (d % 8 = 0) && decide (job.box.head? = some (d / 8))
  let once {α : Type} (l : List α) : List α := if first then l else []
  let tiles := (jobTiles s j).filter (fun k => decide (tileDie k = d))
  let controllers (g : Nat) : List Nat := ((x.undo.filter (fun r => decide (r.part = g))).map (fun r => r.controller)
    ++ (x.irrevocable.filter (fun r => decide (r.1 = g))).map (fun r => r.2)).dedup
  let logs := bars.flatMap (fun g => (controllers g).map (fun c =>
    word8 (barPart s g) ++ word8 c ++ word8 (x.irrevocable.any (fun r => decide (r = (g, c)))).toNat
      ++ word8 (x.undo.filter (fun r => decide (r.part = g ∧ r.controller = c))).length))
  let gens := (List.range 256).map (fun p => bytesOfNat 1 (s.part (j * 256 + p)).genTop.toNat)
  let group (e : Nat × Group) : List Byte := word8 e.1 ++ word8 e.2.phase.toNat ++ counted (e.2.members.map (memberBytes s))
    ++ counted (e.2.joining.map (memberBytes s)) ++ counted (e.2.arrived.map (memberBytes s))
  let groups := once (job.parts.flatMap (fun g => (s.part g).groups.map (fun e => word8 (g % 256) ++ group e)))
  let sealed (e : Nat × Leaf) : Bool := x.seals.contains (match e.2.home with
    | .hbm a => a / 65536
    | .host port a => hostGranule port a)
  let pages := if x.seals = [] then [] else (((mappedLeaves s d job.fn false ++ mappedLeaves s d job.fn true).filter sealed).map (fun e => e.1 / 2 ^ 21 * 2 ^ 21)).dedup
  let records := once (job.parts.flatMap (fun g => (readyRecords (s.part g)).map (fun r => word8 (g % 256) ++ word8 r.loc.toNat)))
  let launch (e : Nat × Launch) : List Byte :=
    let l := e.2
    word8 (e.1 % 2 ^ 32) ++ word8 (blockField l.block 20 1) ++ word8 l.next ++ word8 l.ended ++ word8 l.aborts
      ++ (match l.fault with
        | some f => word8 f.cause.toNat ++ word8 f.ctx ++ word8 (tileId f.tile) ++ word8 (job.virtual (tileDie f.tile)) ++ word8 f.tval.toNat
            ++ word8 f.tpc.toNat
        | none => List.replicate 48 0)
      ++ bytesOfNat 128 l.block.toNat
  let mine := s.launches.filter (fun e => decide (e.2.job = j))
  let launches := once ((mine.filter (fun e => decide (e.2.phase = .running))).map launch)
  let helds := if d % 8 = 0 then (mine.filter (fun e => decide (e.2.modl = d / 8 ∧ e.2.phase = .held))).map (fun e =>
    word8 e.2.ring ++ word8 e.2.fn ++ bytesOfNat 128 e.2.block.toNat) else []
  let waiter (w : RingWaiter) : List Byte := word8 w.ptr.toNat ++ word8 w.enq.toNat ++ memberBytes s (groupMember w.tile w.ctx)
  let now := (tiles.map (fun k => (s.tile k).csr.dieSlot0 + (s.tile k).csr.slot)).foldl max 0
  let account (g : Nat) : List Byte := word8 (g % 256) ++ word8 (Map.getD x.lq (g % 256) 0).toNat
    ++ (List.range 65).flatMap (fun i => word8 (dieLink s d g (now + i) 0 none))
  let message (m : HeldMsg) : List Byte := word8 (job.virtual (tileDie m.src)) ++ word8 (tileId m.src) ++ word8 (s.dieId m.tile) ++ word8 (tileId m.tile)
    ++ word8 m.tag.toNat ++ word8 m.payload.toNat
  counted (nodeEntries s j d) ++ counted logs ++ counted gens ++ counted groups
    ++ counted (pages.map (fun o => word8 (job.virtual d) ++ word8 o)) ++ counted records ++ counted launches ++ counted helds
    ++ counted ((x.waiters.filter (fun w => (jobTiles s j).contains w.tile)).map waiter)
    ++ counted ((job.parts.filter (fun g => tiles.any (fun k => ((s.tile k).work.map (fun u => u.part)) = some g))).map account)
    ++ counted ((((bars.flatMap (fun g => (s.part g).msgs)) ++ (jobTiles s j).flatMap (fun k => (s.tile k).io.msgs)).filter
      (fun m => decide (tileDie m.src = d))).map message)

/-! ### Switch sections (R403) -/

/-- The header flit of a packet (R350), and its data flits. What a packet that is not collective carries is the part's own. -/
def packetBytes (p : Packet) : List Byte :=
  let flits := pktFlits p
  let head := bytesOfNat 1 (p.kind.toNat + 8 * p.vc.toNat + 32 * p.ord.toNat + 64 * p.ovf.toNat + 128 * p.det.toNat) ++ bytesOfNat 1 flits
    ++ bytesOfNat 1 p.nhop ++ bytesOfNat 1 p.part ++ bytesOfNat 2 p.job ++ bytesOfNat 1 p.gen.toNat ++ bytesOfNat 1 p.ingress
  let coll := bytesOfNat 2 p.srcDie ++ bytesOfNat 2 p.srcTile ++ bytesOfNat 2 p.tag.toNat ++ bytesOfNat 2 p.count ++ bytesOfNat 2 p.leaves
    ++ bytesOfNat 2 p.total ++ bytesOfNat 2 p.contrib.toNat ++ bytesOfNat 1 (p.ctype.toNat + 8 * p.red.toNat) ++ bytesOfNat 1 0
    ++ bytesOfNat 4 p.dst.toNat ++ bytesOfNat 4 p.path.toNat ++ padTo 32 (p.ops.flatMap (fun e => bytesOfNat 4 e.toNat))
  head ++ (if p.kind = 2 then coll else padTo 56 p.body)
    ++ padTo (64 * flits) (p.elems.flatMap (fun e => bytesOfNat (pktWire p) e.toNat))

/-- An entry of a segment: a descriptor of 64 bytes, and the packet (R403). -/
def sweptBytes (seg : Nat) (e : Swept) : List Byte :=
  padTo 64 (word8 e.seq ++ bytesOfNat 1 e.port ++ bytesOfNat 1 e.pkt.vc.toNat ++ bytesOfNat 1 seg ++ bytesOfNat 1 e.ingress) ++ packetBytes e.pkt

/-- Bytes of the entries of a segment (R403). -/
def segBytes (l : List Swept) : Nat := (l.map (fun e => 64 * (2 + pktFlits e.pkt))).sum

/-- A switch section: 64 bytes of counts, then the segments (R403). -/
def switchSection (x : Switch) : List Byte :=
  match x.sweep with
  | none => List.replicate 64 0
  | some w =>
    let segs := [w.main, w.late, w.overflow]
    padTo 64 (segs.flatMap (fun l => word8 l.length) ++ segs.flatMap (fun l => word8 (segBytes l)) ++ bytesOfNat 1 w.lost.toNat)
      ++ (indexed 0 segs).flatMap (fun e => e.2.flatMap (sweptBytes e.1))

/-! ### The area (R393 to R395) -/

/-- The sections of the save of module `m`: KIND, INDEX, bytes. Delta pools and undo logs are there where a superstep is open: under FORCED,
and with a WP or PAR launch (R386, R390); with HBM = 0 no undo section is (R402). -/
def saveSections (s : State) (j m hbm : Nat) : List (Nat × Nat × List Byte) :=
  let forced (k : Nat) : Bool := match (s.tile k).work with
    | some u => (s.part u.barKey).stoppedMid
    | none => false
  let isOpen := (jobBars s j).any (fun g => (s.part g).stoppedMid || (decide (2 ^ 80 ≤ g) && decide ((s.part g).bar = .running)))
  let anyForced := (jobTiles s j).any forced
  let dies := (s.job j).dies.filter (fun d => decide (d / 8 = m))
  let map (l : List Nat) : List Byte := bytesOfNat 128 (l.foldl (fun n k => n ||| 2 ^ tileId k) 0)
  dies.flatMap (fun d =>
    let tiles := (jobTiles s j).filter (fun k => decide (tileDie k = d))
    let live := tiles.filter forced
    let p := d % 8
    [(1, p, map tiles ++ tiles.flatMap (boundaryRecord s))]
      ++ (if anyForced then [(2, p, map live ++ live.flatMap (fun k => liveRecord (s.tile k)))] else [])
      ++ [(3, p, dieRecord s j d), (4, p, switchSection (s.die d).switch), (5, p, map tiles ++ tiles.flatMap (memoryImage s))]
      ++ (if hbm = 0 then [] else [(6, p, hbmImage s j d hbm)])
      ++ (if isOpen then [(7, p, tiles.flatMap (fun k => word8 (tileId k) ++ deltaLines (s.tile k)))] else [])
      ++ (if isOpen ∧ hbm ≠ 0 then [(8, p, undoSection s j d)] else []))
    ++ [(4, 8, switchSection (s.modl m).fabric)]

/-- Bytes up to the next multiple of 4 KiB, the unit of encryption. -/
def roundUnit (n : Nat) : Nat := (n + 4095) / 4096 * 4096

/-- Units of 4 KiB under AES-256-XTS with their place as the tweak; fuel covers the units (R394). [log 39 DESIGN CHOICE] -/
def encryptUnits (keys : List Byte) : Nat → Nat → List Byte → List Byte
  | 0, _, _ => []
  | n + 1, i, bs => xtsEnc keys i (padTo 4096 bs) ++ encryptUnits keys n (i + 1) (bs.drop 4096)

/-- The per-save key of 32 bytes (R394, R439). [log 34 DESIGN CHOICE] -/
def Save.key (x : Save) : List Byte := (List.range 32).map (fun i => Config.freeByte (x.wrap + i))

/-- What a module signs with its identity key (R394, R438). -/
def signBy (s : State) (m : Nat) (bs : List Byte) : List Byte :=
  ecdsaSign (s.modl m).idKey (Config.nonce (s.modl m).idKey bs) bs

/-- The directory: KIND, INDEX, OFFSET, LENGTH and digest of each section; each begins at a unit (R395). [log 39 DESIGN CHOICE] -/
def directory : Nat → List (Nat × Nat × List Byte) → List Byte
  | _, [] => []
  | off, (kind, index, bs) :: l =>
    bytesOfNat 2 kind ++ bytesOfNat 2 index ++ bytesOfNat 4 0 ++ word8 off ++ word8 bs.length ++ sha384 bs
      ++ directory (off + roundUnit bs.length) l

/-- The saved state of a partition in the header: 255 where it is absent (R395). Of the states of the partition and of its WP and PAR launches it is
the highest, as R395 codes them. [log 38 DEDUCED] -/
def savedState (s : State) (j g : Nat) : Nat :=
  if (s.part g).gang = [] then 0xFF
  else (((jobBars s j).filter (fun b => decide (barOwner s b = g))).map (fun b => barSaved (s.part b))).foldl max (barSaved (s.part g))

/-- The states of all partitions of a job. -/
def savedStates (s : State) (j : Nat) : List Nat := (List.range 256).map (fun p => savedState s j (j * 256 + p))

/-- The header of a save, signed, with its WRAP empty (R394, R395). -/
def saveHeader (s : State) (j : Nat) (x : Save) (escalated : Bool) (sections : List (Nat × Nat × List Byte)) : List Byte :=
  let head := bytesOfNat 2 1 ++ bytesOfNat 2 j ++ bytesOfNat 2 x.index ++ (List.range 4).flatMap (fun i => bytesOfNat 1 (x.job.extent i))
    ++ bytesOfNat 1 x.hbm ++ bytesOfNat 1 (escalated.toNat + 2 * x.lost.toNat) ++ bytesOfNat 4 x.late
    ++ (List.range 8).flatMap (fun p => bytesOfNat 1 (if x.hbm = 0 then 8 * x.modl + p else 0)) ++ List.replicate 232 0
    ++ (savedStates s j).flatMap (bytesOfNat 1) ++ (List.range 256).flatMap (fun p => bytesOfNat 4 (s.part (j * 256 + p)).ssn.toNat)
    ++ padTo 9216 (directory 16384 sections) ++ List.replicate 5376 0
  head ++ signBy s x.modl head ++ List.replicate 40 0 ++ bytesOfNat 4 x.modl
    ++ pointBytes (publicKey (s.modl x.modl).idKey) ++ List.replicate 19 0

/-- The bytes of a save as they stand in its area: the header, and the sections under the per-save key (R394). The header is not encrypted, since
what it holds is needed to unwrap the key. [log 39 DESIGN CHOICE] -/
def saveImage (s : State) (j : Nat) (x : Save) (escalated : Bool) : List Byte :=
  let sections := saveSections s j x.modl x.hbm
  let body := sections.flatMap (fun e => padTo (roundUnit e.2.2.length) e.2.2)
  saveHeader s j x escalated sections ++ encryptUnits (Config.xtsKeys x.key) (body.length / 4096) 4 body

/-- The packets of a job that the switches of a module hold. -/
def heldPackets (s : State) (j m : Nat) : List Packet :=
  (fabricSw m :: (List.range 8).map (fun p => 8 * m + p)).flatMap (fun sw =>
    let x := s.sw sw
    (x.inq.flatMap (fun e => e.2) ++ x.out.flatMap (fun e => e.2.map (fun q => q.2)) ++ x.slots.map (fun r => r.pkt) ++ x.store.map (fun r => r.pkt)).filter
      (fun p => decide (p.job = j)))

/-- The bytes that a save of a module may take, as it stands when the command comes: what it holds now, and, where it may be FORCED, the whole HBM image, the undo
logs, the packets in its switches, the live records, full delta pools and the overflow areas that may come to it (R393, R409). What grows past them
is met when the save is written. [log 39 DESIGN CHOICE] -/
def saveBytes (s : State) (j m hbm : Nat) (forced : Bool) : Nat :=
  let hbm := if forced ∧ hbm = 2 then 1 else hbm
  let undo := if forced ∧ hbm ≠ 0 then ((List.range 8).map (fun p => 4096 + (undoSection s j (8 * m + p)).length)).sum else 0
  let packets := if forced then ((heldPackets s j m).map (fun p => 64 * (2 + pktFlits p))).sum else 0
  let tiles := (jobTiles s j).filter (fun k => decide (tileDie k / 8 = m))
  let more := if forced then (tiles.map (fun k => 53184 + (match (s.tile k).work with
      | some u => 96 * 256 * (u.spool + u.vpool)
      | none => 0))).sum + 9 * (Config.overflowBytes + 4096) else 0
  16384 + ((saveSections s j m hbm).map (fun e => roundUnit e.2.2.length)).sum + undo + packets + more

end Sys2Proof.Machine
end

