-- ==== Sys2Proof/Machine/Clove.lean ====
section
/-! DEFINITION. The Clove gang switch, checkpoints and restores: commands (R383 to R389), the quiescing of tiles (R391), the
sweep (R369, R370), saves (R393 to R395, R420 to R422), resume and restore (R404 to R406, R423), live migration (R408, R410). -/

namespace Sys2Proof.Machine

/-! ### Records that commands write (R384, R393 to R395) -/

/-- A result record (R384): bytes 4 to 127, then bytes 0 to 3. `count` bytes have been moved to or from the save area; the tile cycles are a free
value. [log 56 DESIGN CHOICE] -/
def writeResult (s : State) (result : Word) (status late count mixed : Nat) (modes : List Nat) : State :=
  if result.toNat % 64 ≠ 0 then s
  else
    let (s, cycles) := freeBytes s 8
    let used := (List.range 64).map (fun i => BitVec.ofNat 8 ((List.range 4).foldl (fun n b =>
      n + min 3 ((modes[4 * i + b]?).getD 3) * 4 ^ b) 0))
    let s := hostPut s (result.toNat + 4) (bytesOfNat 4 late ++ word8 count ++ cycles ++ word8 mixed ++ used ++ List.replicate 32 0)
    hostPut s result.toNat (bytesOfNat 4 (2 ^ 31 + status))

/-- A module's part of a command has finished: its record is written, and its mailbox is free. -/
def finishOn (s : State) (a : Accepted) (status late count mixed : Nat) (modes : List Nat) : State :=
  mbEnd (writeResult s a.result status late count mixed modes) a.modl 0

/-- The save of a module, as the job stands, with the bytes of its area (R393 to R403). -/
def takeSave (s : State) (j : Nat) (c : Command) (a : Accepted) (hbm ck : Nat) (keeper : Option Nat) (escalated : Bool) : State × Save :=
  let x := { makeSave s j a.index a.modl hbm ck ((scatterList s a.area.toNat).getD []) keeper with wrap := s.free }
  ({ s with free := s.free + 32 }, { x with image := saveImage s j x (escalated && c.escalated) })

/-- A save goes to its area (R393, R394). -/
def writeArea (s : State) (x : Save) : State := areaPut x.area 0 x.image s

/-! ### Quiescing (R386 to R389, R391) -/

/-- Waits of which those that have not begun at a remote target are withdrawn, and their parked accesses with them (R314, R391). -/
def withdrawUnbegun (s : State) (ws : List PageWait) : State × List PageWait :=
  let begun (w : PageWait) : Bool := match w.parked with
    | some id => (s.die w.die).parked.any (fun p => decide (p.id = id) && p.begun)
    | none => false
  ((withdraw s (ws.filter (fun w => !begun w))).1, ws.filter begun)

/-- A context that waits on pages stops: what is withdrawn issues again with its instruction, what has begun completes (R391, R392). An MMA that
waits for an operand ends after the rows that it has, and its resume row is kept (R391, R396). -/
def stopWaiting (k : Nat) (s : State) (c : Nat) : State :=
  match (s.ctx k c).wait with
  | some (.pages ws done part) =>
    let (s, left) := withdrawUnbegun s ws
    if ((s.tile k).eng.waiting c).isSome then
      let (s, r) := stopMma k c s
      s.modCtx k c (fun x => { x with wait := none, mmaRow := if r = 0 then x.mmaRow else some r })
    else if left.isEmpty && ws.any (fun w => w.solo) then wakeCtx k c s
    else settlePages s k c left done part
  | _ => s

/-- A tile stops mid-superstep: accesses that wait are withdrawn and stay to be made, MMAs and the draining epilogue job complete (R391, R392). -/
def quiesceTile (k : Nat) (s : State) : State :=
  let s := (s.tile k).eng.mmas.foldl (fun s o => if o.fetched then s else stopWaiting k s o.ctx) s
  let s := (List.range 11).foldl (stopWaiting k) s
  let s := { s with dies := s.dies.map (fun (e : Nat × Die) => (e.1, { e.2 with
    parked := e.2.parked.filter (fun p => p.tile != k || p.begun) })) }
  let s := (s.tile k).eng.mmas.foldl (fun s _ => completeMma k s) s
  let s := match (s.tile k).eng.epiq with
    | j :: _ => if ((s.tile k).eng.slot j.slot).st = SlotState.epi ∧ j.waits = [] then endDrain k s else s
    | [] => s
  let op (o : EngineOp) : EngineOp := { o with waits := [] }
  let job (j : EpiJob) : EpiJob := { j with waits := [] }
  let entry (e : StagingEntry) : StagingEntry := { e with waits := [] }
  let s := s.modEng k (fun e => { e with ops := e.ops.map op, epiq := e.epiq.map job })
  s.modStep k (fun st => { st with staged := st.staged.map entry, fetchList := st.fetchList.map entry })

/-- The tiles of a barrier. -/
def barTiles (s : State) (g : Nat) : List Nat := if g < 2 ^ 80 then (s.part g).members else s.tilesOf (g - 2 ^ 80)

/-- A partition stops mid-superstep (R385, R391). -/
def stopPart (g : Nat) (s : State) : State :=
  let s := s.modPart g (fun p => { p with holding := true, stoppedMid := true })
  (barTiles s g).foldl (fun s k => quiesceTile k s) s

/-- Whether a partition has reached its saved state: it is held or stopped, or has nothing that runs (R385, R386, R415). -/
def barSettled (s : State) (g : Nat) : Bool :=
  let p := s.part g
  p.held || p.stoppedMid || decide (p.bar = .stopped)
    || (decide (p.bar = .running) && (if g < 2 ^ 80 then p.launch.isNone else (s.tilesOf (g - 2 ^ 80)).isEmpty))

/-- The root of a partition decides abort for a switch, which holds the partition then (R387). -/
def switchAbort (g : Nat) (s : State) : State :=
  let s := broadcastAbort (s.modPart g (fun p => { p with switchAbort := true, holding := true, holdAbort := true })) g (barTiles s g)
  if (s.part g).undone.isEmpty then finishAbort g s else s

/-- A partition takes a switch of mode `mode`: 0 DRAIN, 1 ABORT-SWITCH, 2 FORCED (R386, R387, R391). A WP or PAR launch with IDEM = 1 that has begun is
restored under ABORT-SWITCH, whether or not a unit of it is resident. -/
def holdBar (mode g : Nat) (s : State) : State :=
  let p := s.part g
  let idem (l : Nat) : Bool := match Map.get? s.launches l with
    | some x => bits (blockField x.block 27 1) 1 1 = 1
    | none => false
  let begun (l : Nat) : Bool := match Map.get? s.launches l with
    | some x => decide (x.next ≠ 0)
    | none => false
  if !p.held && !p.stoppedMid && decide (mode = 1 ∧ 2 ^ 80 ≤ g ∧ p.bar = .running) && idem (g - 2 ^ 80) && begun (g - 2 ^ 80) && !s.isIrrevocable g then
    switchAbort g s
  else if barSettled s g then s.modPart g (fun p => { p with holding := true })
  else
    if mode = 0 ∨ (mode = 1 ∧ s.isIrrevocable g) then s.modPart g (fun p => { p with holding := true })
    else if (s.part g).bar ≠ .running then s.modPart g (fun p => { p with holding := true, holdAbort := true })
    else if mode = 1 ∧ g < 2 ^ 80 then switchAbort g s
    else stopPart g s

/-- Holds of a job end: its partitions go on (R412, R420). -/
def releaseHold (j : Nat) (s : State) : State :=
  (jobBars s j).foldl (fun s g =>
    let p := s.part g
    let s := s.modPart g (fun p => { p with holding := false })
    if p.held = false ∨ p.frozenHold ∨ (s.job j).mapWaits then s
    else if g < 2 ^ 80 then resumePart s g
    else (s.modPart g (fun p => { p with held := false, holdAbort := false, switchAbort := false })).post (.unitPlace (g - 2 ^ 80))) s

/-- Whether a packet of a job is in a switch, on a link or at an endpoint. -/
def packetsOut (s : State) (j : Nat) : Bool :=
  let mine (p : Packet) : Bool := decide (p.job = j)
  let inSw (x : Switch) : Bool := x.inq.any (fun e => e.2.any mine) || x.out.any (fun e => e.2.any (fun p => mine p.2))
    || x.slots.any (fun r => !r.late && mine r.pkt) || x.store.any (fun r => mine r.pkt)
    || x.links.any (fun e => e.2.unacked.any (fun f => match f.2 with
      | some p => mine p
      | none => false))
  s.dies.any (fun e => inSw e.2.switch || e.2.endpoints.any (fun r => !r.late && mine r.pkt)
      || e.2.ordered.any (fun o => decide (o.total ≠ 0) && o.leaves.any mine))
    || s.modls.any (fun e => inSw e.2.fabric)
    || s.pending.any (fun e => match e with
      | .collEndpointArrival _ p => mine p
      | _ => false)

/-- Whether a job may be swept (R389, R391): every partition has its saved state, no begun access is outstanding, and, but
under FORCED, staged sets are settled and no packet is left. [log 38 DEDUCED] -/
def quietReady (s : State) (j : Nat) : Bool :=
  match (s.job j).cmd with
  | none => true
  | some c =>
    let tiles := jobTiles s j
    let begun := s.dies.any (fun e => e.2.parked.any (fun p => p.begun && tiles.contains p.tile))
    let replays := s.pending.any (fun e => match e with
      | .gatherElementReplay d t _ _ => tiles.contains (tileKey d t)
      | _ => false)
    let staged := tiles.all (fun k => (s.tile k).step.staged.all (fun e => decide (e.st ≠ 0)))
    (jobBars s j).all (barSettled s) && !begun && !replays
      && (decide (c.mode = 2) || (staged && !packetsOut s j))

/-! ### The sweep (R369, R370) -/

/-- The ports to which a packet goes on from a switch, with what it is there (R352, R353, R370). A REDUCE is passed as a
time-out partial passes it; a packet that no port takes stays as it is under `noPort`, to act when it is re-injected. [log 38 DEDUCED] -/
def nextPorts : Nat → State → Nat → Nat → Packet → List (Nat × Packet)
  | 0, _, _, _, _ => []
  | f + 1, s, sw, port, p =>
    if p.kind ≠ 2 then match ((s.job p.job).entry? (ptrDie p.target)).bind entryDie with
      | none => [(noPort, p)]
      | some d => match routePort s p.job sw d with
        | some q => [(q, p)]
        | none => if isFabric sw then [(noPort, p)] else [(sw % 8, p)]
    else match p.ops with
      | [] => if isFabric sw then [(noPort, p)] else [(sw % 8, p)]
      | e :: rest =>
        let op := bits e.toNat 28 4
        let sel := bits e.toNat 0 16
        let past := { p with ops := rest, nhop := p.nhop - 1 }
        if op = 0 then (if badPort s p sw sel then [(noPort, p)] else [(sel, past)])
        else if op = 1 then
          let ports := (List.range 16).filter (fun q => decide (bits sel q 1 = 1))
          let bad := ports.filter (badPort s p sw)
          (ports.filter (fun q => !badPort s p sw q)).map (fun q => (q, past))
            ++ (if bad = [] then [] else [(noPort, { p with ops := BitVec.ofNat 32 (2 ^ 28 + (bad.map (fun q => 2 ^ q)).sum) :: rest })])
        else if op = 2 then nextPorts f s sw port { past with
          path := p.path ||| BitVec.ofNat 32 (port * 2 ^ (4 * p.depth)), depth := p.depth + 1 }
        else if isFabric sw then [(noPort, p)] else [(sw % 8, past)]

/-- Packets, each with its ingress and its output port, join a segment: each takes the next number of it (R370, R403). -/
def addSwept (seg : List Swept) (l : List (Nat × Nat × Packet)) : List Swept :=
  seg ++ (indexed seg.length l).map (fun e => { ingress := e.2.1, seq := e.1, port := e.2.2.1, pkt := e.2.2.2 })

/-- A MARK of a job (R370). -/
def markPkt (j : Nat) : Packet :=
  { kind := 5, vc := 3, ord := false, ovf := false, det := false, nhop := 0, part := 0, job := j, gen := 0, ingress := 0
    srcDie := 0, srcTile := 0, tag := 0, count := 0, leaves := 0, total := 0, contrib := 0, ctype := 0, red := 0, dst := 0
    path := 0, ops := [], elems := [], target := 0, op := 0, depth := 0, issuers := [], body := [] }

/-- What stands in a box for an index that its die map does not hold (R411): no MODID. -/
def absentModule : Nat := 2 ^ 32

/-- The modules of a job's box that have power. -/
def State.aliveBox (s : State) (j : Nat) : List Nat := (s.job j).box.filter (fun m => decide (m ≠ absentModule) && (s.modl m).powered)

/-- The connected ports of a switch of a job; a die switch's own mesh is one. -/
def connected (s : State) (j sw : Nat) : List Nat :=
  (List.range 16).filter (fun p => ownMesh sw p || (match linkEnd s j sw p with
    | some e => (s.modl (swModule e.1)).powered
    | none => false))

/-- A switch begins its sweep (R369, R370): open slots and endpoint contexts are flushed, output queues are extracted by port,
VC and order, packets that have arrived count as arrivals, and MARKs go out. A delivery that a stopped tile cannot take, its range being still to be
staged, is flushed with the endpoint contexts. [log 38 DEDUCED] -/
def startSweep (j sw : Nat) (s : State) : State :=
  let x := s.sw sw
  let mine (p : Packet) : Bool := decide (p.job = j)
  let slots := (x.slots.filter (fun r => !r.late && mine r.pkt)).flatMap (fun r =>
    (nextPorts 9 s sw (partialPort r.pkt) r.pkt).map (fun e => (partialPort r.pkt, e)))
  let ends : List (Nat × Nat × Packet) := if isFabric sw then [] else
    (((s.die sw).endpoints.filter (fun r => !r.late && mine r.pkt)).map (fun r => r.pkt)
      ++ ((s.die sw).ordered.filter (fun o => decide (o.total ≠ 0))).flatMap (fun o => o.leaves.filter mine)
      ++ s.pending.filterMap (fun e => match e with
        | .collEndpointArrival d p => if d = sw ∧ p.job = j then some p else none
        | _ => none)).map (fun p => (sw % 8, sw % 8, p))
  let branches := (x.store.filter (fun r => mine r.pkt)).flatMap (fun r => r.ports.map (fun q => (r.ingress, q, r.pkt)))
  let main := (List.range 17).flatMap (fun p => (List.range 4).flatMap (fun vc =>
    ((x.out.filter (fun e => decide (e.1 % 4 = vc ∧ e.1 / 4 % 16 = p))).flatMap (fun e => e.2.filter (fun q => mine q.2))).map (fun q => (q.1, p, q.2))
      ++ (if vc = 2 then (branches ++ slots ++ ends).filter (fun e => decide (e.2.1 = p)) else [])))
  let arrived := x.inq.flatMap (fun e => (e.2.filter mine).map (fun p => (e.1, p)))
  let other (p : Packet) : Bool := !mine p
  let marked := match x.sweep with
    | some w => w.marked
    | none => []
  let atEnd (e : Instr) : Bool := match e with
    | .collEndpointArrival d p => !isFabric sw && decide (d = sw ∧ p.job = j)
    | _ => false
  let s := { s with pending := s.pending.filter (fun e => !atEnd e) }
  let s := s.modSw sw (fun x => { x with
    inq := x.inq.map (fun (e : Nat × List Packet) => (e.1, e.2.filter other)),
    out := x.out.map (fun (e : Nat × List (Nat × Packet)) => (e.1, e.2.filter (fun p => other p.2))),
    slots := x.slots.map (fun r => if mine r.pkt then { r with late := true } else r),
    store := x.store.filter (fun r => other r.pkt),
    sweep := some { job := j, begun := true, closed := false, marked := marked, main := addSwept [] main, late := [], overflow := [], lost := false } })
  let s := if isFabric sw then s else s.modDie sw (fun y => { y with
    endpoints := y.endpoints.filter (fun r => r.late || other r.pkt)
    ordered := y.ordered.filter (fun o => decide (o.total = 0) || o.leaves.any other) })
  let s := arrived.foldl (fun s e => s.post (.sweepPacketArrive sw e.1 e.2)) s
  ((connected s j sw).filter (fun p => !ownMesh sw p)).foldl (fun s p => sendOut s sw p p (markPkt j)) s

/-- SWEEP_PACKET_ARRIVE (R370): the packet joins the main, the late or the overflow segment. -/
def sweepArrive (sw port : Nat) (p : Packet) (s : State) : State :=
  match (s.sw sw).sweep with
  | none => arrivePkt s sw port p
  | some w =>
    let es := (nextPorts 9 s sw port p).map (fun e => (port, e))
    let more := addSwept w.overflow es
    let w' : Sweep :=
      if w.closed then (if segBytes more ≤ Config.overflowBytes then { w with overflow := more } else { w with lost := true })
      else if w.marked.contains port then { w with late := addSwept w.late es }
      else { w with main := addSwept w.main es }
    s.modSw sw (fun x => { x with sweep := some w' })

/-- SWEEP_PACKET_ARRIVE (R370). -/
def execSweepPacketArrive (sw port : Nat) (pkt : Packet) (s : State) : Host.Outcome State Fault Refusal :=
  runE (sweepArrive sw port pkt) s

/-- SWITCH_QUIET (R369, R389): the sweep of the job begins; each die switch sweeps once its mesh has delivered what was inside it. -/
def beginSweep (j : Nat) (s : State) : State :=
  match (s.job j).cmd with
  | none => s
  | some c =>
    if c.sweeping ∨ c.begun = false then s
    else
      let s := s.modJob j (fun x => { x with cmd := some { c with sweeping := true } })
      let dies := (s.aliveBox j).flatMap (fun m => (List.range 8).map (fun p => 8 * m + p))
      dies.foldl (fun s d => s.post (.meshDrained d j)) s

/-- SWITCH_QUIET (R389). -/
def execSwitchQuiet (job : Nat) (s : State) : Host.Outcome State Fault Refusal := runE (beginSweep job) s

/-! ### The end of a switch, and checkpoints (R384, R385, R420 to R422) -/

/-- The key of a save that a switch makes; later ones are greater. -/
def switchKey (s : State) : Nat := max (2 ^ 60) ((s.saves.foldl (fun n e => max n e.1) 0) + 1)

/-- The key of the shard of module index `i` for checkpoint `ck` of a job: two are kept. -/
def shardKey (j i ck : Nat) : Nat := j * 2 ^ 32 + i * 2 ^ 16 + ck % 2

/-- The buddy of a module index: the next along X, else along Y, Z, W (R420). -/
def buddyOf (j : Job) (i : Nat) : Option Nat :=
  ((List.range 4).find? (fun dim => decide (1 < j.extent dim))).map (fun dim =>
    let n := j.extent dim
    let p := j.pitch dim
    let v := i / p % n
    i - v * p + (v + 1) % n * p)

/-- A tile of a job that is off: its memories stand as they are, and nothing runs. -/
def stillTile (t : Tile) : Tile := { t with ctxs := Vector.replicate 11 {}, eng := {}, io := {} }

/-- What has come back to the stopped tiles of a job is recorded: collective operations that completed or met a fault end (R391). -/
def settleColls (j : Nat) (s : State) : State :=
  let tiles := jobTiles s j
  let done (e : Instr) : Option (State → State) := match e with
    | .collComplete d t id => if tiles.contains (tileKey d t) then some (completeColl (tileKey d t) id) else none
    | .engineFault d t id c off => if tiles.contains (tileKey d t) && ((s.tile (tileKey d t)).eng.op? id).any (fun o => decide (o.kind = .coll)) then
        some (stopOp (tileKey d t) id c off) else none
    | _ => none
  (s.pending.filterMap done).foldl (fun s f => f s) { s with pending := s.pending.filter (fun e => (done e).isNone) }

/-- A job goes off: its events are dropped, its packets leave the switches, its tiles stand still. -/
def switchOff (j : Nat) (s : State) : State :=
  let s := { s with pending := s.pending.filter (fun e => !(jobEvent s j e || jobTileEvent s j e)) }
  let s := { s with
    dies := s.dies.map (fun (e : Nat × Die) => (e.1, { e.2 with switch := clearSwitch j e.2.switch }))
    modls := s.modls.map (fun (e : Nat × Modl) => (e.1, { e.2 with fabric := clearSwitch j e.2.fabric })) }
  let s := (jobTiles s j).foldl (fun s k => (dropWaits s k).modTile k stillTile) s
  s.modJob j (fun x => { x with off := true, cmd := none })

/-- Every segment has been saved: each module's save is written, and the job is off (R385, R393). A save of dirty granules has
read the module's bitmaps (R409). Where an area turns out too small, the command ends BADAREA and the job goes on as it stood, HBM in place (R393). [log 38 DEDUCED, 39 DESIGN CHOICE, 51 DEDUCED] -/
def finishSwitch (j : Nat) (c : Command) (s : State) : State :=
  let s := settleColls j s
  let modes := savedStates s j
  let (s, l) := c.accepted.foldl (fun (e : State × List (Accepted × Save)) a =>
    let (s, x) := takeSave e.1 j c a c.hbm 0 none true
    (s, e.2 ++ [(a, x)])) (s, [])
  if l.any (fun e => decide ((e.2.area.map (fun x => x.2)).sum < e.2.image.length)) then
    let t := switchOff j s
    let t := (loadSaves j (s.job j).dieMap (s.job j).box (l.map (fun e => { e.2 with hbm := 0 })) t).getD t
    c.accepted.foldl (fun t a => finishOn t a 6 0 0 0 []) t
  else
    let s := l.foldl (fun s e =>
      let (a, x) := e
      let s := { s with saves := Map.set s.saves (switchKey s) x }
      let s := if c.hbm = 2 then (List.range 8).foldl (fun s p => s.modDie (8 * a.modl + p) (fun y => { y with dirty := [] })) s else s
      finishOn (writeArea s x) a (if x.lost then 2 else if c.escalated then 1 else 0) x.late x.image.length 0 modes) s
    switchOff j s

/-- Phase 1 of a checkpoint ends: the shards are taken, and every partition goes on (R421). -/
def finishPhase1 (j : Nat) (c : Command) (s : State) : State :=
  let ck := (s.job j).ck + 1
  let s := s.modJob j (fun x => { x with ck := ck, cmd := some { c with released := true, parties := c.accepted.length } })
  let s := c.accepted.foldl (fun s a =>
    let keeper := (buddyOf (s.job j) a.index).bind (fun b => (s.job j).box[b]?)
    let (s, x) := takeSave s j c a 1 ck keeper false
    { s with saves := Map.set s.saves (shardKey j a.index ck) x }) s
  let s := { s with
    dies := s.dies.map (fun (e : Nat × Die) => (e.1, { e.2 with switch := { e.2.switch with sweep := none } }))
    modls := s.modls.map (fun (e : Nat × Modl) => (e.1, { e.2 with fabric := { e.2.fabric with sweep := none } })) }
  let s := releaseHold j s
  c.accepted.foldl (fun s a => s.post (.checkpointPhase2Done j a.modl)) s

/-- The manifest entry of a shard (R422). -/
def writeManifest (s : State) (x : Save) (buddy : Option Nat) (a : Accepted) : State :=
  let dig := sha384 (x.image.take 16384)
  hostPut s (a.map.toNat + 256 * a.index + 128 * (x.ck % 2))
    (bytesOfNat 4 x.ck ++ bytesOfNat 2 a.index ++ bytesOfNat 1 (x.buddy.toNat + 2 * x.host.toNat) ++ bytesOfNat 1 0
      ++ bytesOfNat 2 (buddy.getD 0xFFFF) ++ bytesOfNat 6 0 ++ dig ++ List.replicate 64 0)

/-- The table of a job's die map is rewritten in host memory, with the next EPOCH (R411). -/
def writeMap (s : State) (j : Nat) : State :=
  let job := s.job j
  match job.mapAt with
  | none => s
  | some a =>
    let s := hostPut s a.toNat (bytesOfNat 4 job.dieMap.length ++ bytesOfNat 4 (hostNat s (a.toNat + 4) 4 + 1))
    hostPut s (a.toNat + 64) (job.dieMap.flatMap (fun e => word8 e.toNat))

/-- A barrier that held for a new map goes on, unless something else holds it. -/
def releaseMap (s : State) (g : Nat) : State :=
  let p := s.part g
  if p.held = false ∨ p.holding ∨ p.frozenHold then s
  else if g < 2 ^ 80 then resumePart s g
  else (s.modPart g (fun p => { p with held := false, holdAbort := false })).post (.unitPlace (g - 2 ^ 80))

/-- With every partition held, the ADOPTED indices of a job become UNMAPPED (R411, R412, R426). -/
def unmapAdopted (j : Nat) (s : State) : State :=
  let s := writeMap (s.modJob j (fun y => { y with
    unmapping := none, adopted := y.adopted.map (fun (e : Nat × Option Nat) => (e.1, none))
    dieMap := y.dieMap.map (fun e => if entryAdopted e then 0 else e) })) j
  if (s.job j).mapWaits then s else (jobBars s j).foldl releaseMap s

/-- A module's part of a checkpoint ends, and with the last one the command (R384, R421). -/
def endPart (j : Nat) (m : Nat) (s : State) : State :=
  s.modJob j (fun y => { y with cmd := y.cmd.bind (fun c =>
    let rest := c.accepted.filter (fun b => decide (b.modl ≠ m))
    if rest = [] then none else some { c with accepted := rest }) })

/-- The buddy of a module has no power when its shard should be with it: no entry is written for it, and the module's part ends ABANDONED (R420, R421). [log 32 DEDUCED] -/
def abandonShard (j : Nat) (a : Accepted) (s : State) : State := endPart j a.modl (finishOn s a 8 0 0 0 [])

/-- CHECKPOINT_PHASE2_DONE (R421, R426): the shard is with the buddy. With the last module's, ADOPTED indices of the job begin to become UNMAPPED: the event
happens once more, when every partition is held. [log 32 DEDUCED, 47 DEDUCED] -/
def phase2Done (j m : Nat) (s : State) : State :=
  if (s.job j).unmapping = some m then unmapAdopted j s
  else match (s.job j).cmd with
  | none => s
  | some c => match c.accepted.find? (fun a => decide (a.modl = m)) with
    | none => s
    | some a => match Map.get? s.saves (shardKey j a.index (s.job j).ck) with
      | none => s
      | some x =>
        if x.keeper.any (fun b => !(s.modl b).powered) then abandonShard j a s
        else
          let x := { x with buddy := x.keeper.isSome }
          let done := insertNat c.phase2 a.index
          let unmaps := done.length = c.parties ∧ (s.job j).dieMap.any entryAdopted ∧ (s.job j).unmapping = none
          let s := { s with saves := Map.set s.saves (shardKey j a.index x.ck) x }
          let s := s.modJob j (fun y => { y with
            cmd := some { c with phase2 := done }, unmapping := if unmaps then some m else y.unmapping })
          let s := if unmaps then s.post (.checkpointPhase2Done j m) else s
          (writeManifest s x (buddyOf (s.job j) a.index) a).post (.checkpointPhase3Done j m)

/-- CHECKPOINT_PHASE2_DONE (R421). -/
def execCheckpointPhase2Done (job modl : Nat) (s : State) : Host.Outcome State Fault Refusal := runE (phase2Done job modl) s

/-- CHECKPOINT_PHASE3_DONE (R421): the buddy has written the shard to host storage; the command of the module has finished. [log 32 DEDUCED] -/
def phase3Done (j m : Nat) (s : State) : State :=
  match (s.job j).cmd with
  | none => s
  | some c => match c.accepted.find? (fun a => decide (a.modl = m)) with
    | none => s
    | some a => match Map.get? s.saves (shardKey j a.index (s.job j).ck) with
      | none => s
      | some x =>
        if x.keeper.any (fun b => !(s.modl b).powered) then abandonShard j a s
        else
          let x := { x with host := true }
          let s := { s with saves := Map.set s.saves (shardKey j a.index x.ck) x }
          let s := writeManifest (writeArea s x) x (buddyOf (s.job j) a.index) a
          endPart j m (finishOn s a 0 x.late x.image.length 0 ((List.range 256).map (fun p => if (s.part (j * 256 + p)).gang = [] then 3 else 0)))

/-- CHECKPOINT_PHASE3_DONE (R421). -/
def execCheckpointPhase3Done (job modl : Nat) (s : State) : Host.Outcome State Fault Refusal := runE (phase3Done job modl) s

/-- Once every switch of the job is CLOSED, what the sweep was for is done. -/
def sweepDone (j : Nat) (s : State) : State :=
  match (s.job j).cmd with
  | none => s
  | some c =>
    let closed (x : Switch) : Bool := match x.sweep with
      | some w => decide (w.job = j) && w.closed
      | none => false
    let all := (s.aliveBox j).all (fun m => closed (s.modl m).fabric && (List.range 8).all (fun p => closed (s.die (8 * m + p)).switch))
    if c.sweeping = false ∨ c.released ∨ all = false then s
    else if c.cmd = 3 then finishPhase1 j c s else finishSwitch j c s

/-- A port of a switch is marked (R369, R370): a fabric switch sweeps once all eight die switches have marked it, and a switch
is CLOSED once every connected port is marked. [log 38 DEDUCED] -/
def markPort (sw port j : Nat) (s : State) : State :=
  let w : Sweep := ((s.sw sw).sweep).getD
    { job := j, begun := false, closed := false, marked := [], main := [], late := [], overflow := [], lost := false }
  if w.job ≠ j then s
  else
    let w := { w with marked := insertNat w.marked port }
    let s := s.modSw sw (fun x => { x with sweep := some w })
    let ready := isFabric sw && !w.begun && (List.range 8).all (fun p => w.marked.contains (8 + p))
    let s := if ready then startSweep j sw s else s
    let begun := w.begun || ready
    if begun ∧ (connected s j sw).all (fun p => w.marked.contains p) then
      sweepDone j (s.modSw sw (fun x => { x with sweep := x.sweep.map (fun w => { w with closed := true }) }))
    else s

/-- MARK_ARRIVE (R370). [log 38 DEDUCED] -/
def execMarkArrive (sw port job : Nat) (s : State) : Host.Outcome State Fault Refusal := runE (markPort sw port job) s

/-- MESH_DRAINED (R369, R391): the die switch sweeps, and its own-mesh port counts as marked. -/
def execMeshDrained (die job : Nat) (s : State) : Host.Outcome State Fault Refusal :=
  runE (fun s => markPort die (die % 8) job (startSweep job die s)) s

/-- SWITCH_ESCALATE (R388, R389, R420): partitions that are not held escalate; a checkpoint is abandoned. A drain that
escalates makes a save of dirty granules a full one (R409). [log 38 DEDUCED] -/
def escalate (j : Nat) (s : State) : State :=
  match (s.job j).cmd with
  | none => s
  | some c =>
    if c.begun = false ∨ c.sweeping ∨ c.limit = 0 ∨ c.mode = 2 then s
    else if c.cmd = 3 then
      let s := releaseHold j (s.modJob j (fun x => { x with cmd := none }))
      c.accepted.foldl (fun s a => finishOn s a 8 0 0 0 []) s
    else
      let settled := (jobBars s j).all (barSettled s)
      let mode := if c.mode = 0 ∧ c.esc = 1 ∧ settled = false then 1 else 2
      let s := s.modJob j (fun x => { x with cmd := some { c with
        mode := mode, escalated := true, hbm := if c.hbm = 2 then 1 else c.hbm } })
      if settled then (jobBars s j).foldl (fun s g => stopPart g s) s
      else (jobBars s j).foldl (fun s g => if barSettled s g then s else holdBar mode g s) s

/-- SWITCH_ESCALATE (R388). -/
def execSwitchEscalate (job : Nat) (s : State) : Host.Outcome State Fault Refusal := runE (escalate job) s

/-- Every module has accepted a SWITCH or a CHECKPOINT: the coordinator starts it (R383, R385). The manifest of a job is that of its last
CHECKPOINT (R423). -/
def startHold (j : Nat) (c : Command) (s : State) : State :=
  let s := s.modJob j (fun x => { x with
    cmd := some { c with begun := true }
    manifest := if c.cmd = 3 then (c.accepted.head?.map (fun (a : Accepted) => a.map)).getD 0 else x.manifest })
  let s := (jobBars s j).foldl (fun s g => holdBar c.mode g s) s
  let s := s.post (.switchQuiet j)
  if c.limit = 0 then s else s.post (.switchEscalate j)

/-! ### Resume and restore (R404 to R406, R423) -/

/-- The die map at an address of host memory (R411). -/
def readMap (s : State) (a : Nat) : List Word :=
  (List.range (min 32768 (hostNat s a 4))).map (fun i => BitVec.ofNat 64 (hostNat s (a + 64 + 8 * i) 8))

/-- The modules that a die map names as their own, by index. -/
def mapBox (l : List Word) : List Nat := (List.range (l.length / 8)).map (fun i =>
  let e := ((l[8 * i]?).getD 0).toNat
  if bits e 62 2 = 1 then bits e 3 32 else absentModule)

/-- Whether a die map in host memory is as R411 gives it: reserved fields are 0, no STATE is 3, and a die holds one OWN and at most one ADOPTED index. [log 41 DEDUCED] -/
def mapGood (s : State) (a : Nat) : Bool :=
  let n := hostNat s a 4
  let l := (readMap s a).map (fun e => e.toNat)
  let held (st : Nat) : List Nat := (l.filter (fun e => decide (bits e 62 2 = st))).map (fun e => bits e 0 35)
  decide (n % 8 = 0 ∧ n ≤ 32768) && (List.range 7).all (fun i => decide (hostNat s (a + 8 + 8 * i) 8 = 0))
    && l.all (fun e => decide (bits e 62 2 ≠ 3 ∧ bits e 35 27 = 0)) && decide ((held 1).Nodup) && decide ((held 2).Nodup)

/-- Whether a map has the modules of a job's box: a map gives their number, and coordinates are kept (R406, R410, R411). [log 40 DEDUCED] -/
def mapFits (dieMap : List Word) (job : Job) : Bool :=
  decide (dieMap.length = 8 * ((List.range 4).map job.extent).foldl (fun a b => a * b) 1)

/-- Whether saves fit a die map (R406): the extents, which are those of every save, a free and sound tile for each that is saved, and the same
dies where the HBM stayed in place. -/
def shapeOk (s : State) (j : Nat) (dieMap : List Word) (xs : List Save) : Bool :=
  let job : Job := { dieMap := dieMap }
  xs.all (fun x =>
    mapFits dieMap x.job && (s.job j :: xs.map (fun y => y.job)).all (fun y =>
      y.box.isEmpty || decide ((List.range 4).map y.extent = (List.range 4).map x.job.extent))
    && (decide (x.hbm ≠ 0) || x.dies.all (fun e => decide ((job.entry? (x.job.virtual e.1)).bind entryDie = some e.1)))
    && x.tiles.all (fun e =>
      match (job.entry? (x.job.virtual (tileDie e.1))).bind entryDie with
      | none => false
      | some d =>
        let k := tileKey d (tileId e.1)
        usableTile s k && (match (s.tile k).work with
          | some u => decide (u.job = j) || (s.job u.job).off
          | none => true)))

/-- The bytes of a save without its WRAP field. -/
def unwrapped (bs : List Byte) : List Byte := bs.take 0x3F60 ++ bs.drop 0x3F88

/-- The save of module index `i` of a job that stands in an area, for module `m` to load: the bytes are those of a save but for WRAP, the header's signature holds
under the public key that it names, and WRAP unwraps, between the module's identity key and that public key, to the key of the save (R394, R404, R439). Bytes
that no save of a module has made are taken to fail a digest. [log 34 DESIGN CHOICE, 40 DEDUCED] -/
def findSave (s : State) (j i m : Nat) (l : List (Nat × Nat)) : Option Save :=
  let stands (x : Save) : Bool :=
    let bs := areaRead s l 0 x.image.length
    let signer := pointOf ((bs.drop 0x3F8C).take 97)
    decide (unwrapped bs = unwrapped x.image) && ecdsaVerify signer (bs.take 0x3F00) ((bs.drop 0x3F00).take 96)
      && decide (keyUnwrap (sharedKey (s.modl m).idKey signer) ((bs.drop 0x3F60).take 40) = some x.key)
  ((s.saves.filter (fun e => decide (2 ^ 60 ≤ e.1) && decide (e.2.index = i) && stands e.2
      && e.2.parts.all (fun g => decide (2 ^ 80 ≤ g.1 ∨ g.1 / 256 = j)))).getLast?).map (fun e => e.2)

/-- The shards that the ADOPTED indices of a map name: of each module index, the latest that the module named has complete (R425, R426). [log 47 DEDUCED] -/
def adoptedOf (s : State) (j : Nat) (dieMap : List Word) : Map (Option Nat) :=
  ((indexed 0 dieMap).filter (fun e => e.1 % 8 = 0 && entryAdopted e.2)).map (fun e =>
    let i := e.1 / 8
    let has (k : Nat) : Option Nat := (Map.get? s.saves k).bind (fun x =>
      if x.buddy ∧ x.keeper = some (bits e.2.toNat 3 32) then some x.ck else none)
    let a := shardKey j i 0
    let b := shardKey j i 1
    (i, match has a, has b with
      | some n, some k => some (if n < k then b else a)
      | some _, none => some a
      | none, some _ => some b
      | none, none => none))

/-- Every module has accepted a RESUME (R404). [log 40 DEDUCED] -/
def resumeJob (j : Nat) (c : Command) (s : State) : State :=
  let map := (c.accepted.head?.map (fun (a : Accepted) => a.map)).getD 0
  let dieMap := readMap s map.toNat
  let found (a : Accepted) : Option Save := (scatterList s a.area.toNat).bind (findSave s j a.index a.modl)
  let xs := c.accepted.filterMap found
  let done (s : State) (status : Nat) (modes : List Nat) : State :=
    c.accepted.foldl (fun s a => finishOn s a status 0 (if status = 4 then 0 else ((found a).map (fun x => x.image.length)).getD 0) 0 modes)
      (s.modJob j (fun x => { x with cmd := none }))
  if shapeOk s j dieMap xs = false then done s 4 []
  else match loadSaves j dieMap (mapBox dieMap) xs s with
    | some t =>
      let t := t.modJob j (fun y => { y with mapAt := some map, adopted := adoptedOf s j dieMap })
      done t 0 (savedStates t j)
    | none => jobUnrecoverable (done s 3 []) j

/-- The entry of the manifest for module index `i` and slot `b`: CK and flags (R422). -/
def manifestEntry (s : State) (map i b : Nat) : Nat × Nat := (hostNat s (map + 256 * i + 128 * b) 4, hostNat s (map + 256 * i + 128 * b + 6) 1)

/-- The host storage of each module index that a restore reads: the area that its RESTORE names, or, in place, the one that its shard was written to (R423). -/
abbrev Areas := Nat → Option (List (Nat × Nat))

/-- The shard of module index `i` for a checkpoint number, if it is present: the copy of a buddy that has power, or one that can be read in host
storage; the header of the copy matches the digest of the manifest (R423). The second component tells whether it is the buddy's, which is preferred. -/
def shardPresent (s : State) (j map : Nat) (areas : Areas) (i ck : Nat) : Option (Save × Bool) :=
  let (n, flags) := manifestEntry s map i (ck % 2)
  match Map.get? s.saves (shardKey j i ck) with
  | none => none
  | some x =>
    let dig := hostBytes s (map + 256 * i + 128 * (ck % 2) + 16) 48
    let matches' (header : List Byte) : Bool := decide (sha384 header = dig)
    let kept : Bool := decide (bits flags 0 1 = 1) && x.buddy && matches' (x.image.take 16384) && (match x.keeper with
      | some m => (s.modl m).powered
      | none => false)
    let stored : Bool := decide (bits flags 1 1 = 1) && x.host && (match (areas i).orElse (fun _ => some x.area) with
      | some l => let bs := areaRead s l 0 x.image.length
                  matches' (bs.take 16384) && decide (bs.drop 16384 = x.image.drop 16384)
      | none => false)
    if n = ck ∧ ck ≠ 0 ∧ x.ck = ck ∧ (kept ∨ stored) then some (x, kept) else none

/-- The checkpoint numbers present for module index `i`: for each of its two entries, 0 where none is. -/
def shardsOf (s : State) (j map : Nat) (areas : Areas) (i : Nat) : List Nat :=
  (List.range 2).map (fun b =>
    let ck := (manifestEntry s map i b).1
    if ck % 2 = b ∧ (shardPresent s j map areas i ck).isSome then ck else 0)

/-- The highest checkpoint for which every module of the box has a shard present (R423). -/
def restoreChoice (s : State) (j map : Nat) (areas : Areas) (n : Nat) : Option Nat :=
  let all (ck : Nat) : Bool := decide (ck ≠ 0) && (List.range n).all (fun i => (shardPresent s j map areas i ck).isSome)
  ((shardsOf s j map areas 0).filter all).foldl (fun m ck => some (max ck (m.getD 0))) none

/-- A restore from the manifest at `map` (R423): 0 OK, 3 UNRECOVERABLE, 4 SHAPE, 7 MIXED. [log 32 DEDUCED] -/
def restoreJob (j map : Nat) (areas : Areas) (s : State) : State × Nat :=
  let job := s.job j
  match restoreChoice s j map areas job.box.length with
  | none => (s, 7)
  | some ck =>
    let xs := (List.range job.box.length).filterMap (fun i => (shardPresent s j map areas i ck).map (fun e => e.1))
    if shapeOk s j job.dieMap xs = false then (s, 4)
    else match loadSaves j job.dieMap job.box xs s with
      | some t => (t, 0)
      | none => (s, 3)

/-- Every module has accepted a RESTORE. From its save area a module reads the shard of the checkpoint that is chosen, unless the buddy's copy is
taken (R384, R423). [log 32 DEDUCED, 40 DEDUCED] -/
def restoreAll (j : Nat) (c : Command) (s : State) : State :=
  let map := ((c.accepted.head?.map (fun (a : Accepted) => a.map)).getD 0).toNat
  let areas : Areas := fun i => (c.accepted.find? (fun a => decide (a.index = i))).bind (fun a => scatterList s a.area.toNat)
  let ck := (restoreChoice s j map areas (s.job j).box.length).getD 0
  let (t, status) := restoreJob j map areas s
  let t := t.modJob j (fun x => { x with cmd := none })
  c.accepted.foldl (fun t a =>
    let l := shardsOf s j map areas a.index
    let mixed := if status = 7 then (l[0]?).getD 0 + 2 ^ 32 * (l[1]?).getD 0 else 0
    let count := if status = 0 then ((shardPresent s j map areas a.index ck).map (fun e => if e.2 then 0 else e.1.image.length)).getD 0 else 0
    finishOn t a status 0 count mixed (if status = 0 then savedStates t j else [])) t

/-- What follows an UNRECOVERABLE outcome: the restore with the manifest of the job's last CHECKPOINT, or, where no checkpoint can
be restored, the end of its launches (R288, R423). -/
def restoreInPlace (m : Nat) (s : State) : State :=
  (s.jobs.filter (fun e => decide (e.2.modl = m) && e.2.stopped)).foldl (fun s e =>
    let (t, status) := if e.2.ck = 0 then (s, 7) else restoreJob e.1 e.2.manifest.toNat (fun _ => none) s
    if status = 0 then t else endUnrecoverable e.1 s) s

/-! ### Commands (R383) -/

/-- Whether a block of R383 breaks its table, or names a job that the module does not hold. [log 41 DEDUCED] -/
def badCommand (s : State) (m : Nat) (bs : List Byte) : Bool :=
  let f (o n : Nat) : Nat := descField bs o n
  let cmd := f 0 1
  let job := s.job (f 8 2)
  let here := decide (job.box[f 10 2]? = some m) && !job.lost
  let same := match job.cmd with
    | some c => decide (c.cmd = cmd ∧ c.mode = f 1 1 ∧ c.esc = f 2 1 ∧ c.hbm = f 3 1) && !c.begun
        && !(c.accepted.any (fun a => decide (a.index = f 10 2)))
    | none => true
  let map := mapBox (readMap s (f 32 8))
  (decide (cmd = 2) && (decide (map[f 10 2]? ≠ some m) || !mapGood s (f 32 8)))
    || decide (cmd = 0 ∨ 4 < cmd ∨ 2 < f 1 1 ∨ 1 < f 2 1 ∨ 2 < f 3 1 ∨ f 24 8 % 64 ≠ 0 ∨ (cmd = 1 ∧ f 32 8 ≠ 0)
      ∨ (f 3 1 = 2 ∧ f 1 1 ≠ 0) ∨ (cmd = 3 ∧ (f 1 1 ≠ 0 ∨ f 3 1 ≠ 1)))
    || (decide (f 3 1 = 2) && !(s.modl m).records.contains 3) || !same
    || (if cmd = 2 then decide (job.box ≠ []) && !job.off else if cmd = 4 then !here else !here || job.off || job.stopped)

/-- Every module that takes part has accepted a command: it starts, module 0 first (R383). -/
def startCommand (j : Nat) (c : Command) (s : State) : State :=
  let c := { c with accepted := c.accepted.filter (fun b => decide (b.index = 0)) ++ c.accepted.filter (fun b => decide (b.index ≠ 0)) }
  if c.cmd = 2 then resumeJob j c s else if c.cmd = 4 then restoreAll j c s else startHold j c s

/-- A module of a job is lost: it has no part in a command of the job any more (R424). [log 47 DEDUCED] -/
def leaveCommand (j m : Nat) (s : State) : State :=
  match (s.job j).cmd with
  | none => s
  | some c =>
    let c := { c with accepted := c.accepted.filter (fun a => decide (a.modl ≠ m)) }
    if c.accepted = [] then
      let s := s.modJob j (fun x => { x with cmd := none })
      if c.begun ∧ c.released = false then releaseHold j s else s
    else
      let s := s.modJob j (fun x => { x with cmd := some c })
      if c.begun = false ∧ c.cmd ≠ 2 ∧ (s.aliveBox j).length ≤ c.accepted.length then startCommand j c s else s

/-- A module accepts a command; with the last module it starts (R383). `n` is the number of modules that it takes. [log 41 DEDUCED] -/
def acceptCommand (j n : Nat) (c : Command) (a : Accepted) (s : State) : State :=
  let s := s.modModl a.modl (fun x => { x with mbBusy := true })
  let c := { c with accepted := c.accepted ++ [a] }
  let s := s.modJob j (fun x => { x with off := x.off || decide (c.cmd = 2), cmd := some c })
  if c.accepted.length < n then s else startCommand j c s

/-- The CLOVE command (R383, R393, R431). [log 41 DEDUCED] -/
def cloveBlock (m : Nat) (bs : List Byte) (s : State) : State :=
  let f (o n : Nat) : Nat := descField bs o n
  let j := f 8 2
  let a : Accepted := { index := f 10 2, modl := m, area := BitVec.ofNat 64 (f 16 8), result := BitVec.ofNat 64 (f 24 8)
                        map := BitVec.ofNat 64 (f 32 8) }
  let new : Command := { cmd := f 0 1, mode := f 1 1, esc := f 2 1, hbm := f 3 1, limit := f 4 4, accepted := [] }
  let c := ((s.job j).cmd).getD new
  let c := if a.index = 0 then { c with limit := f 4 4 } else c
  if badCommand s m bs then finishOn s a 5 0 0 0 []
  else if f 0 1 = 4 then acceptCommand j (s.aliveBox j).length c a s
  else match scatterList s a.area.toNat with
    | none => finishOn s a 6 0 0 0 []
    | some l =>
      if f 0 1 = 2 then
        if (findSave s j a.index m l).isNone then finishOn s a 6 0 0 0 []
        else acceptCommand j ((mapBox (readMap s a.map.toNat)).filter (fun n => decide (n ≠ absentModule))).length c a s
      else if (l.map (fun e => e.2)).sum < saveBytes s j m (f 3 1) (decide (f 1 1 = 2 ∨ f 4 4 ≠ 0)) then finishOn s a 6 0 0 0 []
      else acceptCommand j (s.aliveBox j).length c a s

/-- The block of a CLOVE command: reserved bytes that are not 0 are BADBLOCK; what else breaks its table ends BADCMD (R383, R431). [log 41 DEDUCED] -/
def clove (m ptr : Nat) (s : State) : State :=
  mailbox m ptr 64 false (fun bs => decide (descField bs 12 4 = 0 ∧ descField bs 40 24 = 0)) (cloveBlock m) s

/-- CLOVE_SWITCH_DRAIN (R386). -/
def execCloveSwitchDrain (modl ptr : Nat) (s : State) : Host.Outcome State Fault Refusal := runE (clove modl ptr) s
/-- CLOVE_ABORT_SWITCH (R387). -/
def execCloveAbortSwitch (modl ptr : Nat) (s : State) : Host.Outcome State Fault Refusal := runE (clove modl ptr) s
/-- CLOVE_SWITCH_FORCED (R391). -/
def execCloveSwitchForced (modl ptr : Nat) (s : State) : Host.Outcome State Fault Refusal := runE (clove modl ptr) s
/-- CLOVE_RESUME (R404). -/
def execCloveResume (modl ptr : Nat) (s : State) : Host.Outcome State Fault Refusal := runE (clove modl ptr) s
/-- CHECKPOINT (R421). -/
def execCheckpoint (modl ptr : Nat) (s : State) : Host.Outcome State Fault Refusal := runE (clove modl ptr) s
/-- RESTORE (R423): a command, or, where no block is named, the restore after an UNRECOVERABLE outcome. -/
def execRestore (modl ptr : Nat) (s : State) : Host.Outcome State Fault Refusal :=
  runE (if ptr = 0 then restoreInPlace modl else clove modl ptr) s

/-! ### Live migration (R408, R410) -/

/-- The key slot of the job that holds a granule of a die: of the functions whose translation maps it, the lowest (R318). [log 33 DESIGN CHOICE] -/
def granuleKey (s : State) (d g : Nat) : Option Nat :=
  ((List.range 32).find? (fun fn => tctxEn (s.tctx d fn) && (mappedGranules s d fn).contains g)).map (fun fn => tctxField (s.tctx d fn) 40 1)

/-- MIGRATION_COPY (R408): the 64 KiB granule at `src`, as the source's keys decipher it, goes to `dst` under the key of the job that holds it there;
both are die × 2^40 plus the HPA. A target granule that no job holds yet takes the source's key slot number. [log 33 DESIGN CHOICE] -/
def migrateGranule (src dst : Nat) (s : State) : State :=
  let ds := src / 2 ^ 40
  let dt := dst / 2 ^ 40
  let a := src % 2 ^ 40 / 65536 * 65536
  let b := dst % 2 ^ 40 / 65536 * 65536
  let held := granuleKey s dt (b / 65536)
  if 0x4000000000 ≤ a ∨ 0x4000000000 ≤ b then s
  else (List.range 2048).foldl (fun s i =>
    let x := s.die ds
    let from' := a / 32 + i
    let bs := Memory.readN s.mem (hbmKey ds (32 * from')) 32
    match held.orElse (fun _ => Map.get? x.sectorKeys from') with
    | some key => writeHbm s dt (b + 32 * i) (x.tagOf from') key bs
    | none => { s with mem := Memory.writeN s.mem (hbmKey dt (b + 32 * i)) bs }.modDie dt (fun y =>
        { y with dirty := if y.dtctl then insertNat y.dirty (b / 65536) else y.dirty })) s

/-- MIGRATION_COPY (R408). -/
def execMigrationCopy (modl src dst : Nat) (s : State) : Host.Outcome State Fault Refusal :=
  runE (fun s => if mbState s modl = .ready then migrateGranule src dst s else s) s

/-- MODULE_RELEASE (R318, R410): the key slots of a job that is off the module are destroyed, and its tiles are zeroed. [log 33 DESIGN CHOICE] -/
def releaseModule (j m : Nat) (s : State) : State :=
  if (s.job j).off = false ∧ (s.job j).box.contains m then s
  else
    let fn := (s.job j).fn
    let tiles := (jobTiles s j).filter (fun k => decide (tileDie k / 8 = m))
    let s := tiles.foldl releaseTile s
    (List.range 8).foldl (fun s p =>
      let d := 8 * m + p
      let key := tctxField (s.tctx d fn) 40 1
      let owned := s.jobs.any (fun e => decide (e.1 ≠ j) && decide (e.2.fn = fn) && e.2.box.contains m)
      if owned then s
      else s.modDie d (fun x => { x with keys := removeNat x.keys key
                                         sectorKeys := x.sectorKeys.map (fun (t : Nat × Nat) => if t.2 = key then (t.1, 64 + t.2) else t) })) s

/-- MODULE_RELEASE (R410). -/
def execModuleRelease (job modl : Nat) (s : State) : Host.Outcome State Fault Refusal := runE (releaseModule job modl) s

end Sys2Proof.Machine
end

