-- ==== Sys2Proof/Machine/Reliability.lean ====
section
/-! DEFINITION. Containment (R413 to R415), paired dispatch (R417, R418), quarantine (R419), elastic shrink (R424 to R426), and
what firmware and system software do to functions, jobs and gangs (R328, R348, R411, R415). -/

namespace Sys2Proof.Machine

/-! ### CONTAIN (R415) -/

/-- A partition that containment held goes on, once no context of it is frozen; a command that holds it keeps it held. -/
def unfreeze (g : Nat) (s : State) : State :=
  if (barTiles s g).any (fun k => (s.tile k).ctxs.toList.any (fun x => decide (x.st = .frozen))) then s
  else
    let s := s.modPart g (fun p => { p with frozenHold := false })
    if g < 2 ^ 80 then
      let spent := ((s.part g).launch.bind (fun id => Map.get? s.launches id)).any retryEnds
      if (s.part g).members = [] ∨ spent then (match (s.part g).launch with
        | some id => endLaunch s id (if spent then 4 else 0)
        | none => s)
      else if (s.part g).holding ∨ (s.job (barJob s g)).mapWaits then s else resumePart s g
    else runAgain g (g - 2 ^ 80) (s.modPart g (fun p => { p with held := false }))

/-- RELEASE: frozen helpers become IDLE, a frozen control context is reloaded from its frame, and what they had under way is gone; a unit of a WP or PAR launch has
been stopped with the others, and its tile is released (R332, R415). -/
def releaseFrozen (k : Nat) (u : WorkUnit) (s : State) : State :=
  if u.cls ≠ 2 then releaseTile s k
  else (dropWaits s k).modTile k (fun t => { t with
    eng := t.eng.onlyFrozen (fun _ => false)
    ctxs := Vector.ofFn (fun i : Fin 11 =>
      let x := t.ctxs[i]
      if x.st ≠ .frozen then x else if i.val = 0 then reloadCtx x t.step.retained else {}) })

/-- EXCLUDE: the tile is quarantined and its unit removed (R415, R424). -/
def excludeTile (k : Nat) (u : WorkUnit) (s : State) : State :=
  let s := quarantine s k
  if u.cls = 2 then shrinkUnits s u.barKey else releaseTile s k

/-- A CONTAIN action on a tile whose partition containment holds; any other tile is DENIED (R415, R431). [log 42 DEDUCED] -/
def containBlock (m : Nat) (bs : List Byte) (s : State) : State :=
  match namedTile s m (descField bs 0 2) (descField bs 2 2) with
  | none => mbEnd s m 3
  | some k => match (s.tile k).work with
    | none => match frozenGang s k with
      | none => mbEnd s m 3
      | some g =>
        let s := mbEnd s m 0
        if descField bs 4 1 = 0 then unfreeze g s
        else if descField bs 4 1 = 1 then unfreeze g (quarantine s k)
        else endLaunch s (g - 2 ^ 80) 8
    | some u =>
      let g := u.barKey
      if (s.part g).frozenHold = false ∨ (s.part g).held = false then mbEnd s m 3
      else
        let s := mbEnd s m 0
        if descField bs 4 1 = 0 then unfreeze g (releaseFrozen k u s)
        else if descField bs 4 1 = 1 then unfreeze g (excludeTile k u s)
        else endLaunch s u.launch 8

/-- The CONTAIN command (R415, R431). -/
def contain (m ptr : Nat) (s : State) : State :=
  mailbox m ptr 8 false (fun bs => decide (descField bs 4 1 < 3 ∧ descField bs 5 3 = 0)) (containBlock m) s

/-- CONTAIN_RELEASE (R415). -/
def execContainRelease (modl ptr : Nat) (s : State) : Host.Outcome State Fault Refusal := runE (contain modl ptr) s
/-- CONTAIN_EXCLUDE (R415). -/
def execContainExclude (modl ptr : Nat) (s : State) : Host.Outcome State Fault Refusal := runE (contain modl ptr) s
/-- CONTAIN_KILL (R415). -/
def execContainKill (modl ptr : Nat) (s : State) : Host.Outcome State Fault Refusal := runE (contain modl ptr) s

/-- FUNCTION_RESET (R415): the function is frozen no more. -/
def resetFn (m fn : Nat) (s : State) : State := s.modModl m (fun x => { x with frozenFns := removeNat x.frozenFns fn })

/-- FUNCTION_RESET (R415). -/
def execFunctionReset (modl fn : Nat) (s : State) : Host.Outcome State Fault Refusal := runE (resetFn modl fn) s

/-! ### The comparator of a pair (R417, R418) -/

/-- A mismatch on the tiles of a pair: neither copy is forwarded, and both twins raise PAIR (R418). -/
def mismatch (ks : List Nat) (s : State) : State :=
  let drop (s : State) (k : Nat) : State :=
    let ssn := (s.tile k).step.ssn
    modTwin s k (fun w => { w with
      sent := w.sent.drop 1, mismatches := if w.mismatchSsn = ssn then w.mismatches + 1 else 1, mismatchSsn := ssn })
  ks.foldl (fun s k => raiseForced s k 0x22 1) (ks.foldl drop s)

/-- Whether the comparator holds the next packet of both twins. -/
def pairReady (s : State) (k : Nat) : Bool :=
  match (s.tile k).twin with
  | none => true
  | some w => match (s.tile w.partner).twin with
    | none => true
    | some x => !w.sent.isEmpty && !x.sent.isEmpty

/-- The next packets of the two twins, whose copies are equal, are forwarded once: a barrier record is sent, and any other packet may be performed for
its sender (R417). -/
def forward (k t ka kb : Nat) (a : List Byte) (s : State) : State :=
  let drop (key other : Nat) (w : Twin) : Twin := { w with
    sent := w.sent.drop 1, permits := if ka = arrivalKey ∨ ka = voteKey then w.permits else w.permits ++ [(key, other)] }
  let s := modTwin (modTwin s k (drop ka kb)) t (drop kb ka)
  if ka = arrivalKey ∨ ka = voteKey then sendRecord s k (BitVec.ofNat 128 (natOfBytes a)) else s

/-- PAIR_COMPARE: the copies in the next place of both twins are compared, and forwarded once where they are equal (R417). [log 35 DEDUCED] -/
def pairCompare (k : Nat) (s : State) : State :=
  match (s.tile k).twin with
  | none => s
  | some w => match (s.tile w.partner).twin with
    | none => s
    | some x => match w.sent, x.sent with
      | (ka, a) :: _, (kb, b) :: _ =>
        let s := if Config.packetHash a ≠ Config.packetHash b then mismatch [k, w.partner] s else forward k w.partner ka kb a s
        if pairReady s k then s.post (.pairCompare (tileDie k) (tileId k)) else s
      | _, _ => s

/-- PAIR_COMPARE (R417). -/
def execPairCompare (die tile : Nat) (s : State) : Host.Outcome State Fault Refusal := runE (pairCompare (tileKey die tile)) s

/-- PAIR_TIMEOUT: a copy has waited 8,192 cycles for its partner (R417); where the partner's tile is gone with its module, the one that is left raises PAIR. -/
def pairTimeout (k : Nat) (s : State) : State :=
  match (s.tile k).twin with
  | none => s
  | some w => match (s.tile w.partner).twin with
    | none => if w.sent.isEmpty then s else mismatch [k] s
    | some x => if w.sent.isEmpty ≠ x.sent.isEmpty then mismatch [k, w.partner] s else s

/-- PAIR_TIMEOUT (R417). -/
def execPairTimeout (die tile : Nat) (s : State) : Host.Outcome State Fault Refusal := runE (pairTimeout (tileKey die tile)) s

/-! ### Quarantine (R419) -/

/-- QUARANTINE_CLEAR (R419). -/
def execQuarantineClear (modl die tile : Nat) (s : State) : Host.Outcome State Fault Refusal :=
  runE (fun s => s.modModl modl (fun x => { x with quarantine := removeNat x.quarantine (tileKey die tile) })) s

/-! ### The loss of a module (R424 to R426) -/

/-- Modules of a box that can be reached from those given, in `n` rounds over links that are up. -/
def reach (s : State) (j : Nat) (alive : List Nat) : Nat → List Nat → List Nat
  | 0, l => l
  | n + 1, l => reach s j alive n ((l.flatMap (fun m => (List.range 8).filterMap (fun p =>
      if (s.link (fabricSw m) p).up then (s.job j).neighbour m p else none))).foldl
    (fun l m => if alive.contains m then insertNat l m else l) l)

/-- The shard by which a surviving buddy serves a lost module's indices: the latest that it holds complete (R424, R426). A
module adopts for one other at a time. [log 47 DEDUCED] -/
def adoptive (s : State) (j i : Nat) : Option (Nat × Save × Nat) :=
  let job := s.job j
  match (buddyOf job i).bind (fun b => job.box[b]?) with
  | none => none
  | some m =>
    let busy := job.adopted.any (fun e => match e.2.bind (fun k => Map.get? s.saves k) with
      | some x => decide (x.keeper = some m)
      | none => false)
    if (s.modl m).powered = false ∨ busy then none
    else
      let l := [shardKey j i 0, shardKey j i 1].filterMap (fun k => (Map.get? s.saves k).bind (fun x =>
        if x.buddy ∧ x.keeper = some m then some (k, x, m) else none))
      l.foldl (fun a e => match a with
        | none => some e
        | some b => if b.2.1.ck < e.2.1.ck then some e else some b) none

/-- A barrier of a job loses its tiles on a module, and both tiles of a pair that has one there (R416): lost units count as ended, and the survivors raise LINK (R278, R424). -/
def loseTiles (m g : Nat) (s : State) : State :=
  let onMod (k : Nat) : Bool := decide (tileDie k / 8 = m) || (s.tile k).twin.any (fun w => decide (tileDie w.partner / 8 = m))
  let lost := (barTiles s g).filter onMod
  let s := s.modPart g (fun p => { p with
    members := p.members.filter (fun k => !onMod k),
    undone := p.undone.filter (fun w => !(if w < 2 ^ 60 then onMod w else decide (w < 2 ^ 61) && decide ((w - 2 ^ 60) / 8 = m))) })
  if lost = [] then s
  else
    let s := lost.foldl removeUnit s
    let s := if (s.part g).bar ≠ .running ∧ (s.part g).undone = [] then s.post (.reportDone g (2 ^ 61)) else s
    match barTiles s g with
    | [] => if (s.part g).bar ≠ .running then s
      else if g < 2 ^ 80 then (match (s.part g).launch with
        | some id => endLaunch s id 0
        | none => s)
      else failLaunch s (g - 2 ^ 80)
    | left => left.foldl (fun s k => raiseForced s k 0x21 1) s

/-- A module of a job's box is lost: every barrier that has tiles there loses them, and the new map waits until every partition is held
(R412, R424). [log 47 DEDUCED] -/
def leaveJob (j m : Nat) (s : State) : State :=
  let hit := (jobBars s j).filter (fun g => (barTiles s g).any (fun k => decide (tileDie k / 8 = m)))
  let s := s.modJob j (fun x => { x with leaving := x.leaving ++ [(m, hit)] })
  (jobBars s j).foldl (fun s g => loseTiles m g s) s

/-- With every partition held, the new map takes effect: the indices of the lost module become ADOPTED or UNMAPPED, gangs lose its tiles, and
every partition that lost units commits its resize: PARTSZ changes, its tiles receive a RESIZE entry, its tree is rebuilt with the resume
broadcast (R412, R424, R425). [log 47 DEDUCED] -/
def resizeJob (j m : Nat) (hit : List Nat) (s : State) : State :=
  let job := s.job j
  let a := (job.box.findIdx? (fun x => decide (x = m))).bind (adoptive s j)
  let i := (job.box.findIdx? (fun x => decide (x = m))).getD 0
  let entry (p : Nat) : Word := match a with
    | some (_, _, b) => BitVec.ofNat 64 (2 * 2 ^ 62 + b * 8 + p)
    | none => 0
  let dieMap := (List.range job.dieMap.length).map (fun n => if n / 8 = i then entry (n % 8) else (job.dieMap[n]?).getD 0)
  let ck := match a with
    | some (_, x, _) => x.ck
    | none => 0
  let s := s.setJob j { job with
    dieMap := dieMap, adopted := Map.set job.adopted i (a.map (fun e => e.1)), leaving := job.leaving.filter (fun e => e.1 != m) }
  let s := writeMap s j
  let s := job.parts.foldl (fun s g => s.modPart g (fun p => { p with gang := p.gang.filter (fun k => decide (tileDie k / 8 ≠ m)) })) s
  let s := (hit.filter (fun g => decide (g < 2 ^ 80))).foldl (fun s g =>
    let left := barTiles s g
    let n := (left.filter (fun k => decide (s.idKey k = k))).length
    left.foldl (fun s k => notify s k (resizePayload ck i 1 n a.isSome) 0 1 0x06) (setSizes s g)) s
  if (s.job j).mapWaits then s else (jobBars s j).foldl releaseMap s

/-- Whether a lost module's indices may leave the maps of its jobs: every partition of them is held, or runs nothing (R412). -/
def lossReady (s : State) (m : Nat) : Bool :=
  s.jobs.all (fun e => !(e.2.leaving.any (fun x => decide (x.1 = m))) || (jobBars s e.1).all (barSettled s))

/-- What is in flight to the dies of a module, and their memory, tiles and records, are gone. -/
def dropModule (m : Nat) (s : State) : State :=
  let here (d : Nat) : Bool := decide (d / 8 = m)
  let gone (e : Instr) : Bool := match eventTile e with
    | some (d, _) => here d
    | none => match e with
      | .stagingEntryComplete d _ _ | .commit d _ | .abort d _ | .resumeBroadcast d _ | .workUnitStart d _ => here d
      | .controllerCommit _ d | .controllerAbort _ d => here d
      | .checkpointPhase2Done j n => decide (n = m) && decide ((s.job j).unmapping ≠ some m)
      | .checkpointPhase3Done _ n => decide (n = m)
      | _ => false
  { s with
    tiles := s.tiles.filter (fun e => !here (tileDie e.1)), dies := s.dies.filter (fun e => !here e.1)
    mem := s.mem.filter (fun c => !here (c.1 / 2 ^ 40)), full := s.full.filter (fun a => !here (a / 2 ^ 40))
    pending := s.pending.filter (fun e => !gone e)
    saves := s.saves.map (fun (e : Nat × Save) => (e.1, if e.2.keeper = some m then { e.2 with buddy := false } else e.2)) }

/-- MODULE_LOSS (R424): every job with the module in its box begins to shrink, or, where survivors have no route, is restored; the event happens
again once the partitions of those jobs are held, and their maps change. Whether modules outside the box give survivors a route is a free
value. [log 47 DEDUCED] -/
def loseModule (m : Nat) (s : State) : State :=
  let waiting := (s.jobs.filterMap (fun e => (e.2.leaving.find? (fun x => decide (x.1 = m))).map (fun x => (e.1, x.2))))
  if waiting ≠ [] then waiting.foldl (fun s e => resizeJob e.1 m e.2 s) s
  else
    let js := (s.jobs.filter (fun e => e.2.box.contains m && !e.2.off && (match e.2.box.findIdx? (fun x => decide (x = m)) with
      | some i => (Map.get? e.2.adopted i).isNone
      | none => false))).map (fun e => e.1)
    let s := s.modModl m (fun x => { x with powered := false })
    let s := js.foldl (fun s j =>
      let alive := s.aliveBox j
      let (n, s) := s.fresh
      let met := match alive with
        | [] => false
        | a :: _ => decide ((reach s j alive alive.length [a]).length = alive.length) || Config.freeOrder n
      let s := if met then leaveJob j m s else jobUnrecoverable s j
      leaveCommand j m s) s
    let s := dropModule m s
    if s.jobs.any (fun e => e.2.leaving.any (fun x => decide (x.1 = m))) then s.post (.moduleLoss m) else s

/-- MODULE_LOSS (R424). -/
def execModuleLoss (modl : Nat) (s : State) : Host.Outcome State Fault Refusal := runE (loseModule modl) s

/-! ### Jobs and gangs (R328, R348, R411) -/

/-- JOB_START (R348, R411): the box is given as its four extents and the job's function, with the address of the table of the die map, if it is
given; the modules are those of the entries.
A tag that names a running job, or a box or a map outside their limits, starts nothing. -/
def startJob (j : Nat) (box : List Nat) (entries : List (BitVec 64)) (s : State) : State :=
  let ext := box.take 4
  let fn := (box[4]?).getD 0
  let n := ext.foldl (fun a b => a * b) 1
  let old := s.job j
  let limits := ext.length = 4 ∧ (ext.take 2).all (fun x => decide (1 ≤ x ∧ x ≤ 4)) ∧ (ext.drop 2).all (fun x => decide (1 ≤ x ∧ x ≤ 16))
    ∧ entries.length = 8 * n ∧ entries.all (fun e => decide (bits e.toNat 62 2 = 1 ∧ bits e.toNat 35 27 = 0))
    ∧ (entries.map (fun e => bits e.toNat 0 35)).Nodup ∧ j < 2 ^ 16 ∧ fn < 32
  if limits ∧ (old.box = [] ∨ old.lost) then
    let mods := mapBox entries
    s.setJob j { modl := mods.headD 0, fn := fn, box := mods, extents := ext, dieMap := entries,
                  mapAt := (box[5]?).map (BitVec.ofNat 64) }
  else s

/-- JOB_START (R348). -/
def execJobStart (job : Nat) (box : List Nat) (entries : List (BitVec 64)) (s : State) : Host.Outcome State Fault Refusal :=
  runE (startJob job box entries) s

/-- GANG_ALLOT (R328): the tiles of the job's dies among those given become the gang; no tiles take the partition out of the
job's configuration. A partition that runs a launch keeps its gang. -/
def allotGang (g : Nat) (tiles : List (Nat × Nat)) (s : State) : State :=
  let j := g / 256
  let job := s.job j
  let keys := ((tiles.filter (fun e => job.dies.contains e.1 && decide (e.2 < Config.tilesPerDie))).map (fun e => tileKey e.1 e.2)).foldl
    insertNat []
  let busy := s.launches.any (fun e => decide (e.2.part = g) && decide (e.2.phase = .running))
  if job.box = [] ∨ busy then s
  else
    let parts := if keys = [] then removeNat job.parts g else insertNat job.parts g
    (s.setJob j { job with parts := parts }).modPart g (fun p => { p with gang := keys })

/-- GANG_ALLOT (R328). -/
def execGangAllot (part : Nat) (tiles : List (Nat × Nat)) (s : State) : Host.Outcome State Fault Refusal :=
  runE (allotGang part tiles) s

end Sys2Proof.Machine
end

