-- ==== Sys2Proof/Machine/Host.lean ====
section
/-! DEFINITION. The other commands of the mailbox (R431, R433, R436 to R439), boot (R434, R435), power (R433), throttling (R347),
and test kernels (R345, R346). -/

namespace Sys2Proof.Machine

/-! ### READCTX (R396, R415, R431) -/

/-- The READCTX command: the frame of a frozen context; any other context is DENIED. [log 42 DEDUCED] -/
def readctxBlock (m : Nat) (bs : List Byte) (s : State) : State :=
  match namedTile s m (descField bs 0 2) (descField bs 2 2) with
  | none => mbEnd s m 3
  | some k =>
    let c := descField bs 4 1
    if (s.ctx k c).st ≠ .frozen then mbEnd s m 3
    else mbEnd (hostPut s (descField bs 8 8) (contextFrame (s.tile k) c)) m 0

/-- READCTX (R431). -/
def readctx (m ptr : Nat) (s : State) : State :=
  mailbox m ptr 16 false (fun bs => decide (descField bs 4 1 < 11 ∧ descField bs 5 3 = 0)) (readctxBlock m) s

/-- READCTX (R431). -/
def execReadctx (modl ptr : Nat) (s : State) : Host.Outcome State Fault Refusal := runE (readctx modl ptr) s

/-! ### Throttling and power (R347, R433) -/

/-- The step in force is the slower of the two that are set. [log 45 DEDUCED] -/
def Partition.wantedStep (p : Partition) : Nat := max p.stepSet p.stepLow

/-- THROTTLE_APPLY (R347): every member tile of a partition takes the step in one cycle. [log 45 DEDUCED] -/
def throttleApply (g : Nat) (s : State) : State := s.modPart g (fun p => { p with stepNow := p.wantedStep })

/-- THROTTLE_APPLY (R347). -/
def execThrottleApply (part : Nat) (s : State) : Host.Outcome State Fault Refusal := runE (throttleApply part) s

/-- The THROTTLE command. [log 42 DEDUCED] -/
def throttleBlock (m : Nat) (bs : List Byte) (s : State) : State :=
  let j := descField bs 0 2
  let g := j * 256 + descField bs 2 1
  if (s.job j).box.contains m = false ∨ (s.part g).gang = [] then mbEnd s m 3
  else mbEnd ((s.modPart g (fun p => { p with stepSet := descField bs 3 1 })).post (.throttleApply g)) m 0

/-- THROTTLE (R347, R433). -/
def throttle (m ptr : Nat) (s : State) : State :=
  mailbox m ptr 8 false (fun bs => decide (descField bs 3 1 < 7 ∧ descField bs 4 4 = 0)) (throttleBlock m) s

/-- THROTTLE (R347, R433). -/
def execThrottle (modl ptr : Nat) (s : State) : Host.Outcome State Fault Refusal := runE (throttle modl ptr) s

/-- The partitions with tiles on a module. -/
def partsOn (s : State) (m : Nat) : List Nat :=
  (s.parts.filter (fun e => decide (e.1 < 2 ^ 80) && e.2.gang.any (fun k => decide (tileDie k / 8 = m)))).map (fun e => e.1)

/-- POWER_LIMIT_STEP (R433): every partition of the module goes one step down. [log 45 DEDUCED] -/
def powerLimit (m : Nat) (s : State) : State :=
  (partsOn s m).foldl (fun s g => (s.modPart g (fun p => { p with stepLow := min 6 (max p.stepLow p.stepNow + 1) })).post (.throttleApply g)) s

/-- POWER_LIMIT_STEP (R433). -/
def execPowerLimitStep (modl : Nat) (s : State) : Host.Outcome State Fault Refusal := runE (powerLimit modl) s

/-- POWER_RESTORE_STEP (R433): one step is restored, up to the step that THROTTLE last set. -/
def powerRestore (m : Nat) (s : State) : State :=
  (partsOn s m).foldl (fun s g =>
    let low (p : Partition) : Nat := if p.stepLow ≤ p.stepSet + 1 then 0 else p.stepLow - 1
    (s.modPart g (fun p => { p with stepLow := low p })).post (.throttleApply g)) s

/-- POWER_RESTORE_STEP (R433). -/
def execPowerRestoreStep (modl : Nat) (s : State) : Host.Outcome State Fault Refusal := runE (powerRestore modl) s

/-- What a module without power keeps: its fuses, its quarantine list, and the image staged for the next power-on (R419, R433, R436). Which records the part has
is no state of the module (R440). -/
def coldModule (x : Modl) : Modl :=
  { powered := false, quarantine := x.quarantine, svnMin := x.svnMin, staged := x.staged, records := x.records }

/-- Every job with tiles on a module ends UNRECOVERABLE, to be restored where it has a checkpoint (R288, R433). -/
def endJobsOn (m : Nat) (s : State) : State :=
  ((s.jobs.filter (fun e => e.2.box.contains m && !e.2.off)).map (fun e => e.1)).foldl jobUnrecoverable s

/-- THERMAL_CUTOFF (R433): the module cuts the power of its dies. -/
def thermalCutoff (m : Nat) (s : State) : State :=
  dropModule m (endJobsOn m (s.modModl m (fun x => { x with powered := false })))

/-- THERMAL_CUTOFF (R433). -/
def execThermalCutoff (modl : Nat) (s : State) : Host.Outcome State Fault Refusal := runE (thermalCutoff modl) s

/-- A job that ran on one module alone is gone with its power: its partitions, its launches, and what is in flight for it (R433). -/
def eraseJob (s : State) (j : Nat) : State :=
  let bars := jobBars s j
  let events := s.pending.filter (fun e => !(jobEvent s j e || jobTileEvent s j e))
  { s with pending := events, jobs := Map.erase s.jobs j, launches := s.launches.filter (fun e => decide (e.2.job ≠ j))
           parts := s.parts.filter (fun e => !bars.contains e.1 && !decide (e.1 < 2 ^ 80 ∧ e.1 / 256 = j)) }

/-- MODULE_POWER_LOSS (R433): nothing runs, and only the fuses, the quarantine list and the staged image persist. Jobs of the module alone are gone; to
the other modules of a job it is a module loss (R424). [log 44 DEDUCED] -/
def modulePowerLoss (m : Nat) (s : State) : State :=
  let alone (j : Job) : Bool := j.box.contains m && j.box.all (fun n => decide (n = m ∨ n = absentModule))
  let s := (s.jobs.filter (fun e => alone e.2)).foldl (fun s e => eraseJob s e.1) s
  let shared := s.jobs.any (fun e => e.2.box.contains m && !e.2.off)
  let s := (dropModule m s).modModl m coldModule
  let s := { s with hostWaits := s.hostWaits.filter (fun w => decide (w.modl ≠ m)), pending := s.pending.filter (fun e => decide (e ≠ .boot m)) }
  if shared then s.post (.moduleLoss m) else s

/-- MODULE_POWER_LOSS (R433). -/
def execModulePowerLoss (modl : Nat) (s : State) : Host.Outcome State Fault Refusal := runE (modulePowerLoss modl) s

/-! ### Images and boot (R434 to R436) -/

/-- How an image is judged (R434, R435). -/
inductive ImageCheck where
  | good (type svn : Nat)
  | broken
  | old
  deriving DecidableEq, Repr

/-- The payload of an image (R434). -/
def payload (img : List Byte) : List Byte := (img.drop 192).take (descField img 8 8)

/-- Whether the signature of an image holds under the key whose hash is fused (R434). [log 34 DESIGN CHOICE] -/
def imageSigned (img : List Byte) : Bool :=
  let key : Point := some Config.makerKey
  decide (sha384 (pointBytes key) = Config.makerHash) && ecdsaVerify key (img.take 64) ((img.drop 64).take 96)

/-- An image is checked: header, signature, SVN against the fused minimum, payload digest (R434, R435). [log 34 DESIGN CHOICE, 44 DEDUCED] -/
def checkImage (min' : Nat) (bs : List Byte) : ImageCheck :=
  let type := descField bs 4 2
  let len := descField bs 8 8
  if bs.length < 192 ∨ descField bs 0 4 ≠ 0x4F444B48 ∨ (type ≠ 1 ∧ type ≠ 2) ∨ bs.length < 192 + len
      ∨ descField bs 160 32 ≠ 0 then .broken
  else if imageSigned bs = false then .broken
  else if descField bs 6 2 < min' then .old
  else if sha384 (payload bs) ≠ (bs.drop 16).take 48 then .broken
  else .good type (descField bs 6 2)

/-- The IMAGE command (R436): a firmware image is staged for the next power-on; a test kernel set replaces the present one, tile by tile. -/
def imageBlock (m : Nat) (bs : List Byte) (s : State) : State :=
  let img := hostBytes s (descField bs 0 8) (descField bs 8 8)
  match checkImage (s.modl m).svnMin img with
  | .good 1 _ => mbEnd (s.modModl m (fun x => { x with staged := some img })) m 0
  | .good _ _ => mbEnd (s.modModl m (fun x => { x with kernels := img })) m 0
  | _ => mbEnd (recordMerr s m 0 10 (descField bs 0 8 % 2 ^ 48)) m 3

/-- IMAGE (R436). -/
def image (m ptr : Nat) (s : State) : State := mailbox m ptr 16 true (fun _ => true) (imageBlock m) s

/-- IMAGE (R436). -/
def execImage (modl ptr : Nat) (s : State) : Host.Outcome State Fault Refusal := runE (image modl ptr) s

/-- READY (R428, R435 to R437): firmware has trained the memories and the links, every tile is zero and the quarantine list is loaded; an image that was staged
raises the fused minimum, the identity key is derived, and virtual functions are enabled, at most 31. [log 5 DESIGN CHOICE, 34 DESIGN CHOICE] -/
def bootReady (m : Nat) (s : State) : State :=
  (dropModule m s).modModl m (fun x => { x with
    bootState := 4, svnMin := if x.staged.isSome then max x.svnMin (descField x.running 6 2) else x.svnMin
    idKey := Config.identityKey (Config.fusedSecret m)
    na := min 31 (Config.freeFns (2 * m)), nb := min (31 - min 31 (Config.freeFns (2 * m))) (Config.freeFns (2 * m + 1)) })

/-- BOOT (R435, R436): the stages of a boot, one at a time: the ROM, the check of the stored image, training. The image that a module has from its maker, and
whether training finds a failure of the hardware, are free values; a module whose boot has ended does not boot again while it has power. [log 34 DESIGN CHOICE, 44 DEDUCED] -/
def boot (m : Nat) (s : State) : State :=
  let x := s.modl m
  let img := x.staged.getD (Config.makerImage m)
  if x.powered = false ∨ x.bootState = 0 then
    (s.setModl m { x with powered := true, bootState := 1, boots := x.boots + 1, mbBusy := false }).post (.boot m)
  else if x.bootState = 1 then (s.setModl m { x with bootState := 2 }).post (.boot m)
  else if x.bootState = 2 then match checkImage x.svnMin img with
    | .good 1 svn => (s.setModl m { x with bootState := 3, bootSvn := BitVec.ofNat 8 svn, running := img }).post (.boot m)
    | .old => s.setModl m { x with bootState := 0x81 }
    | _ => s.setModl m { x with bootState := 0x80 }
  else if x.bootState = 3 then
    let (n, s) := s.fresh
    if Config.freeFail n then s.setModl m { x with bootState := 0x82 } else bootReady m s
  else s

/-- BOOT (R435). -/
def execBoot (modl : Nat) (s : State) : Host.Outcome State Fault Refusal := runE (boot modl) s

/-- BOOTST of a module (R435). -/
def bootst (s : State) (m : Nat) : Word := pack [(8, (s.modl m).bootSvn.toNat), (0, (s.modl m).bootState.toNat)]

/-! ### Identity (R437 to R439) -/

/-- The ATTEST command: a report that the identity key signs, and the certificate chain behind it; firmware and test kernels are measured by their
payloads (R438). [log 34 DESIGN CHOICE] -/
def attestBlock (m : Nat) (bs : List Byte) (s : State) : State :=
  let x := s.modl m
  let body := bs.take 32 ++ bytesOfNat 4 m ++ bytesOfNat 2 (descField x.running 6 2) ++ bytesOfNat 2 0
    ++ sha384 (payload x.running) ++ sha384 (payload x.kernels) ++ bytesOfNat 8 x.quarantine.length ++ bytesOfNat 8 x.boots ++ bytesOfNat 8 0
  mbEnd (hostPut s (descField bs 32 8) (body ++ signBy s m body ++ Config.certificate m)) m 0

/-- ATTEST (R438). -/
def attest (m ptr : Nat) (s : State) : State := mailbox m ptr 40 false (fun _ => true) (attestBlock m) s

/-- ATTEST (R438). -/
def execAttest (modl ptr : Nat) (s : State) : Host.Outcome State Fault Refusal := runE (attest modl ptr) s

/-- The KEYWRAP command: the key of the module's latest save of a job is wrapped for a target whose certificate chain verifies, between the module's identity
key and the key that the chain certifies (R439). A module with no such save fails. [log 34 DESIGN CHOICE, 42 DEDUCED] -/
def keywrapBlock (m : Nat) (bs : List Byte) (s : State) : State :=
  let j := descField bs 0 2
  let x := (s.saves.filter (fun e => decide (2 ^ 60 ≤ e.1) && decide (e.2.modl = m) && decide (e.2.index = descField bs 2 2)
    && e.2.parts.all (fun g => decide (2 ^ 80 ≤ g.1 ∨ g.1 / 256 = j)))).getLast?
  let cert := hostBytes s (descField bs 8 8) 4096
  match x with
  | none => mbEnd s m 4
  | some e =>
    if Config.chainGood cert = false then mbEnd s m 3
    else mbEnd (areaPut e.2.area 0x3F60 (keyWrap (sharedKey (s.modl m).idKey (pointOf (Config.chainKey cert))) e.2.key) s) m 0

/-- KEYWRAP (R439). -/
def keywrap (m ptr : Nat) (s : State) : State := mailbox m ptr 16 false (fun bs => decide (descField bs 4 4 = 0)) (keywrapBlock m) s

/-- KEYWRAP (R439). -/
def execKeywrap (modl ptr : Nat) (s : State) : Host.Outcome State Fault Refusal := runE (keywrap modl ptr) s

/-! ### SWCFG and KILL (R327, R360, R431) -/

/-- SWCFG (R431): COLLTO of the fabric switch. [log 54 DEDUCED] -/
def swcfg (m ptr : Nat) (s : State) : State :=
  mailbox m ptr 8 false (fun bs => decide (descField bs 0 8 < 2 ^ 24)) (fun bs s =>
    mbEnd (s.modModl m (fun x => { x with fabric := { x.fabric with collto := BitVec.ofNat 24 (descField bs 0 8) } })) m 0) s

/-- SWCFG (R431). [log 54 DEDUCED] -/
def execSwcfg (modl ptr : Nat) (s : State) : Host.Outcome State Fault Refusal := runE (swcfg modl ptr) s

/-- The KILL command: a launch that the module has not consumed, or that has ended, fails. [log 42 DEDUCED] -/
def killBlock (m : Nat) (bs : List Byte) (s : State) : State :=
  let key := launchKey m (descField bs 0 4)
  match Map.get? s.launches key with
  | none => mbEnd s m 4
  | some l => if l.phase = .ended then mbEnd s m 4 else cutLaunch true 8 key l (mbEnd s m 0)

/-- KILL (R327, R431). -/
def kill (m ptr : Nat) (s : State) : State := mailbox m ptr 8 false (fun bs => decide (descField bs 4 4 = 0)) (killBlock m) s

/-- KILL (R327, R431). -/
def execKill (modl ptr : Nat) (s : State) : Host.Outcome State Fault Refusal := runE (kill modl ptr) s

/-! ### Test kernels (R345, R346, R436) -/

/-- TEST_KERNEL_PLACE (R345, R436): a kernel of the set that the tile has taken runs on it. -/
def placeKernel (k : Nat) (s : State) : State :=
  if (s.modl (tileDie k / 8)).records.contains 4 ∧ (s.tile k).kernels ≠ [] then s.modTile k (fun t => { t with testKernel := true }) else s

/-- TEST_KERNEL_PLACE (R345). -/
def execTestKernelPlace (die tile : Nat) (s : State) : Host.Outcome State Fault Refusal :=
  runE (placeKernel (tileKey die tile)) s

/-- TEST_KERNEL_END (R346): a result that does not agree with its signature is recorded, and the tile is quarantined at its
partition's next commit. -/
def endKernel (k : Nat) (agrees : Bool) (s : State) : State :=
  if (s.tile k).testKernel = false then s
  else if agrees then s.modTile k (fun t => { t with testKernel := false })
  else recordMerr (s.modTile k (fun t => { t with testKernel := false, testFailed := true })) (tileDie k / 8) 0 8
    (tileDie k % 8 * 2 ^ 40 + 0x8000000000 + tileId k * 2 ^ 20)

/-- TEST_KERNEL_END (R346). -/
def execTestKernelEnd (die tile : Nat) (agrees : Bool) (s : State) : Host.Outcome State Fault Refusal :=
  runE (endKernel (tileKey die tile) agrees) s

/-! ### Configuration space (R440) -/

/-- The records of function 0 in order, each with the bytes of its body; before READY the identity alone (R440). Widths and order of what a body holds are the
model's choice. [log 82 DESIGN CHOICE] -/
def capRecords (s : State) (m : Nat) : List (Nat × List Byte) :=
  let x := s.modl m
  [(1, bytesOfNat 4 m ++ bytesOfNat 1 x.na ++ bytesOfNat 1 x.nb ++ bytesOfNat 2 0), (2, []), (3, []), (4, bytesOfNat 4 (descField x.kernels 6 2)), (5, [])].filter
    (fun e => x.records.contains e.1 && (decide (x.bootState = 4) || decide (e.1 = 1)))

/-- Records laid out from an offset, each with the offset of the next, or 0 (R440). -/
def capBytesFrom : Nat → List (Nat × List Byte) → List Byte
  | _, [] => []
  | off, (id, body) :: l =>
    let next := if l.isEmpty then 0 else off + 4 + body.length
    bytesOfNat 4 (next * 2 ^ 20 + (Config.partId 3).toNat % 16 * 2 ^ 16 + id) ++ body ++ capBytesFrom (off + 4 + body.length) l

/-- The capability of function 0 that names the first record, at offset 100H, and the records after it; the headers are those of PCI Express, with the vendor
and the identifiers of the part free values (R440). [log 82 DESIGN CHOICE] -/
def capBytes (s : State) (m : Nat) : List Byte :=
  let l := capBytesFrom 0x110 (capRecords s m)
  bytesOfNat 4 0x10023 ++ bytesOfNat 4 ((Config.partId 0).toNat + (Config.partId 1).toNat % 16 * 2 ^ 16 + (16 + l.length) * 2 ^ 20)
    ++ bytesOfNat 4 (Config.partId 2).toNat ++ bytesOfNat 4 0x110 ++ l

/-- `n` bytes of function 0's configuration space: the capability, and free values for what the spec does not describe (R440). [log 82 DESIGN CHOICE] -/
def configRead (m a n : Nat) (s : State) : State × List Byte :=
  let (s, free) := freeBytes s n
  (s, (List.range n).map (fun i => if 0x100 ≤ a + i then ((capBytes s m)[a + i - 0x100]?).getD ((free[i]?).getD 0) else (free[i]?).getD 0))

/-! ### Reads and writes of the host (R264, R428 to R431) -/

/-- What a read of a register of BAR0 answers; none where it completes with Unsupported Request (R320, R429, R430, R431, R435). [log 52 DEDUCED] -/
def bar0Word (s : State) (m fn off : Nat) : Option Word :=
  if 2 ^ 16 ≤ off then none
  else if off < 0x200 then some (ringOf s m fn (off / 8)).tail
  else if off < 0x400 then some (ringOf s m fn ((off - 0x200) / 8)).base
  else if off = 0x1000 then some (Map.getD (s.modl m).merr fn 0)
  else if off = 0x1100 ∨ off = 0x1108 then (if fn ≠ 0 then none else some (if off = 0x1108 then mbst s m else 0))
  else some (if off = 0x1200 then bootst s m else 0)

/-- Bytes of registers of 64 bits. -/
def regBytes (f : Nat → Word) (a n : Nat) : List Byte :=
  (List.range n).map (fun i => (f ((a + i) / 8 * 8)).extractLsb' (8 * ((a + i) % 8)) 8)

/-- A read of registers of the control windows, die by die; of the dirty bitmaps it clears the words that it covers (R298, R319, R429). -/
def readWindows (m a n : Nat) (s : State) : State × List Byte :=
  let bs := regBytes (fun o => windowWord s (8 * m + o / 2 ^ 28) (o % 2 ^ 28)) a n
  let words := ((List.range ((a + n) / 8 - (a + 7) / 8)).map (fun i => (a + 7) / 8 * 8 + 8 * i)).filter (fun o =>
    decide (0x100000 ≤ o % 2 ^ 28 ∧ o % 2 ^ 28 < 0x180000))
  (words.foldl (fun s o => s.modDie (8 * m + o / 2 ^ 28) (fun x =>
    clearDirty x ((o % 2 ^ 28 - 0x100000) / 0x20000) ((o % 2 ^ 28 - 0x100000) % 0x20000 / 8))) s, bs)

/-- A read of the host: of device memory, of registers, of configuration space; what does not answer completes with Unsupported Request (R429, R440). [log 52 DEDUCED] -/
def hostReads (m port fn bar addr n : Nat) (s : State) : State :=
  if fnHere s m port fn = false then complete s addr [] 1
  else if bar = 4 then hostAccess { modl := m, port := port, fn := fn, addr := addr, size := n, kind := 0, bytes := [] } s
  else if bar = 0 then
    let word (o : Nat) : Option Word := bar0Word s m fn o
    if (List.range n).all (fun i => (word ((addr + i) / 8 * 8)).isSome) then complete s addr (regBytes (fun o => (word o).getD 0) addr n) 0
    else complete s addr [] 1
  else if bar = 2 ∧ fn = 0 ∧ barsAnswer s m 0 ∧ addr + n ≤ 2 ^ 31 then
    let (s, bs) := readWindows m addr n s
    complete s addr bs 0
  else if bar = 6 ∧ fn = 0 ∧ addr + n ≤ 4096 then
    let (s, bs) := configRead m addr n s
    complete s addr bs 0
  else complete s addr [] 1

/-- HOST_READ (R429). -/
def execHostRead (modl : Nat) (fn addr : Nat × Nat) (size : Nat) (s : State) : Host.Outcome State Fault Refusal :=
  runE (hostReads modl fn.1 fn.2 addr.1 addr.2 size) s

/-- A write to MBCMD: the command of its OP (R431). -/
def writeMbcmd (m : Nat) (v : Word) (s : State) : State :=
  let p := v.toNat
  match bits p 0 8 with
  | 1 => clove m p s
  | 2 => contain m p s
  | 3 => readctx m p s
  | 4 => throttle m p s
  | 5 => kill m p s
  | 6 => image m p s
  | 7 => attest m p s
  | 8 => keywrap m p s
  | 9 => swcfg m p s
  | _ => badOp m s

/-- A write of a register of BAR0 (R320, R429 to R431). -/
def writeBar0 (m fn off : Nat) (v : Word) (s : State) : State :=
  if off < 0x200 then writeTail m fn (off / 8) v s
  else if off < 0x400 then writeRingbase m fn ((off - 0x200) / 8) v s
  else if off = 0x1008 then writeMerrc m fn v s
  else if (off = 0x1100 ∨ off = 0x1108) ∧ fn ≠ 0 then complete s off [] 1
  else if off = 0x1100 then writeMbcmd m v s
  else writeRegister m fn 0 off v s

/-- A write of a register of a control window through BAR2 (R298, R429). -/
def writeBar2 (m fn addr : Nat) (v : Word) (s : State) : State :=
  let d := 8 * m + addr / 2 ^ 28
  let off := addr % 2 ^ 28
  if fn ≠ 0 ∨ 2 ^ 31 ≤ addr then complete s addr [] 1
  else if off < 0x800 then tctxWrite d off v s
  else if off = 0x800 then writeTinv d v s
  else if off = 0x810 then writePresp d v s
  else if 0x2000 ≤ off ∧ off < 0x2000 + 8 * 255 then writePolgrp d ((off - 0x2000) / 8) v s
  else writeRegister m fn 2 addr v s

/-- The host writes its own memory; bytes that are poisoned it does not give to the module any more (R431). [log 43 DESIGN CHOICE] -/
def hostOwn (port addr : Nat) (poisoned : Bool) (bs : List Byte) (s : State) : State :=
  let a := port * 2 ^ 64 + addr
  let muted := s.hostMuted.filter (fun x => !decide (a ≤ x ∧ x < a + bs.length))
  { s with hostMem := Memory.writeN s.hostMem a bs
           hostMuted := if poisoned then (List.range bs.length).foldl (fun l i => insertNat l (a + i)) muted else muted }

/-- A write of the host: a poisoned one is discarded and recorded; a register takes a whole word (R427, R429). [log 52 DEDUCED] -/
def hostWrites (m port fn bar addr : Nat) (relaxed poisoned : Bool) (bs : List Byte) (s : State) : State :=
  let v : Word := BitVec.ofNat 64 (natOfBytes bs)
  let whole := bs.length = 8 ∧ addr % 8 = 0
  if bar = 8 then hostOwn port addr poisoned bs s
  else if fnHere s m port fn = false then complete s addr [] 1
  else if poisoned then recordMerr s m fn 9 (addr % 2 ^ 48)
  else if bar = 4 then hostAccess { modl := m, port := port, fn := fn, addr := addr, size := bs.length, kind := 1, bytes := bs, relaxed := relaxed } s
  else if bar = 0 ∧ whole then writeBar0 m fn addr v s
  else if bar = 2 ∧ whole then writeBar2 m fn addr v s
  else s

/-- HOST_WRITE (R264, R427, R429). -/
def execHostWrite (modl : Nat) (fn addr : Nat × Nat) (bytes : Bool × Bool × List (BitVec 8)) (s : State) : Host.Outcome State Fault Refusal :=
  runE (hostWrites modl fn.1 fn.2 addr.1 addr.2 bytes.1 bytes.2.1 bytes.2.2) s

end Sys2Proof.Machine
end

