-- ==== Sys2Proof/Machine/Dispatch.lean ====
section
/-! DEFINITION. One arm for each row of the opcode table. -/

namespace Sys2Proof.Machine

/-- The meaning of an instruction, or of an event of the part. -/
def exec (i : Instr) (s : State) : Host.Outcome State Fault Refusal :=
  match i with
  | .add d a b t => Sys2Proof.Machine.execAdd d a b t s
  | .sub d a b t => Sys2Proof.Machine.execSub d a b t s
  | .mul d a b t => Sys2Proof.Machine.execMul d a b t s
  | .mulh d a b t => Sys2Proof.Machine.execMulh d a b t s
  | .mulhn d a b t => Sys2Proof.Machine.execMulhn d a b t s
  | .div d a b t => Sys2Proof.Machine.execDiv d a b t s
  | .divn d a b t => Sys2Proof.Machine.execDivn d a b t s
  | .rem d a b t => Sys2Proof.Machine.execRem d a b t s
  | .remn d a b t => Sys2Proof.Machine.execRemn d a b t s
  | .and d a b t => Sys2Proof.Machine.execAnd d a b t s
  | .or d a b t => Sys2Proof.Machine.execOr d a b t s
  | .xor d a b t => Sys2Proof.Machine.execXor d a b t s
  | .andn d a b t => Sys2Proof.Machine.execAndn d a b t s
  | .shl d a b t => Sys2Proof.Machine.execShl d a b t s
  | .shr d a b t => Sys2Proof.Machine.execShr d a b t s
  | .sra d a b t => Sys2Proof.Machine.execSra d a b t s
  | .rot d a b t => Sys2Proof.Machine.execRot d a b t s
  | .min d a b t => Sys2Proof.Machine.execMin d a b t s
  | .max d a b t => Sys2Proof.Machine.execMax d a b t s
  | .minn d a b t => Sys2Proof.Machine.execMinn d a b t s
  | .maxn d a b t => Sys2Proof.Machine.execMaxn d a b t s
  | .slt d a b t => Sys2Proof.Machine.execSlt d a b t s
  | .sltn d a b t => Sys2Proof.Machine.execSltn d a b t s
  | .seq d a b t => Sys2Proof.Machine.execSeq d a b t s
  | .clz d a t => Sys2Proof.Machine.execClz d a t s
  | .ctz d a t => Sys2Proof.Machine.execCtz d a t s
  | .popc d a t => Sys2Proof.Machine.execPopc d a t s
  | .sext d a t => Sys2Proof.Machine.execSext d a t s
  | .zext d a t => Sys2Proof.Machine.execZext d a t s
  | .addi d a imm => Sys2Proof.Machine.execAddi d a imm s
  | .andi d a imm => Sys2Proof.Machine.execAndi d a imm s
  | .ori d a imm => Sys2Proof.Machine.execOri d a imm s
  | .xori d a imm => Sys2Proof.Machine.execXori d a imm s
  | .shli d a c => Sys2Proof.Machine.execShli d a c s
  | .shri d a c => Sys2Proof.Machine.execShri d a c s
  | .srai d a c => Sys2Proof.Machine.execSrai d a c s
  | .lil d imm => Sys2Proof.Machine.execLil d imm s
  | .lih d h imm => Sys2Proof.Machine.execLih d h imm s
  | .padd d a b => Sys2Proof.Machine.execPadd d a b s
  | .pset d a b t => Sys2Proof.Machine.execPset d a b t s
  | .pget d a t => Sys2Proof.Machine.execPget d a t s
  | .pdie d a => Sys2Proof.Machine.execPdie d a s
  | .pdiff d a b => Sys2Proof.Machine.execPdiff d a b s
  | .paddi d a imm => Sys2Proof.Machine.execPaddi d a imm s
  | .br c a b o => Sys2Proof.Machine.execBr c a b o s
  | .jmp o => Sys2Proof.Machine.execJmp o s
  | .jal o => Sys2Proof.Machine.execJal o s
  | .jalr d a imm => Sys2Proof.Machine.execJalr d a imm s
  | .loop c l v => Sys2Proof.Machine.execLoop c l v s
  | .loopi c l v h => Sys2Proof.Machine.execLoopi c l v h s
  | .rpt n k d a b => Sys2Proof.Machine.execRpt n k d a b s
  | .csrr d c => Sys2Proof.Machine.execCsrr d c s
  | .csrw d a c => Sys2Proof.Machine.execCsrw d a c s
  | .csrs d a c => Sys2Proof.Machine.execCsrs d a c s
  | .csrc d a c => Sys2Proof.Machine.execCsrc d a c s
  | .trap a b c => Sys2Proof.Machine.execTrap a b c s
  | .vaddFlt d a b k t => Sys2Proof.Machine.execVaddFlt d a b k t s
  | .vsubFlt d a b k t => Sys2Proof.Machine.execVsubFlt d a b k t s
  | .vmulFlt d a b k t => Sys2Proof.Machine.execVmulFlt d a b k t s
  | .vdiv d a b k t => Sys2Proof.Machine.execVdiv d a b k t s
  | .vsqrt d a k t => Sys2Proof.Machine.execVsqrt d a k t s
  | .vminFlt d a b k t => Sys2Proof.Machine.execVminFlt d a b k t s
  | .vmaxFlt d a b k t => Sys2Proof.Machine.execVmaxFlt d a b k t s
  | .vabs d a k t => Sys2Proof.Machine.execVabs d a k t s
  | .vneg d a k t => Sys2Proof.Machine.execVneg d a k t s
  | .vaddInt d a b k t => Sys2Proof.Machine.execVaddInt d a b k t s
  | .vsubInt d a b k t => Sys2Proof.Machine.execVsubInt d a b k t s
  | .vmulInt d a b k t => Sys2Proof.Machine.execVmulInt d a b k t s
  | .vminInt d a b k t => Sys2Proof.Machine.execVminInt d a b k t s
  | .vmaxInt d a b k t => Sys2Proof.Machine.execVmaxInt d a b k t s
  | .vand d a b k t => Sys2Proof.Machine.execVand d a b k t s
  | .vor d a b k t => Sys2Proof.Machine.execVor d a b k t s
  | .vxor d a b k t => Sys2Proof.Machine.execVxor d a b k t s
  | .vshl d a b k t => Sys2Proof.Machine.execVshl d a b k t s
  | .vshr d a b k t => Sys2Proof.Machine.execVshr d a b k t s
  | .vsra d a b k t => Sys2Proof.Machine.execVsra d a b k t s
  | .vfma d a b c k t => Sys2Proof.Machine.execVfma d a b c k t s
  | .vfms d a b c k t => Sys2Proof.Machine.execVfms d a b c k t s
  | .vfnma d a b c k t => Sys2Proof.Machine.execVfnma d a b c k t s
  | .vcmp d a b k c t => Sys2Proof.Machine.execVcmp d a b k c t s
  | .vsel d a b k t => Sys2Proof.Machine.execVsel d a b k t s
  | .vcvt d a x r s1 k f t => Sys2Proof.Machine.execVcvt d a x r s1 k f t s
  | .vperm d a b k t => Sys2Proof.Machine.execVperm d a b k t s
  | .vbcast d a k t => Sys2Proof.Machine.execVbcast d a k t s
  | .vmovs d a b t => Sys2Proof.Machine.execVmovs d a b t s
  | .vins d a b t => Sys2Proof.Machine.execVins d a b t s
  | .viota d k t => Sys2Proof.Machine.execViota d k t s
  | .vpack d a b => Sys2Proof.Machine.execVpack d a b s
  | .vunpk d a h => Sys2Proof.Machine.execVunpk d a h s
  | .vreduce d a k o t => Sys2Proof.Machine.execVreduce d a k o t s
  | .vscan d a k o t => Sys2Proof.Machine.execVscan d a k o t s
  | .tload s1 a => Sys2Proof.Machine.execTload s1 a s
  | .tinterp d a s1 k t => Sys2Proof.Machine.execTinterp d a s1 k t s
  | .vqdq d a b k t => Sys2Proof.Machine.execVqdq d a b k t s
  | .qscale d a b k t => Sys2Proof.Machine.execQscale d a b k t s
  | .kand d a b => Sys2Proof.Machine.execKand d a b s
  | .kor d a b => Sys2Proof.Machine.execKor d a b s
  | .kxor d a b => Sys2Proof.Machine.execKxor d a b s
  | .knot d a => Sys2Proof.Machine.execKnot d a s
  | .kpop d a => Sys2Proof.Machine.execKpop d a s
  | .kfirst d a => Sys2Proof.Machine.execKfirst d a s
  | .kset d a => Sys2Proof.Machine.execKset d a s
  | .sbindIn d a b e => Sys2Proof.Machine.execSbindIn d a b e s
  | .sbindOut d a b e => Sys2Proof.Machine.execSbindOut d a b e s
  | .sbindCopy d e => Sys2Proof.Machine.execSbindCopy d e s
  | .sunbind d => Sys2Proof.Machine.execSunbind d s
  | .sstat d a => Sys2Proof.Machine.execSstat d a s
  | .ld d b f imm => Sys2Proof.Machine.execLd d b f imm s
  | .ldAcq d b f e => Sys2Proof.Machine.execLdAcq d b f e s
  | .st d b n w imm => Sys2Proof.Machine.execSt d b n w imm s
  | .stRel d b n w e => Sys2Proof.Machine.execStRel d b n w e s
  | .ldv d b n imm => Sys2Proof.Machine.execLdv d b n imm s
  | .ldvAcq d b n e => Sys2Proof.Machine.execLdvAcq d b n e s
  | .stv d b n imm => Sys2Proof.Machine.execStv d b n imm s
  | .stvRel d b n e => Sys2Proof.Machine.execStvRel d b n e s
  | .ldvs d a b t => Sys2Proof.Machine.execLdvs d a b t s
  | .ldvsAcq d a b e t => Sys2Proof.Machine.execLdvsAcq d a b e t s
  | .stvs d a b t => Sys2Proof.Machine.execStvs d a b t s
  | .stvsRel d a b e t => Sys2Proof.Machine.execStvsRel d a b e t s
  | .gath d b x k imm g c z => Sys2Proof.Machine.execGath d b x k imm g c z s
  | .scat d b x k imm g c z => Sys2Proof.Machine.execScat d b x k imm g c z s
  | .ldfe d b imm => Sys2Proof.Machine.execLdfe d b imm s
  | .ldff d b imm => Sys2Proof.Machine.execLdff d b imm s
  | .ste d b imm => Sys2Proof.Machine.execSte d b imm s
  | .stf d b imm => Sys2Proof.Machine.execStf d b imm s
  | .feget d b imm => Sys2Proof.Machine.execFeget d b imm s
  | .feset d b imm => Sys2Proof.Machine.execFeset d b imm s
  | .amoAdd d a b r e w => Sys2Proof.Machine.execAmoAdd d a b r e w s
  | .amoMin d a b r e w => Sys2Proof.Machine.execAmoMin d a b r e w s
  | .amoMax d a b r e w => Sys2Proof.Machine.execAmoMax d a b r e w s
  | .amoAnd d a b r e w => Sys2Proof.Machine.execAmoAnd d a b r e w s
  | .amoOr d a b r e w => Sys2Proof.Machine.execAmoOr d a b r e w s
  | .amoXor d a b r e w => Sys2Proof.Machine.execAmoXor d a b r e w s
  | .amoSwap d a b r e w => Sys2Proof.Machine.execAmoSwap d a b r e w s
  | .amoCas d a b r e w => Sys2Proof.Machine.execAmoCas d a b r e w s
  | .fence k e => Sys2Proof.Machine.execFence k e s
  | .seal a b => Sys2Proof.Machine.execSeal a b s
  | .unseal a b => Sys2Proof.Machine.execUnseal a b s
  | .arrive d e => Sys2Proof.Machine.execArrive d e s
  | .waitb a => Sys2Proof.Machine.execWaitb a s
  | .testb d a => Sys2Proof.Machine.execTestb d a s
  | .join d a => Sys2Proof.Machine.execJoin d a s
  | .leave d a => Sys2Proof.Machine.execLeave d a s
  | .scopeset a e => Sys2Proof.Machine.execScopeset a e s
  | .enq d a b tr => Sys2Proof.Machine.execEnq d a b tr s
  | .deq d a b tr => Sys2Proof.Machine.execDeq d a b tr s
  | .inboxr d b tr => Sys2Proof.Machine.execInboxr d b tr s
  | .inboxp d b => Sys2Proof.Machine.execInboxp d b s
  | .ssb a b r => Sys2Proof.Machine.execSsb a b r s
  | .ssvote a => Sys2Proof.Machine.execSsvote a s
  | .pfl d a => Sys2Proof.Machine.execPfl d a s
  | .cont a b => Sys2Proof.Machine.execCont a b s
  | .waitp d a => Sys2Proof.Machine.execWaitp d a s
  | .mma s1 a b t u c m => Sys2Proof.Machine.execMma s1 a b t u c m s
  | .mwait s1 => Sys2Proof.Machine.execMwait s1 s
  | .accrd d s1 r => Sys2Proof.Machine.execAccrd d s1 r s
  | .accwr a s1 r => Sys2Proof.Machine.execAccwr a s1 r s
  | .mzero s1 => Sys2Proof.Machine.execMzero s1 s
  | .epcfg a c => Sys2Proof.Machine.execEpcfg a c s
  | .epi a b w c => Sys2Proof.Machine.execEpi a b w c s
  | .copy d a b w s1 => Sys2Proof.Machine.execCopy d a b w s1 s
  | .copy2d d a w s1 => Sys2Proof.Machine.execCopy2d d a w s1 s
  | .copyg a b w => Sys2Proof.Machine.execCopyg a b w s
  | .copyr d a b w o y => Sys2Proof.Machine.execCopyr d a b w o y s
  | .waitt m => Sys2Proof.Machine.execWaitt m s
  | .start d a b h => Sys2Proof.Machine.execStart d a b h s
  | .startB d a b h n => Sys2Proof.Machine.execStartB d a b h n s
  | .hwait d a => Sys2Proof.Machine.execHwait d a s
  | .book d a b => Sys2Proof.Machine.execBook d a b s
  | .bookq d a b => Sys2Proof.Machine.execBookq d a b s
  | .unbook d a => Sys2Proof.Machine.execUnbook d a s
  | .calq d a => Sys2Proof.Machine.execCalq d a s
  | .put d a b w => Sys2Proof.Machine.execPut d a b w s
  | .get d a b w => Sys2Proof.Machine.execGet d a b w s
  | .coll a w => Sys2Proof.Machine.execColl a w s
  | .msg d a b => Sys2Proof.Machine.execMsg d a b s
  | .pubv d => Sys2Proof.Machine.execPubv d s
  | .vsw d a => Sys2Proof.Machine.execVsw d a s
  | .tkrec a b => Sys2Proof.Machine.execTkrec a b s
  | .streamWake die tile ctx => Sys2Proof.Machine.execStreamWake die tile ctx s
  | .gatherElementReplay die tile ctx elem => Sys2Proof.Machine.execGatherElementReplay die tile ctx elem s
  | .feWaiterWake key => Sys2Proof.Machine.execFeWaiterWake key s
  | .groupWaitWake die tile ctx => Sys2Proof.Machine.execGroupWaitWake die tile ctx s
  | .qcWaiterServe block => Sys2Proof.Machine.execQcWaiterServe block s
  | .inboxWaitWake die tile ctx => Sys2Proof.Machine.execInboxWaitWake die tile ctx s
  | .inboxHeldDeliver die tile => Sys2Proof.Machine.execInboxHeldDeliver die tile s
  | .ssbArrive die tile => Sys2Proof.Machine.execSsbArrive die tile s
  | .waitpComplete die tile ctx => Sys2Proof.Machine.execWaitpComplete die tile ctx s
  | .mmaComplete die tile => Sys2Proof.Machine.execMmaComplete die tile s
  | .epiDrainStart die tile => Sys2Proof.Machine.execEpiDrainStart die tile s
  | .epiDrainEnd die tile => Sys2Proof.Machine.execEpiDrainEnd die tile s
  | .tokenWaitWake die tile ctx => Sys2Proof.Machine.execTokenWaitWake die tile ctx s
  | .copyComplete die tile op => Sys2Proof.Machine.execCopyComplete die tile op s
  | .copygComplete die tile op => Sys2Proof.Machine.execCopygComplete die tile op s
  | .gatherRowArrive die tile op row => Sys2Proof.Machine.execGatherRowArrive die tile op row s
  | .engineFault die tile op cause off => Sys2Proof.Machine.execEngineFault die tile op cause off s
  | .hwaitComplete die tile ctx => Sys2Proof.Machine.execHwaitComplete die tile ctx s
  | .queueWake die tile ctx => Sys2Proof.Machine.execQueueWake die tile ctx s
  | .workUnitStart die tile => Sys2Proof.Machine.execWorkUnitStart die tile s
  | .conLaunchStart launch => Sys2Proof.Machine.execConLaunchStart launch s
  | .unitPlace launch => Sys2Proof.Machine.execUnitPlace launch s
  | .dispatchCheck launch => Sys2Proof.Machine.execDispatchCheck launch s
  | .continuationReady part rec => Sys2Proof.Machine.execContinuationReady part rec s
  | .continuationResume part => Sys2Proof.Machine.execContinuationResume part s
  | .barrierRecord part level node child rec => Sys2Proof.Machine.execBarrierRecord part level node child rec s
  | .commit die tile => Sys2Proof.Machine.execCommit die tile s
  | .abort die tile => Sys2Proof.Machine.execAbort die tile s
  | .controllerCommit part die => Sys2Proof.Machine.execControllerCommit part die s
  | .controllerAbort part die => Sys2Proof.Machine.execControllerAbort part die s
  | .reportDone part who => Sys2Proof.Machine.execReportDone part who s
  | .resumeBroadcast die tile => Sys2Proof.Machine.execResumeBroadcast die tile s
  | .remoteKeptWrite die tile vault off bytes => Sys2Proof.Machine.execRemoteKeptWrite die tile vault off bytes s
  | .stagingEntryComplete die tile entry => Sys2Proof.Machine.execStagingEntryComplete die tile entry s
  | .requestAppendResume die => Sys2Proof.Machine.execRequestAppendResume die s
  | .tinvComplete die => Sys2Proof.Machine.execTinvComplete die s
  | .ringScanResume modl fn ring => Sys2Proof.Machine.execRingScanResume modl fn ring s
  | .restore modl ptr => Sys2Proof.Machine.execRestore modl ptr s
  | .checkpointPhase2Done job modl => Sys2Proof.Machine.execCheckpointPhase2Done job modl s
  | .checkpointPhase3Done job modl => Sys2Proof.Machine.execCheckpointPhase3Done job modl s
  | .switchQuiet job => Sys2Proof.Machine.execSwitchQuiet job s
  | .switchEscalate job => Sys2Proof.Machine.execSwitchEscalate job s
  | .markArrive sw port job => Sys2Proof.Machine.execMarkArrive sw port job s
  | .sweepPacketArrive sw port pkt => Sys2Proof.Machine.execSweepPacketArrive sw port pkt s
  | .throttleApply part => Sys2Proof.Machine.execThrottleApply part s
  | .packetRoute sw port vc => Sys2Proof.Machine.execPacketRoute sw port vc s
  | .collHop sw port => Sys2Proof.Machine.execCollHop sw port s
  | .collEndpointArrival die pkt => Sys2Proof.Machine.execCollEndpointArrival die pkt s
  | .collComplete die tile op => Sys2Proof.Machine.execCollComplete die tile op s
  | .mcastBranchSend sw port entry => Sys2Proof.Machine.execMcastBranchSend sw port entry s
  | .linkFlitReceive sw port seq good pkt => Sys2Proof.Machine.execLinkFlitReceive sw port seq good pkt s
  | .pairCompare die tile => Sys2Proof.Machine.execPairCompare die tile s
  | .testKernelPlace die tile => Sys2Proof.Machine.execTestKernelPlace die tile s
  | .meshDrained die job => Sys2Proof.Machine.execMeshDrained die job s
  | .serviced die parked => Sys2Proof.Machine.execServiced die parked s
  | .linkReplay sw port seq => Sys2Proof.Machine.execLinkReplay sw port seq s
  | .deqLongWait die tile ctx => Sys2Proof.Machine.execDeqLongWait die tile ctx s
  | .moduleLoss modl => Sys2Proof.Machine.execModuleLoss modl s
  | .slotBoundary die tile => Sys2Proof.Machine.execSlotBoundary die tile s
  | .overrunLatency die tile ctx => Sys2Proof.Machine.execOverrunLatency die tile ctx s
  | .forcedEvent die tile code => Sys2Proof.Machine.execForcedEvent die tile code s
  | .parityError die tile place => Sys2Proof.Machine.execParityError die tile place s
  | .tctxWrite die off value => Sys2Proof.Machine.execTctxWrite die off value s
  | .tinv die value => Sys2Proof.Machine.execTinv die value s
  | .prespRetry die value => Sys2Proof.Machine.execPrespRetry die value s
  | .prespRefuse die value => Sys2Proof.Machine.execPrespRefuse die value s
  | .dirtyBitmapRead die controller word => Sys2Proof.Machine.execDirtyBitmapRead die controller word s
  | .polgrpWrite die group value => Sys2Proof.Machine.execPolgrpWrite die group value s
  | .tailrWrite modl fn ring value => Sys2Proof.Machine.execTailrWrite modl fn ring value s
  | .ringbaseWrite modl fn ring value => Sys2Proof.Machine.execRingbaseWrite modl fn ring value s
  | .merrcWrite modl fn value => Sys2Proof.Machine.execMerrcWrite modl fn value s
  | .registerWrite modl fn bar off value => Sys2Proof.Machine.execRegisterWrite modl fn bar off value s
  | .hostRead modl fn addr size => Sys2Proof.Machine.execHostRead modl fn addr size s
  | .hostWrite modl fn addr bytes => Sys2Proof.Machine.execHostWrite modl fn addr bytes s
  | .hostAtomicFetchadd modl fn addr size value => Sys2Proof.Machine.execHostAtomicFetchadd modl fn addr size value s
  | .cloveSwitchDrain modl ptr => Sys2Proof.Machine.execCloveSwitchDrain modl ptr s
  | .cloveAbortSwitch modl ptr => Sys2Proof.Machine.execCloveAbortSwitch modl ptr s
  | .cloveSwitchForced modl ptr => Sys2Proof.Machine.execCloveSwitchForced modl ptr s
  | .cloveResume modl ptr => Sys2Proof.Machine.execCloveResume modl ptr s
  | .checkpoint modl ptr => Sys2Proof.Machine.execCheckpoint modl ptr s
  | .containRelease modl ptr => Sys2Proof.Machine.execContainRelease modl ptr s
  | .containExclude modl ptr => Sys2Proof.Machine.execContainExclude modl ptr s
  | .containKill modl ptr => Sys2Proof.Machine.execContainKill modl ptr s
  | .readctx modl ptr => Sys2Proof.Machine.execReadctx modl ptr s
  | .throttle modl ptr => Sys2Proof.Machine.execThrottle modl ptr s
  | .kill modl ptr => Sys2Proof.Machine.execKill modl ptr s
  | .image modl ptr => Sys2Proof.Machine.execImage modl ptr s
  | .attest modl ptr => Sys2Proof.Machine.execAttest modl ptr s
  | .keywrap modl ptr => Sys2Proof.Machine.execKeywrap modl ptr s
  | .swcfg modl ptr => Sys2Proof.Machine.execSwcfg modl ptr s
  | .boot modl => Sys2Proof.Machine.execBoot modl s
  | .powerLimitStep modl => Sys2Proof.Machine.execPowerLimitStep modl s
  | .powerRestoreStep modl => Sys2Proof.Machine.execPowerRestoreStep modl s
  | .thermalCutoff modl => Sys2Proof.Machine.execThermalCutoff modl s
  | .testKernelEnd die tile agrees => Sys2Proof.Machine.execTestKernelEnd die tile agrees s
  | .collSlotTimeout sw slot => Sys2Proof.Machine.execCollSlotTimeout sw slot s
  | .linkDown sw port => Sys2Proof.Machine.execLinkDown sw port s
  | .linkRetrain sw port => Sys2Proof.Machine.execLinkRetrain sw port s
  | .keepwait die parked => Sys2Proof.Machine.execKeepwait die parked s
  | .withdrawn die parked => Sys2Proof.Machine.execWithdrawn die parked s
  | .begun die parked => Sys2Proof.Machine.execBegun die parked s
  | .remoteto die tile ctx => Sys2Proof.Machine.execRemoteto die tile ctx s
  | .pairTimeout die tile => Sys2Proof.Machine.execPairTimeout die tile s
  | .migrationCopy modl src dst => Sys2Proof.Machine.execMigrationCopy modl src dst s
  | .functionReset modl fn => Sys2Proof.Machine.execFunctionReset modl fn s
  | .jobStart job box entries => Sys2Proof.Machine.execJobStart job box entries s
  | .gangAllot part tiles => Sys2Proof.Machine.execGangAllot part tiles s
  | .quarantineClear modl die tile => Sys2Proof.Machine.execQuarantineClear modl die tile s
  | .modulePowerLoss modl => Sys2Proof.Machine.execModulePowerLoss modl s
  | .badop modl value => Sys2Proof.Machine.execBadop modl value s
  | .moduleRelease job modl => Sys2Proof.Machine.execModuleRelease job modl s
  | .nop => Sys2Proof.Machine.execNop s
  | .tret => Sys2Proof.Machine.execTret s
  | .halt => Sys2Proof.Machine.execHalt s
  | .bkpt => Sys2Proof.Machine.execBkpt s
  | .trig => Sys2Proof.Machine.execTrig s
  | .mnext => Sys2Proof.Machine.execMnext s

end Sys2Proof.Machine
end

