-- ==== Sys2Proof/Machine/Sched.lean ====
section
/-! DEFINITION. What can happen next: contexts that can issue (R13), how an instruction is fetched (R66, R84), the events in
flight whose conditions hold, and the choice among them. The spec orders nothing else between agents; the list `sched` of
the state chooses, and every theorem holds for every choice. -/

namespace Sys2Proof.Machine

/-! ### Issue (R13, R66, R84) -/

/-- The issuing context executes word `w` (R77). -/
def runWord (w : Word32) (s : State) : Host.Outcome State Fault Refusal :=
  match decode w with
  | .ok i => exec i s
  | .error _ => runM (illegal w) s

/-- Context `c` of tile `k` issues an instruction. [log 9 DESIGN CHOICE] -/
def issue (k c : Nat) (s : State) : Host.Outcome State Fault Refusal :=
  let s := (asCtx s k c).modCtx k c (fun x => { x with wait := none })
  match nextWord { s := s } with
  | .ok w x => runWord w x.s
  | .error e x => runM (throw e) x.s

/-- Whether the tiles of a job may issue: it has not been stopped, switched off or lost (R288, R385, R424). -/
def State.jobRuns (s : State) (j : Nat) : Bool := !(s.job j).stopped && !(s.job j).off && !(s.job j).lost

/-- Whether a tile does nothing more until the abort of its superstep has passed: the root has decided it, or containment has frozen a context
of the tile, which raises one (R265, R286, R414). What contexts and engines would still do is reverted. [log 64 DESIGN CHOICE] -/
def tileDoomed (s : State) (k : Nat) : Bool :=
  match (s.tile k).work with
  | some u =>
    let p := s.part u.barKey
    decide (p.bar = .aborting) || (!p.held && (s.tile k).ctxs.toList.any (fun x => decide (x.st = .frozen)))
  | none => false

/-- Whether the job of a tile's unit runs, and its module has power (R288, R433). -/
def tilePowered (s : State) (k : Nat) : Bool :=
  match (s.tile k).work with
  | some u => s.jobRuns u.job && (s.modl (tileDie k / 8)).powered
  | none => true

/-- Whether the engines and accesses of a tile go on: its job runs with power, no abort stops it, and its partition has not been stopped
mid-superstep (R286, R288, R385, R433). -/
def tileGoes (s : State) (k : Nat) : Bool :=
  tilePowered s k && !tileDoomed s k && match (s.tile k).work with
    | some u => !(s.part u.barKey).stoppedMid
    | none => true

/-- Whether the contexts of a tile may issue: it holds a unit, it goes on, and it is not between an outcome and the resume
broadcast (R267). -/
def tileIssues (s : State) (k : Nat) : Bool :=
  match (s.tile k).work with
  | some u => tileGoes s k && !(s.tile k).step.bound && decide ((s.part u.barKey).bar = .running)
  | none => false

/-- Whether a context is one that executes: LIVE, or the control context's RESIDENT (R13). -/
def runsCtx (x : Ctx) : Bool := decide (x.st = .live) || decide (x.st = .resident)

/-- Whether context `c` of tile `k` would wait in the same way if it executed its instruction again. -/
def waitsAgain (s : State) (k c : Nat) (w : Wait) : Bool :=
  match issue k c s with
  | .next s' => decide ((s'.ctx k c).wait = some w) && decide ((s'.ctx k c).st = (s.ctx k c).st)
      && decide ((s'.ctx k c).pc = (s.ctx k c).pc)
  | _ => true

/-- Whether a step changes nothing, the list of events and what the model keeps for itself apart. -/
def sameBut (s t : State) : Bool := decide ({ t with pending := s.pending, keeps := s.keeps, cur := s.cur } = s)

/-- Whether an event would change something if it happened: what is held at its tile is held no longer. -/
def moves (s : State) (e : Instr) : Bool :=
  match exec e s with
  | .next t => !sameBut s t
  | _ => true

/-- Whether a context can issue: it executes and waits for nothing, or it is held at issue and would get further. -/
def canIssue (s : State) (k c : Nat) : Bool :=
  let x := s.ctx k c
  runsCtx x && match x.wait with
    | none => true
    | some .issue => match issue k c s with
      | .next t => !sameBut s t
      | _ => true
    | some _ => false

/-! ### Events whose conditions hold -/

/-- Whether a context waits with `w` and would now get further. -/
def wakes (s : State) (d t c : Nat) (e : Instr) : Bool :=
  let k := tileKey d t
  match (s.ctx k c).wait with
  | some w => tileIssues s k && runsCtx (s.ctx k c) && decide (wakeEvent d t c w = some e) && !waitsAgain s k c w
  | none => false

/-- Whether an engine operation may go on with an element: it waits for nothing, nothing holds it, and the context that issued it is not frozen (R414). -/
def opGoes (s : State) (k id : Nat) (elem : Nat) : Bool :=
  match (s.tile k).eng.op? id with
  | some o => !(o.waits.any (fun w => decide (w.elem = elem))) && decide ((s.ctx k o.ctx).st ≠ .frozen) && portRoom (s.tile k) o
      && moves s (o.resume k elem)
  | none => true

/-- Whether an entry of a page-fetch list may be fetched: every earlier entry that is pending waits, and has another destination (R289), and nothing holds
its rows that wait for nothing (R315). [log 59 DEDUCED] -/
def stagingNext (s : State) (k id : Nat) : Bool :=
  let l := (s.tile k).step.entries
  moves s (.stagingEntryComplete (tileDie k) (tileId k) id) && match l.find? (fun e => decide (e.id = id)) with
  | some e => (l.takeWhile (fun x => decide (x.id ≠ id))).all (fun x =>
      decide (x.st ≠ 0) || (!x.waits.isEmpty && !dstOverlap s k x e))
  | none => true

/-- The first record on its way from a child to a node is the one that may arrive. -/
def recordFirst (s : State) (g level node child : Nat) (rec' : BitVec 128) : Bool :=
  match s.pending.find? (fun e => match e with
    | .barrierRecord a b c d _ => decide (a = g ∧ b = level ∧ c = node ∧ d = child)
    | _ => false) with
  | some (.barrierRecord _ _ _ _ r) => decide (r = rec')
  | _ => true

/-- The op of a packet that a hop reaches after its REDUCE entries is an MCAST. -/
def nextMcast (p : Packet) : Bool :=
  match p.ops.find? (fun e => bits e.toNat 28 4 != 2) with
  | some e => decide (bits e.toNat 28 4 = 1)
  | none => false

/-- Whether the partial of a slot that times out finds room in the store, if it needs any (R360, R365). [log 37 DEDUCED] -/
def timeoutReady (s : State) (sw slot : Nat) : Bool :=
  match (s.sw sw).slots.find? (fun r => decide (r.key = slot)) with
  | some r => r.late || !nextMcast r.pkt || storeRoom s sw (partialPort r.pkt)
  | none => true

/-- Whether a stored packet may leave on a branch (R356, R365). -/
def branchReady (s : State) (sw port entry : Nat) : Bool :=
  match (s.sw sw).store.find? (fun e => decide (e.id = entry)) with
  | some e => branchFirst s sw port entry && portOpen s e.pkt.job sw port
  | none => true

/-- The tile that first issued a packet, and the op list that it gave (R238). -/
def packetRoute (s : State) (p : Packet) : Option (Nat × Nat) :=
  p.issuers.head?.map (fun e => (e.1, ((s.tile e.1).eng.op? e.2).elim 0 (fun o => cfgField o.desc 32 32)))

/-- Whether two packets have one source, one endpoint tile and one route (R351). -/
def samePath (s : State) (p q : Packet) : Bool :=
  decide (p.job = q.job) && decide (p.srcTile = q.srcTile) && decide (p.srcDie = q.srcDie) && decide (packetRoute s p = packetRoute s q)

/-- Whether a packet may arrive at its endpoint: it is the first of its source on its way there (R351), and one delivered directly is held by nothing, such as data
still to be staged (R289). -/
def endReady (s : State) (d : Nat) (p : Packet) : Bool :=
  let mine (e : Instr) : Bool := match e with
    | .collEndpointArrival a q => decide (a = d) && samePath s p q
    | _ => false
  decide (s.pending.find? mine = some (.collEndpointArrival d p))
    && (decide (p.red ≠ 3) || moves s (.collEndpointArrival d p))

/-- Flits reach a port in the order in which they were sent, while the link is up; those that take a detour in any order (R355, R357). -/
def flitReady (s : State) (sw port : Nat) (e : Instr) : Bool :=
  match linkPeer sw port with
  | none => true
  | some (a, b) =>
    if (s.link a b).up then decide (s.pending.find? (flitTo sw port) = some e) else detourFor s a b

/-- Whether a die's mesh has delivered the packets of a job that were inside it (R369, R391); a delivery that is held at its tile counts as inside no more,
and the sweep takes it up. [log 38 DEDUCED] -/
def meshEmpty (s : State) (d j : Nat) : Bool :=
  !(s.pending.any (fun e => match e with
    | .collEndpointArrival a p => decide (a = d) && decide (p.job = j) && endReady s a p
    | .remoteKeptWrite a t _ _ _ => decide (a = d) && (jobTiles s j).contains (tileKey a t)
    | .sweepPacketArrive a q p => decide (a = d) && ownMesh d q && decide (p.job = j)
    | _ => false))

/-- Whether a MARK may arrive: what was before it on its VC of its port has (R351, R370). [log 38 DEDUCED] -/
def markFirst (s : State) (sw port j : Nat) : Bool :=
  !(s.pending.any (fun e => match e with
    | .sweepPacketArrive a q p => decide (a = sw) && decide (q = port) && decide (p.job = j) && decide (p.vc = 3)
    | _ => false))

/-- Whether a packet of a sweep is the next of its port (R370). -/
def sweptFirst (s : State) (sw port : Nat) (p : Packet) : Bool :=
  decide (s.pending.find? (fun e => match e with
    | .sweepPacketArrive a q x => decide (a = sw) && decide (q = port) && decide (x.job = p.job)
    | _ => false) = some (.sweepPacketArrive sw port p))

/-- Whether a launch may place its next unit, or has none left to place (R330, R385). -/
def placeReady (s : State) (key : Nat) : Bool :=
  match Map.get? s.launches key with
  | none => true
  | some l => decide (l.phase ≠ .running) || decide (blockField l.block 12 4 ≤ l.next)
      || ((unitSpot s key).isSome && s.jobRuns l.job && !(s.job l.job).holdsDispatch)

/-- Whether no earlier write without Relaxed Ordering of a port waits for a page service (R264, R429). -/
def hostTurn (s : State) (m port : Nat) : Bool :=
  !(s.hostWaits.any (fun w => decide (w.modl = m ∧ w.port = port ∧ w.kind = 1) && !w.relaxed))

/-- The module and the port at which a posted write of the host without Relaxed Ordering arrives. -/
def postedTo (s : State) : Instr → Option (Nat × Nat)
  | .hostWrite m (port, _) (bar, _) (relaxed, _) => if relaxed ∨ bar = 8 then none else some (m, port)
  | .tailrWrite m fn _ _ | .ringbaseWrite m fn _ _ | .merrcWrite m fn _ | .registerWrite m fn _ _ _ => some (m, fnPort s m fn)
  | .tctxWrite d _ _ | .tinv d _ | .prespRetry d _ | .prespRefuse d _ | .polgrpWrite d _ _ => some (d / 8, fnPort s (d / 8) 0)
  | _ => none

/-- Whether a posted write is held behind an earlier one of its port that waits for a page service: those to device memory and to the launch rings are;
those to the control windows, which answer the service, are not (R264). [log 52 DEDUCED] -/
def postedWaits (s : State) (e : Instr) : Bool :=
  match e with
  | .hostWrite m (port, _) (bar, addr) (relaxed, _) => !relaxed && (decide (bar = 4) || decide (bar = 0 ∧ addr < 0x1000)) && !hostTurn s m port
  | .tailrWrite m fn _ _ | .ringbaseWrite m fn _ _ => !hostTurn s m (fnPort s m fn)
  | _ => false

/-- Whether a posted write is the next of its port, those that wait apart (R264). [log 52 DEDUCED] -/
def postedFirst (s : State) (e : Instr) : Bool :=
  !postedWaits s e && match postedTo s e with
  | none => true
  | some p => decide (s.pending.find? (fun x => decide (postedTo s x = some p) && !postedWaits s x) = some e)

/-- Whether a read or an atomic of the host comes after the posted writes that left the host before it: they push no other way. [log 52 DEDUCED] -/
def readFirst (s : State) (m port : Nat) (e : Instr) : Bool :=
  hostTurn s m port && !((s.pending.takeWhile (fun x => decide (x ≠ e))).any (fun x => decide (postedTo s x = some (m, port))))

/-- Whether a DEQ waits long (R194): its context is a helper that can become a continuation. -/
def longReady (s : State) (k c : Nat) : Bool :=
  match (s.ctx k c).wait with
  | some (.ring _) => becomesCont s k c
  | _ => true

/-- Whether a link that no detour replaces holds accesses of a tile to another die of its job (R352, R356). -/
def routeHeld (s : State) (k : Nat) : Bool :=
  match (s.tile k).work with
  | some u => (s.job u.job).dies.any (fun d => (closedHop s u.job d routeHops (tileDie k)).isSome)
  | none => false

/-- Whether the comparator of its pair holds a packet of a context, or its partner's answer is still to come (R417). -/
def atComparator (s : State) (k c : Nat) : Bool :=
  match (s.tile k).twin with
  | some w => w.sent.any (fun e => ownsKey c e.1) || w.permits.any (fun e => ownsKey c e.1)
  | none => false

/-- Whether the fetch of a context is held. -/
def fetchHeld (s : State) (k c : Nat) : Bool :=
  match nextWord { s := asCtx s k c } with
  | .ok _ _ => false
  | .error e _ => decide (e = .retry)

/-- Whether a booked helper waits on the memory of another tile, on the way to it, or on a fetch (R169, R342, R417). -/
def latencyReady (s : State) (k c : Nat) : Bool :=
  match (s.ctx k c).handle, (s.ctx k c).wait with
  | some _, some .issue => routeHeld s k || atComparator s k c || fetchHeld s k c
  | some _, some (.fe key _ _ _) => !(decide (spadKey k 0 ≤ key) && decide (key < spadKey k 0 + 2 ^ 20))
  | some _, some (.pages _ _ _) => true
  | some _, _ => false
  | none, _ => true

/-- Whether a switch command of a job may escalate: it runs, and its limit counts (R388). -/
def escalateReady (s : State) (j : Nat) : Bool :=
  match (s.job j).cmd with
  | some c => c.begun && !c.sweeping && decide (c.limit ≠ 0)
  | none => true

/-- Whether a waiting element is kept behind the waiting store of a lower one that it meets (R176). -/
def heldInOrder (s : State) (k c j : Nat) : Bool :=
  match (s.ctx k c).wait with
  | some (.pages ws _ _) => (ws.find? (fun w => decide (w.elem = j))).any (fun w => w.write && behindLower s k ws j w.addr w.size)
  | _ => false

/-- The wait of element `j` of a context. -/
def elemWait (s : State) (k c j : Nat) : Option PageWait :=
  match (s.ctx k c).wait with
  | some (.pages ws _ _) => ws.find? (fun w => decide (w.elem = j))
  | _ => none

/-- Whether the replay of element `j` of a context may be made: no lower one that it meets waits, it is not held at its tile, and the elements of one die
whose answers came before have been replayed (R176, R177, R452). [log 77 DESIGN CHOICE] -/
def replayReady (s : State) (k c j : Nat) : Bool :=
  let e : Instr := .gatherElementReplay (tileDie k) (tileId k) c j
  decide ((s.ctx k c).st ≠ .frozen) && match elemWait s k c j with
    | none => true
    | some w => !heldInOrder s k c j && (if w.stage = 0 then moves s e
        else (s.pending.takeWhile (fun x => decide (x ≠ e))).all (fun x => match x with
          | .gatherElementReplay d t c' i => !(decide (tileKey d t = k ∧ c' = c) && !heldInOrder s k c i
              && (elemWait s k c i).any (fun v => decide (v.stage ≠ 0 ∧ v.die = w.die)))
          | _ => true))

/-- Whether row `i` of a COPYG lies within the window of 64 rows from its first that has not arrived (R399). -/
def rowInWindow (s : State) (k id i : Nat) : Bool :=
  match (s.tile k).eng.op? id with
  | some o => decide (i < ((List.range (o.rows.length + 1)).find? (fun n => !o.rows.contains n)).getD 0 + 64)
  | none => true

/-- Whether a withdrawal takes effect on a helper: none does in a superstep whose abort is under way (R265, R286). -/
def withdrawnReady (s : State) (d id : Nat) : Bool :=
  match parkedAt s d id with
  | some p => p.left.isSome || (!tileDoomed s p.tile && tilePowered s p.tile)
  | none => true

/-- Whether a parked access may be serviced: one that was given up is performed only while its superstep goes on (R286, R368). -/
def servicedReady (s : State) (d id : Nat) : Bool :=
  match parkedAt s d id with
  | some p => p.left.isNone || !tileDoomed s p.tile
  | none => true

/-- Whether an event in flight may happen now, its tile apart. -/
def readyHere (s : State) (e : Instr) : Bool :=
  match e with
  | .collHop sw port => storeRoom s sw port
  | .collSlotTimeout sw slot => timeoutReady s sw slot
  | .mcastBranchSend sw port entry => branchReady s sw port entry
  | .linkFlitReceive sw port _ _ _ => flitReady s sw port e
  | .markArrive sw port j => markFirst s sw port j
  | .sweepPacketArrive sw port p => sweptFirst s sw port p
  | .collEndpointArrival d p => endReady s d p
  | .requestAppendResume d => (heldReady s d).isSome
  | .pairCompare d t => pairReady s (tileKey d t)
  | .unitPlace key => placeReady s key
  | .dispatchCheck key => dispatchTurn s key
  | .hostRead m (port, _) _ _ | .hostAtomicFetchadd m (port, _) _ _ _ => readFirst s m port e
  | .hostWrite _ _ _ _ => postedFirst s e
  | .tailrWrite _ _ _ _ | .ringbaseWrite _ _ _ _ | .merrcWrite _ _ _ | .registerWrite _ _ _ _ _ | .tctxWrite _ _ _ | .tinv _ _
  | .prespRetry _ _ | .prespRefuse _ _ | .polgrpWrite _ _ _ => postedFirst s e
  | .moduleLoss m => lossReady s m
  | .checkpointPhase2Done j m => decide ((s.job j).unmapping ≠ some m) || (jobBars s j).all (barSettled s)
  | .serviced d id => servicedReady s d id
  | .withdrawn d id => withdrawnReady s d id
  | .deqLongWait d t c => longReady s (tileKey d t) c
  | .overrunLatency d t c => latencyReady s (tileKey d t) c
  | .switchQuiet j => quietReady s j
  | .switchEscalate j => escalateReady s j
  | .meshDrained d j => meshEmpty s d j
  | .streamWake d t c => wakes s d t c e
  | .groupWaitWake d t c => wakes s d t c e
  | .inboxWaitWake d t c => wakes s d t c e
  | .queueWake d t c => wakes s d t c e
  | .tokenWaitWake d t c => wakes s d t c e
  | .waitpComplete d t c => wakes s d t c e
  | .hwaitComplete d t c => wakes s d t c e
  | .feWaiterWake key => (feReady s key).any (fun w => tileGoes s w.1)
  | .qcWaiterServe block => (ringReady s block).any (fun w => tileGoes s w.tile)
  | .ssbArrive d t => tileQuiet s (tileKey d t)
  | .inboxHeldDeliver d t => decide ((s.tile (tileKey d t)).io.inbox.length < Config.inboxDepth)
  | .gatherElementReplay d t c j => replayReady s (tileKey d t) c j
  | .mmaComplete d t => match (s.tile (tileKey d t)).eng.mmas with
    | o :: _ => o.fetched
    | [] => true
  | .epiDrainStart d t => drainReady (s.tile (tileKey d t)).eng
  | .epiDrainEnd d t => match (s.tile (tileKey d t)).eng.epiq with
    | j :: _ => j.waits.isEmpty && decide ((s.ctx (tileKey d t) j.ctx).st ≠ .frozen) && moves s e
    | [] => true
  | .copyComplete d t id => opGoes s (tileKey d t) id 0
  | .gatherRowArrive d t id row => opGoes s (tileKey d t) id row && rowInWindow s (tileKey d t) id row
  | .stagingEntryComplete d t id => stagingNext s (tileKey d t) id
  | .continuationReady p _ => decide ((readyRecords (s.part p)).length < Config.fifoRoom)
  | .continuationResume p => decide (readyRecords (s.part p) ≠ []) && (resumePlace s p).any (fun e => tileIssues s e.1)
  | .barrierRecord g l n c r => recordFirst s g l n c r
  | _ => true

/-- Whether an event in flight may happen now. The replay of a gathered element goes on in a tile that has stopped, since its
access has begun (R389), and such a tile takes what is written to it and what ends its collective operations (R391). [log 1 DESIGN CHOICE, 10 DESIGN CHOICE, 38 DEDUCED] -/
def ready (s : State) (e : Instr) : Bool :=
  readyHere s e && match e with
    | .gatherElementReplay d t _ _ => !tileDoomed s (tileKey d t)
    | .collComplete d t _ => tilePowered s (tileKey d t) && !tileDoomed s (tileKey d t)
    | .engineFault d t id _ _ => tilePowered s (tileKey d t) && !tileDoomed s (tileKey d t)
        && (tileGoes s (tileKey d t) || ((s.tile (tileKey d t)).eng.op? id).any (fun o => decide (o.kind = .coll)))
    | .remoteKeptWrite _ _ _ _ _ => true
    | .stagingEntryComplete d t _ => tileGoes s (tileKey d t)
    | e => match eventTile e with
      | some (d, t) => tileGoes s (tileKey d t)
      | none => true

/-! ### The choice -/

/-- What can happen next: an event in flight, by its place, or a context that issues. -/
inductive Choice where
  | event (i : Nat) (e : Instr)
  | ctx (k c : Nat)
  deriving DecidableEq, Repr

/-- Everything that can happen next, events first. [log 1 DESIGN CHOICE] -/
def choices (s : State) : List Choice :=
  ((indexed 0 s.pending).filter (fun e => ready s e.2)).map (fun e => Choice.event e.1 e.2)
    ++ s.tiles.flatMap (fun e => if tileIssues s e.1 then
        ((List.range 11).filter (canIssue s e.1)).map (fun c => Choice.ctx e.1 c) else [])

/-- The choice that `sched` makes. [log 1 DESIGN CHOICE] -/
def pick (s : State) : Option Choice :=
  let l := choices s
  l[s.sched.headD 0 % l.length]?

/-- A choice is carried out. [log 1 DESIGN CHOICE] -/
def carryOut (x : Choice) (s : State) : Host.Outcome State Fault Refusal :=
  match x with
  | .event i e => exec e { s with pending := s.pending.eraseIdx i }
  | .ctx k c => issue k c s

/-- One step: nothing changes where nothing can happen. [log 1 DESIGN CHOICE] -/
def stepOf (s : State) : Host.Outcome State Fault Refusal :=
  match pick s with
  | some x => carryOut x { s with sched := s.sched.drop 1 }
  | none => .next s

/-! ### A word placed for the next step -/

/-- The work unit that a tile with none is given for `placeWord`: one line of kept scratchpad holds the word. [log 2 DESIGN CHOICE] -/
def bareUnit : WorkUnit :=
  { launch := 0, uid := 0, part := 0, job := 0, modl := 0, fn := 0, cls := 0, image := 0x00FFFF9000000000#64, helpers := 0
    spool := 0, vpool := 0, skl := 1, stl := 0, vkl := 0, vtl := 0, policy := 0, triggered := false }

/-- The word `w` lies in the first kept line of the issuing context's scratchpad, where its PC points, and the context is
the one that issues next. [log 2 DESIGN CHOICE] -/
def placeWord (w : Nat) (s : State) : State :=
  let k := s.curKey
  let c := s.cur.ctx
  let t := s.tile k
  let u := t.work.getD bareUnit
  let t : Tile := { t with
    work := some { u with skl := max 1 u.skl }
    step := { t.step with locals := Map.erase t.step.locals 0, bound := false } }
  let s := s.setTile k t
  let s := s.modCtx k c (fun x => { x with st := if c = 0 then .resident else .live, pc := 0x00FFFF9000000000#64, wait := none, frame := none })
  let s := { s with mem := Memory.writeN s.mem (spadKey k 0) (bytesOfNat 4 w), pending := [] }
  { s with sched := [(choices s).findIdx (fun x => decide (x = Choice.ctx k c))] }

end Sys2Proof.Machine
end

