-- ==== Sys2Proof/Machine/Step.lean ====
section
/-! DEFINITION. One step of the machine, and a word placed where the next step fetches it. -/

namespace Sys2Proof.Machine

/-- One step: the choice among everything that can happen next. -/
def step (s : State) : Host.Outcome State Fault Refusal := stepOf s

/-- The state with an instruction word where the next step fetches it (R66). Every instruction is one word of 32 bits. [log 2 DESIGN CHOICE] -/
def State.withFetchWord (s : State) (_nbits w : Nat) : State := placeWord w s

end Sys2Proof.Machine
end

