-- ==== Sys2Proof/WellFormed.lean ====
section
/-! DEFINITION. Well-formed instructions: the operands that an encoding admits (R67, R75, R111, R143), and, for the steps of the
part, numbers that name a tile, a context, a switch port or a function. -/

namespace Sys2Proof

/-- LIH has a half of 1 or more; a half of 0 is the word of LIL (R111). -/
def Instr.halfOk : Instr → Bool
  | .lih _ h _ => h != 0
  | _ => true

/-- A VCMP has a condition other than 8, which is the word of VSEL (R143). -/
def Instr.condOk : Instr → Bool
  | .vcmp _ _ _ _ c _ => c != 8
  | _ => true

/-- A step of a tile names one of the 1,024 tiles of its die (R2). -/
def Instr.tileOk : Instr → Bool
  | .streamWake _ t _ | .gatherElementReplay _ t _ _ | .groupWaitWake _ t _ | .inboxWaitWake _ t _ | .waitpComplete _ t _
  | .tokenWaitWake _ t _ | .hwaitComplete _ t _ | .queueWake _ t _ | .deqLongWait _ t _ | .overrunLatency _ t _
  | .remoteto _ t _ | .copyComplete _ t _ | .copygComplete _ t _ | .collComplete _ t _ | .gatherRowArrive _ t _ _
  | .engineFault _ t _ _ _ | .remoteKeptWrite _ t _ _ _ | .stagingEntryComplete _ t _ | .inboxHeldDeliver _ t | .ssbArrive _ t
  | .mmaComplete _ t | .epiDrainStart _ t | .epiDrainEnd _ t | .workUnitStart _ t | .commit _ t | .abort _ t
  | .resumeBroadcast _ t | .pairCompare _ t | .pairTimeout _ t | .testKernelPlace _ t | .testKernelEnd _ t _
  | .slotBoundary _ t | .forcedEvent _ t _ | .parityError _ t _ | .quarantineClear _ _ t => decide (t < Config.tilesPerDie)
  | _ => true

/-- A step of a context names one of the eleven contexts of its tile (R12). -/
def Instr.ctxOk : Instr → Bool
  | .streamWake _ _ c | .gatherElementReplay _ _ c _ | .groupWaitWake _ _ c | .inboxWaitWake _ _ c | .waitpComplete _ _ c
  | .tokenWaitWake _ _ c | .hwaitComplete _ _ c | .queueWake _ _ c | .deqLongWait _ _ c | .overrunLatency _ _ c
  | .remoteto _ _ c => decide (c ≤ 10)
  | _ => true

/-- A step of a switch port names one of the sixteen ports (R349). -/
def Instr.portOk : Instr → Bool
  | .markArrive _ p _ | .sweepPacketArrive _ p _ | .packetRoute _ p _ | .collHop _ p | .mcastBranchSend _ p _
  | .linkFlitReceive _ p _ _ _ | .linkReplay _ p _ | .linkDown _ p | .linkRetrain _ p => decide (p < 16)
  | _ => true

/-- The checks together. -/
def Instr.wf (i : Instr) : Bool := i.halfOk && i.condOk && i.tileOk && i.ctxOk && i.portOk

end Sys2Proof
end

