-- ==== Sys2Proof/Safety.lean ====
section
/-! DEFINITION. What counts as a safe run, in the terms that claims use: a step that answers a next state, a state whose
memories are in their canonical form, and how an instruction of a context begins and ends. -/

namespace Sys2Proof.Machine

/-- An outcome is a next state. -/
def isNext (o : Host.Outcome State Fault Refusal) : Prop := ∃ t, o = .next t

/-- Memory and host memory are in their canonical form: addresses strictly rising, no byte listed that an unlisted one reads
as. -/
def Canonical (s : State) : Prop := s.mem.wf = true ∧ s.hostMem.wf = true

/-- An instruction of the issuing context begins: nothing popped, nothing pushed. On a tile of a pair it takes the outcomes of
its packets from the first on (R417); on any other tile the state is as it was. -/
def started (s : State) : Work := { s := rewindTwin s s.curKey }

/-- The state in which an instruction ends: on a tile of a pair the outcomes of its packets are forgotten, those of its fetch and of its elements among
them (R417). -/
def settled (s : State) : State := forgetInstr s s.curKey s.cur.ctx

/-- An instruction that has done its work completes: pops, then pushes, then the PC goes on (R72, R84, R119). -/
def completed (w : Work) : State := finish { w with s := settled w.s }

/-- The issuing context as the requester of an access. -/
def self (s : State) : Requester := { tile := s.curKey, ctx := s.cur.ctx, engine := false }

end Sys2Proof.Machine
end

