-- ==== Sys2Proof/Certificates/Slice0/Obligations.lean ====
section
/-! DEFINITION. The statements for the provers, and the few functions in which they are stated. A statement about an instruction
takes its operands as its operand forms read them (`srcS`, `srcV`, `readAcc` and their like, which have statements of their own),
and concludes that the instruction completes, with its result and with what else it changes. -/

namespace Sys2Proof.Claims

open Sys2Proof Sys2Proof.Machine

/-- A result of w bits extended to 64: by sign for a signed type, by zeros for the others (R105). -/
def intResult {w : Nat} (t : BitVec 4) (r : BitVec w) : Word := if intClass t = 1 then r.signExtend 64 else r.setWidth 64

/-- An INT.R function of two sources completes with the result `r` on values of w bits; `r` also has the whole of S[b]. -/
def binaryGives (i : BitVec 5 → BitVec 5 → BitVec 5 → BitVec 4 → Instr) (classes : List Nat)
    (r : (w : Nat) → BitVec w → BitVec w → Word → BitVec w) : Prop :=
  ∀ (s : State) (d a b : BitVec 5) (t : BitVec 4) (x y : Word) (w1 w2 w3 : Work), intClass t ∈ classes →
    srcS a (started s) = .ok x w1 → srcS b w1 = .ok y w2 →
    dstS d (intResult t (r (intWidth t) (x.setWidth (intWidth t)) (y.setWidth (intWidth t)) y)) w2 = .ok () w3 →
    exec (i d a b t) s = .next (completed w3)

/-- An INT.R function of one source. -/
def unaryGives (i : BitVec 5 → BitVec 5 → BitVec 4 → Instr) (classes : List Nat) (r : (w : Nat) → BitVec w → BitVec w) : Prop :=
  ∀ (s : State) (d a : BitVec 5) (t : BitVec 4) (x : Word) (w1 w2 : Work), intClass t ∈ classes →
    srcS a (started s) = .ok x w1 → dstS d (intResult t (r (intWidth t) (x.setWidth (intWidth t)))) w1 = .ok () w2 →
    exec (i d a t) s = .next (completed w2)

/-- An immediate form completes with the result `r` of S[a]. -/
def immGives (i : Instr) (d a : BitVec 5) (r : Word → Word) : Prop :=
  ∀ (s : State) (x : Word) (w1 w2 : Work), srcS a (started s) = .ok x w1 → dstS d (r x) w1 = .ok () w2 →
    exec i s = .next (completed w2)

/-- The conditions of BR: 0 equal, 1 not equal, 2 less, 3 not less, as signed, and 4 and 5 as unsigned numbers (R114). -/
def condHolds (c : Nat) (x y : Word) : Bool :=
  match c with
  | 0 => decide (x = y)
  | 1 => decide (x ≠ y)
  | 2 => decide (x.toInt < y.toInt)
  | 3 => decide (y.toInt ≤ x.toInt)
  | 4 => decide (x.toNat < y.toNat)
  | _ => decide (y.toNat ≤ x.toNat)

/-- The pointer moved by n words, where the offset stays within 0 to 2^40 − 1 (R73). -/
def jumpTarget (p : Word) (n : Int) : Option Word :=
  let o : Int := (p.extractLsb' 0 40).toNat + 4 * n
  if 0 ≤ o ∧ o < 2 ^ 40 then some (p.extractLsb' 40 24 ++ BitVec.ofInt 40 o) else none

/-- A jump to `p` ends the loop levels that it leaves (R120). -/
def leaveLoops (s : State) (p : Word) : State :=
  s.modCur (fun x => loopExit (imageOf s s.curKey) (ptrOff x.pc) (ptrOff p) 4 x)

/-- The next free loop level starts. -/
def pushLevel (s : State) (l : LoopLevel) : State :=
  s.modCur (fun x => { x with loops := x.loops.setIfInBounds x.depth l, depth := x.depth + 1 })

/-- The active loop levels, the innermost first (R118). -/
def activeLevels (x : Ctx) : List LoopLevel := (x.loops.toList.take x.depth).reverse

/-- The end of loops at the word whose offset is `off`: the levels that stay active, and where the context goes on, if at a body's first word. A level
that does not end at the word stays; one that does loses 1 of its count, and is repeated, or at zero ends, and the next outer level is looked at (R119). -/
def endLevels (image : Word) (off : Nat) : List LoopLevel → List LoopLevel × Option Nat
  | [] => ([], none)
  | l :: r =>
    if off = l.last image then
      if l.count = 1 then endLevels image off r
      else ({ l with count := l.count - 1 } :: r, some (ptrOff image + 4 * l.start.toNat))
    else (l :: r, none)

/-- The elements of `v`, of width w: `r j` where element j is active under p, the old element elsewhere (R17, R135). -/
def lanes (w : Nat) (p : BitVec 16) (old v : Vec) (r : Nat → Nat) : Prop :=
  ∀ j < 512 / w, elemOf v w j = if activeElem p w j then r j % 2 ^ w else elemOf old w j

/-- An instruction that has written its result raises flags, and advances the draw counter where it rounds under STO (R53, R61). -/
def raised (rounds : Bool) (rm : BitVec 3) (f : Flags) (w : Work) : Work :=
  let w : Work := { w with s := w.s.modCur (fun x => x.orFlags f) }
  if rounds && decide (rm = 4) then { w with s := w.s.modCur (fun x => { x with draws := x.draws + 1 }) } else w

/-- An instruction that has done its work, from state `s`, completes; but where a slot of a ring that it takes needs a delta line and the pool has none,
it traps DELTAOVF with the line's address, and nothing is done (R34, R270). -/
def ends (o : Host.Outcome State Fault Refusal) (s : State) (w : Work) : Prop :=
  (w.shortLine = none → o = .next (completed w)) ∧
  ∀ l, w.shortLine = some l →
    o = .next (takeTrap (settled (undone (started s).s w.s)) .deltaovf (BitVec.ofNat 64 (l * 64)))

/-- A float function of two vectors completes lane by lane: `r` has the format, the rounding mode, the draw and the encodings. -/
def vfloat2Gives (i : BitVec 5 → BitVec 5 → BitVec 5 → BitVec 3 → BitVec 4 → Instr) (rounds : Bool)
    (r : FloatFmt → BitVec 3 → BitVec 16 → Nat → Nat → FRes) : Prop :=
  ∀ (s : State) (d a b : BitVec 5) (k : BitVec 3) (t : BitVec 4) (f : FloatFmt) (x y old v : Vec) (w1 w2 w3 : Work),
    (t, f) ∈ [(0#4, FloatFmt.f32), (1#4, .bf16), (2#4, .f16)] →
    checkDirs [a, b] [d] (wordOf (i d a b k t)) (started s) = .ok () (started s) →
    srcV a (wordOf (i d a b k t)) (started s) = .ok x w1 → srcV b (wordOf (i d a b k t)) w1 = .ok y w2 → oldV d w2 = .ok old w2 →
    let one (j : Nat) : FRes := r f w2.s.curCtx.rm (drawsOf w2.s w2.s.curKey w2.s.cur.ctx j) (elemOf x f.width j) (elemOf y f.width j)
    lanes f.width (s.curCtx.kreg k) old v (fun j => (one j).val) → dstV d v w2 = .ok () w3 →
    ends (exec (i d a b k t) s) s (raised rounds w2.s.curCtx.rm (flagsOf f.width (s.curCtx.kreg k) one) w3)

/-- A float function of one vector. -/
def vfloat1Gives (i : BitVec 5 → BitVec 5 → BitVec 3 → BitVec 4 → Instr) (rounds : Bool)
    (r : FloatFmt → BitVec 3 → BitVec 16 → Nat → FRes) : Prop :=
  ∀ (s : State) (d a : BitVec 5) (k : BitVec 3) (t : BitVec 4) (f : FloatFmt) (x old v : Vec) (w1 w2 : Work),
    (t, f) ∈ [(0#4, FloatFmt.f32), (1#4, .bf16), (2#4, .f16)] →
    checkDirs [a] [d] (wordOf (i d a k t)) (started s) = .ok () (started s) →
    srcV a (wordOf (i d a k t)) (started s) = .ok x w1 → oldV d w1 = .ok old w1 →
    let one (j : Nat) : FRes := r f w1.s.curCtx.rm (drawsOf w1.s w1.s.curKey w1.s.cur.ctx j) (elemOf x f.width j)
    lanes f.width (s.curCtx.kreg k) old v (fun j => (one j).val) → dstV d v w1 = .ok () w2 →
    ends (exec (i d a k t) s) s (raised rounds w1.s.curCtx.rm (flagsOf f.width (s.curCtx.kreg k) one) w2)

/-- A fused multiply-add completes lane by lane: the product with its sign inverted where `np`, plus the addend with its sign
inverted where `nc`, rounded once. -/
def vfmaGives (i : BitVec 5 → BitVec 5 → BitVec 5 → BitVec 5 → BitVec 3 → BitVec 1 → Instr) (np nc : Bool) : Prop :=
  ∀ (s : State) (d a b c : BitVec 5) (k : BitVec 3) (t : BitVec 1) (x y z old v : Vec) (w1 w2 w3 w4 : Work),
    let f : FloatFmt := if t = 0 then .f32 else .bf16
    checkDirs [a, b, c] [d] (wordOf (i d a b c k t)) (started s) = .ok () (started s) →
    srcV a (wordOf (i d a b c k t)) (started s) = .ok x w1 → srcV b (wordOf (i d a b c k t)) w1 = .ok y w2 →
    srcV c (wordOf (i d a b c k t)) w2 = .ok z w3 → oldV d w3 = .ok old w3 →
    let one (j : Nat) : FRes := fmaFp f w3.s.curCtx.rm (drawsOf w3.s w3.s.curKey w3.s.cur.ctx j) np nc
      (decodeFp f (elemOf x f.width j)) (decodeFp f (elemOf y f.width j)) (decodeFp f (elemOf z f.width j))
    lanes f.width (s.curCtx.kreg k) old v (fun j => (one j).val) → dstV d v w3 = .ok () w4 →
    ends (exec (i d a b c k t) s) s (raised true w3.s.curCtx.rm (flagsOf f.width (s.curCtx.kreg k) one) w4)

/-- An integer function of two vectors completes lane by lane, on elements of w bits that are signed where `sgn`. -/
def vintGives (i : BitVec 5 → BitVec 5 → BitVec 5 → BitVec 3 → BitVec 4 → Instr)
    (r : (sgn : Bool) → (w : Nat) → BitVec w → BitVec w → BitVec w) : Prop :=
  ∀ (s : State) (d a b : BitVec 5) (k : BitVec 3) (t : BitVec 4) (sgn : Bool) (w : Nat) (x y old v : Vec) (w1 w2 w3 : Work),
    (t, sgn, w) ∈ [(5#4, true, 8), (6#4, true, 16), (7#4, true, 32), (8#4, true, 64), (9#4, false, 8), (10#4, false, 16),
      (11#4, false, 32), (12#4, false, 64)] →
    checkDirs [a, b] [d] (wordOf (i d a b k t)) (started s) = .ok () (started s) →
    srcV a (wordOf (i d a b k t)) (started s) = .ok x w1 → srcV b (wordOf (i d a b k t)) w1 = .ok y w2 → oldV d w2 = .ok old w2 →
    lanes w (s.curCtx.kreg k) old v (fun j => (r sgn w (BitVec.ofNat w (elemOf x w j)) (BitVec.ofNat w (elemOf y w j))).toNat) →
    dstV d v w2 = .ok () w3 → ends (exec (i d a b k t) s) s w3

/-- An element type and its code, but for the two of 4 bits, which the vector functions do not take (R133). -/
def typeCodes : List (BitVec 4 × ElemTy) :=
  [(0, .flt .f32), (1, .flt .bf16), (2, .flt .f16), (3, .flt .e4), (4, .flt .e5), (5, .int true 8), (6, .int true 16),
    (7, .int true 32), (8, .int true 64), (9, .int false 8), (10, .int false 16), (11, .int false 32), (12, .int false 64)]

/-- The first n bytes of a value, lowest first (R7). -/
def bytesLE {w : Nat} (n : Nat) (x : BitVec w) : List Byte := (List.range n).map (fun j => x.extractLsb' (8 * j) 8)

/-- The prefix at element j of elements `e` under an operation on neighbours, from the value `a`: its value, and the flags of its last operation (R152). -/
def prefixes (f : Nat → Fp → Fp → Fp × Flags) (a : Fp) (e : Nat → Fp) : Nat → Fp × Flags
  | 0 => f 0 a (e 0)
  | j + 1 => f (j + 1) (prefixes f a e j).1 (e (j + 1))

/-- Accesses that read, one after the other: from state s to state t they yield `val j` for each j of the list. -/
def readsAll (read : Nat → A (List Byte)) (val : Nat → List Byte) : List Nat → State → State → Prop
  | [], s, t => s = t
  | j :: l, s, t => ∃ u, read j s = .ok (val j) u ∧ readsAll read val l u t

/-- Accesses that write, one after the other. -/
def writesAll (write : Nat → A Unit) : List Nat → State → State → Prop
  | [], s, t => s = t
  | j :: l, s, t => ∃ u, write j s = .ok () u ∧ writesAll write l u t

/-- The read and the write of element j of the issuing instruction of `s`; at the comparator of a pair each element is a sender of its own (R417). -/
def elemRead (s : State) (acc : Nat → Acc) (j : Nat) : A (List Byte) :=
  elemStep s.curKey (elemKey s.cur.ctx j) (readAcc { self s with unit := elemKey s.cur.ctx j } (acc j))
def elemWrite (s : State) (acc : Nat → Acc) (bs : Nat → List Byte) (j : Nat) : A Unit :=
  elemStep s.curKey (elemKey s.cur.ctx j) (writeAcc { self s with unit := elemKey s.cur.ctx j } (acc j) (bs j))

/-- The bytes of memory that a piece of a store by tile `k` covers; a store of another tile to a pair's primary covers both copies (R416). -/
def pieceKeys (s : State) (k : Nat) : Piece → List Nat
  | .tile t vault off n => (twinsOf s k t).flatMap (fun t => (List.range n).map (fun i => (if vault then vaultKey t off else spadKey t off) + i))
  | .hbm die hpa n _ => (List.range n).map (fun i => hbmKey die hpa + i)
  | .host _ _ _ => []
  | .shard _ => []

/-- The bytes of host memory that a piece covers. -/
def pieceHost : Piece → List Nat
  | .host port addr n => (List.range n).map (fun i => port * 2 ^ 64 + addr + i)
  | _ => []

/-- A piece of HBM that no policy page backs. -/
def notPolicy : Piece → Prop
  | .hbm _ _ _ leaf => leaf.policy = false
  | _ => True

/-- An atomic completes: S[d] receives the old value, and memory what `f` gives of the old value, S[b] and S[d], if anything. -/
def amoGives (i : BitVec 5 → BitVec 5 → BitVec 5 → BitVec 2 → BitVec 5 → BitVec 1 → Instr)
    (f : (w : Nat) → BitVec w → BitVec w → BitVec w → Option (BitVec w)) : Prop :=
  ∀ (s s1 s2 : State) (d a b e : BitVec 5) (r : BitVec 2) (w : BitVec 1) (ps : List Piece) (old : List Byte),
    let n := if w = 1 then 8 else 4
    let acc := accAt (s.curCtx.sreg a) 0 n n .amo
    let x : BitVec (8 * n) := BitVec.ofNat (8 * n) (natOfBytes old)
    (r ≠ 0 ∨ e = 0) → scopeOk s s.curKey s.cur.ctx e = true →
    s.curTile.twin = none → resolve (self s) acc s = .ok ps s1 → readPieces (self s) ps s1 = .ok old s2 → old.length = n →
    match f (8 * n) x ((s.curCtx.sreg b).setWidth (8 * n)) ((s.curCtx.sreg d).setWidth (8 * n)) with
    | some v => ∀ s3, writePieces (self s) ps (bytesLE n v) s2 = .ok () s3 →
      exec (i d a b r e w) s = .next (completed { s := s3.modCur (fun z => z.setS d (x.setWidth 64)) })
    | none => exec (i d a b r e w) s = .next (completed { s := s2.modCur (fun z => z.setS d (x.setWidth 64)) })

/-- An operation joins the copy engine under the next number, and adds 1 to its token (R221, R398). -/
def issued (s : State) (o : EngineOp) : State :=
  let t := s.modEng s.curKey (fun e => { e with ops := e.ops ++ [{ o with id := s.curTile.eng.nextOp }]
                                                nextOp := s.curTile.eng.nextOp + 1 })
  t.modEng s.curKey (fun e => { e with tok := e.tok.setIfInBounds o.tok (e.count o.tok + 1) })

end Sys2Proof.Claims

open Sys2Proof Sys2Proof.Machine Sys2Proof.Claims

/-! ### Encoding and decoding -/

/-- Decoding gives back every well-formed instruction from the bytes of its word, and leaves the bytes after it (R66, R67, R75). -/
def Obligations.EncodedInstructionsDecode : Prop :=
  ∀ (i : Instr) (w : Word32) (rest : List Byte), i.wf = true → encode i = some w →
    decodeBytes (bytesOfWord w ++ rest) = .ok (i, rest)

/-- A word that decodes is the word of the instruction that it decodes to, and that instruction is well formed: no bit of a word
is passed over (R67, R75, R77). -/
def Obligations.DecodedWordsEncodeBack : Prop :=
  ∀ (w : Word32) (i : Instr), decode w = .ok i → i.wf = true ∧ encode i = some w

/-- Words written out from the encodings of chapters 03 to 07 decode to the instructions that they stand for. -/
def Obligations.WrittenWordsDecode : Prop :=
  decode 0x08210005#32 = .ok (.addi 1 1 5) ∧ decode 0x04A63856#32 = .ok (.div 5 6 7 6) ∧
  decode 0x1C801000#32 = .ok (.lil 4 0x1000) ∧ decode 0x1C82FF00#32 = .ok (.lih 4 2 0xFF00) ∧
  decode 0x44000000#32 = .ok .nop ∧ decode 0x60221800#32 = .ok (.vaddFlt 1 2 3 0 0) ∧
  decode 0x90412008#32 = .ok (.ld 2 1 1 8) ∧ decode 0xC4000100#32 = .ok .trig

/-! ### Steps -/

/-- When the choice falls on a context, and the word that it executes next decodes, the step is the meaning of the decoded
instruction, in the state that the fetch leaves, with the context as the one that issues (R13, R66, R77). That the step chooses among the contexts that
can issue, and fetches the word in the same step, is the model's choice (log entries 1 and 9). -/
def Obligations.StepRunsDecodedInstruction : Prop :=
  ∀ (s : State) (k c : Nat) (i : Instr) (w : Word32) (f : Work), pick s = some (.ctx k c) → decode w = .ok i →
    nextWord { s := (asCtx { s with sched := s.sched.drop 1 } k c).modCtx k c (fun x => { x with wait := none }) } = .ok w f →
    step s = exec i f.s

/-- When the choice falls on an event in flight, the step is the event's meaning, in the state without that event. That what the rest of the machine does
is a list of events in flight, and that one choice is made among all that can happen next, is the model's choice (log entry 1). -/
def Obligations.StepRunsChosenEvent : Prop :=
  ∀ (s : State) (n : Nat) (e : Instr), pick s = some (.event n e) →
    step s = exec e { s with sched := s.sched.drop 1, pending := s.pending.eraseIdx n } ∧ ready s e = true ∧ s.pending[n]? = some e

/-- A word that is no instruction raises ILLEGAL with the word in TVAL (R77, steps 1 to 3). -/
def Obligations.UndecodedWordTakesIllegal : Prop :=
  ∀ (s : State) (k c : Nat) (e : DecodeError) (w : Word32) (f : Work), pick s = some (.ctx k c) → decode w = .error e →
    nextWord { s := (asCtx { s with sched := s.sched.drop 1 } k c).modCtx k c (fun x => { x with wait := none }) } = .ok w f →
    step s = .next (takeTrap (settled (started f.s).s) .illegal (w.setWidth 64))

/-- No step ends in a fault or a refusal: every cause of the spec is an exception that is taken (R32). -/
def Obligations.EveryStepAnswersNext : Prop := ∀ s : State, isNext (step s)

/-- Memory and host memory keep their canonical form at every step: whatever the step does, listed addresses rise strictly and
no listed byte is zero. -/
def Obligations.EveryStepKeepsMemoryCanonical : Prop := ∀ s t : State, Canonical s → step s = .next t → Canonical t

/-- After reset memory is canonical, no tile holds a unit, every context is IDLE, no job runs, and BOOTST reads 0 (R13, R435). That nothing is placed after
reset, and that a step from there answers the state after reset itself, since nothing can happen, is the model's choice (log entries 2 and 1). -/
def Obligations.ResetState : Prop :=
  Canonical State.reset ∧ (∀ k c, (State.reset.ctx k c).st = .idle) ∧ (∀ k, (State.reset.tile k).work = none) ∧
  State.reset.pending = [] ∧ State.reset.jobs = [] ∧ (∀ m, (State.reset.modl m).bootState = 0) ∧ step State.reset = .next State.reset

/-! ### Traps (R32 to R34) -/

/-- A trap with a handler, of a context that is not in its handler already: TPC, TCAUSE, TVAL and TSTAT are written, the PC
becomes TVEC, and no other register of the context and no memory changes. Inside a repeat frame TPC is the address of the RPT,
TSTAT.RP is 1 and RPTIDX keeps the place (R32, R85). Beside that the context only leaves the queue at which it waits, and gives up a
TLOAD that it has begun or an MMA that it waits for; a context that does none of these leaves everything else as it is. -/
def Sys2Proof.Claims.HandledTrap : Prop :=
  ∀ (s : State) (k c : Nat) (cause : Cause) (tval pc : Word) (mm : Bool), c < 11 → (s.tile k).csr.tvec ≠ 0 →
    (s.ctx k c).tstat.getLsbD 0 = false → cause ≠ .overrun →
    let u := leaveQueues (dropIssued s k c) k c
    takeTrapAt s k c cause tval pc mm = u.setCtx k c { s.ctx k c with
      tpc := match (s.ctx k c).frame with
        | some f => f.base
        | none => pc
      tcause := cause.code, tval := tval, pc := (s.tile k).csr.tvec, frame := none, wait := none, replay := none, slotsRead := []
      refused := [], mmaRow := none, tload := none, tstat := trapStatus c (s.ctx k c).handle mm (s.ctx k c).frame.isSome true } ∧
    u.mem = s.mem ∧ u.hostMem = s.hostMem ∧ u.pending = s.pending ∧ u.parts = s.parts ∧ u.launches = s.launches ∧
    (∀ k' c', (k', c') ≠ (k, c) → u.ctx k' c' = s.ctx k' c') ∧
    ((s.ctx k c).wait = none → (s.ctx k c).tload = none → (∀ o ∈ (s.tile k).eng.mmas, o.ctx = c → o.fetched = true) → u = s)

/-- A trap of a helper that has no handler, or is in its handler, or OVERRUN: the helper becomes FAULTED with the cause in
TCAUSE, PEND is set, CAUSE takes the code if it was zero, and the control context's inbox takes a notice of TYPE 0x04 (R33). -/
def Sys2Proof.Claims.UnhandledHelperTrap : Prop :=
  ∀ (s : State) (k c : Nat) (cause : Cause) (tval pc : Word) (mm : Bool), 0 < c → c < 11 → (s.tile k).step.bound = false →
    ((s.tile k).csr.tvec = 0 ∨ (s.ctx k c).tstat.getLsbD 0 = true ∨ cause = .overrun) →
    let t := takeTrapAt s k c cause tval pc mm
    (t.ctx k c).st = .faulted ∧ (t.ctx k c).tcause = cause.code ∧ (t.ctx k c).tval = tval ∧ (t.ctx k c).handle = none ∧
    (t.tile k).step.pend = true ∧
    (t.tile k).step.cause = (if (s.tile k).step.cause = 0 then cause.code else (s.tile k).step.cause) ∧
    (t.tile k).io.inbox ++ (t.tile k).io.heldIn = (s.tile k).io.inbox ++ (s.tile k).io.heldIn ++
      [inboxEntry (faultPayload cause.code c (s.ctx k c).handle tval) (s.tile k).step.ssn 0 1 0x04] ∧ t.mem = s.mem

/-- A trap of the control context that has no handler, or is in its handler, or OVERRUN: the context is STOPPED with the cause in TCAUSE and the PC, or the
RPT's address, in TPC; PEND is set, CAUSE takes the code if it was zero, and the launch's first fault names it. In a CON launch the tile stops every LIVE
helper and arrives at its barrier with COUNT 0, OP 0 and an abort vote; the arrival of a tile of a pair goes to the comparator instead. In a WP or PAR
launch whose superstep can be restored, every tile that holds a unit of the launch receives the abort (R33, R281, R327, R332). -/
def Sys2Proof.Claims.UnhandledControlTrap : Prop :=
  ∀ (s : State) (k : Nat) (cause : Cause) (tval pc : Word) (mm : Bool) (u : WorkUnit), (s.tile k).work = some u →
    (s.tile k).step.bound = false → ((s.tile k).csr.tvec = 0 ∨ (s.ctx k 0).tstat.getLsbD 0 = true ∨ cause = .overrun) →
    let t := takeTrapAt s k 0 cause tval pc mm
    let tpc := match (s.ctx k 0).frame with
      | some f => f.base
      | none => pc
    (t.ctx k 0).st = .stopped ∧ (t.ctx k 0).tcause = cause.code ∧ (t.ctx k 0).tval = tval ∧ (t.ctx k 0).tpc = tpc ∧
    (t.tile k).step.pend = true ∧
    (t.tile k).step.cause = (if (s.tile k).step.cause = 0 then cause.code else (s.tile k).step.cause) ∧ t.mem = s.mem ∧
    (u.cls = 2 → (t.tile k).step.arrived = true ∧
      (∀ c, 0 < c → c < 11 → (t.ctx k c).st = if (s.ctx k c).st = .live then .stopped else (s.ctx k c).st) ∧
      ((s.tile k).twin = none → t.pending.getLast? = some (.barrierRecord u.barKey 0 (tileDie (s.idKey k)) (s.idKey k)
        (barrierRec 0 (s.tile k).step.ssn 0 0 1))) ∧
      (∀ l, Map.get? s.launches u.launch = some l → Map.get? t.launches u.launch = some { l with
        fault := some (l.fault.getD { cause := cause.code, ctx := 0, tile := k, tval := tval, tpc := tpc })
        runFault := some (l.runFault.getD { cause := cause.code, ctx := 0, tile := k, tval := tval, tpc := tpc }) })) ∧
    (u.cls ≠ 2 → (Map.get? s.launches u.launch).isSome = true → (s.part (implicitKey u.launch)).bar = .running →
      s.isIrrevocable (implicitKey u.launch) = false → (t.part (implicitKey u.launch)).bar = .aborting ∧
      ∀ k' ∈ s.tilesOf u.launch, Instr.abort (tileDie k') (tileId k') ∈ t.pending)

/-- Taking a trap: with a handler; and without one in a helper and in the control context. -/
def Obligations.TrapEntry : Prop := HandledTrap ∧ UnhandledHelperTrap ∧ UnhandledControlTrap

/-! ### Scalar operands and completion (R16, R19, R70, R72) -/

/-- A scalar source field reads its register, s0 as zero, unless QMAP maps it to a queue: then it takes the oldest entry that no
earlier field of the word has taken, and waits where there is none. A destination field writes its register, a write of s0
being discarded, or pushes to its queue, and waits while the queue is full (R16, R19, R70, R72). -/
def Obligations.ScalarOperandForms : Prop :=
  ∀ (w : Work) (f : BitVec 5) (v : Word),
    (queueOf w.s.curCtx f = none → srcS f w = .ok (w.s.curCtx.sreg f) w) ∧
    (∀ q, queueOf w.s.curCtx f = some q → srcS f w = match (w.s.curTile.queue q)[popsOf w.pops q]? with
      | some x => .ok x { w with pops := w.pops ++ [Pop.queue q] }
      | none => .error (.wait .queue) w) ∧
    (queueOf w.s.curCtx f = none → dstS f v w = .ok () { w with s := w.s.modCur (fun x => x.setS f v) }) ∧
    (∀ q, queueOf w.s.curCtx f = some q → dstS f v w =
      if (w.s.curTile.queue q).length < queueDepth q + popsOf w.pops q then .ok () { w with pushes := w.pushes ++ [(q, v)] }
      else .error (.wait .queue) w) ∧
    (queueOf w.s.curCtx f ≠ none ↔ 24 ≤ f.toNat ∧ w.s.curCtx.qmap.getLsbD (f.toNat - 24) = true) ∧
    w.s.curCtx.sreg 0 = 0 ∧ (∀ n : BitVec 5, (w.s.curCtx.setS f v).sreg n = if n = f ∧ f ≠ 0 then v else w.s.curCtx.sreg n)

/-- What an instruction that takes no stream leaves when it completes: memory, host memory, full/empty bits, dies, partitions,
jobs, launches, modules, saves and events in flight; every other tile and every other context; and of its own tile everything
but the queues that it pops or pushes; of its own context everything but the PC, the loop state and its place in a repeat frame. -/
def Obligations.CompletionFrame : Prop :=
  ∀ w : Work, w.s.cur.ctx < 11 → w.groups = [] → (∀ p ∈ w.pops, ∃ q, p = Pop.queue q) → w.gone = false →
    let t := completed w
    let x := t.curCtx
    let y := w.s.curCtx
    t.mem = w.s.mem ∧ t.hostMem = w.s.hostMem ∧ t.full = w.s.full ∧ t.dies = w.s.dies ∧ t.modls = w.s.modls ∧ t.jobs = w.s.jobs ∧
    t.parts = w.s.parts ∧ t.launches = w.s.launches ∧ t.saves = w.s.saves ∧ t.pending = w.s.pending ∧ t.cur = w.s.cur ∧
    (∀ k, k ≠ w.s.curKey → t.tile k = w.s.tile k) ∧ (∀ c, c ≠ w.s.cur.ctx → t.ctx w.s.curKey c = w.s.ctx w.s.curKey c) ∧
    t.curTile.eng = w.s.curTile.eng ∧ t.curTile.step = w.s.curTile.step ∧ t.curTile.csr = w.s.curTile.csr ∧
    t.curTile.work = w.s.curTile.work ∧ t.curTile.io.inbox = w.s.curTile.io.inbox ∧ t.curTile.io.descs = w.s.curTile.io.descs ∧
    (∀ q < 8, t.curTile.queue q = (w.s.curTile.queue q).drop (popsOf w.pops q) ++
      (w.pushes.filter (fun e => decide (e.1 = q))).map (fun e => e.2)) ∧
    x.s = y.s ∧ x.v = y.v ∧ x.k = y.k ∧ x.qmap = y.qmap ∧ x.frm = y.frm ∧ x.tcause = y.tcause ∧ x.tpc = y.tpc ∧ x.tval = y.tval ∧
    x.tstat = y.tstat ∧ x.scopes = y.scopes ∧ x.binds = y.binds ∧ x.draws = y.draws ∧ x.mrow = y.mrow ∧ x.st = y.st ∧
    x.wait = y.wait

/-- Outside a repeat frame, where no loop level ends at its word, an instruction that makes no transfer goes on at the next
word, four bytes on, and leaves the loop state; one that makes a transfer goes on at its target. At the last word of the innermost
level's body the level's count falls by one: while it is not zero the context goes on at the body's first word, and at zero the
level ends and the next word follows; with more levels active, the next outer level is looked at in the same way where it ends at the same word, and so
on: the levels that stay active, and the word that follows, are those of `endLevels` (R66, R119). -/
def Obligations.CompletionAdvancesPc : Prop :=
  ∀ w : Work, w.s.cur.ctx < 11 → w.groups = [] → (∀ p ∈ w.pops, ∃ q, p = Pop.queue q) → w.gone = false →
    (∀ p, w.target = some p → (completed w).curCtx.pc = p ∧ (completed w).curCtx.loops = w.s.curCtx.loops) ∧
    (w.target = none → w.s.curCtx.frame = none →
      (w.s.curCtx.depth = 0 ∨ w.s.curCtx.level.last (imageOf w.s w.s.curKey) ≠ ptrOff w.s.curCtx.pc) →
      (completed w).curCtx.pc = ptrWithOff w.s.curCtx.pc (ptrOff w.s.curCtx.pc + 4) ∧
      (completed w).curCtx.loops = w.s.curCtx.loops ∧ (completed w).curCtx.depth = w.s.curCtx.depth) ∧
    (let x := w.s.curCtx
    let image := imageOf w.s w.s.curKey
    w.target = none → x.frame = none → 0 < x.depth → x.depth ≤ 4 → x.level.last image = ptrOff x.pc →
    (x.level.count ≠ 1 →
      (completed w).curCtx.pc = ptrWithOff x.pc (ptrOff image + 4 * x.level.start.toNat) ∧
      (completed w).curCtx.depth = x.depth ∧ (completed w).curCtx.level.count = x.level.count - 1) ∧
    (x.level.count = 1 → x.depth = 1 →
      (completed w).curCtx.pc = ptrWithOff x.pc (ptrOff x.pc + 4) ∧ (completed w).curCtx.depth = 0)) ∧
    (w.target = none → w.s.curCtx.frame = none → w.s.curCtx.depth ≤ 4 →
      let r := endLevels (imageOf w.s w.s.curKey) (ptrOff w.s.curCtx.pc) (activeLevels w.s.curCtx)
      (completed w).curCtx.pc = ptrWithOff w.s.curCtx.pc (r.2.getD (ptrOff w.s.curCtx.pc + 4)) ∧
      (completed w).curCtx.depth = r.1.length ∧ activeLevels (completed w).curCtx = r.1)

/-! ### Integer instructions (R105 to R111) -/

/-- Every INT.R function of two sources: with the two sources read and the result taken by its destination, the instruction
completes, and the result is the function of R106, R107 and R108 on values of w bits, extended as R105 says. -/
def Sys2Proof.Claims.IntegerBinaryResults : Prop :=
  binaryGives .add [0, 1, 2] (fun _ x y _ => x + y) ∧
  binaryGives .sub [0, 1, 2] (fun _ x y _ => x - y) ∧
  binaryGives .mul [0, 1, 2] (fun _ x y _ => x * y) ∧
  binaryGives .mulh [1] (fun w x y _ => BitVec.ofInt w (x.toInt * y.toInt / 2 ^ w)) ∧
  binaryGives .mulhn [2] (fun w x y _ => BitVec.ofNat w (x.toNat * y.toNat / 2 ^ w)) ∧
  binaryGives .div [1] (fun w x y _ => if y = 0 then BitVec.allOnes w else x.sdiv y) ∧
  binaryGives .divn [2] (fun w x y _ => if y = 0 then BitVec.allOnes w else x / y) ∧
  binaryGives .rem [1] (fun _ x y _ => if y = 0 then x else x.srem y) ∧
  binaryGives .remn [2] (fun _ x y _ => if y = 0 then x else x % y) ∧
  binaryGives .and [0, 1, 2] (fun _ x y _ => x &&& y) ∧
  binaryGives .or [0, 1, 2] (fun _ x y _ => x ||| y) ∧
  binaryGives .xor [0, 1, 2] (fun _ x y _ => x ^^^ y) ∧
  binaryGives .andn [0, 1, 2] (fun _ x y _ => x &&& ~~~y) ∧
  binaryGives .shl [0, 1, 2] (fun _ x _ c => x <<< c.toNat) ∧
  binaryGives .shr [0, 1, 2] (fun _ x _ c => x >>> c.toNat) ∧
  binaryGives .sra [0, 1] (fun _ x _ c => x.sshiftRight c.toNat) ∧
  binaryGives .rot [0, 1, 2] (fun w x _ c => x.rotateLeft (c.toNat % w)) ∧
  binaryGives .min [1] (fun _ x y _ => if x.slt y then x else y) ∧
  binaryGives .max [1] (fun _ x y _ => if x.slt y then y else x) ∧
  binaryGives .minn [2] (fun _ x y _ => if x.ult y then x else y) ∧
  binaryGives .maxn [2] (fun _ x y _ => if x.ult y then y else x) ∧
  binaryGives .slt [1] (fun w x y _ => if x.slt y then 1#w else 0#w) ∧
  binaryGives .sltn [2] (fun w x y _ => if x.ult y then 1#w else 0#w) ∧
  binaryGives .seq [0, 1, 2] (fun w x y _ => if x = y then 1#w else 0#w)

/-- Every INT.R function of one source, in the same way: leading zeros, trailing zeros and ones are counted within w bits, SEXT
and ZEXT keep the low w bits (R105, R106). -/
def Sys2Proof.Claims.IntegerUnaryResults : Prop :=
  unaryGives .clz [0, 1, 2] (fun _ x => x.clz) ∧
  unaryGives .ctz [0, 1, 2] (fun _ x => x.ctz) ∧
  unaryGives .popc [0, 1, 2] (fun _ x => x.cpop) ∧
  unaryGives .sext [1] (fun _ x => x) ∧
  unaryGives .zext [2] (fun _ x => x)

/-- The INT.R functions of two sources and of one. -/
def Obligations.IntegerResults : Prop := IntegerBinaryResults ∧ IntegerUnaryResults

/-- A type field of the reserved class traps ILLEGAL with the word in TVAL; a class that R106 does not list for the function
traps UNIMPL with 0x0000_07FF and the word (R105, R106). -/
def Sys2Proof.Claims.IntegerTypeTraps : Prop :=
  ∀ (s : State) (d a b : BitVec 5) (t : BitVec 4),
    (∀ i ∈ [Instr.add d a b t, .sub d a b t, .mul d a b t, .and d a b t, .or d a b t, .xor d a b t, .andn d a b t, .shl d a b t,
        .shr d a b t, .rot d a b t, .seq d a b t, .clz d a t, .ctz d a t, .popc d a t, .mulh d a b t, .div d a b t, .rem d a b t,
        .min d a b t, .max d a b t, .slt d a b t, .sext d a t, .mulhn d a b t, .divn d a b t, .remn d a b t, .minn d a b t,
        .maxn d a b t, .sltn d a b t, .zext d a t, .sra d a b t],
      12 ≤ t.toNat → exec i s = .next (takeTrap (settled (started s).s) .illegal ((wordOf i).setWidth 64))) ∧
    (∀ i ∈ [Instr.mulh d a b t, .div d a b t, .rem d a b t, .min d a b t, .max d a b t, .slt d a b t, .sext d a t],
      t.toNat < 4 ∨ (8 ≤ t.toNat ∧ t.toNat < 12) →
      exec i s = .next (takeTrap (settled (started s).s) .unimpl (0x7FF#32 ++ wordOf i))) ∧
    (∀ i ∈ [Instr.mulhn d a b t, .divn d a b t, .remn d a b t, .minn d a b t, .maxn d a b t, .sltn d a b t, .zext d a t],
      t.toNat < 8 → exec i s = .next (takeTrap (settled (started s).s) .unimpl (0x7FF#32 ++ wordOf i))) ∧
    (8 ≤ t.toNat ∧ t.toNat < 12 →
      exec (.sra d a b t) s = .next (takeTrap (settled (started s).s) .unimpl (0x7FF#32 ++ wordOf (.sra d a b t))))

/-- The immediate forms complete with the result of R109, R110 and R111, in S[d] or in the queue that d names; LIH replaces one
halfword and keeps the others, and a half beyond 3 or a mapped d is ILLEGAL. -/
def Obligations.ImmediateResults : Prop :=
  (∀ (d a : BitVec 5) (i : BitVec 16),
    immGives (.addi d a i) d a (fun x => x + i.signExtend 64) ∧ immGives (.andi d a i) d a (fun x => x &&& i.signExtend 64) ∧
    immGives (.ori d a i) d a (fun x => x ||| i.setWidth 64) ∧ immGives (.xori d a i) d a (fun x => x ^^^ i.setWidth 64)) ∧
  (∀ (d a : BitVec 5) (c : BitVec 6),
    immGives (.shli d a c) d a (fun x => x <<< c.toNat) ∧ immGives (.shri d a c) d a (fun x => x >>> c.toNat) ∧
    immGives (.srai d a c) d a (fun x => x.sshiftRight c.toNat)) ∧
  (∀ (s : State) (d : BitVec 5) (i : BitVec 16) (w : Work), dstS d (i.signExtend 64) (started s) = .ok () w →
    exec (.lil d i) s = .next (completed w)) ∧
  (∀ (s : State) (d h : BitVec 5) (i : BitVec 16), queueOf s.curCtx d = none → 1 ≤ h.toNat → h.toNat ≤ 3 →
    ∃ v : Word, v.extractLsb' (16 * h.toNat) 16 = i ∧
      (∀ n < 64, n / 16 ≠ h.toNat → v.getLsbD n = (s.curCtx.sreg d).getLsbD n) ∧
      exec (.lih d h i) s = .next (completed { s := (started s).s.modCur (fun x => x.setS d v) })) ∧
  (∀ (s : State) (d h : BitVec 5) (i : BitVec 16), (h = 0 ∨ 4 ≤ h.toNat ∨ queueOf s.curCtx d ≠ none) →
    exec (.lih d h i) s = .next (takeTrap (settled (started s).s) .illegal ((wordOf (.lih d h i)).setWidth 64)))

/-! ### Pointers, branches, loops, repeat frames (R112 to R122) -/

/-- The pointer operations: PADD and PADDI move OFF and nothing else, PTROVF where it leaves 0 to 2^40 − 1; PSET replaces a field,
PTROVF where the value does not fit; PGET reads one; PDIE puts CSR.DIEID for a DIE of 0xFFFF; PDIFF is the difference of two
offsets of one die (R112, R113). -/
def Obligations.PointerResults : Prop :=
  (∀ (s : State) (d a b : BitVec 5) (p n : Word) (w1 w2 w3 : Work), srcS a (started s) = .ok p w1 → srcS b w1 = .ok n w2 →
    (∀ o : BitVec 40, (o.toNat : Int) = (p.extractLsb' 0 40).toNat + n.toInt → dstS d (p.extractLsb' 40 24 ++ o) w2 = .ok () w3 →
      exec (.padd d a b) s = .next (completed w3)) ∧
    ((p.extractLsb' 0 40).toNat + n.toInt < 0 ∨ 2 ^ 40 ≤ (p.extractLsb' 0 40).toNat + n.toInt →
      exec (.padd d a b) s = .next (takeTrap (settled w2.s) .ptrovf p)) ∧
    (dstS d (if ptrDie (fixDie (s.dieId s.curKey) p) = ptrDie (fixDie (s.dieId s.curKey) n)
        then (p.extractLsb' 0 40).setWidth 64 - (n.extractLsb' 0 40).setWidth 64 else 0x8000000000000000#64) w2 = .ok () w3 →
      exec (.pdiff d a b) s = .next (completed w3))) ∧
  (∀ (s : State) (d a : BitVec 5) (i : BitVec 16) (p : Word) (w1 w2 : Work), srcS a (started s) = .ok p w1 →
    (∀ o : BitVec 40, (o.toNat : Int) = (p.extractLsb' 0 40).toNat + i.toInt → dstS d (p.extractLsb' 40 24 ++ o) w1 = .ok () w2 →
      exec (.paddi d a i) s = .next (completed w2)) ∧
    ((p.extractLsb' 0 40).toNat + i.toInt < 0 ∨ 2 ^ 40 ≤ (p.extractLsb' 0 40).toNat + i.toInt →
      exec (.paddi d a i) s = .next (takeTrap (settled w1.s) .ptrovf p)) ∧
    (dstS d (if p.extractLsb' 40 16 = 0xFFFF#16
        then p.extractLsb' 56 8 ++ BitVec.ofNat 16 (s.dieId s.curKey) ++ p.extractLsb' 0 40 else p) w1 = .ok () w2 →
      exec (.pdie d a) s = .next (completed w2))) ∧
  (∀ (s : State) (d a b : BitVec 5) (p v : Word) (w1 w2 w3 : Work), srcS a (started s) = .ok p w1 → srcS b w1 = .ok v w2 →
    (v.toNat < 2 ^ 5 → dstS d (v.setWidth 5 ++ p.extractLsb' 0 59) w2 = .ok () w3 →
      exec (.pset d a b 0) s = .next (completed w3)) ∧
    (v.toNat < 2 ^ 3 → dstS d (p.extractLsb' 59 5 ++ v.setWidth 3 ++ p.extractLsb' 0 56) w2 = .ok () w3 →
      exec (.pset d a b 1) s = .next (completed w3)) ∧
    (v.toNat < 2 ^ 16 → dstS d (p.extractLsb' 56 8 ++ v.setWidth 16 ++ p.extractLsb' 0 40) w2 = .ok () w3 →
      exec (.pset d a b 2) s = .next (completed w3)) ∧
    (v.toNat < 2 ^ 40 → dstS d (p.extractLsb' 40 24 ++ v.setWidth 40) w2 = .ok () w3 →
      exec (.pset d a b 3) s = .next (completed w3)) ∧
    (∀ f ∈ [(0#4, 5), (1#4, 3), (2#4, 16), (3#4, 40)], 2 ^ f.2 ≤ v.toNat →
      exec (.pset d a b f.1) s = .next (takeTrap (settled w2.s) .ptrovf p))) ∧
  (∀ (s : State) (d a b : BitVec 5) (t : BitVec 4), 4 ≤ t.toNat →
    exec (.pset d a b t) s = .next (takeTrap (settled (started s).s) .illegal ((wordOf (.pset d a b t)).setWidth 64)) ∧
    exec (.pget d a t) s = .next (takeTrap (settled (started s).s) .illegal ((wordOf (.pget d a t)).setWidth 64))) ∧
  (∀ (s : State) (d a : BitVec 5) (p : Word) (w1 w2 : Work), srcS a (started s) = .ok p w1 →
    (dstS d ((p.extractLsb' 59 5).setWidth 64) w1 = .ok () w2 → exec (.pget d a 0) s = .next (completed w2)) ∧
    (dstS d ((p.extractLsb' 56 3).setWidth 64) w1 = .ok () w2 → exec (.pget d a 1) s = .next (completed w2)) ∧
    (dstS d ((p.extractLsb' 40 16).setWidth 64) w1 = .ok () w2 → exec (.pget d a 2) s = .next (completed w2)) ∧
    (dstS d ((p.extractLsb' 0 40).setWidth 64) w1 = .ok () w2 → exec (.pget d a 3) s = .next (completed w2)))

/-- Branches and jumps: a taken BR and a JMP go on at the PC moved by four times the signed word count, PTROVF where that leaves
the die's offsets, and a BR not taken goes on at the next word; JAL leaves the address of the next word in s31 and JALR in S[d]
(R73, R114 to R117). -/
def Obligations.BranchesAndJumps : Prop :=
  (∀ (s : State) (c : BitVec 4) (a b : BitVec 5) (o : BitVec 12), 6 ≤ c.toNat →
    exec (.br c a b o) s = .next (takeTrap (settled (started s).s) .illegal ((wordOf (.br c a b o)).setWidth 64))) ∧
  (∀ (s : State) (c : BitVec 4) (a b : BitVec 5) (o : BitVec 12) (x y : Word) (w1 w2 : Work), c.toNat < 6 →
    srcS a (started s) = .ok x w1 → srcS b w1 = .ok y w2 → (condHolds c.toNat x y = false →
      exec (.br c a b o) s = .next (completed w2)) ∧
    (condHolds c.toNat x y = true → ∀ p, jumpTarget s.curCtx.pc o.toInt = some p →
      exec (.br c a b o) s = .next (completed { w2 with s := leaveLoops w2.s p, target := some p })) ∧
    (condHolds c.toNat x y = true → jumpTarget s.curCtx.pc o.toInt = none →
      exec (.br c a b o) s = .next (takeTrap (settled w2.s) .ptrovf s.curCtx.pc))) ∧
  (∀ (s : State) (o : BitVec 26),
    (∀ p, jumpTarget s.curCtx.pc o.toInt = some p →
      exec (.jmp o) s = .next (completed { started s with s := leaveLoops (started s).s p, target := some p }) ∧
      exec (.jal o) s = .next (completed { started s with
        s := (started s).s.modCur (fun x => x.setS 31 (ptrWithOff s.curCtx.pc (ptrOff s.curCtx.pc + 4))), target := some p })) ∧
    (jumpTarget s.curCtx.pc o.toInt = none →
      exec (.jmp o) s = .next (takeTrap (settled (started s).s) .ptrovf s.curCtx.pc) ∧
      exec (.jal o) s = .next (takeTrap (settled (started s).s) .ptrovf s.curCtx.pc))) ∧
  (∀ (s : State) (d a : BitVec 5) (i : BitVec 16) (p : Word) (w1 : Work), srcS a (started s) = .ok p w1 →
    let traps (c : Cause) (v : Word) : Prop := exec (.jalr d a i) s = .next (takeTrap (settled w1.s) c v)
    (ptrFmt p ≠ 0 ∨ ptrBlk p ≠ 0 → traps .illfmt p) ∧
    (ptrFmt p = 0 → ptrBlk p = 0 → (jumpTarget p i.toInt = none → traps .ptrovf p) ∧
      ∀ q, jumpTarget p i.toInt = some q → ptrOff q % 4 ≠ 0 → traps .misalign q)) ∧
  (∀ (s : State) (d a : BitVec 5) (i : BitVec 16) (p q : Word) (w1 w2 : Work), srcS a (started s) = .ok p w1 →
    ptrFmt p = 0 → ptrBlk p = 0 → jumpTarget p i.toInt = some q → ptrOff q % 4 = 0 →
    dstS d (ptrWithOff s.curCtx.pc (ptrOff s.curCtx.pc + 4)) w1 = .ok () w2 →
    exec (.jalr d a i) s = .next (completed { w2 with s := if d = 0 then leaveLoops w2.s q else w2.s, target := some q }))

/-- LOOP and LOOPI at the next free level: a count that is not zero starts a level of len words at the next word, and a count of
zero passes the body over; a length of 0, a level that is not the next, or a body that starts beyond the first 16 MiB of the image is ILLEGAL (R118).
That the LOOP itself, where it is the last word of outer levels and its count is zero, ends those levels as any other word would, and goes on at the word after
its body where none of them repeats, is the model's choice (log entries 18 and 70). -/
def Sys2Proof.Claims.LoopsStart : Prop :=
  ∀ (s : State) (l : BitVec 10) (v : BitVec 2),
    let image := imageOf s s.curKey
    let start := ptrOff s.curCtx.pc + 4
    (∀ (c : BitVec 5) (n : Word) (w : Work), srcS c (started s) = .ok n w → l ≠ 0 → v.toNat = s.curCtx.depth →
      ptrOff image ≤ start → start - ptrOff image < 2 ^ 24 → n.extractLsb' 0 32 ≠ 0 →
      exec (.loop c l v) s = .next (completed { w with
        s := pushLevel w.s { count := n.extractLsb' 0 32, start := BitVec.ofNat 22 ((start - ptrOff image) / 4), len := l }
        target := some (ptrWithOff s.curCtx.pc start) })) ∧
    (∀ (c : BitVec 5) (h : BitVec 8), l ≠ 0 → v.toNat = s.curCtx.depth → ptrOff image ≤ start → start - ptrOff image < 2 ^ 24 →
      (h ++ c) ≠ 0 →
      exec (.loopi c l v h) s = .next (completed { started s with
        s := pushLevel (started s).s { count := (h ++ c).setWidth 32, start := BitVec.ofNat 22 ((start - ptrOff image) / 4), len := l }
        target := some (ptrWithOff s.curCtx.pc start) })) ∧
    (l ≠ 0 → v.toNat = s.curCtx.depth → ptrOff image ≤ start → start - ptrOff image < 2 ^ 24 → s.cur.ctx < 11 →
      let passes (i : Instr) : Prop := ∃ t, exec i s = .next t ∧ (s.curCtx.depth = 0 →
          t.curCtx.pc = ptrWithOff s.curCtx.pc (start + 4 * l.toNat) ∧ t.curCtx.depth = 0) ∧
        let r := endLevels image (ptrOff s.curCtx.pc) (activeLevels s.curCtx)
        t.curCtx.pc = ptrWithOff s.curCtx.pc (r.2.getD (start + 4 * l.toNat)) ∧ t.curCtx.depth = r.1.length ∧
        activeLevels t.curCtx = r.1
      passes (.loopi 0 l v 0) ∧ ∀ (c : BitVec 5) (n : Word) (w : Work), srcS c (started s) = .ok n w → n.extractLsb' 0 32 = 0 →
        passes (.loop c l v)) ∧
    (l ≠ 0 → v.toNat = s.curCtx.depth → (start < ptrOff image ∨ 2 ^ 24 ≤ start - ptrOff image) →
      (∀ (c : BitVec 5) (h : BitVec 8),
        exec (.loopi c l v h) s = .next (takeTrap (settled (started s).s) .illegal ((wordOf (.loopi c l v h)).setWidth 64))) ∧
      ∀ (c : BitVec 5) (n : Word) (w : Work), srcS c (started s) = .ok n w →
        exec (.loop c l v) s = .next (takeTrap (settled w.s) .illegal ((wordOf (.loop c l v)).setWidth 64))) ∧
    (∀ (c : BitVec 5) (h : BitVec 8), l = 0 ∨ v.toNat ≠ s.curCtx.depth →
      exec (.loop c l v) s = .next (takeTrap (settled (started s).s) .illegal ((wordOf (.loop c l v)).setWidth 64)) ∧
      exec (.loopi c l v h) s = .next (takeTrap (settled (started s).s) .illegal ((wordOf (.loopi c l v h)).setWidth 64)))

/-- RPT captures the n words that follow it, once they have been fetched and found to be permitted, and the context is inside the
frame at replay 0 and position 0; nothing else of it changes. Inside the frame it goes on at the next word, then at the next replay,
and after the last replay at the word after the frame, or where a loop level that ends with the frame's last word sends it (R80, R81, R84, R119, R122). That
a frame ends at its last word for the loop levels is the model's choice (log entry 18). -/
def Sys2Proof.Claims.RepeatFrames : Prop :=
  (∀ (s : State) (n : BitVec 4) (k : BitVec 6) (d a b : BitVec 4) (ws : List Word32) (w : Work), s.cur.ctx < 11 →
    captureFrame s.curCtx.pc (wordOf (.rpt n k d a b)) (started s) = .ok ws w → w.pops = [] → w.pushes = [] → w.groups = [] →
    ∃ t, exec (.rpt n k d a b) s = .next t ∧ t.mem = w.s.mem ∧
      t.curCtx = { w.s.curCtx with
        pc := s.curCtx.pc, replay := none, slotsRead := [], refused := [], mmaRow := w.resume
        frame := some { base := s.curCtx.pc, rpt := wordOf (.rpt n k d a b), words := ws, i := 0, j := 0 } }) ∧
  (∀ (w : Work) (f : FrameRun), w.s.cur.ctx < 11 → w.groups = [] → w.pops = [] → w.pushes = [] → w.gone = false → w.target = none →
    w.s.curCtx.frame = some f → f.j < f.words.length → f.i ≤ bits f.rpt.toNat 16 6 →
    let x := (completed w).curCtx
    (f.j + 1 < f.words.length → x.frame = some { f with j := f.j + 1 } ∧ x.pc = w.s.curCtx.pc) ∧
    (f.j + 1 = f.words.length → f.i < bits f.rpt.toNat 16 6 → x.frame = some { f with i := f.i + 1, j := 0 } ∧ x.pc = w.s.curCtx.pc) ∧
    (f.j + 1 = f.words.length → f.i = bits f.rpt.toNat 16 6 →
      x.frame = none ∧ (w.s.curCtx.depth = 0 → x.pc = ptrWithOff f.base (ptrOff f.base + 4 * f.words.length + 4)) ∧
      (w.s.curCtx.depth ≤ 4 →
        let r := endLevels (imageOf w.s w.s.curKey) (ptrOff f.base + 4 * f.words.length) (activeLevels w.s.curCtx)
        x.pc = ptrWithOff f.base (r.2.getD (ptrOff f.base + 4 * f.words.length + 4)) ∧ x.depth = r.1.length ∧
        activeLevels x = r.1)))

/-- Loops and repeat frames. -/
def Obligations.LoopResults : Prop := LoopsStart ∧ RepeatFrames


/-! ### CSRs and system instructions (R29, R30, R123 to R130) -/

/-- CSRR of a CSR that R29 numbers completes and leaves its value in S[d], CALNOW with the slot in bits 14:9; any other number
traps ILLEGAL. The value of each CSR is the one that R29 and R30 lay out: the per-context ones are the issuing context's, a pair's
two tiles read the primary's TILEID, and fields that no column names read as zero. -/
def Sys2Proof.Claims.CsrReads : Prop :=
  (∀ (s : State) (d : BitVec 5) (c : BitVec 12) (v : Word) (w : Work), s.curTile.eng.outOf s.cur.ctx = false → c ≠ 0x030 →
    csrRead (started s).s c.toNat = some v → dstS d v (started s) = .ok () w → exec (.csrr d c) s = .next (completed w)) ∧
  (∀ (s : State) (d : BitVec 5) (c : BitVec 12) (v : Word), s.curTile.eng.outOf s.cur.ctx = false → c ≠ 0x030 →
    csrRead (started s).s c.toNat = some v → queueOf s.curCtx d = none →
    exec (.csrr d c) s = .next (completed { s := (started s).s.modCur (fun x => x.setS d v) })) ∧
  (∀ (s : State) (d : BitVec 5), s.curTile.eng.outOf s.cur.ctx = false → queueOf s.curCtx d = none → ∃ v : Word,
    exec (.csrr d 0x030) s = .next (completed { s := { (started s).s with free := s.free + 1 }.modCur (fun x => x.setS d v) }) ∧
      v.toNat / 2 ^ 9 = s.curTile.csr.slot % 64) ∧
  (∀ (s : State) (d : BitVec 5) (c : BitVec 12), s.curTile.eng.outOf s.cur.ctx = false → csrRead (started s).s c.toNat = none →
    exec (.csrr d c) s = .next (takeTrap (settled (started s).s) .illegal ((wordOf (.csrr d c)).setWidth 64))) ∧
  (∀ s : State,
    let t := s.curTile
    let x := s.curCtx
    csrRead s 0x000 = some (BitVec.ofNat 64 (tileId (s.idKey s.curKey))) ∧ csrRead s 0x001 = some (BitVec.ofNat 64 (s.dieId s.curKey)) ∧
    csrRead s 0x002 = some (match t.work with
      | some u => BitVec.ofNat 64 (u.launch % 2 ^ 32 * 2 ^ 8 + u.part % 2 ^ 8)
      | none => 0) ∧
    csrRead s 0x003 = some (t.csr.partsz.setWidth 64) ∧ csrRead s 0x010 = some (t.step.ssn.setWidth 64) ∧
    csrRead s 0x011 = some (BitVec.ofNat 64 (t.step.retry.toNat * 2 ^ 16 + t.step.mine.toNat * 2 ^ 2 + t.step.out.toNat)) ∧
    csrRead s 0x012 = some (BitVec.ofNat 64 (t.step.cause.toNat * 2 ^ 8 + t.step.pend.toNat)) ∧
    csrRead s 0x013 = some (BitVec.ofNat 64 (t.poolFree true * 2 ^ 16 + t.poolFree false)) ∧
    csrRead s 0x014 = some (logcap s s.curKey) ∧
    csrRead s 0x020 = some (BitVec.ofNat 64 (t.csr.pvPending.toNat * 2 ^ 32 + t.csr.pvReq.toNat * 2 ^ 16 + t.csr.pvCur.toNat)) ∧
    csrRead s 0x021 = some (BitVec.ofNat 64 (t.csr.pubOldest.toNat * 2 ^ 16 + t.csr.pubLatest.toNat)) ∧
    (∃ v, csrRead s 0x031 = some v ∧ ∀ h (hh : h < 16), v.toNat / 4 ^ h % 4 = (t.csr.books[h]).stat.code) ∧
    csrRead s 0x040 = some t.csr.subreg ∧ csrRead s 0x041 = some (x.qmap.setWidth 64) ∧
    csrRead s 0x042 = some (x.frm.setWidth 64) ∧ csrRead s 0x050 = some (x.tcause.setWidth 64) ∧ csrRead s 0x051 = some x.tpc ∧
    csrRead s 0x052 = some x.tval ∧ csrRead s 0x053 = some (x.tstat.setWidth 64) ∧ csrRead s 0x054 = some (x.rptidx.setWidth 64) ∧
    csrRead s 0x055 = some t.csr.tvec ∧
    (∃ v, csrRead s 0x060 = some v ∧ v.toNat < 2 ^ 27 ∧ v.getLsbD 0 = false ∧ ∀ c, 1 ≤ c → c ≤ 10 →
      (v.getLsbD c = true ↔ (t.ctx c).st = .live) ∧ (v.getLsbD (16 + c) = true ↔ (t.ctx c).st = .faulted)) ∧
    csrRead s 0x061 = some (x.mrow.setWidth 64) ∧
    (∃ v, csrRead s 0x062 = some v ∧ v.toNat % 8 = t.eng.head.toNat ∧
      ∀ a (ha : a < 8), v.toNat / 2 ^ (8 + 2 * a) % 4 = (t.eng.acc[a]).st.code) ∧
    csrRead s 0x070 = some t.csr.scopebase ∧
    (∀ n, csrRead s n ≠ none ↔ n ∈ [0x000, 0x001, 0x002, 0x003, 0x010, 0x011, 0x012, 0x013, 0x014, 0x020, 0x021, 0x030, 0x031, 0x040,
      0x041, 0x042, 0x050, 0x051, 0x052, 0x053, 0x054, 0x055, 0x060, 0x061, 0x062, 0x070]))

/-- CSRW, CSRS and CSRC and the new value that each makes of the old one and S[a] (R123). -/
def Sys2Proof.Claims.csrForms (d a : BitVec 5) (c : BitVec 12) : List (Instr × (Word → Word → Word)) :=
  [(.csrw d a c, fun _ x => x), (.csrs d a c, fun old x => old ||| x), (.csrc d a c, fun old x => old &&& ~~~x)]

/-- CSRW, CSRS and CSRC return the old value and write S[a], the old value OR S[a], and the old value AND NOT S[a]. A number that is
not read-write, a reserved bit that would become 1, or a rounding mode above 4 traps ILLEGAL; a per-tile CSR written by a helper traps
CTXPRIV. The fields that R30 gives as read-only keep their value (R29, R30, R123, R124). -/
def Sys2Proof.Claims.CsrWrites : Prop :=
  (∀ (s : State) (d a : BitVec 5) (c : BitVec 12), s.curTile.eng.outOf s.cur.ctx = false → ∀ e ∈ csrForms d a c,
    (∀ (perTile : Bool) (reserved fixed x old : Word) (w1 : Work), csrKind c.toNat = some (perTile, reserved, fixed) →
      srcS a (started s) = .ok x w1 → csrRead w1.s c.toNat = some old →
      let new := e.2 old x
      (new &&& reserved ≠ 0 ∨ c = 0x042 ∧ 4 < (new &&& 7).toNat →
        exec e.1 s = .next (takeTrap (settled w1.s) .illegal ((wordOf e.1).setWidth 64))) ∧
      (new &&& reserved = 0 → (c = 0x042 → (new &&& 7).toNat ≤ 4) → perTile = true → s.cur.ctx ≠ 0 →
        exec e.1 s = .next (takeTrap (settled w1.s) .ctxpriv (1#32 ++ wordOf e.1))) ∧
      (new &&& reserved = 0 → (c = 0x042 → (new &&& 7).toNat ≤ 4) → (perTile = true → s.cur.ctx = 0) →
        ∀ w2, dstS d old w1 = .ok () w2 →
        exec e.1 s = .next (completed { w2 with s := csrPut w2.s c.toNat ((new &&& ~~~fixed) ||| (old &&& fixed)) })) ∧
      (new &&& reserved = 0 → (c = 0x042 → (new &&& 7).toNat ≤ 4) → (perTile = true → s.cur.ctx = 0) →
        queueOf s.curCtx a = none → queueOf s.curCtx d = none →
        x = s.curCtx.sreg a ∧ exec e.1 s = .next (completed
          { s := csrPut ((started s).s.modCur (fun x => x.setS d old)) c.toNat ((new &&& ~~~fixed) ||| (old &&& fixed)) }))) ∧
    (csrKind c.toNat = none → exec e.1 s = .next (takeTrap (settled (started s).s) .illegal ((wordOf e.1).setWidth 64)))) ∧
  (∀ n, csrKind n = if n = 0x012 then some (true, 0xFFFFFFFFFFFF00FE, 0xFF00) else if n = 0x040 then some (true, 0x3FE, 0)
    else if n = 0x041 ∨ n = 0x042 ∨ n = 0x050 then some (false, 0xFFFFFFFFFFFFFF00, 0) else if n = 0x051 ∨ n = 0x052 then some (false, 0, 0)
    else if n = 0x053 then some (false, 0xFFFFFFFFFFFFF000, 0xFF0) else if n = 0x054 then some (false, 0xFFFFFFFFFFFFC0F0, 0)
    else if n = 0x055 then some (true, 3, 0) else if n = 0x061 then some (false, 0xFFFFFFFFFFFFFF70, 0) else none)

/-- A CSR instruction waits while an engine operation that its context issued earlier has not completed (R125, R204). -/
def Sys2Proof.Claims.CsrWaits : Prop :=
  ∀ (s : State) (d a : BitVec 5) (c : BitVec 12), s.curTile.eng.outOf s.cur.ctx = true →
    ∀ i ∈ [Instr.csrr d c, .csrw d a c, .csrs d a c, .csrc d a c], exec i s = .next (enterWait (started s).s .issue)

/-- With plain scalar registers and no engine operation of the context in flight, CSRR of every CSR of R29 completes, and CSRW, CSRS and CSRC complete where the CSR is
read-write, the control context writes it if it is per tile, no reserved bit becomes 1 and no rounding mode above 4 is written (R123 to R125). -/
def Sys2Proof.Claims.CsrFormsComplete : Prop :=
  ∀ (s : State) (d a : BitVec 5) (c : BitVec 12), s.curTile.eng.outOf s.cur.ctx = false → queueOf s.curCtx a = none → queueOf s.curCtx d = none →
    (c.toNat ∈ [0x000, 0x001, 0x002, 0x003, 0x010, 0x011, 0x012, 0x013, 0x014, 0x020, 0x021, 0x030, 0x031, 0x040, 0x041, 0x042, 0x050, 0x051,
        0x052, 0x053, 0x054, 0x055, 0x060, 0x061, 0x062, 0x070] →
      ∃ t, exec (.csrr d c) s = .next t ∧ (c ≠ 0x030 → s.cur.ctx < 11 → some (t.curCtx.sreg d) = if d = 0 then some 0 else csrRead (started s).s c.toNat)) ∧
    (∀ (perTile : Bool) (reserved fixed : Word), csrKind c.toNat = some (perTile, reserved, fixed) →
      ∃ old, csrRead (started s).s c.toNat = some old ∧ ∀ e ∈ csrForms d a c,
        let new := e.2 old (s.curCtx.sreg a)
        new &&& reserved = 0 → (c = 0x042 → (new &&& 7).toNat ≤ 4) → (perTile = true → s.cur.ctx = 0) →
        exec e.1 s = .next (completed
          { s := csrPut ((started s).s.modCur (fun x => x.setS d old)) c.toNat ((new &&& ~~~fixed) ||| (old &&& fixed)) }))

/-- CSRs as CSRR reads them, and as CSRW, CSRS and CSRC write them; each waits for the earlier instructions of its context. -/
def Obligations.CsrReadsAndWrites : Prop := CsrReads ∧ CsrWrites ∧ CsrWaits ∧ CsrFormsComplete

/-- What is written to a read-write CSR is read back from it, and no other CSR but those in which it has a part changes (R29, R30,
R124). -/
def Obligations.CsrWriteReadsBack : Prop :=
  ∀ (s : State) (v : Word), s.cur.ctx < 11 →
    (∀ n ∈ [0x040, 0x041, 0x042, 0x050, 0x051, 0x052, 0x054, 0x055, 0x061],
      (∀ (p : Bool) (r f : Word), csrKind n = some (p, r, f) → v &&& r = 0 → csrRead (csrPut s n v) n = some v) ∧
      ∀ m ∈ [0x000, 0x001, 0x002, 0x003, 0x010, 0x011, 0x012, 0x013, 0x014, 0x020, 0x021, 0x031, 0x040, 0x041, 0x042, 0x050, 0x051,
        0x052, 0x053, 0x054, 0x055, 0x060, 0x061, 0x062, 0x070], m ≠ n → csrRead (csrPut s n v) m = csrRead s m) ∧
    (csrPut s 0x053 v).curCtx.tstat = s.curCtx.tstat.extractLsb' 4 8 ++ v.extractLsb' 0 4 ∧
    (v.getLsbD 0 = false → csrRead (csrPut s 0x012 v) 0x012 = some 0) ∧
    (v.getLsbD 0 = true → (csrPut s 0x012 v).curTile.step.pend = true ∧
      (csrPut s 0x012 v).curTile.step.cause = s.curTile.step.cause)

/-- NOP completes and changes nothing but the PC; TRAP traps with concat(a, b, lo) in TVAL, and BKPT with 0, both with the next word's
address in TPC. TRET waits until every engine operation that its context issued has completed, then clears TSTAT.H and goes on at TPC; where TSTAT.RP is 1 it goes on inside
the repeat frame of the RPT at TPC, whose words are fetched again, at the place that RPTIDX holds; it is ILLEGAL where TSTAT.H is 0
(R86, R127 to R130). -/
def Obligations.SystemInstructions : Prop :=
  ∀ s : State,
    exec .nop s = .next (completed (started s)) ∧
    (∀ (a b : BitVec 5) (c : BitVec 6), exec (.trap a b c) s = .next (takeTrapAt (settled (started s).s) s.curKey s.cur.ctx .trap
      ((a ++ b ++ c).setWidth 64) (ptrWithOff s.curCtx.pc (ptrOff s.curCtx.pc + 4)) false)) ∧
    exec .bkpt s = .next (takeTrapAt (settled (started s).s) s.curKey s.cur.ctx .bkpt 0
      (ptrWithOff s.curCtx.pc (ptrOff s.curCtx.pc + 4)) false) ∧
    (s.curCtx.tstat.getLsbD 0 = true → s.curTile.eng.outOf s.cur.ctx = true → exec .tret s = .next (enterWait (started s).s .issue)) ∧
    (s.curCtx.tstat.getLsbD 0 = true → s.curTile.eng.outOf s.cur.ctx = false → s.curCtx.tstat.getLsbD 1 = false →
      exec .tret s = .next (completed { started s with
        s := (started s).s.modCur (fun x => { x with tstat := x.tstat &&& 0xFFE#12 }), target := some s.curCtx.tpc
        resume := if s.curCtx.tstat.getLsbD 2 then some (s.curCtx.mrow.toNat % 16) else none })) ∧
    (∀ (r : Word32) (ws : List Word32) (w1 w2 : Work), s.cur.ctx < 11 →
      s.curCtx.tstat.getLsbD 0 = true → s.curTile.eng.outOf s.cur.ctx = false → s.curCtx.tstat.getLsbD 1 = true →
      fetchM s.curCtx.tpc (started s) = .ok r w1 → bits r.toNat 26 6 = 0x0F → bits r.toNat 0 4 = 0 →
      captureFrame s.curCtx.tpc r w1 = .ok ws w2 → w2.pops = [] → w2.pushes = [] → w2.groups = [] →
      let i := s.curCtx.rptidx.toNat / 2 ^ 8
      let j := s.curCtx.rptidx.toNat % 2 ^ 4
      (i ≤ bits r.toNat 16 6 → j < ws.length → ∃ t, exec .tret s = .next t ∧
        t.curCtx.frame = some { base := s.curCtx.tpc, rpt := r, words := ws, i := i, j := j } ∧ t.curCtx.pc = s.curCtx.tpc ∧
        t.curCtx.tstat.getLsbD 0 = false) ∧
      (bits r.toNat 16 6 < i ∨ ws.length ≤ j →
        exec .tret s = .next (takeTrap (settled w2.s) .illegal (r.setWidth 64)))) ∧
    (s.curCtx.tstat.getLsbD 0 = false →
      exec .tret s = .next (takeTrap (settled (started s).s) .illegal 0x44000200#64))

/-! ### Predicates (R159) -/

/-- The predicate operations on k0 to k7: k0 reads as 0xFFFF and a write of it is discarded; a field above 7 is ILLEGAL (R16, R159). -/
def Obligations.PredicateResults : Prop :=
  ∀ (s : State) (d a b : BitVec 5),
    let ka := s.curCtx.kreg (a.setWidth 3)
    let kb := s.curCtx.kreg (b.setWidth 3)
    let sets (v : BitVec 16) : State := completed { s := (started s).s.modCur (fun x => x.setK (d.setWidth 3) v) }
    let gives (v : Word) : State := completed { s := (started s).s.modCur (fun x => x.setS d v) }
    (d.toNat < 8 → a.toNat < 8 → b.toNat < 8 →
      exec (.kand d a b) s = .next (sets (ka &&& kb)) ∧ exec (.kor d a b) s = .next (sets (ka ||| kb)) ∧
      exec (.kxor d a b) s = .next (sets (ka ^^^ kb))) ∧
    (d.toNat < 8 → a.toNat < 8 → exec (.knot d a) s = .next (sets (~~~ka))) ∧
    (a.toNat < 8 → exec (.kpop d a) s = .next (gives (ka.cpop.setWidth 64)) ∧
      exec (.kfirst d a) s = .next (gives (ka.ctz.setWidth 64))) ∧
    (d.toNat < 8 → exec (.kset d a) s = .next (sets ((s.curCtx.sreg a).setWidth 16))) ∧
    (∀ i, (8 ≤ d.toNat ∧ i ∈ [Instr.kand d a b, .kor d a b, .kxor d a b, .knot d a, .kset d a]) ∨
        (8 ≤ a.toNat ∧ i ∈ [Instr.kand d a b, .kor d a b, .kxor d a b, .knot d a, .kpop d a, .kfirst d a]) ∨
        (8 ≤ b.toNat ∧ i ∈ [Instr.kand d a b, .kor d a b, .kxor d a b]) →
      exec i s = .next (takeTrap (settled (started s).s) .illegal ((wordOf i).setWidth 64))) ∧
    s.curCtx.kreg 0 = 0xFFFF#16 ∧ (∀ (m n : BitVec 3) (v : BitVec 16),
      (s.curCtx.setK n v).kreg m = if m = n ∧ n ≠ 0 then v else s.curCtx.kreg m)

/-! ### Vectors (R17, R71, R133 to R152) -/

/-- What holds a slot of the tile's own scratchpad back from an instruction that pops or pushes it: a range that is still to be staged, for which a
booked helper takes OVERRUN with subcause 3 and any other context waits to issue; or an instruction of another context that has read the slot (R162, R290,
R342). -/
def Sys2Proof.Claims.slotHeld (s : State) (off : Nat) : Option Stop :=
  if stagedPending s s.curKey false off 64 = true then
    some (match bookingOf s (self s) with
      | some (h, _) => .trap .overrun (overrunVal 0xFF h 3)
      | none => .retry)
  else if slotTaken s s.curKey off 64 (some s.cur.ctx) = true then some (.wait .stream)
  else none

/-- A vector source reads its register, unless the register is bound: then it takes the next group of its copy port, or of its ring
where all sixteen words of the slot are full, and waits where there is none; a ring has no more groups than slots. A destination
writes its register, or pushes a group to its ring where the slot is empty. A slot that is held back is waited for first (R71, R72, R162). -/
def Obligations.VectorOperandForms : Prop :=
  ∀ (w : Work) (f : BitVec 5) (v : Vec) (iw : Word32),
    (boundTo w.s.curCtx f = none → srcV f iw w = .ok (w.s.curCtx.vreg f) w ∧ oldV f w = .ok (w.s.curCtx.vreg f) w ∧
      dstV f v w = .ok () { w with s := w.s.modCur (fun x => x.setV f v) }) ∧
    (∀ e, boundTo w.s.curCtx f = some e →
      let t := w.s.curTile
      let d := t.desc e
      let n := streamPops w.pops e
      oldV f w = .ok 0 w ∧
      (d.copy = true → exhausted t d n = false → srcV f iw w = match (t.port d.port).groups[n]? with
        | some g => .ok g { w with pops := w.pops ++ [Pop.stream e] }
        | none => .error (.wait .stream) w) ∧
      (d.copy = true → exhausted t d n = true → srcV f iw w = .error (.trap .illegal (iw.setWidth 64)) w) ∧
      (d.copy = false → srcV f iw w = match slotHeld w.s (d.slotOff n) with
        | some h => .error h w
        | none => if n < d.slots.toNat ∧ slotAll w.s (d.slotOff n) true = true
          then .ok (BitVec.ofNat 512 (natOfBytes ((List.range 64).map
            (fun i => tileByte w.s w.s.curKey w.s.curKey false (d.slotOff n + i))))) { w with pops := w.pops ++ [Pop.stream e] }
          else .error (.wait .stream) w) ∧
      dstV f v w = match slotHeld w.s (d.slotOff w.groups.length) with
        | some h => .error h w
        | none => if slotAll w.s (d.slotOff w.groups.length) false = true then .ok () { w with groups := w.groups ++ [(e, v)] }
          else .error (.wait .stream) w) ∧
    (∀ n : BitVec 5, (w.s.curCtx.setV f v).vreg n = if n = f then v else w.s.curCtx.vreg n)

/-- Float arithmetic on F32, BF16 and F16 completes lane by lane, rounded under FRM.RM, with the flags of the active lanes ORed into
FRM and the draw counter advanced under STO (R53, R61, R135, R136, R138, R139, R142). -/
def Sys2Proof.Claims.VectorFloatResults : Prop :=
  vfloat2Gives .vaddFlt true (fun f rm q x y => addFp f rm q (decodeFp f x) (decodeFp f y)) ∧
  vfloat2Gives .vsubFlt true (fun f rm q x y => addFp f rm q (decodeFp f x) (decodeFp f y).neg) ∧
  vfloat2Gives .vmulFlt true (fun f rm q x y => mulFp f rm q (decodeFp f x) (decodeFp f y)) ∧
  vfloat2Gives .vdiv true (fun f rm q x y => divFp f rm q (decodeFp f x) (decodeFp f y)) ∧
  vfloat2Gives .vminFlt false (fun f _ _ x y => minMaxFp f false x y) ∧
  vfloat2Gives .vmaxFlt false (fun f _ _ x y => minMaxFp f true x y) ∧
  vfloat1Gives .vsqrt true (fun f rm q x => sqrtFp f rm q (decodeFp f x)) ∧
  vfloat1Gives .vabs false (fun f _ _ x => { val := if (decodeFp f x).isNan then f.nan else x % 2 ^ (f.width - 1), flags := 0 }) ∧
  vfloat1Gives .vneg false (fun f _ _ x =>
    { val := if (decodeFp f x).isNan then f.nan else (x % 2 ^ f.width) ^^^ 2 ^ (f.width - 1), flags := 0 }) ∧
  vfmaGives .vfma false false ∧ vfmaGives .vfms false true ∧ vfmaGives .vfnma true false

/-- Integer arithmetic on elements of 8 to 64 bits completes lane by lane: it wraps, raises no flag, and shifts by the whole of the
count element (R140, R141). -/
def Sys2Proof.Claims.VectorIntegerResults : Prop :=
  vintGives .vaddInt (fun _ _ x y => x + y) ∧ vintGives .vsubInt (fun _ _ x y => x - y) ∧ vintGives .vmulInt (fun _ _ x y => x * y) ∧
  vintGives .vminInt (fun sgn _ x y => if (if sgn then x.slt y else x.ult y) then x else y) ∧
  vintGives .vmaxInt (fun sgn _ x y => if (if sgn then x.slt y else x.ult y) then y else x) ∧
  vintGives .vand (fun _ _ x y => x &&& y) ∧ vintGives .vor (fun _ _ x y => x ||| y) ∧ vintGives .vxor (fun _ _ x y => x ^^^ y) ∧
  vintGives .vshl (fun _ _ x y => x <<< y.toNat) ∧ vintGives .vshr (fun _ _ x y => x >>> y.toNat) ∧
  vintGives .vsra (fun _ _ x y => x.sshiftRight y.toNat)

/-- Vector arithmetic on floats and on integers. That the draw counter advances under STO even where no active element is rounded is the model's reading
(log entry 15). -/
def Obligations.VectorArithmeticResults : Prop := VectorFloatResults ∧ VectorIntegerResults

/-- Element types: the reserved code traps ILLEGAL, float arithmetic on another type than F32, BF16 and F16, and integer arithmetic
on a float type or on 4 bits, traps UNIMPL with the fn and ty fields in TVAL (R133, R138, R140). -/
def Sys2Proof.Claims.VectorTypeTraps : Prop :=
  ∀ (s : State) (d a b : BitVec 5) (k : BitVec 3) (t : BitVec 4),
    (∀ i ∈ [Instr.vaddFlt d a b k 15, .vsubFlt d a b k 15, .vmulFlt d a b k 15, .vdiv d a b k 15, .vsqrt d a k 15, .vminFlt d a b k 15,
        .vmaxFlt d a b k 15, .vabs d a k 15, .vneg d a k 15, .vaddInt d a b k 15, .vsubInt d a b k 15, .vmulInt d a b k 15,
        .vminInt d a b k 15, .vmaxInt d a b k 15, .vand d a b k 15, .vor d a b k 15, .vxor d a b k 15, .vshl d a b k 15,
        .vshr d a b k 15, .vsra d a b k 15, .vsel d a b k 15, .vperm d a b k 15, .vbcast d a k 15, .vins d a b 15, .vmovs d a b 15,
        .viota d k 15],
      exec i s = .next (takeTrap (settled (started s).s) .illegal ((wordOf i).setWidth 64))) ∧
    (3 ≤ t.toNat → t.toNat < 15 → ∀ i ∈ [Instr.vaddFlt d a b k t, .vsubFlt d a b k t, .vmulFlt d a b k t, .vdiv d a b k t,
        .vsqrt d a k t, .vabs d a k t, .vneg d a k t, .vminFlt d a b k t, .vmaxFlt d a b k t],
      exec i s = .next (takeTrap (settled (started s).s) .unimpl (0xFF#32 ++ wordOf i))) ∧
    (t.toNat < 5 ∨ t = 13 ∨ t = 14 → ∀ i ∈ [Instr.vaddInt d a b k t, .vsubInt d a b k t, .vmulInt d a b k t, .vminInt d a b k t,
        .vmaxInt d a b k t, .vand d a b k t, .vor d a b k t, .vxor d a b k t, .vshl d a b k t, .vshr d a b k t, .vsra d a b k t, .viota d k t],
      exec i s = .next (takeTrap (settled (started s).s) .unimpl (0xFF#32 ++ wordOf i))) ∧
    (t = 13 ∨ t = 14 → ∀ i ∈ [Instr.vsel d a b k t, .vperm d a b k t, .vbcast d a k t, .vins d a b t, .vmovs d a b t],
      exec i s = .next (takeTrap (settled (started s).s) .unimpl (0xFF#32 ++ wordOf i)))

/-- Element types that a scalar or a vector function does not take. -/
def Obligations.TypeTraps : Prop := IntegerTypeTraps ∧ VectorTypeTraps

/-- VCMP writes the whole predicate: bit i is 1 where every element that it governs is active and satisfies the condition. VSEL takes
the element of its first source where it is active, else that of its second (R143 to R145). -/
def Obligations.CompareAndSelectResults : Prop :=
  (∀ (s : State) (d a b : BitVec 5) (k : BitVec 3) (c t : BitVec 4) (sgn : Bool) (w : Nat) (x y : Vec) (w1 w2 : Work) (q : BitVec 16),
    (t, ElemTy.int sgn w) ∈ typeCodes → c.toNat < 6 → d.toNat < 8 →
    checkDirs [a, b] [] (wordOf (.vcmp d a b k c t)) (started s) = .ok () (started s) →
    srcV a (wordOf (.vcmp d a b k c t)) (started s) = .ok x w1 → srcV b (wordOf (.vcmp d a b k c t)) w1 = .ok y w2 →
    (∀ i < 16, q.getLsbD i = (governed w i).all (fun j => activeElem (s.curCtx.kreg k) w j &&
      intCond c.toNat (readInt sgn w (elemOf x w j)) (readInt sgn w (elemOf y w j)))) →
    ends (exec (.vcmp d a b k c t) s) s { w2 with s :=
      (w2.s.modCur (fun z => z.setK (d.setWidth 3) q)).modCur (fun z => z.orFlags 0) }) ∧
  (∀ (s : State) (d a b : BitVec 5) (k : BitVec 3) (c t : BitVec 4) (f : FloatFmt) (x y : Vec) (w1 w2 : Work) (q : BitVec 16),
    (t, ElemTy.flt f) ∈ typeCodes → c.toNat < 7 → d.toNat < 8 →
    checkDirs [a, b] [] (wordOf (.vcmp d a b k c t)) (started s) = .ok () (started s) →
    srcV a (wordOf (.vcmp d a b k c t)) (started s) = .ok x w1 → srcV b (wordOf (.vcmp d a b k c t)) w1 = .ok y w2 →
    let one (j : Nat) : Bool × Flags := fltCond c.toNat (decodeFp f (elemOf x f.width j)) (decodeFp f (elemOf y f.width j))
    (∀ i < 16, q.getLsbD i = (governed f.width i).all (fun j => activeElem (s.curCtx.kreg k) f.width j && (one j).1)) →
    let fl : Flags := flagsOf f.width (s.curCtx.kreg k) (fun j => { val := 0, flags := (one j).2 })
    ends (exec (.vcmp d a b k c t) s) s { w2 with
      s := (w2.s.modCur (fun z => z.setK (d.setWidth 3) q)).modCur (fun z => z.orFlags fl) }) ∧
  (∀ (s : State) (d a b : BitVec 5) (k : BitVec 3) (t : BitVec 4) (e : ElemTy) (x y v : Vec) (w1 w2 w3 : Work),
    (t, e) ∈ typeCodes → checkDirs [a, b] [d] (wordOf (.vsel d a b k t)) (started s) = .ok () (started s) →
    srcV a (wordOf (.vsel d a b k t)) (started s) = .ok x w1 → srcV b (wordOf (.vsel d a b k t)) w1 = .ok y w2 →
    lanes e.width (s.curCtx.kreg k) y v (fun j => elemOf x e.width j) → dstV d v w2 = .ok () w3 →
    ends (exec (.vsel d a b k t) s) s w3)

/-- The moves: VPERM takes the element that each index names modulo the count, VBCAST a scalar's low bits, VIOTA the element's number,
VINS replaces one element, VMOVS reads one, extended by sign for a signed type, VPACK joins two low halves and VUNPK takes one half
(R148, R149). -/
def Obligations.VectorMoveResults : Prop :=
  (∀ (s : State) (d a b : BitVec 5) (k : BitVec 3) (t : BitVec 4) (e : ElemTy) (x y old v : Vec) (w1 w2 w3 : Work),
    (t, e) ∈ typeCodes → checkDirs [a, b] [d] (wordOf (.vperm d a b k t)) (started s) = .ok () (started s) →
    srcV a (wordOf (.vperm d a b k t)) (started s) = .ok x w1 → srcV b (wordOf (.vperm d a b k t)) w1 = .ok y w2 →
    oldV d w2 = .ok old w2 →
    lanes e.width (s.curCtx.kreg k) old v (fun j => elemOf x e.width (elemOf y e.width j % (512 / e.width))) →
    dstV d v w2 = .ok () w3 → ends (exec (.vperm d a b k t) s) s w3) ∧
  (∀ (s : State) (d a : BitVec 5) (k : BitVec 3) (t : BitVec 4) (e : ElemTy) (old v : Vec) (w1 : Work),
    (t, e) ∈ typeCodes → oldV d (started s) = .ok old (started s) →
    (checkDirs [] [d] (wordOf (.vbcast d a k t)) (started s) = .ok () (started s) →
      lanes e.width (s.curCtx.kreg k) old v (fun _ => (s.curCtx.sreg a).toNat) → dstV d v (started s) = .ok () w1 →
      ends (exec (.vbcast d a k t) s) s w1) ∧
    (5 ≤ t.toNat → checkDirs [] [d] (wordOf (.viota d k t)) (started s) = .ok () (started s) →
      lanes e.width (s.curCtx.kreg k) old v (fun j => j) → dstV d v (started s) = .ok () w1 →
      ends (exec (.viota d k t) s) s w1) ∧
    (∀ b : BitVec 5, boundTo s.curCtx d = none →
      (∀ j < 512 / e.width, elemOf v e.width j = if j = (s.curCtx.sreg b).toNat % (512 / e.width)
        then (s.curCtx.sreg a).toNat % 2 ^ e.width else elemOf (s.curCtx.vreg d) e.width j) →
      exec (.vins d a b t) s = .next (completed { s := (started s).s.modCur (fun z => z.setV d v) }))) ∧
  (∀ (s : State) (d a b : BitVec 5) (t : BitVec 4) (e : ElemTy) (x : Vec) (w1 : Work),
    (t, e) ∈ typeCodes → checkDirs [a] [] (wordOf (.vmovs d a b t)) (started s) = .ok () (started s) →
    srcV a (wordOf (.vmovs d a b t)) (started s) = .ok x w1 →
    let n := elemOf x e.width ((s.curCtx.sreg b).toNat % (512 / e.width))
    let r : Word := match e with
      | .int true w => (BitVec.ofNat w n).signExtend 64
      | _ => BitVec.ofNat 64 n
    ends (exec (.vmovs d a b t) s) s { w1 with s := w1.s.modCur (fun z => z.setS d r) }) ∧
  (∀ (s : State) (d a b : BitVec 5) (x y : Vec) (w1 w2 w3 : Work),
    checkDirs [a, b] [d] (wordOf (.vpack d a b)) (started s) = .ok () (started s) →
    srcV a (wordOf (.vpack d a b)) (started s) = .ok x w1 → srcV b (wordOf (.vpack d a b)) w1 = .ok y w2 →
    dstV d (y.extractLsb' 0 256 ++ x.extractLsb' 0 256) w2 = .ok () w3 → ends (exec (.vpack d a b) s) s w3) ∧
  (∀ (s : State) (d a : BitVec 5) (h : BitVec 1) (x : Vec) (w1 w2 : Work),
    checkDirs [a] [d] (wordOf (.vunpk d a h)) (started s) = .ok () (started s) →
    srcV a (wordOf (.vunpk d a h)) (started s) = .ok x w1 →
    dstV d (0#256 ++ (if h = 0 then x.extractLsb' 0 256 else x.extractLsb' 256 256)) w1 = .ok () w2 →
    ends (exec (.vunpk d a h) s) s w2)

/-- VCVT converts the lower elements, as many as fit both types, under the mode that D or the instruction gives, and zeroes the rest;
VREDUCE writes the whole destination with one value, and VSCAN each active prefix, with integers wrapping at their width and floats rounded at
each element (R146, R147, R150 to R152). That the draw counter advances once for an instruction under STO, even where no active element is rounded, and
that a saturating conversion between integers of one width clips, is the model's reading (log entries 15 and 61). -/
def Obligations.ConversionAndReductionResults : Prop :=
  (∀ (s : State) (d a : BitVec 5) (x : BitVec 1) (r : BitVec 3) (z : BitVec 1) (k : BitVec 3) (f t : BitVec 4) (src dst : ElemTy)
      (y old v : Vec) (w1 w2 : Work), elemTy t = some src → elemTy f = some dst → src ≠ dst →
    (if x = 1 then r = 0 else r.toNat < 5) →
    checkDirs [a] [d] (wordOf (.vcvt d a x r z k f t)) (started s) = .ok () (started s) →
    srcV a (wordOf (.vcvt d a x r z k f t)) (started s) = .ok y w1 → oldV d w1 = .ok old w1 →
    let rm := if x = 1 then w1.s.curCtx.rm else r
    let n := 512 / max src.width dst.width
    let one (j : Nat) : FRes := convert src dst rm (z == 1) (drawsOf w1.s w1.s.curKey w1.s.cur.ctx j) (elemOf y src.width j)
    let act (j : Nat) : Bool := (s.curCtx.kreg k).getLsbD (16 * j / n)
    (∀ j < 512 / dst.width, elemOf v dst.width j =
      if n ≤ j then 0 else if act j then (one j).val % 2 ^ dst.width else elemOf old dst.width j) →
    dstV d v w1 = .ok () w2 →
    ends (exec (.vcvt d a x r z k f t) s) s (raised (converts src dst) rm
      (((List.range n).filter act).foldl (fun (acc : Flags) j => acc ||| (one j).flags) 0) w2)) ∧
  (∀ (s : State) (d a : BitVec 5) (k o : BitVec 3) (t : BitVec 4) (sgn : Bool) (w : Nat) (x : Vec) (w1 w2 : Work),
    (t, ElemTy.int sgn w) ∈ typeCodes → o.toNat < 6 →
    checkDirs [a] [d] (wordOf (.vreduce d a k o t)) (started s) = .ok () (started s) →
    srcV a (wordOf (.vreduce d a k o t)) (started s) = .ok x w1 →
    let l := ((List.range (512 / w)).filter (fun j => activeElem (s.curCtx.kreg k) w j)).map (fun j => readInt sgn w (elemOf x w j))
    dstV d (BitVec.ofNat 512 (wrapInt (if w = 64 then 64 else 32) (l.foldl (intCombine o.toNat sgn w) (intIdentity o.toNat sgn w)))) w1
      = .ok () w2 →
    ends (exec (.vreduce d a k o t) s) s w2) ∧
  (∀ (s : State) (d a : BitVec 5) (k o : BitVec 3) (t : BitVec 4) (f : FloatFmt) (x : Vec) (w1 w2 : Work),
    (t, f) ∈ [(0#4, FloatFmt.f32), (1#4, .bf16), (2#4, .f16)] → o.toNat ≤ 2 →
    checkDirs [a] [d] (wordOf (.vreduce d a k o t)) (started s) = .ok () (started s) →
    srcV a (wordOf (.vreduce d a k o t)) (started s) = .ok x w1 →
    let tree := treeReduce (fun n => fltCombine .f32 w1.s.curCtx.rm o.toNat (drawsOf w1.s w1.s.curKey w1.s.cur.ctx n))
      ((List.range (512 / f.width)).map (fun j =>
        if activeElem (s.curCtx.kreg k) f.width j then decodeFp f (elemOf x f.width j) else fltIdentity o.toNat))
    dstV d (BitVec.ofNat 512 (roundFp .f32 0 0 tree.1).val) w1 = .ok () w2 →
    ends (exec (.vreduce d a k o t) s) s (raised (decide (o = 0)) w1.s.curCtx.rm tree.2 w2)) ∧
  (∀ (s : State) (d a : BitVec 5) (k o : BitVec 3) (t : BitVec 4) (sgn : Bool) (w : Nat) (x old v : Vec) (w1 w2 : Work),
    (t, ElemTy.int sgn w) ∈ typeCodes → o.toNat < 6 →
    checkDirs [a] [d] (wordOf (.vscan d a k o t)) (started s) = .ok () (started s) →
    srcV a (wordOf (.vscan d a k o t)) (started s) = .ok x w1 → oldV d w1 = .ok old w1 →
    lanes w (s.curCtx.kreg k) old v (fun j => wrapInt w ((((List.range (j + 1)).filter (fun i => activeElem (s.curCtx.kreg k) w i)).map
      (fun i => readInt sgn w (elemOf x w i))).foldl (intCombine o.toNat sgn w) (intIdentity o.toNat sgn w))) →
    (o = 0 → ∀ j < 512 / w, activeElem (s.curCtx.kreg k) w j = true → elemOf v w j =
      (((List.range (j + 1)).filter (fun i => activeElem (s.curCtx.kreg k) w i)).map (fun i => elemOf x w i)).sum % 2 ^ w) ∧
    (dstV d v w1 = .ok () w2 → ends (exec (.vscan d a k o t) s) s w2)) ∧
  (∀ (s : State) (d a : BitVec 5) (k o : BitVec 3) (t : BitVec 4) (f : FloatFmt) (x old v : Vec) (w1 w2 : Work),
    (t, f) ∈ [(0#4, FloatFmt.f32), (1#4, .bf16), (2#4, .f16)] → o.toNat ≤ 2 →
    checkDirs [a] [d] (wordOf (.vscan d a k o t)) (started s) = .ok () (started s) →
    srcV a (wordOf (.vscan d a k o t)) (started s) = .ok x w1 → oldV d w1 = .ok old w1 →
    let e (j : Nat) : Fp := if activeElem (s.curCtx.kreg k) f.width j then decodeFp f (elemOf x f.width j) else fltIdentity o.toNat
    let pre (j : Nat) : Fp × Flags :=
      prefixes (fun j => fltCombine f w1.s.curCtx.rm o.toNat (drawsOf w1.s w1.s.curKey w1.s.cur.ctx j)) (fltIdentity o.toNat) e j
    lanes f.width (s.curCtx.kreg k) old v (fun j => (roundFp f 0 0 (pre j).1).val) → dstV d v w1 = .ok () w2 →
    ends (exec (.vscan d a k o t) s) s (raised (decide (o = 0)) w1.s.curCtx.rm
      (flagsOf f.width (s.curCtx.kreg k) (fun j => { val := 0, flags := (pre j).2 })) w2))

/-! ### Tables and quantisation (R153 to R158) -/

/-- A table header that follows R154: x0 finite, e from -24 to 24, both modes at most 3, 1 to 256 segments, reserved bytes zero. -/
def Sys2Proof.Claims.headerFollows (n : Nat) : Prop :=
  bits n 23 8 ≠ 255 ∧ -24 ≤ (BitVec.ofNat 8 (bits n 32 8)).toInt ∧ (BitVec.ofNat 8 (bits n 32 8)).toInt ≤ 24 ∧
  bits n 40 8 ≤ 3 ∧ bits n 48 8 ≤ 3 ∧ bits n 56 8 = 0 ∧ 1 ≤ bits n 64 16 ∧ bits n 64 16 ≤ 256 ∧ n < 2 ^ 80

/-- TLOAD reads the header and then the segments, one after the other. A table that follows R154 makes the slot valid, under the present SSN;
any other traps ILLFMT with the pointer in TVAL. TLOAD waits while an epilogue job issued before it has still to read the slot, and a slot beyond 3 is
ILLEGAL (R153 to R155). -/
def Sys2Proof.Claims.TableLoads : Prop :=
  ∀ (s : State) (d a : BitVec 5),
    let p := s.curCtx.sreg a
    let u := (started s).s.modCur (fun x => { x with tload := some d.toNat })
    let reads := s.curTile.eng.epiq.any (fun j => epTable j.cfg == some d.toNat && !j.behind.contains s.cur.ctx)
    (4 ≤ d.toNat → exec (.tload d a) s = .next (takeTrap (settled (started s).s) .illegal ((wordOf (.tload d a)).setWidth 64))) ∧
    (d.toNat < 4 → s.curCtx.handle = none → reads = true → exec (.tload d a) s = .next (enterWait u .issue)) ∧
    (∀ (s1 : State) (h : List Byte), d.toNat < 4 → s.curCtx.handle = none → reads = false →
      readAcc (self s) { accAt p 0 32 16 .load with declared := some 1 } u = .ok h s1 → h.length = 32 →
      let n := natOfBytes h
      let count := bits n 64 16
      (¬ headerFollows n → exec (.tload d a) s = .next (takeTrap (settled s1) .illfmt p)) ∧
      (∀ (s2 : State) (val : Nat → List Byte), headerFollows n → checkForm (accAt p 32 (16 * count) 16 .load) s1 = .ok () s1 →
        readsAll (fun i => readAcc (self s) (accAt p (32 + 16 * i) 16 16 .load)) val (List.range count) s1 s2 →
        let seg (i : Nat) : BitVec 128 := BitVec.ofNat 128 (natOfBytes (val i))
        ((∃ i < count, (seg i).extractLsb' 96 32 ≠ 0) → exec (.tload d a) s = .next (takeTrap (settled s2) .illfmt p)) ∧
        ((∀ i < count, (seg i).extractLsb' 96 32 = 0) →
          let slot : TableSlot :=
            { valid := true, ssn := s.curTile.step.ssn, header := BitVec.ofNat 256 n, segs := (List.range count).map seg }
          exec (.tload d a) s = .next (completed { s := (dropTload s2 s.curKey s.cur.ctx).modEng s.curKey (fun e =>
            { e with tables := e.tables.setIfInBounds d.toNat slot }) }))))

/-- The rational number that a finite value is. -/
def Sys2Proof.Claims.ratOf : Fp → Option ℚ
  | .fin neg m e => some ((if neg then -1 else 1) * m * 2 ^ e)
  | .inf _ | .nan _ => none

/-- The step of TINTERP on one element (R156). NaN gives the canonical NaN. Below 0 and from n on the end's mode decides: ZERO gives +0, IDENT the
element, CLAMP and EXTRAP the polynomial of the end's segment at 0 or 1, or beyond it; between them it is the polynomial of segment floor(t) at
t - floor(t). The polynomial is exact and is rounded once; where the element is infinite or a coefficient is not finite the result is NaN with NV. -/
def Sys2Proof.Claims.InterpolationStep : Prop :=
  ∀ (t : TableSlot) (f : FloatFmt) (rm : BitVec 3) (q : BitVec 16) (x : Nat), 1 ≤ t.count → t.below ≤ 3 → t.above ≤ 3 →
    let v := decodeFp f x
    let r := interp t f rm q x
    (∀ b, v = .nan b → r = nanOf f b) ∧
    (∀ neg, v = .inf neg → (ratOf (decodeFp .f32 t.x0)).isSome →
      let mode := if neg then t.below else t.above
      (mode = 1 → r = { val := 0, flags := 0 }) ∧ (mode = 2 → r = { val := x, flags := 0 }) ∧
      (mode = 0 ∨ mode = 3 → r = { val := f.nan, flags := Flags.nv })) ∧
    (∀ a b : ℚ, ratOf v = some a → ratOf (decodeFp .f32 t.x0) = some b →
      let u : ℚ := (a - b) / 2 ^ t.exp
      let ends (mode i : Nat) (at' : ℚ) : Prop :=
        (mode = 1 → r = { val := 0, flags := 0 }) ∧ (mode = 2 → r = { val := x, flags := 0 }) ∧
        (mode = 0 ∨ mode = 3 →
          (∀ c0 c1 c2 : ℚ, ratOf (t.coef i 0) = some c0 → ratOf (t.coef i 1) = some c1 → ratOf (t.coef i 2) = some c2 →
            ∃ y : Fp, ratOf y = some (c0 + at' * (c1 + at' * c2)) ∧ r = roundFp f rm q y) ∧
          ((∃ j < 3, ratOf (t.coef i j) = none) → r = { val := f.nan, flags := Flags.nv }))
      (u < 0 → ends t.below 0 (if t.below = 3 then u else 0)) ∧
      (t.count ≤ u → ends t.above (t.count - 1) (if t.above = 3 then u - (t.count - 1 : Nat) else 1)) ∧
      (0 ≤ u → u < t.count → ends 3 ⌊u⌋.toNat (u - ⌊u⌋)))

/-- TINTERP completes lane by lane through a valid slot, rounding under FRM.RM with the flags of the active lanes ORed into FRM. A slot that is not valid
or beyond 3 is ILLEGAL, a type but F32, BF16 and F16 is UNIMPL, and a TLOAD of the slot that another context has issued is waited for (R153, R156). -/
def Sys2Proof.Claims.TableInterpolation : Prop :=
  ∀ (s : State) (d a b : BitVec 5) (k : BitVec 3) (t : BitVec 4),
    let i := Instr.tinterp d a b k t
    (4 ≤ b.toNat ∨ t = 15 → exec i s = .next (takeTrap (settled (started s).s) .illegal ((wordOf i).setWidth 64))) ∧
    (b.toNat < 4 → 3 ≤ t.toNat → t ≠ 15 → exec i s = .next (takeTrap (settled (started s).s) .unimpl (0xFF#32 ++ wordOf i))) ∧
    (b.toNat < 4 → t.toNat < 3 → s.curCtx.handle = none → checkDirs [a] [d] (wordOf i) (started s) = .ok () (started s) →
      (loading s b.toNat ≠ [] → exec i s = .next (enterWait (started s).s .issue)) ∧
      (loading s b.toNat = [] → (s.curTile.table b.toNat).valid = false →
        exec i s = .next (takeTrap (settled (started s).s) .illegal ((wordOf i).setWidth 64))) ∧
      (∀ (f : FloatFmt) (x old v : Vec) (w1 w2 : Work), (t, f) ∈ [(0#4, FloatFmt.f32), (1#4, .bf16), (2#4, .f16)] →
        loading s b.toNat = [] → (s.curTile.table b.toNat).valid = true →
        srcV a (wordOf i) (started s) = .ok x w1 → oldV d w1 = .ok old w1 →
        let one (j : Nat) : FRes :=
          interp (s.curTile.table b.toNat) f s.curCtx.rm (drawsOf s s.curKey s.cur.ctx j) (elemOf x f.width j)
        lanes f.width (s.curCtx.kreg k) old v (fun j => (one j).val) → dstV d v w1 = .ok () w2 →
        ends (exec i s) s (raised true s.curCtx.rm (flagsOf f.width (s.curCtx.kreg k) one) w2)))

/-- VQDQ gives the sixteen values of the quarter that S[b] names, the codebook's value times the subscale, exact in F32 and without a flag; QSCALE
multiplies each active element by the super-scale in S[b], divides by 255 and rounds once to nearest even, and traps SCALE with the super-scale in TVAL
where it is negative, zero, infinite or NaN. A type but F32 is UNIMPL (R157, R158). -/
def Sys2Proof.Claims.QuantisationResults : Prop :=
  (∀ (s : State) (d a b : BitVec 5) (k : BitVec 3) (x old v : Vec) (w1 w2 : Work),
    (checkDirs [a] [d] (wordOf (.vqdq d a b k 0)) (started s) = .ok () (started s) →
      srcV a (wordOf (.vqdq d a b k 0)) (started s) = .ok x w1 → oldV d w1 = .ok old w1 →
      let y := s.curCtx.sreg b
      lanes 32 (s.curCtx.kreg k) old v (fun i =>
        (roundFp .f32 0 0 (q4Value (elemOf x 4 (16 * (y.extractLsb' 8 3).toNat + i)) (y.extractLsb' 0 8).toNat)).val) →
      dstV d v w1 = .ok () w2 → ends (exec (.vqdq d a b k 0) s) s w2) ∧
    (checkDirs [a] [d] (wordOf (.qscale d a b k 0)) (started s) = .ok () (started s) →
      srcV a (wordOf (.qscale d a b k 0)) (started s) = .ok x w1 → oldV d w1 = .ok old w1 →
      let sc : BitVec 32 := (s.curCtx.sreg b).setWidth 32
      let one (j : Nat) : FRes := superScale (decodeFp .f32 (elemOf x 32 j)) (decodeFp .f32 sc.toNat)
      (badScale sc = false → lanes 32 (s.curCtx.kreg k) old v (fun j => (one j).val) → dstV d v w1 = .ok () w2 →
        ends (exec (.qscale d a b k 0) s) s (raised false 0 (flagsOf 32 (s.curCtx.kreg k) one) w2)) ∧
      (badScale sc = true → exec (.qscale d a b k 0) s = .next (takeTrap (settled w1.s) .scale (sc.setWidth 64)))) ∧
    (∀ t : BitVec 4, t ≠ 0 → t ≠ 15 → ∀ i ∈ [Instr.vqdq d a b k t, .qscale d a b k t],
      exec i s = .next (takeTrap (settled (started s).s) .unimpl (0xFF#32 ++ wordOf i)))) ∧
  (∀ c < 16, ∀ y < 256, ∀ z : Int,
    [-256, -177, -133, -100, -73, -49, -26, 0, 21, 41, 63, 87, 114, 147, 191, 256][c]? = some z →
    (roundFp .f32 0 0 (q4Value c y)).flags = 0 ∧
    ratOf (decodeFp .f32 (roundFp .f32 0 0 (q4Value c y)).val) = some ((z : ℚ) * y / 256)) ∧
  (∀ sc : BitVec 32, badScale sc = true ↔
    sc.getLsbD 31 = true ∨ sc.extractLsb' 0 31 = 0 ∨ sc.extractLsb' 23 8 = 0xFF#8) ∧
  (∀ (n ns : Bool) (m ms : Nat) (e es : Int), m ≠ 0 →
    superScale (.fin n m e) (.fin ns ms es) = roundMag .f32 0 false n (m * ms) 255 (e + es) 0) ∧
  (∀ (n ns : Bool) (ms : Nat) (e es : Int), superScale (.fin n 0 e) (.fin ns ms es) = { val := FloatFmt.f32.sign n, flags := 0 }) ∧
  (∀ (b : Bool) (sc : Fp), superScale (.nan b) sc = nanOf .f32 b ∧
    superScale (.inf b) sc = { val := FloatFmt.f32.sign b + 0x7F800000, flags := 0 })

/-- On vector registers that are not bound VQDQ completes, and so does QSCALE with a super-scale that is positive and finite, and TINTERP through a valid
slot that no other context loads, for each of its types; each writes V[d] lane by lane (R156 to R158). -/
def Sys2Proof.Claims.TableFormsComplete : Prop :=
  ∀ (s : State) (d a b : BitVec 5) (k : BitVec 3), boundTo s.curCtx a = none → boundTo s.curCtx d = none →
    let out (v : Vec) : Work := { s := (started s).s.modCur (fun x => x.setV d v) }
    let y := s.curCtx.sreg b
    (∃ v, lanes 32 (s.curCtx.kreg k) (s.curCtx.vreg d) v (fun i => (roundFp .f32 0 0
        (q4Value (elemOf (s.curCtx.vreg a) 4 (16 * (y.extractLsb' 8 3).toNat + i)) (y.extractLsb' 0 8).toNat)).val) ∧
      exec (.vqdq d a b k 0) s = .next (completed (out v))) ∧
    (badScale (y.setWidth 32) = false →
      let one (j : Nat) : FRes := superScale (decodeFp .f32 (elemOf (s.curCtx.vreg a) 32 j)) (decodeFp .f32 (y.setWidth 32 : BitVec 32).toNat)
      ∃ v, lanes 32 (s.curCtx.kreg k) (s.curCtx.vreg d) v (fun j => (one j).val) ∧
        exec (.qscale d a b k 0) s = .next (completed (raised false 0 (flagsOf 32 (s.curCtx.kreg k) one) (out v)))) ∧
    (∀ (t : BitVec 4) (f : FloatFmt), (t, f) ∈ [(0#4, FloatFmt.f32), (1#4, .bf16), (2#4, .f16)] → b.toNat < 4 → s.curCtx.handle = none →
      loading s b.toNat = [] → (s.curTile.table b.toNat).valid = true →
      let one (j : Nat) : FRes :=
        interp (s.curTile.table b.toNat) f s.curCtx.rm (drawsOf s s.curKey s.cur.ctx j) (elemOf (s.curCtx.vreg a) f.width j)
      ∃ v, lanes f.width (s.curCtx.kreg k) (s.curCtx.vreg d) v (fun j => (one j).val) ∧
        exec (.tinterp d a b k t) s = .next (completed (raised true s.curCtx.rm (flagsOf f.width (s.curCtx.kreg k) one) (out v))))

/-- The table loads, the interpolation and the quantisation, in five parts. That TINTERP advances the draw counter under STO whatever its elements are,
that a type is looked at before the slot, and that an exact zero between the steps takes its sign as R54 gives it, is the model's reading or choice (log
entries 15, 17 and 71). -/
def Obligations.TableResults : Prop :=
  TableLoads ∧ InterpolationStep ∧ TableInterpolation ∧ QuantisationResults ∧ TableFormsComplete

/-! ### Streams (R160 to R164) -/

/-- SBIND binds v24 to v31, where neither the register nor the entry is in use, to a ring of 1 to 4,096 slots of the own scratchpad, or
to the lowest free copy port; SUNBIND frees the entry and the port; SSTAT reports the binding, and as AVAIL the groups
that a copy port holds, or the slots in a row from POS that a pop or a push of the ring could take, up to 8 (R161, R163, R164). -/
def Obligations.StreamBinding : Prop :=
  (∀ (s : State) (d a b : BitVec 5) (e : BitVec 3) (o : Nat), let u := (started s).s
    let p := s.curCtx.sreg a
    let m := (s.curCtx.sreg b).toNat
    24 ≤ d.toNat → boundTo s.curCtx d = none → (s.curTile.desc e.toNat).inUse = false → fmtOk p = true →
    (∃ die, resolveDie u s.curKey p = some die ∧ spotFor u die s.curKey (ptrOff p) = .spad s.curKey o) → ptrOff p % 64 = 0 →
    1 ≤ m → m ≤ 4096 → (∀ i < m, regionOf u s.curKey false (o + 64 * i) = .kept ∨ regionOf u s.curKey false (o + 64 * i) = .transit) →
    ∀ out : Bool, let x : StreamDesc :=
        { base := p, slots := BitVec.ofNat 32 m, pos := 0, inUse := true, copy := false, out := out, owner := s.cur.ctx, port := 0 }
      let t := u.modIo s.curKey (fun io => { io with descs := io.descs.setIfInBounds e.toNat x })
      let r := t.modCur (fun c => { c with binds := c.binds.setIfInBounds (d.toNat - 24) (1#1 ++ e) })
      exec (if out then .sbindOut d a b e else .sbindIn d a b e) s = .next (completed { s := r })) ∧
  (∀ (s : State) (d : BitVec 5) (e : BitVec 3) (p : Nat), 24 ≤ d.toNat → boundTo s.curCtx d = none →
    (s.curTile.desc e.toNat).inUse = false →
    let uses (f q : Nat) : Prop := (s.curTile.desc f).inUse = true ∧ (s.curTile.desc f).copy = true ∧ (s.curTile.desc f).port = q
    p < 2 → (∀ f < 8, ¬ uses f p) → (p = 1 → ∃ f < 8, uses f 0) →
    let x : StreamDesc :=
      { base := 0, slots := 0, pos := 0, inUse := true, copy := true, out := false, owner := s.cur.ctx, port := p }
    let u := (started s).s.modIo s.curKey (fun io => { io with ports := io.ports.setIfInBounds p {} })
    let t := u.modIo s.curKey (fun io => { io with descs := io.descs.setIfInBounds e.toNat x })
    let r := t.modCur (fun c => { c with binds := c.binds.setIfInBounds (d.toNat - 24) (1#1 ++ e) })
    exec (.sbindCopy d e) s = .next (completed { s := r })) ∧
  (∀ (s : State) (d : BitVec 5), 24 ≤ d.toNat →
    (boundTo s.curCtx d = none → exec (.sunbind d) s = .next (completed (started s))) ∧
    (∀ e, boundTo s.curCtx d = some e → s.cur.ctx < 11 → ∃ t, exec (.sunbind d) s = .next t ∧
      boundTo t.curCtx d = none ∧ (t.curTile.desc e).inUse = false ∧ t.curCtx.v = s.curCtx.v ∧
      ((s.curTile.desc e).copy = true → (s.curTile.desc e).port < 2 → (t.curTile.port (s.curTile.desc e).port).groups = []))) ∧
  (∀ (s : State) (d a : BitVec 5), 24 ≤ a.toNat → ∃ v : Word,
    exec (.sstat d a) s = .next (completed { s := (started s).s.modCur (fun x => x.setS d v) }) ∧
    (boundTo s.curCtx a = none → v = 0) ∧ (∀ e, boundTo s.curCtx a = some e →
      let x := s.curTile.desc e
      v.getLsbD 0 = true ∧ v.getLsbD 4 = x.out ∧ v.getLsbD 5 = x.copy ∧ (v.extractLsb' 8 3).toNat = e ∧ (v.extractLsb' 16 4).toNat ≤ 8 ∧
      (x.copy = true → (v.extractLsb' 16 4).toNat = min 8 (s.curTile.port x.port).groups.length ∧
        v.getLsbD 11 = exhausted s.curTile x 0) ∧
      (x.copy = false → v.getLsbD 11 = false ∧
        let n := (v.extractLsb' 16 4).toNat
        n ≤ min 8 x.slots.toNat ∧ (∀ i < n, slotAll s (x.slotOff i) (!x.out) = true) ∧
        (n < min 8 x.slots.toNat → slotAll s (x.slotOff n) (!x.out) = false))))

/-! ### Loads and stores (R165 to R174) -/

/-- LD gives its 1, 2, 4 or 8 bytes, lowest address lowest, extended by sign or by zeros; LDV fills a vector from 64 bytes. The .acq forms
have no displacement and check their scope entry first (R171 to R173). -/
def Sys2Proof.Claims.LoadResults : Prop :=
  ∀ (s s1 : State) (d b e : BitVec 5) (bs : List Byte), let p := s.curCtx.sreg b
    (∀ (f : BitVec 3) (i : BitVec 12), f ≠ 7 →
      let n : Nat := 2 ^ (f.toNat % 4)
      let v : Word := if f.toNat < 4 then (BitVec.ofNat (8 * n) (natOfBytes bs)).setWidth 64
        else (BitVec.ofNat (8 * n) (natOfBytes bs)).signExtend 64
      let done : State := completed { s := s1.modCur (fun x => x.setS d v) }
      bs.length = n →
      (readAcc (self s) (accAt p (n * i.toInt) n n .load) (started s).s = .ok bs s1 → exec (.ld d b f i) s = .next done) ∧
      (readAcc (self s) (accAt p 0 n n .load) (started s).s = .ok bs s1 → scopeOk s s.curKey s.cur.ctx e = true →
        exec (.ldAcq d b f e) s = .next done)) ∧
    (∀ (n : BitVec 1) (i : BitVec 12) (v : Vec) (w : Work), bs.length = 64 → (∀ j < 64, v.extractLsb' (8 * j) 8 = bs.getD j 0) →
      roomV d (started s) = .ok () (started s) → dstV d v { s := s1 } = .ok () w →
      (checkDirs [] [d] (wordOf (.ldv d b n i)) (started s) = .ok () (started s) →
        readAcc (self s) (accAt p (64 * i.toInt) 64 4 .load) (started s).s = .ok bs s1 →
        ends (exec (.ldv d b n i) s) s w) ∧
      (checkDirs [] [d] (wordOf (.ldvAcq d b n e)) (started s) = .ok () (started s) → scopeOk s s.curKey s.cur.ctx e = true →
        readAcc (self s) (accAt p 0 64 4 .load) (started s).s = .ok bs s1 →
        ends (exec (.ldvAcq d b n e) s) s w))

/-- ST writes the low 1, 2, 4 or 8 bytes of S[d], STV the 64 bytes of its vector, lowest byte at the lowest address; the .rel forms have no
displacement and check their scope entry first (R171 to R173). -/
def Sys2Proof.Claims.StoreResults : Prop :=
  ∀ (s : State) (d b e : BitVec 5) (n : BitVec 1), let p := s.curCtx.sreg b
    (∀ (c : BitVec 2) (i : BitVec 12) (s1 : State), let m : Nat := 2 ^ c.toNat
      (writeAcc (self s) (accAt p (m * i.toInt) m m .store) (bytesLE m (s.curCtx.sreg d)) (started s).s = .ok () s1 →
        exec (.st d b n c i) s = .next (completed { s := s1 })) ∧
      (writeAcc (self s) (accAt p 0 m m .store) (bytesLE m (s.curCtx.sreg d)) (started s).s = .ok () s1 →
        scopeOk s s.curKey s.cur.ctx e = true →
        exec (.stRel d b n c e) s = .next (completed { s := s1 }))) ∧
    (∀ (i : BitVec 12) (v : Vec) (w : Work) (s1 : State),
      (checkDirs [d] [] (wordOf (.stv d b n i)) (started s) = .ok () (started s) →
        srcV d (wordOf (.stv d b n i)) (started s) = .ok v w →
        writeAcc (self s) (accAt p (64 * i.toInt) 64 4 .store) (bytesLE 64 v) w.s = .ok () s1 →
        ends (exec (.stv d b n i) s) s { w with s := s1 }) ∧
      (checkDirs [d] [] (wordOf (.stvRel d b n e)) (started s) = .ok () (started s) → scopeOk s s.curKey s.cur.ctx e = true →
        srcV d (wordOf (.stvRel d b n e)) (started s) = .ok v w →
        writeAcc (self s) (accAt p 0 64 4 .store) (bytesLE 64 v) w.s = .ok () s1 →
        ends (exec (.stvRel d b n e) s) s { w with s := s1 }))

/-- The scalar and the vector loads and stores. -/
def Obligations.LoadAndStoreResults : Prop := LoadResults ∧ StoreResults

/-- LDVS and STVS access one element of 8 to 64 bits for each lane, in order, at S[a] plus the lane's number times the signed bytes in
S[b]; the register must not be bound (R174). -/
def Sys2Proof.Claims.StridedResults : Prop :=
  ∀ (s s1 : State) (d a b e : BitVec 5) (t : BitVec 4) (ty : ElemTy), (t, ty) ∈ typeCodes → boundTo s.curCtx d = none →
    s.curCtx.replay = none →
    let w := ty.width
    let at' (kind : AccKind) (v : Vec) (j : Nat) : Acc :=
      { accAt (s.curCtx.sreg a) (j * (s.curCtx.sreg b).toInt) (w / 8) (w / 8) kind with
        contig := false, elem := j, solo := false, data := BitVec.ofNat 64 (elemOf v w j) }
    (∀ (val : Nat → List Byte) (v : Vec), (∀ j < 512 / w, (val j).length = w / 8 ∧ elemOf v w j = natOfBytes (val j)) →
      readsAll (elemRead s (at' .load 0)) val (List.range (512 / w)) (started s).s s1 →
      let done : State := completed { s := s1.modCur (fun x => x.setV d v) }
      exec (.ldvs d a b t) s = .next done ∧ (scopeOk s s.curKey s.cur.ctx e = true → exec (.ldvsAcq d a b e t) s = .next done)) ∧
    (writesAll (elemWrite s (at' .store (s.curCtx.vreg d)) (fun j => bytesLE (w / 8) ((s.curCtx.vreg d).extractLsb' (w * j) w)))
        (List.range (512 / w)) (started s).s s1 →
      exec (.stvs d a b t) s = .next (completed { s := s1 }) ∧
      (scopeOk s s.curKey s.cur.ctx e = true →
        exec (.stvsRel d a b e t) s = .next (completed { s := s1 })))

/-- GATH and SCAT access the active elements in order, at the base moved by the scaled index, or, with s0 as base, at the fat pointers
that the index vector holds; lanes that have no index become zero, and inactive lanes keep their value (R175 to R178). -/
def Sys2Proof.Claims.GatherAndScatterResults : Prop :=
  ∀ (s s1 : State) (d b x : BitVec 5) (k : BitVec 3) (i : BitVec 2) (g : BitVec 1) (c : BitVec 3) (z : BitVec 2) (idx : Vec),
    (b ≠ 0 ∨ (i = 3 ∧ g = 0 ∧ c = 0)) → s.curCtx.replay = none →
    let size : Nat := 2 ^ z.toNat
    let iw : Nat := 8 * 2 ^ i.toNat
    let n := min (64 / size) (512 / iw)
    let p := s.curCtx.kreg k
    let ix (j : Nat) : Int := if g = 1 then (BitVec.ofNat iw (elemOf idx iw j)).toInt else elemOf idx iw j
    let at' (kind : AccKind) (v : Vec) (j : Nat) : Acc :=
      { (if b = 0 then accAt (BitVec.ofNat 64 (elemOf idx 64 j)) 0 size size kind
          else accAt (s.curCtx.sreg b) (ix j * 2 ^ c.toNat) size size kind) with
        contig := false, elem := j, solo := false, data := BitVec.ofNat 64 (elemOf v (8 * size) j) }
    let act := (List.range n).filter (fun j => activeElem p (8 * size) j)
    (∀ (old v : Vec) (w1 w2 : Work) (val : Nat → List Byte),
      checkDirs [x] [d] (wordOf (.gath d b x k i g c z)) (started s) = .ok () (started s) →
      srcV x (wordOf (.gath d b x k i g c z)) (started s) = .ok idx w1 → roomV d w1 = .ok () w1 → oldV d w1 = .ok old w1 →
      (∀ j, (val j).length = size) → readsAll (elemRead s (at' .load 0)) val act w1.s s1 →
      (∀ j < 64 / size, elemOf v (8 * size) j = if n ≤ j then 0
        else if activeElem p (8 * size) j then natOfBytes (val j) else elemOf old (8 * size) j) →
      dstV d v { w1 with s := s1 } = .ok () w2 → ends (exec (.gath d b x k i g c z) s) s w2) ∧
    (∀ (v : Vec) (w1 w2 : Work), checkDirs [d, x] [] (wordOf (.scat d b x k i g c z)) (started s) = .ok () (started s) →
      srcV d (wordOf (.scat d b x k i g c z)) (started s) = .ok v w1 → srcV x (wordOf (.scat d b x k i g c z)) w1 = .ok idx w2 →
      writesAll (elemWrite s (at' .store v) (fun j => bytesLE size (v.extractLsb' (8 * size * j) (8 * size)))) act w2.s s1 →
      ends (exec (.scat d b x k i g c z) s) s { w2 with s := s1 })

/-- Accesses of a vector with a stride, or with an index for each element. -/
def Obligations.StridedAndIndexedResults : Prop := StridedResults ∧ GatherAndScatterResults

/-- The checks that come before an access: an unusable format code or block traps ILLFMT, an offset that leaves the die's 2^40 bytes
PTROVF, an address that the size does not divide MISALIGN, and an address that the offset map leaves out NOMEM (R166, R297). TVAL is the pointer with the
displacement, but for PTROVF, which has the base; that ILLFMT has the base too where the displacement leaves the die is the model's choice (log entry 72). -/
def Obligations.AccessTraps : Prop :=
  ∀ (s : State) (d b : BitVec 5) (f : BitVec 3) (n : BitVec 1) (c : BitVec 2) (i : BitVec 12), f ≠ 7 → let p := s.curCtx.sreg b
    ∀ x ∈ [(Instr.ld d b f i, 2 ^ (f.toNat % 4)), (.st d b n c i, 2 ^ c.toNat)],
      let o : Int := ptrOff p + x.2 * i.toInt
      let traps (cause : Cause) (v : Word) : Prop := exec x.1 s = .next (takeTrap (settled (started s).s) cause v)
      (ptrFmt p > 10 ∨ (ptrFmt p = 8 ∧ ptrBlk p ≠ 4) ∨ (ptrFmt p ≠ 8 ∧ ptrBlk p ≠ 0) →
        traps .illfmt (if 0 ≤ o ∧ o < 2 ^ 40 then ptrWithOff p o.toNat else p)) ∧
      (fmtOk p = true → o < 0 ∨ 2 ^ 40 ≤ o → traps .ptrovf p) ∧
      (fmtOk p = true → 0 ≤ o → o < 2 ^ 40 → o % x.2 ≠ 0 → o + x.2 ≤ 2 ^ 40 → traps .misalign (ptrWithOff p o.toNat)) ∧
      (fmtOk p = true → ptrDie p = 0xFFFF → 0x4000000000 ≤ o → o < 0x8000000000 →
        o % x.2 = 0 → traps .nomem (ptrWithOff p o.toNat))

/-- An access reads what was last written: in the own scratchpad or vault, in transit memory or in the local delta of a kept line, the bytes
written are read back at their addresses, and every other byte of the own scratchpad and vault reads as before (R7, R247, R270). -/
def Obligations.OwnMemoryReadsBack : Prop :=
  ∀ (s t : State) (k off : Nat) (vault : Bool) (bs : List Byte), s.mem.wf = true →
    off + bs.length ≤ (if vault then 0x1A0000 else 0x5F000) →
    ((∀ i < bs.length, regionOf s k vault (off + i) = .kept) ∨
      (∀ i < bs.length, regionOf s k vault (off + i) = .transit ∧
        Map.get? (s.tile k).step.locals (lineOf vault (off + i)) = none)) →
    writeTile k k vault off bs s = .ok () t →
    (∀ i < bs.length, tileByte t k k vault (off + i) = bs.getD i 0) ∧
    (∀ x < 0x60000, (vault = true ∨ x < off ∨ off + bs.length ≤ x) → tileByte t k k false x = tileByte s k k false x) ∧
    (∀ x < 0x1A0000, (vault = false ∨ x < off ∨ off + bs.length ≤ x) → tileByte t k k true x = tileByte s k k true x)

/-- The bytes of sectors that a piece writes only in part, and that another key than the requester's has encrypted (R318). -/
def Sys2Proof.Claims.pieceSpoilt (s : State) : Piece → List Nat
  | .hbm die hpa n _ => ((sectorsOf hpa n).filter (fun c => (s.die die).foreign (keyOf s (self s) die) c &&
      !decide (hpa ≤ c * 32 ∧ c * 32 + 32 ≤ hpa + n))).flatMap (fun c => (List.range 32).map (fun i => hbmKey die (c * 32 + i)))
  | .tile _ _ _ _ | .host _ _ _ | .shard _ => []

/-- A store changes no byte but those it stores to, and the rest of a sector that it writes in part where another key has encrypted it. Where its address
resolves to the pieces `ps`, in state `s0`, and the instruction answers a next state, every other byte of memory reads as in `s0` or as before, and every
other byte of host memory as before; a kept line's bytes stand in its deltas, so its retained bytes read as before too. Of memory `s0` differs from `s` only
by the drafts that the store makes of policy pages: where it stores to none, not at all. A store of another tile to a pair reaches both copies, and
a store from a bound register pops its ring, whose bytes stay (R162, R168, R270, R271, R318, R376, R416). -/
def Sys2Proof.Claims.StoreFrame : Prop :=
  ∀ (s s0 t : State) (d b e : BitVec 5) (n : BitVec 1) (c : BitVec 2) (i : BitVec 12), let p := s.curCtx.sreg b
    let m : Nat := 2 ^ c.toNat
    ∀ x ∈ [(Instr.st d b n c i, accAt p (m * i.toInt) m m .store), (.stRel d b n c e, accAt p 0 m m .store),
        (.stv d b n i, accAt p (64 * i.toInt) 64 4 .store), (.stvRel d b n e, accAt p 0 64 4 .store)],
      ∀ ps, resolve (self s) x.2 (started s).s = .ok ps s0 → exec x.1 s = .next t →
      (∀ a, a ∉ ps.flatMap (pieceKeys s s.curKey) → a ∉ ps.flatMap (pieceSpoilt s0) →
        Memory.read t.mem a = Memory.read s0.mem a ∨ Memory.read t.mem a = Memory.read s.mem a) ∧
      (∀ a, a ∉ ps.flatMap pieceHost → Memory.read t.hostMem a = Memory.read s.hostMem a) ∧
      ((∀ q ∈ ps, notPolicy q) → s0.mem = s.mem)

/-- The translation of an access that is permitted changes memory only where a write by a partition of the learner's finds a policy page without a draft:
then only in the frame that becomes the draft, in the descriptor's DRAFT field and in the group's count of free frames. It never changes host memory
(R374 to R376). -/
def Sys2Proof.Claims.DraftFrame : Prop :=
  ∀ (s s' : State) (q : TrReq) (a : Nat) (l : Leaf), s.mem.wf = true → translate s q a = (s', .ok l) → s'.hostMem = s.hostMem ∧
    ∀ x, Memory.read s'.mem x ≠ Memory.read s.mem x → q.write = true ∧ q.host = false ∧
      ∃ (l0 : Leaf) (pd gd hpa : Nat), walk s q a = .ok l0 ∧ l0.policy = true ∧ l0.home = .hbm pd ∧ l.home = .hbm hpa ∧
        bits (readAt s q.die pd 8) 21 17 = 0 ∧ groupDesc s q.die (readAt s q.die (pd + 40) 1) = some gd ∧
        (hbmKey q.die (hpa - a % 2 ^ 21) ≤ x ∧ x < hbmKey q.die (hpa - a % 2 ^ 21) + 2 ^ 21 ∨
          hbmKey q.die pd ≤ x ∧ x < hbmKey q.die pd + 8 ∨ hbmKey q.die gd + 44 ≤ x ∧ x < hbmKey q.die gd + 48)

/-- An access that only reads leaves memory, host memory, full/empty bits, jobs, partitions, launches and modules; on a tile that is in no pair it leaves
every tile and every event in flight too, and of a die it changes only what the translation agent has cached and the count of corrected sectors (R168,
R172, R308, R317). -/
def Sys2Proof.Claims.ReadFrame : Prop :=
  ∀ (s t : State) (r : Requester) (a : Acc) (bs : List Byte), a.kind.writes = false → readAcc r a s = .ok bs t →
    t.mem = s.mem ∧ t.hostMem = s.hostMem ∧ t.full = s.full ∧ t.jobs = s.jobs ∧ t.parts = s.parts ∧ t.launches = s.launches ∧ t.modls = s.modls ∧
    ((s.tile r.tile).twin = none → t.tiles = s.tiles ∧ t.pending = s.pending ∧
      ∀ x, t.die x = { s.die x with kept := (t.die x).kept, corrected := (t.die x).corrected })

/-- What an access leaves as it was. -/
def Obligations.AccessFrames : Prop := StoreFrame ∧ DraftFrame ∧ ReadFrame

/-! ### Full/empty functions and atomics (R179 to R183) -/

/-- The full/empty functions on a word of tile memory: LDFE reads a full word and empties it, LDFF reads a full word, STE writes an empty
word and fills it, STF writes and fills, FEGET reads the bit and FESET writes it. LDFE, LDFF and STE wait at the word where the bit is
not what they need (R179, R180). That FESET on a kept word needs a line of the pool even where the bit has the value already is log 28 (DEDUCED). -/
def Sys2Proof.Claims.FullEmptyResults : Prop :=
  ∀ (s s1 : State) (d b : BitVec 5) (i : BitVec 13) (t o n : Nat),
    s.curTile.twin = none → (s1.tile t).twin = none → o % 4 = 0 →
    resolve (self s) (accAt (s.curCtx.sreg b) (4 * i.toInt) 4 4 .fe) s = .ok [.tile t false o n] s1 →
    feReady s1 (spadKey t o) = none →
    let full := feBit s1 s.curKey t o
    let word : Word := BitVec.ofNat 64 (natOfBytes ((List.range 4).map (fun j => tileByte s1 s.curKey t false (o + j))))
    let kept := regionOf s1 t false o = .kept
    let s2 := if kept then allocLocal s1 t (lineOf false o) else s1
    let gives (u : State) (v : Word) : State := completed { s := u.modCur (fun x => x.setS d v) }
    let waits (fn : BitVec 3) : State := enterWait (s1.modDie (tileDie t) (fun x =>
      { x with feQ := x.feQ ++ [(spadKey t o, s.curKey, s.cur.ctx)] })) (.fe (spadKey t o) fn d ((s.curCtx.sreg d).setWidth 32))
    (full = true → exec (.ldff d b i) s = .next (gives s1 word)) ∧
    exec (.feget d b i) s = .next (gives s1 (if full then 1 else 0)) ∧
    (full = false → exec (.ldfe d b i) s = .next (waits 0) ∧ exec (.ldff d b i) s = .next (waits 1)) ∧
    (full = true → exec (.ste d b i) s = .next (waits 2)) ∧
    ((kept → t = s.curKey ∧ (Map.get? (s1.tile t).step.locals (lineOf false o) ≠ none ∨ 0 < (s1.tile t).poolFree false)) →
      (full = true → exec (.ldfe d b i) s = .next (gives (setFe s2 t o false) word)) ∧
      exec (.feset d b i) s = .next (completed { s := setFe s2 t o ((s.curCtx.sreg d).getLsbD 0) }) ∧
      (∀ s3, writeTile s.curKey t false o (bytesLE 4 (s.curCtx.sreg d)) s2 = .ok () s3 →
        (full = false → exec (.ste d b i) s = .next (completed { s := setFe s3 t o true })) ∧
        exec (.stf d b i) s = .next (completed { s := setFe s3 t o true })))

/-- The atomics: S[d] receives the old value of 32 or 64 bits, extended by zeros, and memory the sum, the signed minimum or maximum, the AND,
OR or XOR with S[b], or S[b] itself; AMO.cas writes S[b] only where the old value equals S[d] (R182, R183). -/
def Sys2Proof.Claims.AtomicResults : Prop :=
  amoGives .amoAdd (fun _ x y _ => some (x + y)) ∧
  amoGives .amoMin (fun _ x y _ => some (if x.slt y then x else y)) ∧
  amoGives .amoMax (fun _ x y _ => some (if x.slt y then y else x)) ∧
  amoGives .amoAnd (fun _ x y _ => some (x &&& y)) ∧
  amoGives .amoOr (fun _ x y _ => some (x ||| y)) ∧
  amoGives .amoXor (fun _ x y _ => some (x ^^^ y)) ∧
  amoGives .amoSwap (fun _ _ y _ => some y) ∧
  amoGives .amoCas (fun _ x y c => if x = c then some y else none)

/-- Full and empty words, and the atomics. -/
def Obligations.SynchronisingAccessResults : Prop := FullEmptyResults ∧ AtomicResults


/-! ### Fences and seals (R184 to R186) -/

/-- The granules of a range, from state s to state t: each is translated in order to a page that is no policy page, `g i` being the granule of its
home (R185). -/
def Sys2Proof.Claims.granulesAre (r : Requester) (d off : Nat) (g : Nat → Nat) : List Nat → State → State → Prop
  | [], s, t => s = t
  | i :: l, s, t => ∃ u leaf, translate s { trReqOf s r d (off + 65536 * i) .load with sub := false } (off + 65536 * i) = (u, .ok leaf) ∧
      leaf.policy = false ∧ (match leaf.home with
        | .hbm hpa => hpa / 65536
        | .host port addr => hostGranule port addr) = g i ∧ granulesAre r d off g l u t

/-- FENCE of every kind completes once its scope entry is usable, since every earlier write has been performed; an unusable entry traps BADSCOPE.
SEAL and UNSEAL act on every granule of a range of whole pages of the HBM window; a length of 0 is ILLEGAL and a base or a length that no page divides
MISALIGN; a range in the window of an ADOPTED index is PERM. That a fence completes at once, every earlier write having been performed when its instruction
completed, that a granule that host memory backs is named by its host address, and that sealing is a write to a shard, is the model's choice or reading (log
entries 6, 26 and 47; R184, R185). -/
def Obligations.FencesAndSeals : Prop :=
  (∀ (s : State) (k : BitVec 2) (e : BitVec 5),
    (scopeOk s s.curKey s.cur.ctx e = true → exec (.fence k e) s = .next (completed (started s))) ∧
    (scopeOk s s.curKey s.cur.ctx e = false →
      exec (.fence k e) s = .next (takeTrap (settled (started s).s) .badscope (e.setWidth 64)))) ∧
  (∀ (s v : State) (a b : BitVec 5) (d : Nat) (wu : WorkUnit) (g : Nat → Nat), let p := s.curCtx.sreg a
    let n := (s.curCtx.sreg b).toNat
    let u := (started s).s
    n ≠ 0 → fmtOk p = true → ptrOff p % 2 ^ 21 = 0 → n % 2 ^ 21 = 0 → resolveDie u s.curKey p = some d →
    shardOf u s.curKey p = none → ptrOff p + n ≤ 0x4000000000 → s.curTile.work = some wu →
    granulesAre (self s) d (ptrOff p) g (List.range (n / 65536)) u v →
    ∀ on : Bool, ∃ t, exec (if on then .seal a b else .unseal a b) s = .next (completed { s := t }) ∧
      (∀ i < n / 65536, (t.die d).seals.contains (g i) = on) ∧
      (∀ x, (∀ i < n / 65536, g i ≠ x) → (t.die d).seals.contains x = (s.die d).seals.contains x) ∧
      (∀ y, y ≠ d → t.die y = s.die y) ∧ t.mem = s.mem ∧ t.hostMem = s.hostMem ∧ t.tiles = u.tiles) ∧
  (∀ (s : State) (a b : BitVec 5) (on : Bool), let p := s.curCtx.sreg a
    let i : Instr := if on then .seal a b else .unseal a b
    (s.curCtx.sreg b = 0 → exec i s = .next (takeTrap (settled (started s).s) .illegal ((wordOf i).setWidth 64))) ∧
    (s.curCtx.sreg b ≠ 0 → fmtOk p = true → ptrOff p % 2 ^ 21 ≠ 0 ∨ (s.curCtx.sreg b).toNat % 2 ^ 21 ≠ 0 →
      exec i s = .next (takeTrap (settled (started s).s) .misalign p)) ∧
    (s.curCtx.sreg b ≠ 0 → fmtOk p = true → ptrOff p % 2 ^ 21 = 0 → (s.curCtx.sreg b).toNat % 2 ^ 21 = 0 →
      (resolveDie (started s).s s.curKey p).isSome = true → (shardOf (started s).s s.curKey p).isSome = true → ptrOff p < 0x4000000000 →
      exec i s = .next (takeTrap (settled (started s).s) .perm p)))

/-! ### Groups (R187 to R192) -/

/-- ARRIVE: a member that has not arrived is counted, and S[d] receives the token of the key and the present phase; with its arrival the last
member ends the phase, whose number goes up by one, and pending joiners become members. A member that has arrived already waits.
WAITB and TESTB tell whether the token's group has left the token's phase, or is no more (R189, R190). -/
def Sys2Proof.Claims.GroupPhases : Prop :=
  (∀ (s : State) (d e : BitVec 5) (wu : WorkUnit) (g : Group), let key := ((s.curCtx.scopes[e.toNat]?).getD 0).toNat % 2 ^ 24
    let m := groupMember s.curKey s.cur.ctx
    5 ≤ e.toNat → s.curTile.work = some wu → scopeOk s s.curKey s.cur.ctx e = true →
    Map.get? (s.part wu.part).groups key = some g → g.joining.contains m = false → g.members.contains m = true →
    (g.arrived.contains m = true → exec (.arrive d e) s = .next (enterWait (started s).s .group)) ∧
    (g.arrived.contains m = false →
      let arrived := insertNat g.arrived m
      let after : Group := if g.members.all (fun c => arrived.contains c)
        then { phase := g.phase + 1, members := g.joining.foldl insertNat g.members, joining := [], arrived := [] }
        else { g with arrived := arrived }
      let u := (started s).s.modPart wu.part (fun x => { x with groups := Map.set x.groups key after })
      exec (.arrive d e) s = .next (completed { s := u.modCur (fun x => x.setS d (0#8 ++ BitVec.ofNat 24 key ++ g.phase)) }))) ∧
  (∀ (s : State) (d a : BitVec 5) (wu : WorkUnit), let v := s.curCtx.sreg a
    v.extractLsb' 56 8 = 0 → s.curTile.work = some wu →
    let there := match Map.get? (s.part wu.part).groups (v.extractLsb' 32 24).toNat with
      | some g => decide (g.phase = v.extractLsb' 0 32)
      | none => false
    exec (.testb d a) s = .next (completed { s := (started s).s.modCur (fun x => x.setS d (if there then 0 else 1)) }) ∧
    (there = false → exec (.waitb a) s = .next (completed (started s))) ∧
    (there = true → exec (.waitb a) s = .next (enterWait (started s).s .group)))

/-- JOIN gives 0 where the context has become a member at once, 1 where it joins with the next phase, 2 where the group table is full and 3
where it is a member or a joiner already; LEAVE gives 0, or 1 where the context is in no such group; a key of 0 or beyond 24 bits
is ILLEGAL. SCOPESET writes a scope entry from 5 on: a key of 0 makes it INVALID (R188, R191). -/
def Sys2Proof.Claims.GroupMembership : Prop :=
  (∀ (s : State) (d a : BitVec 5) (wu : WorkUnit), let key := (s.curCtx.sreg a).toNat
    let m := groupMember s.curKey s.cur.ctx
    let gs := (s.part wu.part).groups
    let put (l : Map Group) : State := (started s).s.modPart wu.part (fun x => { x with groups := l })
    let gives (u : State) (v : Word) : Host.Outcome State Fault Refusal := .next (completed { s := u.modCur (fun x => x.setS d v) })
    s.curTile.work = some wu →
    (key = 0 ∨ 2 ^ 24 ≤ key →
      exec (.join d a) s = .next (takeTrap (settled (started s).s) .illegal ((wordOf (.join d a)).setWidth 64)) ∧
      exec (.leave d a) s = .next (takeTrap (settled (started s).s) .illegal ((wordOf (.leave d a)).setWidth 64))) ∧
    (0 < key → key < 2 ^ 24 →
      (Map.get? gs key = none → exec (.leave d a) s = gives (started s).s 1 ∧
        (gs.length < 1024 → exec (.join d a) s = gives (put (Map.set gs key { members := [m] })) 0) ∧
        (1024 ≤ gs.length → exec (.join d a) s = gives (started s).s 2)) ∧
      (∀ g, Map.get? gs key = some g →
        (g.members.contains m = true ∨ g.joining.contains m = true → exec (.join d a) s = gives (started s).s 3 ∧
          (∀ r, g.leave m = some r → exec (.leave d a) s = gives (put (Map.set gs key r)) 0) ∧
          (g.leave m = none → exec (.leave d a) s = gives (put (Map.erase gs key)) 0)) ∧
        (g.members.contains m = false → g.joining.contains m = false → exec (.leave d a) s = gives (started s).s 1 ∧
          (g.arrived = [] → exec (.join d a) s = gives (put (Map.set gs key { g with members := insertNat g.members m })) 0) ∧
          (g.arrived ≠ [] → exec (.join d a) s = gives (put (Map.set gs key { g with joining := insertNat g.joining m })) 1))))) ∧
  (∀ (s : State) (a e : BitVec 5), let v := s.curCtx.sreg a
    (5 ≤ e.toNat → v.toNat < 2 ^ 24 →
      let w : BitVec 32 := if v = 0 then 0 else 0x10000000#32 + v.setWidth 32
      exec (.scopeset a e) s = .next (completed
        { s := (started s).s.modCur (fun x => { x with scopes := x.scopes.setIfInBounds e.toNat w }) })) ∧
    (e.toNat < 5 ∨ 2 ^ 24 ≤ v.toNat →
      exec (.scopeset a e) s = .next (takeTrap (settled (started s).s) .illegal ((wordOf (.scopeset a e)).setWidth 64))))

/-- The group instructions: the phases of a group, and who belongs to it. -/
def Obligations.GroupResults : Prop := GroupPhases ∧ GroupMembership

/-! ### Rings and the inbox (R193 to R195) -/

/-- ENQ writes S[b] at the tail's slot and advances TAIL, and DEQ reads the head's slot and advances HEAD, where no earlier request waits;
with .try a full or an empty ring answers 1 at once, else the request waits at the queue controller (R194). -/
def Sys2Proof.Claims.RingResults : Prop :=
  ∀ (s s1 : State) (d a b : BitVec 5) (die block : Nat) (x : RingBlock), let p := s.curCtx.sreg a
    let v := s.curCtx.sreg b
    let gives (u : State) (r : BitVec 5) (v : Word) : State := u.modCur (fun z => z.setS r v)
    let queued (w : RingWaiter) : Host.Outcome State Fault Refusal :=
      .next (enterWait (s1.modDie (block / 2 ^ 40) (fun z => { z with waiters := z.waiters ++ [w] })) (.ring block))
    s.curTile.twin = none → openRing (self s) p s = .ok (die, block, x) s1 → ringReady s1 block = none →
    ((x.count = x.size → exec (.enq d a b 1) s = .next (completed { s := gives s1 d 1 }) ∧ exec (.enq d a b 0) s =
        queued { block := block, tile := s.curKey, ctx := s.cur.ctx, enq := true, ptr := p, value := v, d := d, b := b }) ∧
      (x.count ≠ x.size → ∀ (tr : BitVec 1) (s2 s3 : State),
        writeRaw (self s) (accAt x.base (8 * (x.tail % x.size)) 8 8 .amo) (bytesLE 8 v) s1 = .ok () s2 →
        writeRaw (self s) (accAt p 24 8 8 .amo) (bytesLE 8 (BitVec.ofNat 64 (x.tail + 1))) s2 = .ok () s3 →
        exec (.enq d a b tr) s = .next (completed { s := gives s3 d 0 }))) ∧
    (x.count = 0 → exec (.deq d a b 1) s = .next (completed { s := gives s1 b 1 }) ∧ exec (.deq d a 0 0) s =
      queued { block := block, tile := s.curKey, ctx := s.cur.ctx, enq := false, ptr := p, value := 0, d := d, b := 0 }) ∧
    (x.count ≠ 0 → ∀ (bs : List Byte) (s2 s3 : State),
      readRaw (self s) (accAt x.base (8 * (x.head % x.size)) 8 8 .load) s1 = .ok bs s2 →
      writeRaw (self s) (accAt p 16 8 8 .amo) (bytesLE 8 (BitVec.ofNat 64 (x.head + 1))) s2 = .ok () s3 →
      let y : Word := BitVec.ofNat 64 (natOfBytes bs)
      exec (.deq d a b 1) s = .next (completed { s := gives (gives s3 d y) b 0 }) ∧
      exec (.deq d a 0 0) s = .next (completed { s := gives s3 d y }))

/-- INBOXR removes the oldest entry and splits it over S[d] and S[b], INBOXP reads it and leaves it; on an empty inbox INBOXR.try gives
zeros and the others wait; the same register for both halves, but for s0, is ILLEGAL (R195). -/
def Sys2Proof.Claims.InboxResults : Prop :=
  ∀ (s : State) (d b : BitVec 5) (t : BitVec 1), (d ≠ b ∨ d = 0) →
    let u := (started s).s
    let gives (u : State) (e : BitVec 128) : State :=
      (u.modCur (fun x => x.setS d (e.extractLsb' 0 64))).modCur (fun x => x.setS b (e.extractLsb' 64 64))
    (∀ e l, s.curTile.io.inbox = e :: l →
      exec (.inboxr d b t) s = .next (completed { s := gives (u.modIo s.curKey (fun io => { io with inbox := l })) e }) ∧
      exec (.inboxp d b) s = .next (completed { s := gives u e })) ∧
    (s.curTile.io.inbox = [] → exec (.inboxr d b 1) s = .next (completed { s := gives u 0 }) ∧
      exec (.inboxr d b 0) s = .next (enterWait u .inbox) ∧ exec (.inboxp d b) s = .next (enterWait u .inbox)) ∧
    (d ≠ 0 → exec (.inboxr d d t) s = .next (takeTrap (settled u) .illegal ((wordOf (.inboxr d d t)).setWidth 64)) ∧
      exec (.inboxp d d) s = .next (takeTrap (settled u) .illegal ((wordOf (.inboxp d d)).setWidth 64)))

/-- Rings in memory, and the inbox of a tile. -/
def Obligations.RingAndInboxResults : Prop := RingResults ∧ InboxResults


/-! ### Supersteps and tasks (R131, R132, R196 to R203) -/

/-- SSB, SSVOTE and HALT. On a quiet tile of a CON unit that is in no pair, SSB and the control context's HALT send the tile's record to its die's node
and the context waits at the barrier; SSB carries its operand, its rop and a vote that is 1 where S[a] is not zero or PEND is set. A
helper's HALT leaves it IDLE; a WP or PAR unit's last HALT frees the tile (R131, R132, R196, R197, R281). -/
def Sys2Proof.Claims.SuperstepWords : Prop :=
  (∀ (s : State) (a b : BitVec 5) (r : BitVec 3) (u : WorkUnit), s.cur.ctx = 0 → s.curTile.work = some u → u.cls = 2 →
    s.curTile.twin = none → let k := s.curKey
    let vote (x : Bool) : BitVec 2 := if x ∨ s.curTile.step.pend = true then 1 else 0
    let sent (rec' : BitVec 128) (t : State) : Prop := t.pending = s.pending ++ [.barrierRecord u.part 0 (tileDie k) k rec'] ∧
      t.curTile.step.arrived = true ∧ t.curCtx.wait = some .barrier ∧ t.curCtx.pc = s.curCtx.pc ∧ t.curCtx.s = s.curCtx.s ∧ t.mem = s.mem
    (r.toNat < 5 → queueOf s.curCtx a = none → queueOf s.curCtx b = none →
      (tileQuiet s k = true → ∃ t, exec (.ssb a b r) s = .next t ∧
        sent (s.curCtx.sreg b ++ s.curTile.step.ssn ++ 1#26 ++ r ++ 0#1 ++ vote (s.curCtx.sreg a != 0)) t) ∧
      (tileQuiet s k = false → exec (.ssb a b r) s = .next (enterWait s (.ssb a b r)))) ∧
    (tileQuiet s k = true → ∃ t, exec .halt s = .next t ∧
      sent (0#64 ++ s.curTile.step.ssn ++ 0#26 ++ 0#3 ++ 0#1 ++ vote false) t ∧ t.curTile.step.halting = true) ∧
    (tileQuiet s k = false → exec .halt s = .next (enterWait s (.tokens 0xFF true)))) ∧
  (∀ (s : State) (a : BitVec 5) (x : Word) (w : Work), srcS a (started s) = .ok x w →
    exec (.ssvote a) s = .next (completed (if x = 0 then w
      else { w with s := w.s.modStep s.curKey (fun st => { st with pend := true }) }))) ∧
  (∀ s : State, 0 < s.cur.ctx → s.cur.ctx < 11 → (∀ o ∈ s.curTile.eng.mmas, o.ctx ≠ s.cur.ctx) →
    ∃ t, exec .halt s = .next t ∧ t.curCtx = {} ∧ t.mem = s.mem) ∧
  (∀ (s : State) (u : WorkUnit), s.cur.ctx = 0 → s.curTile.work = some u → u.cls ≠ 2 → s.curTile.twin = none →
    s.curTile.step.pend = false → tileQuiet s s.curKey = true → ∃ t, exec .halt s = .next t ∧ t.curTile.work = none ∧
      ∀ c, t.curTile.ctx c = {})

/-- PFL answers its status in S[d]; where it is OK the entry joins the list, PENDING, and its fetch starts (R198, R199, R290). -/
def Sys2Proof.Claims.PageFetchWords : Prop :=
  ∀ (s : State) (d a : BitVec 5) (p : Word) (bs : List Byte) (w1 w2 : Work), s.cur.ctx = 0 → srcS a (started s) = .ok p w1 →
    roomS d w1 = .ok () w1 → ownDesc p 32 w1 = .ok bs w1 →
    let st := s.curTile.step
    let e : StagingEntry := {
      id := 64 * st.ssn.toNat + st.fetchList.length, src := descPtr bs 0, dst := descPtr bs 8, len := descField bs 16 4
      rowb := descField bs 20 2, gather := bits (descField bs 22 2) 0 1 = 1, idx := descPtr bs 24, st := 0
      pc := s.curCtx.pc, waits := [], subreg := s.curTile.csr.subreg }
    let v := pflStatus s s.curKey bs e
    (v ≠ 0 → dstS d (BitVec.ofNat 64 v) w1 = .ok () w2 → exec (.pfl d a) s = .next (completed w2)) ∧
    (v = 0 →
      let u := (w1.s.modStep s.curKey (fun st => { st with fetchList := st.fetchList ++ [e] })).post
        (.stagingEntryComplete s.cur.die s.cur.tile e.id)
      dstS d 0 { w1 with s := u } = .ok () w2 → exec (.pfl d a) s = .next (completed w2))

/-- The barrier instructions of a superstep, and the page fetches issued within it. -/
def Obligations.SuperstepAndFetchWords : Prop := SuperstepWords ∧ PageFetchWords

/-- CONT writes the continuation record at its pointer, appends it, ready, to the records of the partition, and leaves the helper IDLE.
TRIG marks the superstep of a CON unit, and counts a WP or PAR unit that has not triggered. WAITP gives a bit for each selected producer
that has ended other than OK, once all have triggered or ended (R200 to R203). That a helper with an MMA in flight makes no record yet is log 23 (DEDUCED), and that the record
of a CONT at the end of a loop body holds the state after R119 log 18 (DEDUCED). -/
def Obligations.TaskWords : Prop :=
  (∀ (s s3 : State) (a b : BitVec 5) (p mask : Word) (u : WorkUnit) (w1 w2 : Work), let k := s.curKey
    let x := s.curCtx
    0 < s.cur.ctx → s.cur.ctx < 11 → srcS a (started s) = .ok p w1 → srcS b w1 = .ok mask w2 → x.handle = none → x.holdsBinding = false →
    inGroup s k s.cur.ctx = false → maskCount mask ≤ 16 → fmtOk p = true → ptrOff p % 64 = 0 → contPlace s k p = true →
    (∀ o ∈ s.curTile.eng.mmas, o.ctx ≠ s.cur.ctx) → s.idKey k = k → s.curTile.work = some u →
    (readyRecords (s.part u.part)).length < 4096 →
    let o := x.origin.getD { tile := k, ssn := s.curTile.step.ssn }
    let y := (goOn s).curCtx
    writeAcc (self s) (accAt p 0 (recordLen mask) 64 .store)
      (recordBytes y y.pc mask false o.ssn (tileId o.tile) (s.dieId o.tile)) w2.s = .ok () s3 →
    ∃ t, exec (.cont a b) s = .next t ∧ t.curCtx = {} ∧ t.mem = s3.mem ∧ .continuationResume u.part ∈ t.pending ∧
      (t.part u.part).records = (s3.part u.part).records ++
        [{ loc := plainPtr s k p, origin := o, ready := true, wait := none, frame := none, launch := u.launch }]) ∧
  (∀ (s : State) (u : WorkUnit), s.curTile.work = some u →
    (u.cls = 2 → exec .trig s = .next (completed { s := (started s).s.modStep s.curKey (fun st => { st with trig := true }) })) ∧
    (u.cls ≠ 2 → s.curTile.twin = none →
      (u.triggered = true → exec .trig s = .next (completed (started s))) ∧
      (u.triggered = false → ∃ t, exec .trig s = .next t ∧ t.curTile.work = some { u with triggered := true } ∧
        (Map.get? t.launches u.launch).map (fun l => l.trigCount) = (Map.get? s.launches u.launch).map (fun l => l.trigCount + 1)))) ∧
  (∀ (s : State) (d a : BitVec 5) (v r : Word) (u : WorkUnit) (w1 w2 : Work), srcS a (started s) = .ok v w1 →
    roomS d w1 = .ok () w1 → v.toNat < 16 → s.curTile.work = some u →
    let open' (i : Nat) : Bool := match producer s u i with
      | some id => v.getLsbD i && !launchDone s id
      | none => false
    ((∃ i < 4, open' i = true) → exec (.waitp d a) s = .next (enterWait w1.s .producers)) ∧
    ((∀ i < 4, open' i = false) → (∀ i < 64, r.getLsbD i = (decide (i < 4) && v.getLsbD i && match producer s u i with
        | some id => launchFailed s id
        | none => false)) →
      dstS d r w1 = .ok () w2 → exec (.waitp d a) s = .next (completed w2)))

/-! ### The matrix unit, accumulators and the epilogue engine (R208 to R220) -/

/-- What `f` gives of the MMA of the issuing context that waits for its operands. -/
def Sys2Proof.Claims.setWaiting (f : MmaOp → MmaOp) (s : State) : State :=
  s.modEng s.curKey (fun e => { e with mmas := e.mmas.map (fun o => if o.ctx = s.cur.ctx ∧ o.fetched = false then f o else o) })

/-- MMA: with a pair of types that the unit has, its slot is in use and it holds the next sequence number and its place among the MMAs in flight from its
issue on; its operands are then read, B first and then the rows of A, and with all of them it can complete. It waits while its slot is queued or draining,
and while an earlier MMA has not its operands. A pair that the unit has not is UNIMPL (R208 to R211). -/
def Sys2Proof.Claims.MatrixIssue : Prop :=
  ∀ (s : State) (sl : BitVec 3) (pa pb : BitVec 5) (t u : BitVec 4) (c : BitVec 2) (m : BitVec 3),
    pa.getLsbD 0 = false → pb.getLsbD 0 = false → 1 ≤ t.toNat → t.toNat ≤ 10 → 1 ≤ u.toNat → u.toNat ≤ 10 → c.toNat < 2 → m.toNat < 4 →
    (t = 7 ∨ t = 8 → m.getLsbD 0 = false) → let i := Instr.mma sl pa pb t u c m
    (mmaPair t.toNat u.toNat = none → exec i s = .next (takeTrap (settled (started s).s) .unimpl (0x1FE0#32 ++ wordOf i))) ∧
    (∀ (k : Nat) (i32 : Bool), mmaPair t.toNat u.toNat = some (k, i32) → (u = 7 ∨ u = 8 → m.getLsbD 1 = false) → s.curCtx.handle = none →
      let a := s.curCtx.sreg pa
      let b := s.curCtx.sreg pb
      fmtOk a = true → (ptrFmt a = 0 ∨ ptrFmt a = t.toNat) → fmtOk b = true → (ptrFmt b = 0 ∨ ptrFmt b = u.toNat) →
      (∀ o ∈ s.curTile.eng.mmas, o.ctx = s.cur.ctx → o.fetched = true) →
      ((s.curTile.eng.slot sl.toNat).handed = true → exec i s = .next (enterWait (started s).s .issue)) ∧
      ((s.curTile.eng.slot sl.toNat).handed = false →
        let seq := if s.curTile.eng.mseq = 0xFFFFFFFE then 1 else s.curTile.eng.mseq + 1
        let r0 := s.curCtx.mmaRow.getD 0
        let o : MmaOp := { ctx := s.cur.ctx, seq := seq, slot := sl.toNat, ta := t, tb := u, overwrite := c = 1, row0 := r0, row1 := r0
                           a := [], b := [], fetched := false }
        let s1 := (started s).s.modEng s.curKey (fun e =>
          { e.setSlot sl.toNat { e.slot sl.toNat with st := .mma } with mseq := seq, mmas := e.mmas ++ [o] })
        ((∃ o ∈ s.curTile.eng.mmas, o.fetched = false) → exec i s = .next (enterWait s1 .issue)) ∧
        (∀ (cols rows : List (List (BitVec 16))) (w2 w3 : Work), (∀ o ∈ s.curTile.eng.mmas, o.fetched = true) →
          fetchB b (s.curCtx.sreg (pb + 1)) u.toNat k (m.getLsbD 1)
            { s := setWaiting (fun o => { o with a := [], b := [], row1 := r0 }) s1 } = .ok cols w2 →
          fetchA a (w2.s.curCtx.sreg (pa + 1)) t.toNat k r0 (m.getLsbD 0) w2 = .ok (rows, none) w3 →
          let s3 := setWaiting (fun o => { o with a := rows, b := cols, row1 := max r0 (min 16 rows.length) }) w3.s
          let s4 := setWaiting (fun o => { o with fetched := true }) s3
          exec i s = .next (completed { w3 with s := s4.post (.mmaComplete s4.cur.die s4.cur.tile) }))))

/-- The accumulators. MWAIT waits for the MMAs to its slot; ACCRD reads a row of sixteen elements, ACCWR writes one and MZERO clears the
slot, where no MMA to it is in flight and it is not handed over, else they trap ACCBUSY with the slot and the oldest such MMA's number, or all ones; MNEXT hands the head's slot over with a null job, and the
engine starts where no job was queued (R214 to R216). -/
def Sys2Proof.Claims.AccumulatorResults : Prop :=
  ∀ (s : State) (sl : BitVec 3) (d : BitVec 5) (r : BitVec 4), let e := s.curTile.eng
    let u := (started s).s
    let x := e.slot sl.toNat
    ((∀ o ∈ e.mmas, o.slot ≠ sl.toNat) → exec (.mwait sl) s = .next (completed (started s))) ∧
    ((∃ o ∈ e.mmas, o.slot = sl.toNat) → exec (.mwait sl) s = .next (enterWait u .issue)) ∧
    ((∀ o ∈ e.mmas, o.slot ≠ sl.toNat) → x.handed = false →
      (∀ v : Vec, boundTo s.curCtx d = none → (∀ n < 16, v.extractLsb' (32 * n) 32 = x.elem r.toNat n) →
        exec (.accrd d sl r) s = .next (completed { s := u.modCur (fun y => y.setV d v) })) ∧
      (boundTo s.curCtx d = none → ∃ y : AccSlot, y.st = x.st ∧
        (∀ m < 16, ∀ n < 16, y.elem m n = if m = r.toNat then (s.curCtx.vreg d).extractLsb' (32 * n) 32 else x.elem m n) ∧
        exec (.accwr d sl r) s = .next (completed { s := u.modEng s.curKey (fun e => e.setSlot sl.toNat y) })) ∧
      exec (.mzero sl) s = .next (completed { s := u.modEng s.curKey (fun e => e.setSlot sl.toNat { e.slot sl.toNat with elems := [] }) })) ∧
    (∀ i, (boundTo s.curCtx d = none ∧ i ∈ [Instr.accrd d sl r, .accwr d sl r]) ∨ i = .mzero sl →
      ((∀ o ∈ e.mmas, o.slot ≠ sl.toNat) → x.handed = true →
        exec i s = .next (takeTrap (settled u) .accbusy (0xFFFFFFFF#32 ++ sl.setWidth 32))) ∧
      (∀ o, e.mmas.find? (fun o => decide (o.slot = sl.toNat)) = some o →
        exec i s = .next (takeTrap (settled u) .accbusy (o.seq ++ sl.setWidth 32)))) ∧
    ((e.slot e.head.toNat).handed = false →
      let job : EpiJob := { slot := e.head.toNat, tok := none, cfg := 0, dst := 0, stride := 0, ctx := s.cur.ctx, rm := 0, draws := 0
                            pc := s.curCtx.pc, waits := [] }
      let t := u.modEng s.curKey (fun e => { e.setSlot e.head.toNat { e.slot e.head.toNat with st := .epiq } with
        head := e.head + 1, epiq := e.epiq ++ [job] })
      let t := if e.epiq = [] then t.post (.epiDrainStart s.cur.die s.cur.tile) else t
      exec .mnext s = .next (completed { s := t })) ∧
    ((e.slot e.head.toNat).handed = true → exec .mnext s = .next (enterWait u .issue))

/-- EPCFG loads a valid configuration, and traps ILLFMT on any other; EPI hands the head's slot over with its job and adds 1 to its token, and advances
the draw counter where it rounds under STO; an empty configuration is ILLEGAL, and so is a table slot that is not valid, once the TLOADs of it that other
contexts have issued have completed (R153, R217 to R219). -/
def Sys2Proof.Claims.EpilogueIssue : Prop :=
  (∀ (s s1 : State) (a : BitVec 5) (c : BitVec 2) (bs : List Byte), let p := s.curCtx.sreg a
    readAcc (self s) (accAt p 0 64 64 .load) (started s).s = .ok bs s1 → let x : BitVec 512 := BitVec.ofNat 512 (natOfBytes bs)
    let t := s1.modEng s.curKey (fun e => { e with epcfg := e.epcfg.setIfInBounds c.toNat (some x) })
    (epCfgOk x = true → exec (.epcfg a c) s = .next (completed { s := t })) ∧
    (epCfgOk x = false → exec (.epcfg a c) s = .next (takeTrap (settled s1) .illfmt p))) ∧
  (∀ (s : State) (a b : BitVec 5) (w : BitVec 3) (c : BitVec 2), let e := s.curTile.eng
    let u := (started s).s
    ((e.epcfg[c.toNat]?).getD none = none →
      exec (.epi a b w c) s = .next (takeTrap (settled u) .illegal ((wordOf (.epi a b w c)).setWidth 64))) ∧
    (∀ cfg t, (e.epcfg[c.toNat]?).getD none = some cfg → epTable cfg = some t → (s.curTile.table t).valid = false →
      (loading s t = [] → exec (.epi a b w c) s = .next (takeTrap (settled u) .illegal ((wordOf (.epi a b w c)).setWidth 64))) ∧
      (loading s t ≠ [] → exec (.epi a b w c) s = .next (enterWait u .issue))) ∧
    (∀ cfg, (e.epcfg[c.toNat]?).getD none = some cfg → let d := s.curCtx.sreg a
      (∀ t, epTable cfg = some t → (s.curTile.table t).valid = true) → fmtOk d = true → (ptrFmt d = 0 ∨ ptrFmt d = outFmt (epOut cfg)) →
      (∀ m < 16, checkForm (epiRow d (s.curCtx.sreg b) (epOut cfg) m .store) u = .ok () u) → s.curCtx.handle = none →
      e.count w.toNat ≠ 63 → (e.slot e.head.toNat).handed = false →
      let rm : BitVec 3 := if epD cfg then s.curCtx.rm else BitVec.ofNat 3 (epRM cfg)
      let job : EpiJob := { slot := e.head.toNat, tok := some w.toNat, cfg := cfg, dst := d, stride := s.curCtx.sreg b, ctx := s.cur.ctx
                            rm := rm, draws := s.curCtx.draws, pc := s.curCtx.pc, waits := [], subreg := s.curTile.csr.subreg
                            behind := ((epTable cfg).map (loading s)).getD [] }
      let t := u.modEng s.curKey (fun e => { e.setSlot e.head.toNat { e.slot e.head.toNat with st := .epiq } with
        head := e.head + 1, epiq := e.epiq ++ [job] })
      let t := if e.epiq = [] then t.post (.epiDrainStart s.cur.die s.cur.tile) else t
      let t := t.modEng s.curKey (fun e => { e with tok := e.tok.setIfInBounds w.toNat (e.count w.toNat + 1) })
      let t := if epOut cfg ≠ 7 ∧ rm = 4 then t.modCur (fun x => { x with draws := x.draws + 1 }) else t
      exec (.epi a b w c) s = .next (completed { s := t })))

/-- The matrix engine: what an MMA issues, the accumulator words, and what an epilogue issues. That an MMA holds its place among those in flight from its
issue on, while its operands are read, and that an EPI draws with its context's counter as it stood at the issue, is the model's reading (log entries 20, 15
and 16). -/
def Obligations.MatrixWords : Prop := MatrixIssue ∧ AccumulatorResults ∧ EpilogueIssue

/-! ### The copy engine (R221 to R227) and the network instructions (R236 to R240) -/

/-- COPY, COPY2D, COPYG and COPYR, issued by the control context with operands in range, while the engine holds fewer than 32 operations and the token
fewer than 63, add 1 to the token and leave the operation in flight; a copy of no bytes completes at once. WAITT, in any context, waits for its tokens
(R221 to R226). -/
def Obligations.CopyIssue : Prop :=
  (∀ (s : State) (d a b : BitVec 5) (w : BitVec 3), s.cur.ctx = 0 → s.curTile.eng.ops.length < 32 → s.curTile.eng.count w.toNat ≠ 63 →
    let u := (started s).s
    let id := s.curTile.eng.nextOp
    let src := s.curCtx.sreg a
    let dst := s.curCtx.sreg d
    let n := (s.curCtx.sreg b).toNat
    let inRange (p : Word) (n : Nat) (f : Nat) : Prop := fmtOk p = true ∧ (ptrFmt p = 0 ∨ f = 0 ∨ ptrFmt p = f) ∧ ptrOff p + n ≤ 2 ^ 40
    let runs (i : Instr) (t : State) : Prop := exec i s = .next (completed { s := t.post (.copyComplete s.cur.die s.cur.tile id) })
    let entry (n : Nat) (x : StreamDesc) : StreamDesc := { x with slots := BitVec.ofNat 32 ((n + 63) / 64) }
    let fed (n : Nat) (t : State) : State := t.modIo s.curKey (fun io =>
      { io with descs := io.descs.setIfInBounds (dst.toNat % 8) (entry n ((io.descs[dst.toNat % 8]?).getD {})) })
    let unfed : Prop := let x := s.curTile.desc (dst.toNat % 8)
      x.inUse = true ∧ x.copy = true ∧ x.slots = 0
    (inRange dst n 0 → inRange src n 0 → n = 0 → exec (.copy d a b w 0) s = .next (completed (started s))) ∧
    (0 < n → n < 2 ^ 32 → inRange src n 0 →
      (inRange dst n 0 → runs (.copy d a b w 0) (issued u { newOp s .copy w with regs := issueRegs s [d, a, b], sd := dst, sa := src, sb := BitVec.ofNat 64 n })) ∧
      (unfed → runs (.copy d a b w 1) (fed n (issued u
        { newOp s .copy w with regs := issueRegs s [d, a, b], stream := true, entry := dst.toNat % 8, sa := src, sb := BitVec.ofNat 64 n })))) ∧
    (∀ bs, ownDesc src 32 (started s) = .ok bs (started s) → let rows := descField bs 16 4
      let rowb := descField bs 20 4
      1 ≤ rows → rows ≤ 65535 → 1 ≤ rowb → rowb ≤ 2 ^ 24 → rows * rowb < 2 ^ 32 →
      rowsForm (descPtr bs 0) rows rowb (descInt bs 24) (started s) = .ok () (started s) →
      (rowsForm (descPtr bs 8) rows rowb (descInt bs 28) (started s) = .ok () (started s) →
        runs (.copy2d 0 a w 0) (issued u { newOp s .copy2d w with
          regs := issueRegs s [0, a], sd := descPtr bs 8, sa := descPtr bs 0, desc := BitVec.ofNat 512 (natOfBytes bs) })) ∧
      (unfed → descPtr bs 8 = 0 → runs (.copy2d d a w 1) (fed (rows * rowb) (issued u { newOp s .copy2d w with
        regs := issueRegs s [d, a], stream := true, entry := dst.toNat % 8, sd := 0, sa := descPtr bs 0, desc := BitVec.ofNat 512 (natOfBytes bs) })))) ∧
    (∀ bs, ownDesc src 32 (started s) = .ok bs (started s) → let c : BitVec 512 := BitVec.ofNat 512 (natOfBytes bs)
      let rowb := descField bs 24 2
      let rows := descField bs 28 4
      let z := if c.getLsbD 208 then 8 else 4
      bs.length = 32 → rowb % 4 = 0 → 4 ≤ rowb → rowb ≤ 32768 → 1 ≤ rows → rows ≤ 65536 → descField bs 26 2 < 2 →
      inRange (descPtr bs 8) (rowb * rows) 0 → inRange (descPtr bs 16) (z * rows) 0 → (c.getLsbD 208 = false → fmtOk (descPtr bs 0) = true) →
      ptrOff (descPtr bs 16) % z = 0 →
      (∃ die o, resolveDie s s.curKey (descPtr bs 16) = some die ∧ spotFor s die s.curKey (ptrOff (descPtr bs 16)) = .spad s.curKey o) →
      let t := issued u { newOp s .copyg w with regs := issueRegs s [0, a, b], desc := c, sa := descPtr bs 0, sd := descPtr bs 8, sb := s.curCtx.sreg b }
      let t := (List.range rows).foldl (fun t i => t.post (.gatherRowArrive s.cur.die s.cur.tile id i)) t
      exec (.copyg a b w) s = .next (completed { s := t })) ∧
    (∀ (o : BitVec 2) (y : BitVec 3) (f z : Nat), o ≠ 3 → (y.toNat, f, z) ∈ [(0, 1, 4), (1, 2, 2), (2, 3, 2), (3, 9, 4), (4, 10, 8)] →
      0 < n → n * z < 2 ^ 32 → inRange dst (n * z) f → inRange src (n * z) f → ptrOff dst % z = 0 → ptrOff src % z = 0 →
      runs (.copyr d a b w o y) (issued u { newOp s .copyr w with regs := issueRegs s [d, a, b], sd := dst, sa := src, sb := BitVec.ofNat 64 n, x := y ++ o }))) ∧
  (∀ (s : State) (m : BitVec 8),
    ((∀ i < 8, m.getLsbD i = true → s.curTile.eng.count i = 0) → exec (.waitt m) s = .next (completed (started s))) ∧
    ((∃ i < 8, m.getLsbD i = true ∧ s.curTile.eng.count i ≠ 0) →
      exec (.waitt m) s = .next (enterWait (started s).s (.tokens m false))))

/-- PUT and GET of 1 to 1,024 bytes, with the local side in the own tile's memory, leave an operation in flight; COLL sends the packet that its
descriptor describes; MSG holds its message, which names a tile of the job, until the commit (R236 to R240). -/
def Obligations.NetworkWords : Prop :=
  ∀ (s : State) (d a b : BitVec 5) (w : BitVec 3), s.curCtx.handle = none → let u := (started s).s
    let id := s.curTile.eng.nextOp
    let dst := s.curCtx.sreg d
    let src := s.curCtx.sreg a
    let n := (s.curCtx.sreg b).toNat
    let own (p : Word) : Prop := ∃ die o, resolveDie u s.curKey p = some die ∧
      (spotFor u die s.curKey (ptrOff p) = .spad s.curKey o ∨ spotFor u die s.curKey (ptrOff p) = .vault s.curKey o)
    let room : Prop := s.curTile.eng.ops.length < 32 ∧ s.curTile.eng.count w.toNat ≠ 63
    (room → 1 ≤ n → n ≤ 1024 → fmtOk dst = true → ptrOff dst + n ≤ 2 ^ 40 → fmtOk src = true → ptrOff src + n ≤ 2 ^ 40 →
      let begun (o : EngineOp) : State :=
        (issued u { o with regs := issueRegs s [d, a, b], sd := dst, sa := src, sb := BitVec.ofNat 64 n }).post (.copyComplete s.cur.die s.cur.tile id)
      let runs (i : Instr) (o : EngineOp) : Prop := exec i s = .next (completed { s := begun o })
      (own src → runs (.put d a b w) (newOp s .put w)) ∧ (own dst → runs (.get d a b w) (newOp s .get w))) ∧
    (room → s.curTile.twin = none → ∀ (bs data : List Byte) (s1 : State), ownDesc src 64 (started s) = .ok bs (started s) →
      collOk s s.curKey bs = true →
      readRaw { self s with engine := true } (accAt (descPtr bs 0) 0 (descField bs 16 4 * collSize (descField bs 20 1)) 1 .load) s
        = .ok data s1 → s1.curTile = s.curTile → s1.cur = s.cur →
      let t := issued s1 { newOp s .coll w with regs := issueRegs s [0, a], desc := BitVec.ofNat 512 (natOfBytes bs) }
      let t := arrivePkt t (tileDie s.curKey) (tileDie s.curKey % 8) (collPacket t s.curKey id bs data)
      exec (.coll a w) s = .next (completed { s := t })) ∧
    (∀ (die t : Nat) (wu : WorkUnit), fmtOk dst = true → (s.curCtx.sreg b).toNat < 2 ^ 16 → msgDie s s.curKey dst = some die →
      msgTarget s s.curKey dst die = some t → s.curTile.work = some wu → (t = s.curKey ∨ s.tileInJob t wu.job = true) →
      s.curTile.io.msgs.length < 64 →
      let m : HeldMsg := { src := s.curKey, tile := s.idKey t, tag := (s.curCtx.sreg b).setWidth 16, payload := src }
      exec (.msg d a b) s = .next (completed { s := u.modIo s.curKey (fun io => { io with msgs := io.msgs ++ [m] }) }))

/-! ### Helpers and bookings (R228 to R235) -/

/-- START begins the helper that it names, or the lowest free one: the helper is LIVE at its target, with its arguments in s1 and s2, the control
context's FRM and scopes and its live mask, and S[d] receives its number, or 0x0100 where there is none; START.B ties a helper to a booking
that has not begun. HWAIT waits for its helpers and gives a bit for each that is FAULTED (R228 to R231). -/
def Sys2Proof.Claims.HelperWords : Prop :=
  (∀ (s : State) (d a b : BitVec 5) (h n : BitVec 4) (u : WorkUnit) (p : Word) (w : Work), s.cur.ctx = 0 → s.curTile.work = some u →
    h.toNat ≤ 10 → h.toNat ≤ u.helpers → b.getLsbD 0 = false → queueOf s.curCtx d = none → queueOf s.curCtx b = none →
    srcS a (started s) = .ok p w → let mask := s.curCtx.sreg d
    let x := s.curCtx.sreg b
    let y := s.curCtx.sreg (b + 1)
    maskCount mask ≤ 16 → p.extractLsb' 56 8 = 0 → ptrOff p % 4 = 0 →
    let free (c : Nat) : Prop := 1 ≤ c ∧ c ≤ 10 ∧ c ≤ u.helpers ∧ (s.curTile.ctx c).st = .idle ∧ ∀ k ∈ s.curTile.csr.books.toList, k.tied ≠ some c
    let chosen (c : Nat) : Prop := free c ∧ (if h = 0 then ∀ j < c, ¬ free j else c = h.toNat)
    let gives (t : State) (v : Word) : Host.Outcome State Fault Refusal :=
      .next (completed { w with s := t.modCur (fun z => z.setS d v) })
    let e := s.curTile.book n.toNat
    ((∀ c, ¬ chosen c) → exec (.start d a b h) s = gives w.s 0x0100) ∧
    (∀ c, chosen c →
      let z : Ctx := { st := .live, pc := p, frm := s.curCtx.frm, scopes := s.curCtx.scopes, liveMask := mask }
      exec (.start d a b h) s = gives (w.s.setCtx s.curKey c ((z.setS 1 x).setS 2 y)) (BitVec.ofNat 64 c) ∧
      (e.stat = .booked → e.tied = none → s.curTile.csr.slot < e.start → exec (.startB d a b h n) s =
        gives (setBook w.s s.curKey n.toNat { e with tied := some c, pc := p, arg1 := x, arg2 := y, live := mask }) (BitVec.ofNat 64 c))) ∧
    (e.stat = .free ∨ e.stat = .running → exec (.startB d a b h n) s = gives w.s 0x0300) ∧
    (e.stat = .lapsed → exec (.startB d a b h n) s = gives w.s 0x0200) ∧
    (e.stat = .booked → e.tied ≠ none → exec (.startB d a b h n) s = gives w.s 0x0400)) ∧
  (∀ (s : State) (d a : BitVec 5) (m r : Word) (w1 w2 : Work), srcS a (started s) = .ok m w1 → roomS d w1 = .ok () w1 →
    m &&& ~~~0x7FE#64 = 0 → (s.cur.ctx ≠ 0 → m.getLsbD s.cur.ctx = false) →
    let busy (c : Nat) : Prop := (s.curTile.ctx c).st = .live ∨ ∃ k ∈ s.curTile.csr.books.toList, k.tied = some c
    ((∃ c < 11, m.getLsbD c = true ∧ busy c) → exec (.hwait d a) s = .next (enterWait w1.s (.helpers (m.setWidth 11)))) ∧
    ((∀ c < 11, m.getLsbD c = true → ¬ busy c) →
      (∀ c < 64, r.getLsbD c = (decide (c < 11) && m.getLsbD c && decide ((s.curTile.ctx c).st = .faulted))) →
      dstS d r w1 = .ok () w2 → exec (.hwait d a) s = .next (completed w2)))

/-- BOOK reserves the earliest window that its search finds under a FREE handle (which one is a free value); BOOKQ answers as BOOK and reserves nothing; UNBOOK
releases a BOOKED or LAPSED handle; CALQ reads what is booked in a slot, which its operand names by index or by offset, and any other operand is ILLEGAL (R232 to R235). -/
def Sys2Proof.Claims.BookingWords : Prop :=
  ∀ (s : State) (d a b : BitVec 5),
    (s.cur.ctx = 0 → ∀ (mask size : Word) (w1 w2 w3 : Work), srcS a (started s) = .ok mask w1 → srcS b w1 = .ok size w2 →
      roomS d w2 = .ok () w2 →
      let status (e : Nat) : Prop := bookSearch s s.curKey mask size = .error e
      let answer (h m : Nat) : Word := BitVec.ofNat 64 ((m - s.curTile.csr.slot) * 2 ^ 18 + m % 64 * 2 ^ 12 + h * 2 ^ 8)
      (∀ e, status e → dstS d (BitVec.ofNat 64 e) w2 = .ok () w3 →
        exec (.book d a b) s = .next (completed w3) ∧ exec (.bookq d a b) s = .next (completed w3)) ∧
      (∀ h m, bookSearch s s.curKey mask size = .ok (h, m) → (s.curTile.book h).stat = .free ∧
        (dstS d (answer 0 m) w2 = .ok () w3 → exec (.bookq d a b) s = .next (completed w3)) ∧
        (dstS d (answer h m) { w2 with s := setBook { w2.s with free := w2.s.free + 1 } s.curKey h { stat := .booked, mask := mask, size := size, start := m } }
          = .ok () w3 → exec (.book d a b) s = .next (completed w3)))) ∧
    (s.cur.ctx = 0 → ∀ (v : Word) (w1 w2 : Work), srcS a (started s) = .ok v w1 → v.toNat < 16 → roomS d w1 = .ok () w1 →
      let st := (s.curTile.book v.toNat).stat
      (st = .free → dstS d 1 w1 = .ok () w2 → exec (.unbook d a) s = .next (completed w2)) ∧
      (st = .running → dstS d 2 w1 = .ok () w2 → exec (.unbook d a) s = .next (completed w2)) ∧
      (st = .booked ∨ st = .lapsed → dstS d 0 { w1 with s := setBook w1.s s.curKey v.toNat {} } = .ok () w2 →
        exec (.unbook d a) s = .next (completed w2))) ∧
    (∀ (v r : Word) (n : Nat) (w1 w2 : Work), srcS a (started s) = .ok v w1 →
      let cur := s.curTile.csr.slot
      (v.toNat < 64 ∧ n = cur + (v.toNat + 64 - cur % 64) % 64 ∨ 128 ≤ v.toNat ∧ v.toNat ≤ 192 ∧ n = cur + (v.toNat - 128)) →
      let l := bookedIn s.curTile none n
      linkSum l < 2 ^ 24 → quarters l ≤ 4 →
      (∀ i < 24, r.getLsbD i = l.any (fun k => k.mask.getLsbD i)) → r.getLsbD 24 = decide (linkSum l ≠ 0) →
      (r.extractLsb' 25 7).toNat = quarters l - 1 → (r.extractLsb' 32 32).toNat = linkSum l →
      dstS d r w1 = .ok () w2 → exec (.calq d a) s = .next (completed w2)) ∧
    (∀ (v : Word) (w1 : Work), srcS a (started s) = .ok v w1 → (64 ≤ v.toNat ∧ v.toNat < 128 ∨ 192 < v.toNat) →
      exec (.calq d a) s = .next (takeTrap (settled w1.s) .illegal ((wordOf (.calq d a)).setWidth 64)))

/-- What the search of BOOK finds: a FREE handle, and the earliest window that begins at a later slot boundary, ends within the 64 slots, and is free
throughout; 3 for a bad request, else 2 with no FREE handle, else 1 with no such window. A free window shares no unit and no bank with a booking of the
tile, at most four vault quarters and 32,768 link bytes are booked in each slot of it, and the die slots that it overlaps have room in the partition's quota
(R232, R233, R337 to R339). That which FREE handle it is is not known, and how a die's slots lie beside a tile's, is the model's choice (log entries 13, 12). -/
def Sys2Proof.Claims.EarliestWindow : Prop :=
  ∀ (s : State) (k : Nat) (mask size : Word),
    let cur := (s.tile k).csr.slot
    let dur := size.toNat % 128
    let none' : Prop := ∀ n, cur < n → n + dur ≤ cur + 65 → windowFree s k mask size none n = false
    (∀ h m, bookSearch s k mask size = .ok (h, m) → badRequest mask size = false ∧ ((s.tile k).book h).stat = .free ∧ h < 16 ∧
      cur < m ∧ m + dur ≤ cur + 65 ∧ windowFree s k mask size none m = true ∧
      ∀ n, cur < n → n < m → windowFree s k mask size none n = false) ∧
    (badRequest mask size = true → bookSearch s k mask size = .error 3) ∧
    (badRequest mask size = false → (∀ h < 16, ((s.tile k).book h).stat ≠ .free) → bookSearch s k mask size = .error 2) ∧
    (badRequest mask size = false → (∃ h < 16, ((s.tile k).book h).stat = .free) → none' → bookSearch s k mask size = .error 1) ∧
    (∀ n, windowFree s k mask size none n = true ↔ ∀ i < dur, let l := bookedIn (s.tile k) none (n + i)
      (∀ b ∈ l, b.mask &&& mask &&& 0xFFFF1F#64 = 0) ∧
      (mask.getLsbD 5 = true → quarters l + (size.toNat / 2 ^ 32 % 4 + 1) ≤ 4) ∧
      (mask.getLsbD 24 = true → linkSum l + size.toNat / 2 ^ 8 % 2 ^ 24 ≤ 32768 ∧
        ∀ m ∈ dieSlots (s.tile k).csr (n + i), dieLink s (tileDie k) (((s.tile k).work.map (fun u => u.part)).getD 0) m k none +
          size.toNat / 2 ^ 8 % 2 ^ 24 ≤ (Map.getD (s.die (tileDie k)).lq ((((s.tile k).work.map (fun u => u.part)).getD 0) % 256) 0).toNat)) ∧
    (∀ (n : Nat) (b : Booking), b ∈ bookedIn (s.tile k) none n ↔
      b ∈ (s.tile k).csr.books.toList ∧ (b.stat = .booked ∨ b.stat = .running) ∧ b.start ≤ n ∧ n < b.start + b.size.toNat % 128)

/-- The helper instructions, and the bookings of the calendar. -/
def Obligations.HelperAndBookingWords : Prop := HelperWords ∧ BookingWords ∧ EarliestWindow

/-! ### Policy versions (R241 to R243) -/

/-- PUBV, VSW and TKREC. PUBV answers 3 without a group, 2 to a partition that is not the learner, the next version once a publication is pending, else 1
where a page has no slot to give, and makes the publication pending, with a slot of every page reserved. VSW records a request for version 0 or for one that is resident. TKREC writes the token,
the version, the partition and the SSN at the position's entry, and advances the position (R241 to R243). -/
def Obligations.PolicyWords : Prop :=
  (∀ (s : State) (d : BitVec 5) (u : WorkUnit), s.curTile.work = some u → s.cur.ctx < 11 → s.curTile.twin = none →
    let gives (t : State) (v : Word) : Prop := exec (.pubv d) s = .next (completed { s := t.modCur (fun x => x.setS d v) })
    (u.policy = 255 ∨ groupDies s u.job u.policy = [] → gives s 3) ∧
    (∀ d0 gd l, groupDies s u.job u.policy = (d0, gd) :: l → u.policy ≠ 255 →
      (groupLearner s d0 gd ≠ u.part % 256 → gives s 2) ∧
      (groupLearner s d0 gd = u.part % 256 → let latest := groupLatest s d0 gd
        let next := if latest = 65535 then 1 else latest + 1
        let full : Prop := ∃ e ∈ groupPages s u.job u.policy, publishSlot s u.job u.policy e.1 e.2 latest = none
        ((s.part u.barKey).publish = true → gives s (BitVec.ofNat 64 (next * 2 ^ 16))) ∧
        ((s.part u.barKey).publish = false → full → gives s 1) ∧
        ((s.part u.barKey).publish = false → ¬ full → ∃ t, gives t (BitVec.ofNat 64 (next * 2 ^ 16)) ∧
          (t.part u.barKey).publish = true ∧ t.tiles = s.tiles ∧ ∀ e ∈ groupPages s u.job u.policy, ∃ i,
            publishSlot s u.job u.policy e.1 e.2 latest = some i ∧ (e.1, e.2, i) ∈ (t.part u.barKey).reserved)))) ∧
  (∀ (s : State) (d a : BitVec 5) (u : WorkUnit), let v := s.curCtx.sreg a
    let w := (started s).s
    let gives (t : State) (v : Word) : Prop := exec (.vsw d a) s = .next (completed { s := t.modCur (fun x => x.setS d v) })
    v.toNat < 65536 → s.curTile.work = some u →
    (u.policy = 255 ∨ groupDies s u.job u.policy = [] → gives w 3) ∧
    (u.policy ≠ 255 → groupDies s u.job u.policy ≠ [] →
      (v ≠ 0 → resident s u.job u.policy v.toNat = false → gives w 1) ∧
      (v = 0 ∨ resident s u.job u.policy v.toNat = true →
        gives (w.modCsr s.curKey (fun r => { r with pvPending := true, pvReq := v.setWidth 16 })) 0))) ∧
  (∀ (s s1 s2 s3 : State) (a b : BitVec 5) (bs : List Byte) (u : WorkUnit), let p := s.curCtx.sreg b
    let base := descPtr bs 0
    let size := descField bs 8 4
    let pos := descField bs 12 4
    s.curTile.work = some u → s.curTile.twin = none → fmtOk p = true → ptrOff p % 64 = 0 → inKept s s.curKey p 64 = true →
    readAcc (self s) (accAt p 0 64 64 .load) s = .ok bs s1 →
    fmtOk base = true → ptrOff base % 16 = 0 → 1 ≤ size → size ≤ 2 ^ 20 → descField bs 16 48 = 0 → inKept s s.curKey base (16 * size) = true →
    writeAcc (self s) (accAt base (16 * (pos % size) : Nat) 16 16 .store)
      (bytesLE 8 (s.curCtx.sreg a) ++ bytesLE 2 s.curTile.csr.pvCur ++ bytesLE 2 (BitVec.ofNat 16 (u.part % 256)) ++
        bytesLE 4 s.curTile.step.ssn) s1 = .ok () s2 →
    writeAcc (self s) (accAt p 12 4 4 .store) (bytesLE 4 (BitVec.ofNat 32 (pos + 1))) s2 = .ok () s3 →
    exec (.tkrec a b) s = .next (completed { s := s3 }))

/-! ### Waits that end (R19, R25, R162, R177, R180, R189, R194 to R196, R203, R226, R231) -/

/-- A wake ends the wait of its context, which then examines its condition again by executing its instruction; nothing else changes. A held
entry enters an inbox that has room, behind those that are there. -/
def Sys2Proof.Claims.PlainWakes : Prop :=
  ∀ (s : State) (die tile ctx : Nat), let k := tileKey die tile
    (∀ e ∈ [Instr.streamWake die tile ctx, .queueWake die tile ctx, .groupWaitWake die tile ctx, .inboxWaitWake die tile ctx,
        .waitpComplete die tile ctx, .tokenWaitWake die tile ctx, .hwaitComplete die tile ctx],
      exec e s = .next (s.modCtx k ctx (fun x => { x with wait := none }))) ∧
    (∀ e l, (s.tile k).io.heldIn = e :: l → (s.tile k).io.inbox.length < 32 →
      exec (.inboxHeldDeliver die tile) s = .next (s.modIo k (fun io => { io with inbox := io.inbox ++ [e], heldIn := l })))

/-- The oldest waiter of a word whose condition holds completes its function: it leaves the queue and its wait ends, the word and its bit change
as the function says, its register receives the word read, and it goes on at its next word (R179, R180). Where its tile is one of a pair, the
answer is its partner's too, and what the pair kept of the instruction goes (R417). That a frozen context and a word whose slot another context has
taken are passed over is `feReady`'s. -/
def Sys2Proof.Claims.FullEmptyWake : Prop :=
  ∀ (s : State) (key key' k c : Nat) (fn : BitVec 3) (d : BitVec 5) (v : BitVec 32),
    let t := tileKey (key / 2 ^ 40) (bits key 20 10)
    let o := key % 2 ^ 20
    let u := asCtx ((leaveFe s key k c).modCtx k c (fun x => { x with wait := none })) k c
    let kept := regionOf u t false o = .kept
    let u1 := if kept then allocLocal u t (lineOf false o) else u
    let word : Word := BitVec.ofNat 64 (natOfBytes ((List.range 4).map (fun j => tileByte u k t false (o + j))))
    let told (x : Option Word) (w : State) : State := forgetInstr (closePacket k { key := c, bytes := wordBytes x, cause := none } w) k c
    feReady s key = some (k, c) → (s.ctx k c).wait = some (.fe key' fn d v) → (u.tile t).twin = none → o % 4 = 0 →
    (kept → Map.get? (u.tile t).step.locals (lineOf false o) ≠ none ∨ 0 < (u.tile t).poolFree false) →
    let runs (w : State) : Prop := exec (.feWaiterWake key) s = .next (finish { s := w })
    (fn = 0 → runs ((told (some word) (setFe u1 t o false)).modCur (fun x => x.setS d word))) ∧
    (fn = 1 → runs ((told (some word) u).modCur (fun x => x.setS d word))) ∧
    (fn = 2 → ∀ u2, writeTile k t false o (bytesLE 4 v) u1 = .ok () u2 → runs (told none (setFe u2 t o true)))

/-- A gathered element that its page service has answered: its access is made again from its start. Where that succeeds the element is complete,
with the bytes read at its place, and once no element waits the instruction runs again with those that are complete (R177). Where it is referred
again it waits again, behind the others; where it is refused it waits no more, and the instruction finds the refusal when it runs again. Of a pair the
element has a place of its own at the comparator, which it leaves when it is complete (R417). That an element already complete stands although a
lower one is refused later is the model's choice (log 77). -/
def Sys2Proof.Claims.ElementReplay : Prop :=
  ∀ (s s1 : State) (die tile ctx j : Nat) (ws : List PageWait) (done : BitVec 64) (part : Vec) (w : PageWait), let k := tileKey die tile
    let r : Requester := { tile := k, ctx := ctx, engine := false, unit := elemKey ctx j }
    let acc : Acc := { base := w.addr, p := w.addr, ovf := false, size := w.size, align := 1, contig := false
                       kind := if w.write then .store else .load, elem := j, solo := w.solo, data := w.data }
    let rest := ws.filter (fun x => x.elem != j)
    let ends (t : State) (v : Vec) : State := (forgetTwin t k (elemKey ctx j)).modCtx k ctx (fun x =>
      if rest.isEmpty then { x with wait := none, replay := some (done ||| 1#64 <<< j, v) }
      else { x with wait := some (.pages rest (done ||| 1#64 <<< j) v) })
    (s.ctx k ctx).wait = some (.pages ws done part) → ws.find? (fun x => decide (x.elem = j)) = some w →
    (w.write = false → ∀ bs, readAcc r acc (rewindTwin s k) = .ok bs s1 → exec (.gatherElementReplay die tile ctx j) s =
      .next (ends s1 (part ||| BitVec.ofNat 512 (natOfBytes bs * 2 ^ (8 * w.size * j))))) ∧
    (w.write = true → writeAcc r acc (bytesLE w.size w.data) (rewindTwin s k) = .ok () s1 →
      exec (.gatherElementReplay die tile ctx j) s = .next (ends s1 part)) ∧
    (∀ f v, (w.write = false → readAcc r acc (rewindTwin s k) = .error (.trap f v) s1) →
      (w.write = true → writeAcc r acc (bytesLE w.size w.data) (rewindTwin s k) = .error (.trap f v) s1) →
      exec (.gatherElementReplay die tile ctx j) s = .next (s1.modCtx k ctx (fun x =>
        if rest.isEmpty then { x with wait := none, replay := some (done, part) } else { x with wait := some (.pages rest done part) }))) ∧
    (∀ pw, (w.write = false → readAcc r acc (rewindTwin s k) = .error (.refer pw) s1) →
      (w.write = true → writeAcc r acc (bytesLE w.size w.data) (rewindTwin s k) = .error (.refer pw) s1) →
      becomesCont s1 k ctx = false → exec (.gatherElementReplay die tile ctx j) s =
        .next (s1.modCtx k ctx (fun x => { x with wait := some (.pages (rest ++ [pw]) done part) })))

/-- The first waiter of a ring that can be served completes: an enqueue writes its value at the tail's slot and advances TAIL, a dequeue reads
the head's slot and advances HEAD, and the context goes on at its next word (R194); where its tile is one of a pair, its partner has the same answer
(R417). -/
def Sys2Proof.Claims.RingWake : Prop :=
  ∀ (s s1 s2 s3 : State) (block die b : Nat) (w : RingWaiter) (x : RingBlock), let r : Requester := { tile := w.tile, ctx := w.ctx, engine := false }
    let u := asCtx ((leaveRing s w).modCtx w.tile w.ctx (fun x => { x with wait := none })) w.tile w.ctx
    let told (v : Option Word) (t : State) : State :=
      forgetInstr (closePacket w.tile { key := w.ctx, bytes := wordBytes v, cause := none } t) w.tile w.ctx
    ringReady s block = some w → openRing r w.ptr u = .ok (die, b, x) s1 →
    (w.enq = true → writeRaw r (accAt x.base (8 * (x.tail % x.size)) 8 8 .amo) (bytesLE 8 w.value) s1 = .ok () s2 →
      writeRaw r (accAt w.ptr 24 8 8 .amo) (bytesLE 8 (BitVec.ofNat 64 (x.tail + 1))) s2 = .ok () s3 →
      exec (.qcWaiterServe block) s = .next (finish { s := (told (some 0) s3).modCur (fun y => y.setS w.d 0) })) ∧
    (w.enq = false → ∀ bs, readRaw r (accAt x.base (8 * (x.head % x.size)) 8 8 .load) s1 = .ok bs s2 →
      writeRaw r (accAt w.ptr 16 8 8 .amo) (bytesLE 8 (BitVec.ofNat 64 (x.head + 1))) s2 = .ok () s3 →
      exec (.qcWaiterServe block) s = .next (finish { s :=
        (told (some (BitVec.ofNat 64 (natOfBytes bs))) s3).modCur (fun y => y.setS w.d (BitVec.ofNat 64 (natOfBytes bs))) }))

/-- A helper's long DEQ: where it can become a continuation its record is made, and the request leaves the queue controller; where the record's own
write waits for a page, the helper keeps its slot and its place in the queue, and the event is tried again when the page service answers (the model's
choice, log 75); else nothing changes (R194). -/
def Sys2Proof.Claims.LongDequeue : Prop :=
  ∀ (s : State) (die tile ctx block : Nat) (w : RingWaiter), let k := tileKey die tile
    (s.ctx k ctx).wait = some (.ring block) →
    (s.die (block / 2 ^ 40)).waiters.find? (fun w => decide (w.tile = k) && decide (w.ctx = ctx)) = some w →
    (w.enq = false → becomesCont s k ctx = true → ∀ t, makeCont s k ctx [] true = (t, none) → exec (.deqLongWait die tile ctx) s =
      .next (t.modDie (w.block / 2 ^ 40) (fun x => { x with waiters := x.waiters.filter (fun v => v != w) }))) ∧
    (w.enq = false → becomesCont s k ctx = true → ∀ t ws, makeCont s k ctx [] true = (t, some ws) →
      ∃ u, exec (.deqLongWait die tile ctx) s = .next u ∧ u = { t with hwWaits := u.hwWaits } ∧
        u.hwWaits = t.hwWaits ++ ws.map (fun x => {
          ev := some (.deqLongWait (tileDie k) (tileId k) ctx), job := 0, fn := x.fn, addr := x.addr, bytes := [], die := x.die
          stage := x.stage, tag := x.tag })) ∧
    (w.enq = true ∨ becomesCont s k ctx = false → exec (.deqLongWait die tile ctx) s = .next s)

/-- A waiting SSB whose tile has become quiet arrives: its record goes to its die's node, with S[b], the superstep, one contributor, its rop and its vote,
and the context waits at the barrier (R196, R281). -/
def Sys2Proof.Claims.LateArrival : Prop :=
  ∀ (s : State) (die tile : Nat) (a b : BitVec 5) (r : BitVec 3) (u : WorkUnit), let k := tileKey die tile
    let x := s.ctx k 0
    (s.ctx k 0).wait = some (.ssb a b r) → (s.tile k).work = some u → u.cls = 2 → (s.tile k).twin = none →
    let vote : BitVec 2 := if x.sreg a ≠ 0 ∨ (s.tile k).step.pend = true then 1 else 0
    ∃ t, exec (.ssbArrive die tile) s = .next t ∧ (t.tile k).step.arrived = true ∧ t.ctx k 0 = { x with wait := some .barrier } ∧
      t.pending = s.pending ++ [.barrierRecord u.part 0 (tileDie k) k (x.sreg b ++ (s.tile k).step.ssn ++ 1#26 ++ r ++ 0#1 ++ vote)] ∧
      t.mem = s.mem

/-- How the waits of contexts end, in six parts. The events that end them, and that one which finds its condition false changes nothing, are the
model's (log 1).
The parts: the plain wakes, the words full and empty, the elements of a gather, the rings, a DEQ that waits
long, and an SSB that waited for its tile. -/
def Obligations.WaitsEnd : Prop := PlainWakes ∧ FullEmptyWake ∧ ElementReplay ∧ RingWake ∧ LongDequeue ∧ LateArrival

/-! ### Boundaries (R267, R270 to R286, R290) -/

/-- A barrier record that reaches a die node joins what its child has sent; once every child has reported, or a vote bit appears, the node sends the
merge of what it holds to its module's node. It does so while the superstep runs, and while its abort is under way, when a vote for UNRECOVERABLE may
still follow; records of another superstep, or after the outcome commit, are dropped (R282, R283, R288). -/
def Sys2Proof.Claims.DieNode : Prop :=
  (∀ (s : State) (g level node child : Nat) (rec' : BitVec 128), let p := s.part g
    ((p.bar ≠ .running ∧ p.bar ≠ .aborting) ∨ rec'.extractLsb' 32 32 ≠ p.ssn → exec (.barrierRecord g level node child rec') s = .next s)) ∧
  ∀ (s : State) (g node child : Nat) (rec' : BitVec 128) (n : BarrierNode), let p := s.part g
    let recs := Map.set n.recs child (joinRec (Map.get? n.recs child) rec')
    let reported := insertNat n.reported child
    let all := n.children.all (fun c => reported.contains c)
    let merged := mergeRecs p.ssn (recs.map (fun e => e.2))
    let vote : BitVec 2 := merged.extractLsb' 0 2
    let up : Bool := (all && !n.full) || decide (vote ||| n.sent ≠ n.sent)
    let n' : BarrierNode := { n with recs := recs, reported := reported, sent := if up then vote else n.sent, full := n.full || all }
    let u := s.modPart g (fun p => { p with nodes := Map.set p.nodes node n' })
    (p.bar = .running ∨ p.bar = .aborting) → rec'.extractLsb' 32 32 = p.ssn → Map.get? p.nodes node = some n →
    (up = true → exec (.barrierRecord g 0 node child rec') s = .next (u.post (.barrierRecord g 1 (2 ^ 40 + node / 8) node merged))) ∧
    (up = false → exec (.barrierRecord g 0 node child rec') s = .next u)

/-- A barrier record that reaches a module's node, from the node of one of its dies, joins what that die has sent. The die has reported once its node holds
the records of all its tiles and no record of it is still on its way; once every die of the module that has members has reported, or a vote bit
appears, the node sends the merge of what it holds to the root, in one record (R282, R283). -/
def Sys2Proof.Claims.ModuleNode : Prop :=
  ∀ (s : State) (g node child : Nat) (rec' : BitVec 128) (n c : BarrierNode), let p := s.part g
    let recs := Map.set n.recs child (joinRec (Map.get? n.recs child) rec')
    let more : Prop := ∃ r, .barrierRecord g 1 node child r ∈ s.pending
    let merged := mergeRecs p.ssn (recs.map (fun e => e.2))
    let vote : BitVec 2 := merged.extractLsb' 0 2
    (p.bar = .running ∨ p.bar = .aborting) → rec'.extractLsb' 32 32 = p.ssn → Map.get? p.nodes node = some n → Map.get? p.nodes child = some c →
    (∀ reported, (c.full = true ∧ ¬ more → reported = insertNat n.reported child) → (c.full = false ∨ more → reported = n.reported) →
      let all := n.children.all (fun c => reported.contains c)
      let up : Bool := (all && !n.full) || decide (vote ||| n.sent ≠ n.sent)
      let n' : BarrierNode := { n with recs := recs, reported := reported, sent := if up then vote else n.sent, full := n.full || all }
      let u := s.modPart g (fun p => { p with nodes := Map.set p.nodes node n' })
      (up = true → exec (.barrierRecord g 1 node child rec') s = .next (u.post (.barrierRecord g 2 (2 ^ 41) node merged))) ∧
      (up = false → exec (.barrierRecord g 1 node child rec') s = .next u))

/-- The root, which holds no vote bit yet: both vote bits stop the job; a vote to abort aborts, unless a controller has marked the superstep
irrevocable; when every child has reported with no vote to abort the superstep commits with the version that LATEST then gives, or aborts where SSBs of different rops
have arrived. While a forced vote of a member has been sent and has not arrived, it does not commit, so that no such vote comes too late (the model's
reading of R272 and R279, log 80). As the outcome goes out the barrier's packets take a generation that no barrier of the partition has had, one above
the last (R267, R280, R283, R288, R358, R379; that launches of one partition share the count is log 78). -/
def Sys2Proof.Claims.RootNode : Prop :=
  ∀ (s : State) (g child : Nat) (rec' : BitVec 128) (n : BarrierNode), let p := s.part g
    let recs := Map.set n.recs child rec'
    let reported := insertNat n.reported child
    let all := n.children.all (fun c => reported.contains c)
    let merged := mergeRecs p.ssn (recs.map (fun e => e.2))
    let vote : BitVec 2 := merged.extractLsb' 0 2
    let u := s.modPart g (fun p => { p with nodes := Map.set p.nodes (2 ^ 41) { n with recs := recs, reported := reported, sent := vote, full := all } })
    let runs (t : State) : Prop := exec (.barrierRecord g 2 (2 ^ 41) child rec') s = .next t
    p.bar = .running → rec'.extractLsb' 32 32 = p.ssn → Map.get? p.nodes (2 ^ 41) = some n → Map.get? n.recs child = none → n.sent = 0 →
    n.full = false → (∃ c, Map.get? p.nodes child = some c ∧ c.full = true) → (∀ r, .barrierRecord g 2 (2 ^ 41) child r ∉ s.pending) →
    (vote = 3 → runs (jobUnrecoverable u (barJob u g))) ∧
    (vote = 1 → (s.isIrrevocable g = true → runs (jobUnrecoverable u (barJob u g))) ∧
      (s.isIrrevocable g = false → runs (broadcastAbort u g p.members))) ∧
    (vote.getLsbD 0 = false → all = true → votesOut s g = true → runs u) ∧
    (vote.getLsbD 0 = false → all = true → votesOut s g = false →
      (mixedOps (u.part g) = true → s.isIrrevocable g = true → runs (jobUnrecoverable u (barJob u g))) ∧
      (mixedOps (u.part g) = true → s.isIrrevocable g = false → runs (broadcastAbort u g p.members)) ∧
      (mixedOps (u.part g) = false → runs (broadcastCommit (sampleSwitch u g (barJob u g) g (barPolicy u g) p.members) g merged))) ∧
    (vote.getLsbD 0 = false → all = false → runs u) ∧
    (g < 2 ^ 80 → ((broadcastAbort u g p.members).part g).gen = p.genTop + 1 ∧ ((broadcastCommit u g merged).part g).gen = p.genTop + 1) ∧
    (∀ l, 2 ^ 80 ≤ g → Map.get? s.launches (g - 2 ^ 80) = some l → l.part ≠ g →
      ((broadcastAbort u g p.members).part g).gen = (s.part l.part).genTop + 1 ∧
      ((broadcastAbort u g p.members).part l.part).genTop = (s.part l.part).genTop + 1)

/-- The merge of two records that both count contributors of one rop reduces their values, adds their counts and joins their votes (R196, R281, R282). -/
def Sys2Proof.Claims.RecordMerge : Prop :=
  ∀ (ssn : BitVec 32) (a b : BitVec 128), let op := (a.extractLsb' 3 3).toNat
    let x : Word := a.extractLsb' 64 64
    let y : Word := b.extractLsb' 64 64
    let m := mergeRecs ssn [a, b]
    a.extractLsb' 6 26 ≠ 0 → b.extractLsb' 6 26 ≠ 0 → a.extractLsb' 3 3 = b.extractLsb' 3 3 → op < 5 →
    m.extractLsb' 0 2 = a.extractLsb' 0 2 ||| b.extractLsb' 0 2 ∧ m.extractLsb' 3 3 = a.extractLsb' 3 3 ∧
    m.extractLsb' 6 26 = a.extractLsb' 6 26 + b.extractLsb' 6 26 ∧ m.extractLsb' 32 32 = ssn ∧
    (op = 0 → m.extractLsb' 64 64 = x + y) ∧ (op = 1 → (m.extractLsb' 64 64).toInt = min x.toInt y.toInt) ∧
    (op = 2 → (m.extractLsb' 64 64).toInt = max x.toInt y.toInt) ∧ (op = 3 → m.extractLsb' 64 64 = x ||| y) ∧
    (op = 4 → m.extractLsb' 64 64 = x &&& y)

/-- Records that travel up the barrier tree: at a die's node, at a module's, at the root, and as two of them merge. -/
def Obligations.BarrierTree : Prop := DieNode ∧ ModuleNode ∧ RootNode ∧ RecordMerge

/-- The commit of a tile that goes on; events of the interval since the outcome show in ABPEND from then on, and those that vote wait for the resume
broadcast (R279): each byte of a kept line takes the value that its last writer gave it, full and empty bits come from the local
delta, S[b] of the SSB receives the result, the helpers are gone, the pools and the calendar are empty, SSNUM is one higher, and the tile reports
done (R277, R284). -/
def Sys2Proof.Claims.TileCommit : Prop :=
  ∀ (s : State) (die tile : Nat) (u : WorkUnit), let k := tileKey die tile
    let st := (s.tile k).step
    let x := s.ctx k 0
    let result := (s.part u.barKey).result
    let changed (line : Nat) : Prop := Map.get? st.locals line ≠ none ∨ Map.get? st.remotes line ≠ none
    (s.tile k).work = some u → st.halting = false → Canonical s → ∃ t, exec (.commit die tile) s = .next t ∧
      (t.tile k).step = { ssn := st.ssn + 1, out := if result.getLsbD 1 then 3 else 1, bound := true, settled := true, badLater := st.badLater
                          deferred := st.deferred.filter (fun e => decide (e.2 ≠ 0)), pend := !st.deferred.isEmpty
                          cause := st.deferred.foldl (fun c e => if c = 0 then e.1 else c) 0
                          retained := t.ctx k 0, staged := st.staged.filter (fun e => decide (e.st = 0)) ++ st.fetchList } ∧
      (∀ c, 0 < c → c < 11 → t.ctx k c = {}) ∧ (t.tile k).csr = { (s.tile k).csr with books := Vector.replicate 16 {} } ∧
      (st.ssbReg = none → (t.ctx k 0).pc = x.pc ∧ (t.ctx k 0).s = x.s) ∧
      (∀ b, st.ssbReg = some b → x.frame = none → x.depth = 0 →
        (t.ctx k 0).pc = ptrWithOff x.pc (ptrOff x.pc + 4) ∧ (t.ctx k 0).s = (x.setS b (result.extractLsb' 64 64)).s) ∧
      .reportDone u.barKey k ∈ t.pending ∧
      (∀ line i, changed line → i < 64 → Memory.read t.mem (lineKey k line + i) =
        match Map.get? st.remotes line with
        | some d => if d.last.getLsbD i then vecByte d.data i else (match Map.get? st.locals line with
          | some l => vecByte l.data i
          | none => Memory.read s.mem (lineKey k line + i))
        | none => match Map.get? st.locals line with
          | some l => vecByte l.data i
          | none => Memory.read s.mem (lineKey k line + i)) ∧
      (∀ a, (∀ line i, changed line → i < 64 → a ≠ lineKey k line + i) → Memory.read t.mem a = Memory.read s.mem a) ∧
      (∀ line i l, Map.get? st.locals line = some l → line < 8192 → i < 16 →
        t.full.contains (lineKey k line + 4 * i) = l.fe.getLsbD i)

/-- The abort of a tile. In a CON launch the control context is as the retained frame has it, but for FRM, the scopes and the trap registers; the helpers
and every delta are gone, RETRY is one higher, MINE tells whether the tile voted to abort, lines with a parity error are zero, the words of the transit regions
are empty, and no other byte changes; pages of the staged set are fetched on, those of the list are not (R291). A count of parity events goes on where
this run had one of the same structure (the model's reading of R419, log 46). A tile of a WP or PAR launch is released. Either reports done (R28, R277, R286, R332). -/
def Sys2Proof.Claims.TileAbort : Prop :=
  ∀ (s : State) (die tile : Nat) (u : WorkUnit), let k := tileKey die tile
    let st := (s.tile k).step
    let x := s.ctx k 0
    (s.tile k).work = some u → (∀ c, (s.ctx k c).st ≠ .frozen) → (s.part u.barKey).switchAbort = false → Canonical s →
    ∃ t, exec (.abort die tile) s = .next t ∧ .reportDone u.barKey k ∈ t.pending ∧ (u.cls ≠ 2 → (t.tile k).work = none) ∧
      (u.cls = 2 → (t.tile k).work = some u ∧
        (t.tile k).step = { ssn := st.ssn, retry := if st.retry = 0xFFFF then st.retry else st.retry + 1, mine := st.pend || st.forced || st.votedAbort
                            out := 2, bound := true, settled := true, badLater := st.badLater, retained := st.retained
                            deferred := st.deferred.filter (fun e => decide (e.2 ≠ 0)), pend := !st.deferred.isEmpty
                            cause := st.deferred.foldl (fun c e => if c = 0 then e.1 else c) 0
                            staged := st.staged.map (fun e => { e with waits := e.waits.filter (fun w => w.parked.isNone) })
                            parityRun := st.parityRun.filterMap (fun r => if r.2.2 then some (r.1, r.2.1, false) else none) } ∧
        (∀ e ∈ st.staged, e.st = 0 → .stagingEntryComplete (tileDie k) (tileId k) e.id ∈ t.pending) ∧
        t.ctx k 0 = { st.retained with
          frm := x.frm, scopes := x.scopes, tcause := x.tcause, tpc := x.tpc, tval := x.tval, st := .resident, tstat := 0, mrow := 0
          rptidx := 0, draws := 0, wait := none, frame := none, replay := none, refused := [], mmaRow := none, tload := none } ∧
        (∀ c, 0 < c → c < 11 → t.ctx k c = {}) ∧
        (∀ l i, l ∈ st.badLines ++ st.badLater → i < 64 → Memory.read t.mem (lineKey k l + i) = 0) ∧
        (∀ a, (∀ l i, l ∈ st.badLines ++ st.badLater → i < 64 → a ≠ lineKey k l + i) → Memory.read t.mem a = Memory.read s.mem a) ∧
        (∀ o, o < 2 ^ 20 → regionOf s k false o = .transit → t.full.contains (spadKey k o) = false))

/-- What a tile does at a boundary. -/
def Obligations.TileBoundaries : Prop := TileCommit ∧ TileAbort

/-- A controller. At a commit it forgets what it has recorded of the superstep; at an abort it first writes back every line recorded, with its tags,
and each granule that SEAL or UNSEAL changed is sealed as it was before. Either reports done (R276, R284, R186). An abort that meets a superstep marked
irrevocable stops the job (R288). -/
def Obligations.ControllerBoundaries : Prop :=
  ∀ (s : State) (g d : Nat), let x := s.die d
    let forget (x : Die) : Die := { x with undo := x.undo.filter (fun r => r.part != g)
                                           irrevocable := x.irrevocable.filter (fun r => r.1 != g)
                                           sealLog := x.sealLog.filter (fun e => e.1 != g) }
    exec (.controllerCommit g d) s = .next ((s.modDie d forget).post (.reportDone g (2 ^ 60 + d))) ∧
    ((∃ r ∈ x.irrevocable, r.1 = g) → exec (.controllerAbort g d) s = .next (jobUnrecoverable s (barJob s g))) ∧
    ((∀ r ∈ x.irrevocable, r.1 ≠ g) → Canonical s → let log := x.undo.filter (fun r => decide (r.part = g))
      (∀ r1 ∈ log, ∀ r2 ∈ log, r1.line = r2.line → r1 = r2) →
      (∀ e1 ∈ x.sealLog, ∀ e2 ∈ x.sealLog, e1.1 = g → e2.1 = g → e1.2.1 = e2.2.1 → e1 = e2) →
      ∃ t, exec (.controllerAbort g d) s = .next t ∧ .reportDone g (2 ^ 60 + d) ∈ t.pending ∧
        (t.die d).undo = x.undo.filter (fun r => r.part != g) ∧ t.tiles = s.tiles ∧
        (∀ r i, r ∈ log → i < 64 → Memory.read t.mem (hbmKey d (r.line * 64) + i) = vecByte r.data i) ∧
        (∀ r ∈ log, (t.die d).tagOf (2 * r.line) = r.tags.extractLsb' 0 4 ∧ (t.die d).tagOf (2 * r.line + 1) = r.tags.extractLsb' 4 4) ∧
        (∀ a, (∀ r i, r ∈ log → i < 64 → a ≠ hbmKey d (r.line * 64) + i) → Memory.read t.mem a = Memory.read s.mem a) ∧
        (∀ e ∈ x.sealLog, e.1 = g → (t.die d).seals.contains e.2.1 = e.2.2) ∧
        (∀ n, (∀ e ∈ x.sealLog, e.1 = g → e.2.1 ≠ n) → (t.die d).seals.contains n = x.seals.contains n))

/-- A report of done that is not the last is taken off the list of those awaited. With the last, a commit makes SSNUM of the partition
one higher, an abort leaves SSNUM and counts one more abort of the launch (R267, R284, R286). -/
def Sys2Proof.Claims.ReportsOfDone : Prop :=
  ∀ (s : State) (g who : Nat), let p := s.part g
    let rest := p.undone.filter (fun w => w != who)
    (rest ≠ [] → exec (.reportDone g who) s = .next (s.modPart g (fun p => { p with undone := rest }))) ∧
    (rest = [] → g < 2 ^ 80 → ∀ id l, p.launch = some id → Map.get? s.launches id = some l →
      (p.bar = .committing → ∃ t, exec (.reportDone g who) s = .next t ∧ (t.part g).ssn = p.ssn + 1) ∧
      (p.bar = .aborting → p.switchAbort = false → ∃ t r, exec (.reportDone g who) s = .next t ∧ (t.part g).ssn = p.ssn ∧
        Map.get? t.launches id = some r ∧ r.aborts = l.aborts + 1))

/-- The resume broadcast ends the interval of a boundary for its tile: the events raised in that interval take their place in the superstep that
begins, all of them, in their order, and so do the lines that a parity error marked in it. Each forced event, a parity error among them, votes (R267, R279).
The list in which they wait is the model's (log 1). -/
def Sys2Proof.Claims.ResumeBroadcasts : Prop :=
  ∀ (s : State) (die tile : Nat), let k := tileKey die tile
    let st := (s.tile k).step
    let bad := st.badLater.foldl insertNat st.badLines
    linkStuck s (tileDie k / 8) = false →
    (st.deferred = [] → exec (.resumeBroadcast die tile) s =
      .next (s.modStep k (fun st => { st with bound := false, settled := false, deferred := [], badLines := bad, badLater := [] }))) ∧
    (∀ u, (s.tile k).work = some u → u.cls = 2 → (s.tile k).twin = none → ∃ t, exec (.resumeBroadcast die tile) s = .next t ∧ t.mem = s.mem ∧
      (t.tile k).step = { st with bound := false, settled := false, deferred := [], badLines := bad, badLater := []
                                  pend := st.pend || !st.deferred.isEmpty, forced := st.forced || st.deferred.any (fun e => decide (e.2 ≠ 0))
                                  cause := st.deferred.foldl (fun c e => if c = 0 then e.1 else c) st.cause } ∧
      t.pending = s.pending ++ (st.deferred.filter (fun e => decide (e.2 ≠ 0))).map (fun e =>
        .barrierRecord u.part 0 (tileDie (s.idKey k)) (s.idKey k) (0#64 ++ st.ssn ++ 0#26 ++ 0#3 ++ 0#1 ++ e.2)))

/-- A write of another tile to bytes of one kept line joins the line's remote delta, as the last write of these bytes so far; the line itself does not
change. Where the line has no delta and the pool no room the write is dropped and the tile raises RDELTA (R271, R272). -/
def Sys2Proof.Claims.RemoteWrites : Prop :=
  ∀ (s : State) (die tile off : Nat) (vault : Bool) (bs : List Byte), let k := tileKey die tile
    let line := lineOf vault off
    let old := Map.getD (s.tile k).step.remotes line { data := 0, mask := 0, last := 0 }
    bs ≠ [] → off % 64 + bs.length ≤ 64 →
    (Map.get? (s.tile k).step.remotes line ≠ none ∨ 0 < (s.tile k).poolFree vault →
      ∃ t d, exec (.remoteKeptWrite die tile vault off bs) s = .next t ∧ t.mem = s.mem ∧ t.pending = s.pending ∧
        Map.get? (t.tile k).step.remotes line = some d ∧
        (∀ j < 64, if off % 64 ≤ j ∧ j < off % 64 + bs.length
          then some (vecByte d.data j) = bs[j - off % 64]? ∧ d.mask.getLsbD j = true ∧ d.last.getLsbD j = true
          else vecByte d.data j = vecByte old.data j ∧ d.mask.getLsbD j = old.mask.getLsbD j ∧ d.last.getLsbD j = old.last.getLsbD j) ∧
        (∀ l, l ≠ line → Map.get? (t.tile k).step.remotes l = Map.get? (s.tile k).step.remotes l)) ∧
    (Map.get? (s.tile k).step.remotes line = none → (s.tile k).poolFree vault = 0 →
      exec (.remoteKeptWrite die tile vault off bs) s = .next (raiseForced s k 0x23 1))

/-- A page fetch whose bytes have been read writes them at its destination, and its entry is PRESENT. An entry of which rows still wait stays PENDING,
with what has arrived; a row that waits lets the later ones go on, and so does one that is held, for which the fetch goes on; indices that wait hold the
rows behind them; a row that faults fails the entry, posts its event and stops the rows behind it, and one that a containment event stops freezes the control context
too (R289, R290, R315, R413). The order of the rows, and that a failed entry's faults are in it, are the model's reading (log 59). -/
def Sys2Proof.Claims.StagedFetches : Prop :=
  ∀ (s s1 : State) (die tile id : Nat) (e : StagingEntry), let k := tileKey die tile
    let present (t : State) (e : StagingEntry) : State := setEntry t k { e with st := 1, waits := [] }
    let runs (t : State) : Prop := exec (.stagingEntryComplete die tile id) s = .next t
    let fails (e : StagingEntry) (c : Cause) (v : Word) : State := opFault (setEntry s1 k { e with st := 2, waits := [] }) k 0 e.pc 0 c.code (ptrOff v)
    (s.tile k).step.entries.find? (fun x => decide (x.id = id)) = some e →
    (e.st ≠ 0 → runs s) ∧
    (e.st = 0 → e.gather = false → e.rows = [] → e.waits = [] → (s.tile k).twin = none → ∀ bs v o,
      readAcc (e.self k 0) (accAt e.src 0 e.len 1 .load) s = .ok bs s1 → transitRange s1 k e.dst e.len = some (v, o) →
      runs (present (forgetTwin (putPlain s1 k v o bs) k (stageKey e.id 0)) { e with rows := [0] })) ∧
    (e.st = 0 → ∀ e1 h, stageRows k (List.range e.rowCount) e false s = (s1, e1, h, none) →
      (e1.rows.length = e1.rowCount → runs (present s1 e1)) ∧
      (e1.rows.length ≠ e1.rowCount → h = false → runs (setEntry s1 k e1)) ∧
      (e1.rows.length ≠ e1.rowCount → h = true → runs ((setEntry s1 k e1).post (.stagingEntryComplete (tileDie k) (tileId k) id)))) ∧
    (e.st = 0 → ∀ e1 h c v, stageRows k (List.range e.rowCount) e false s = (s1, e1, h, some (.trap c v)) → runs (fails e1 c v)) ∧
    (e.st = 0 → ∀ e1 h c v, stageRows k (List.range e.rowCount) e false s = (s1, e1, h, some (.contain c v)) →
      runs (containOp (fails e1 c v) k 0 none e1.pc c v)) ∧
    (∀ i l h e1 s2 s3 w, e.rows.contains i = false → e.waits.any (fun w => decide (w.elem = i)) = false →
      (twinStep k (stageKey e.id i) (readIndices (e.self k i) e i) s = .error (.refer w) s3 →
        stageRows k (i :: l) e h s = (s3, { e with waits := e.waits ++ [{ w with elem := i }] }, h, none)) ∧
      (twinStep k (stageKey e.id i) (readIndices (e.self k i) e i) s = .ok e1 s2 →
        (twinStep k (stageKey e1.id i) (stageRow (e1.self k i) e1 i) s2 = .error (.refer w) s3 →
          stageRows k (i :: l) e h s = stageRows k l { e1 with waits := e1.waits ++ [{ w with elem := i }] } h s3) ∧
        (twinStep k (stageKey e1.id i) (stageRow (e1.self k i) e1 i) s2 = .error .stall s3 →
          stageRows k (i :: l) e h s = stageRows k l e1 true s3) ∧
        (∀ c v, twinStep k (stageKey e1.id i) (stageRow (e1.self k i) e1 i) s2 = .error (.trap c v) s3 →
          stageRows k (i :: l) e h s = (s3, e1, h, some (.trap c v)))))

/-- A forced event sets PEND, and CAUSE where it is zero, and a tile of a CON unit sends its abort vote at once; a WP or PAR launch aborts; between an outcome
and the resume broadcast its vote waits, and until the tile's own work of the boundary is done the event too. A parity error does the same with cause 0x20, marks a transit line, and votes 3 where retained kept data or
the reserved area is hit; between outcome and resume broadcast the line is one of the superstep that follows (R278, R279). Of a pair, the vote goes to
the comparator (R417). The choice among what can happen, and so when an event does, is the model's (log 1). -/
def Sys2Proof.Claims.ForcedEvents : Prop :=
  ∀ (s : State) (die tile : Nat) (u : WorkUnit) (code : BitVec 8) (place : ParityPlace), let k := tileKey die tile
    let st := (s.tile k).step
    let voted (v : BitVec 2) (t : State) : Prop := t.mem = s.mem ∧
      t.pending = s.pending ++ [.barrierRecord u.part 0 (tileDie (s.idKey k)) (s.idKey k) (0#64 ++ st.ssn ++ 0#26 ++ 0#3 ++ 0#1 ++ v)]
    let votes : BitVec 2 := if place = .retainedKept ∨ place = .reservedArea then 3 else 1
    (s.tile k).work = some u →
    (∀ w, u.cls = 2 → st.bound = false → (s.tile k).twin = some w → (s.tile w.partner).twin ≠ none →
      ∃ t x, exec (.forcedEvent die tile code) s = .next t ∧ t.mem = s.mem ∧ (t.tile k).step.pend = true ∧ (t.tile k).step.forced = true ∧
        (t.tile k).twin = some x ∧ x = { w with sent := w.sent ++ [(33, bytesLE 16 (0#64 ++ st.ssn ++ 0#26 ++ 0#3 ++ 0#1 ++ 1#2))] } ∧
        .pairCompare (tileDie (s.idKey k)) (tileId (s.idKey k)) ∈ t.pending ∧
        ∀ g l n c r, .barrierRecord g l n c r ∈ t.pending → .barrierRecord g l n c r ∈ s.pending) ∧
    (u.cls = 2 → st.bound = false → (s.tile k).twin = none →
      (∃ t, exec (.forcedEvent die tile code) s = .next t ∧ voted 1 t ∧
        (t.tile k).step = { st with pend := true, cause := if st.cause = 0 then code else st.cause, forced := true }) ∧
      (∃ t, exec (.parityError die tile place) s = .next t ∧
        voted votes t ∧ (t.tile k).step.pend = true ∧
        (t.tile k).step.cause = (if st.cause = 0 then 0x20 else st.cause) ∧ (t.tile k).step.forced = true ∧
        (t.tile k).step.badLines = match place with
          | .transitSpad l => insertNat st.badLines l
          | .transitVault l => insertNat st.badLines (8192 + l)
          | _ => st.badLines)) ∧
    (u.cls ≠ 2 → st.bound = false → (s.part u.barKey).bar = .running → s.isIrrevocable u.barKey = false → Map.get? s.launches u.launch ≠ none →
      ∃ t, exec (.forcedEvent die tile code) s = .next t ∧ (t.part u.barKey).bar = .aborting ∧ .abort (tileDie k) (tileId k) ∈ t.pending) ∧
    (st.bound = true → exec (.forcedEvent die tile code) s = .next (s.modStep k (fun st => if st.settled
        then { st with deferred := st.deferred ++ [(code, 1)], pend := true, cause := if st.cause = 0 then code else st.cause }
        else { st with deferred := st.deferred ++ [(code, 1)] })) ∧
      (∃ t, exec (.parityError die tile place) s = .next t ∧ t.mem = s.mem ∧ t.pending = s.pending ∧ (t.tile k).step.badLines = st.badLines ∧
        (t.tile k).step.deferred = st.deferred ++ [(0x20, votes)] ∧ (t.tile k).step.pend = (st.pend || st.settled) ∧
        (t.tile k).step.badLater = match place with
          | .transitSpad l => insertNat st.badLater l
          | .transitVault l => insertNat st.badLater (8192 + l)
          | _ => st.badLater))

/-- The other events of a superstep, in five parts: reports of done, the resume broadcast, writes that arrive for kept lines, page fetches, and
forced events. -/
def Obligations.SuperstepEvents : Prop := ReportsOfDone ∧ ResumeBroadcasts ∧ RemoteWrites ∧ StagedFetches ∧ ForcedEvents

/-! ### Records, slots and bookings (R200, R201, R314, R335, R337 to R342) -/

/-- A continuation record whose wait has ended joins the end of its gang's FIFO. The head record is loaded on the helper that is chosen for it, which is
then LIVE with what the record holds and with its places in groups, at a pair on both tiles, and the record and its frame are gone (R201, R314, R335). -/
def Sys2Proof.Claims.RecordEvents : Prop :=
  ∀ (s : State) (part : Nat) (r : ContRecord),
    ((s.part part).records.find? (fun x => decide (x.loc = r.loc)) = some r →
      let ready : ContRecord := { r with ready := true, wait := none }
      exec (.continuationReady part r.loc) s = .next ((s.modPart part (fun p =>
        { p with records := p.records.filter (fun x => x != r) ++ [ready] })).post (.continuationResume part))) ∧
    (∀ k c bs s1, (readyRecords (s.part part)).head? = some r → resumePlace s part = some (k, c) → r.refused = false →
      readRecord { tile := k, ctx := c, engine := true } r.loc s = .ok bs s1 → descField bs 51 1 % 2 = 0 →
      let u := ((bothTiles s k).foldl (fun t k => asCtx (t.setCtx k c (recordCtx bs r.origin)) k c)
        (renameMember s1 part (recordMember r.loc) (groupMember k c))).modPart part (fun p => { p with records := p.records.filter (fun x => x != r) })
      (r.frame = none → exec (.continuationResume part) s = .next u) ∧
      (∀ f, r.frame = some f → exec (.continuationResume part) s =
        .next (u.modLaunch r.launch (fun l => { l with frames := removeNat l.frames f }))))

/-- A slot begins. Where no handle is booked only the slot and the link budgets change. A booking that starts in the slot lapses, or starts the helper
that is tied to it; one whose last slot is over ends, and a helper that still runs in it takes OVERRUN with subcause 2 (R230, R337, R340). A tile that
runs no test kernel takes the set of kernels that IMAGE gave last (R436). -/
def Sys2Proof.Claims.SlotBoundaries : Prop :=
  ∀ (s : State) (die tile h : Nat) (u : WorkUnit), let k := tileKey die tile
    let e := (s.tile k).book h
    let now := (s.tile k).csr.slot + 1
    let begins (t : State) : Prop := exec (.slotBoundary die tile) s = .next t ∧ (t.tile k).csr.slot = now
    (s.tile k).work = some u → h < 16 → (∀ j < 16, j ≠ h → ((s.tile k).book j).stat = .free) →
    (e.stat = .free → (s.tile k).testKernel = true ∨ (s.tile k).kernels = (s.modl (tileDie k / 8)).kernels →
      exec (.slotBoundary die tile) s = .next (s.modCsr k (fun r =>
        { r with slot := r.slot + 1, books := mapV r.books (fun e => { e with injected := 0 }) }))) ∧
    (e.stat = .free → (s.tile k).testKernel = false → ∃ t, begins t ∧ (t.tile k).kernels = (s.modl (tileDie k / 8)).kernels ∧
      (∀ c, t.ctx k c = s.ctx k c) ∧ t.mem = s.mem) ∧
    (e.stat = .booked → e.start = now → e.tied = none →
      ∃ t, begins t ∧ (t.tile k).book h = { e with stat := .lapsed, injected := 0 } ∧ ∀ c, t.ctx k c = s.ctx k c) ∧
    (e.stat = .booked → e.start = now → ∀ c, e.tied = some c → 1 ≤ c → c ≤ 10 →
      ∃ t, begins t ∧ (t.tile k).book h = { e with stat := .running, injected := 0 } ∧
        t.ctx k c = { startCtx (s.ctx k 0) e.pc e.arg1 e.arg2 e.live with handle := some h }) ∧
    (e.stat = .running → e.start + bkDur e.size ≤ now → e.tied = none → ∃ t, begins t ∧ (t.tile k).book h = {}) ∧
    (e.stat = .running → e.start + bkDur e.size ≤ now → ∀ c, e.tied = some c → 1 ≤ c → c ≤ 10 → (s.ctx k c).st = .live →
      (s.ctx k c).handle = some h → ∃ t, begins t ∧ (t.tile k).book h = {} ∧ (t.ctx k c).st = .faulted ∧
        (t.ctx k c).tcause = 0x12 ∧ (t.ctx k c).tval = overrunVal 0xFF h 2)

/-- Compaction, at a boundary at which no booking ends and none is late. A booking that is not BOOKED, or is FIXED, keeps its start. Another one never moves later, nor
to a slot before the one that begins, which an untied one does not take either; those that move keep their order of start slot and handle; and each takes the
earliest slot from there on at which its window is free, the bookings before it in that order being placed as compaction has left them (R341). -/
def Sys2Proof.Claims.Compaction : Prop :=
  ∀ (s : State) (die tile : Nat) (u : WorkUnit), let k := tileKey die tile
    let b := (s.tile k).csr.slot + 1
    let e (h : Nat) : Booking := (s.tile k).book h
    let moves (h : Nat) : Prop := (e h).stat = .booked ∧ (e h).mask.getLsbD 25 = false
    let before (j h : Nat) : Prop := moves j ∧ ((e j).start < (e h).start ∨ (e j).start = (e h).start ∧ j < h)
    let lo (h : Nat) : Nat := if (e h).tied.isSome then b else b + 1
    (s.tile k).work = some u → (∀ h < 16, (e h).stat = .running → b < (e h).start + (e h).size.toNat % 128) →
    (∀ h < 16, (e h).stat = .booked → b ≤ (e h).start) →
    ∃ t, exec (.slotBoundary die tile) s = .next t ∧
      let e' (h : Nat) : Booking := (t.tile k).book h
      (∀ h < 16, ¬ moves h → (e' h).start = (e h).start) ∧
      (∀ h < 16, moves h → (e' h).start ≤ (e h).start ∧ ((e' h).start = (e h).start ∨ lo h ≤ (e' h).start)) ∧
      (∀ h < 16, ∀ j < 16, moves h → before j h → (e' j).start ≤ (e' h).start) ∧
      (∀ h < 16, moves h → ∀ p, (∀ j < 16, before j h → (p.tile k).book j = { e j with start := (e' j).start, injected := 0 }) →
        (∀ j < 16, ¬ before j h → (p.tile k).book j = { e j with injected := 0 }) →
        p = (takeKernels k s).modCsr k (fun r => { r with slot := b, books := (p.tile k).csr.books }) →
        let free (n : Nat) : Bool := windowFree p k (e h).mask (e h).size (some h) n
        ((e' h).start ≠ (e h).start → free (e' h).start = true) ∧
        (∀ n, lo h ≤ n → n < (e' h).start → (∀ j < 16, before j h → (e' j).start ≤ n) → free n = false))

/-- A booked helper that waits too long takes OVERRUN with subcause 4: it is FAULTED, its handle is free, and it has left the queue at which it waited (R342). -/
def Sys2Proof.Claims.LatencyOverrun : Prop :=
  ∀ (s : State) (die tile c h : Nat) (w : Wait), let k := tileKey die tile
    (s.ctx k c).handle = some h → (s.ctx k c).wait = some w → 1 ≤ c → c ≤ 10 → h < 16 →
    ∃ t, exec (.overrunLatency die tile c) s = .next t ∧ (t.ctx k c).st = .faulted ∧ (t.ctx k c).wait = none ∧
      (t.ctx k c).tcause = 0x12 ∧ (t.ctx k c).tval = overrunVal 0xFF h 4 ∧ (t.tile k).book h = {} ∧
      ((s.tile k).eng.waiting c = none → t.mem = s.mem) ∧
      (∀ key fn d v, w = .fe key fn d v → ∀ e ∈ (t.die (key / 2 ^ 40)).feQ, e.2 ≠ (k, c)) ∧
      (∀ block, w = .ring block → ∀ v ∈ (t.die (block / 2 ^ 40)).waiters, v.tile = k → v.ctx ≠ c)

/-- Records of continuations, slots of the calendar with their compaction, and a wait that overruns its booking. That the slot counters of the tiles of a die
begin where they do is the model's choice (log 12), and so is the frame in which a record stands (log 13). -/
def Obligations.RecordsAndSlots : Prop := RecordEvents ∧ SlotBoundaries ∧ Compaction ∧ LatencyOverrun

/-- What a continuation record holds comes back from it: the PC, the live mask, the loops, FRM and QMAP, the predicates, the scopes, and the registers that
the mask selects; the other registers are zero. Of a helper inside a repeat frame the record is marked so, and holds the frame's address as its PC and
RPTIDX, from which the frame goes on (R86, R200, R201). -/
def Obligations.RecordRoundTrip : Prop :=
  ∀ (x : Ctx) (pc mask : Word) (ssn : BitVec 32) (tid did : Nat) (o : Origin) (rp : Bool), x.depth ≤ 4 →
    let y := recordCtx (recordBytes x pc mask rp ssn tid did) o
    (recordBytes x pc mask rp ssn tid did).length = recordLen mask ∧ y.st = .live ∧ y.pc = pc ∧ y.liveMask = mask ∧ y.origin = some o ∧
    y.loops = x.loops ∧ y.depth = x.depth ∧ y.frm = x.frm ∧ y.qmap = x.qmap ∧ y.tstat = (if rp then 2 else 0) ∧ y.rptidx = (if rp then x.rptidx else 0) ∧
    (∀ i : BitVec 3, y.kreg i = x.kreg i) ∧ (∀ i : Fin 32, 5 ≤ i.val → y.scopes[i] = x.scopes[i]) ∧
    (∀ i : BitVec 5, y.sreg i = if mask.getLsbD i.toNat then x.sreg i else 0) ∧
    (∀ i : Fin 32, y.v[i] = if mask.getLsbD (32 + i.val) then x.v[i] else 0)

/-! ### Engines (R204 to R227, R315) -/

/-- The oldest MMA in flight, once its operands are there, adds its products to the rows of its slot, raises its flags in the context that issued it, and is
gone; the other elements stay (R211). -/
def Sys2Proof.Claims.MmaCompletes : Prop :=
  ∀ (s : State) (die tile : Nat) (o : MmaOp) (l : List MmaOp), let k := tileKey die tile
    let x := (s.tile k).eng.slot o.slot
    (s.tile k).eng.mmas = o :: l → (o.fetched = false → exec (.mmaComplete die tile) s = .next s) ∧
    (o.fetched = true → o.slot < 8 → o.ctx < 11 → (∀ ws d p, (s.ctx k o.ctx).wait ≠ some (.pages ws d p)) →
    ∃ t, exec (.mmaComplete die tile) s = .next t ∧ (t.tile k).eng.mmas = l ∧ t.mem = s.mem ∧
      t.ctx k o.ctx = (s.ctx k o.ctx).orFlags (mmaApply o x).2 ∧ ((t.tile k).eng.slot o.slot).st = x.st ∧
      (∀ j, j ≠ o.slot → (t.tile k).eng.slot j = (s.tile k).eng.slot j) ∧
      ∀ m < 16, ∀ n < 16, ((t.tile k).eng.slot o.slot).elem m n = if o.row0 ≤ m ∧ m < o.row1
        then BitVec.ofNat 32 (mmaElem o.ta.toNat o.tb.toNat (if o.overwrite then 0 else x.elem m n) ((o.a[m]?).getD []) ((o.b[n]?).getD [])).val
        else x.elem m n)

/-- The oldest job of the epilogue engine starts once no MMA writes its slot and no table load that was issued before it is under way. With the end of a job
the next one may start. A job without a token frees its slot; another one writes its sixteen rows,
each element as its configuration has it, frees its slot, subtracts 1 from its token and raises its flags. An i32 output without stages is the
accumulator's own bits. A job that waits for a page goes on at the row that waits: what it has read and the rows that it has written stand. Its
super-scale is read before its rows, and where it is bad the job ends with SCALE (R43, R153, R205, R214, R219). The draws are the model's reading of R53 (log 16). -/
def Sys2Proof.Claims.EpilogueDrains : Prop :=
  (∀ (s : State) (die tile : Nat) (j : EpiJob) (l : List EpiJob), let k := tileKey die tile
    let x := (s.tile k).eng.slot j.slot
    let free (t : State) : State :=
      let u := t.modEng k (fun e => { e.setSlot j.slot {} with epiq := e.epiq.drop 1 })
      if (u.tile k).eng.epiq = [] then u else u.post (.epiDrainStart (tileDie k) (tileId k))
    let draining : AccSlot := { x with st := .epi }
    (s.tile k).eng.epiq = j :: l →
    (x.st = .epiq → (s.tile k).eng.mmaTo j.slot = none → j.behind = [] → exec (.epiDrainStart die tile) s =
      .next ((s.modEng k (fun e => e.setSlot j.slot draining)).post (.epiDrainEnd (tileDie k) (tileId k)))) ∧
    (x.st ≠ .epiq ∨ (s.tile k).eng.mmaTo j.slot ≠ none ∨ j.behind ≠ [] → exec (.epiDrainStart die tile) s = .next s) ∧
    (j.tok = none → exec (.epiDrainEnd die tile) s = .next (free s)) ∧
    (∀ w c v u, j.tok = some w → j.reads = none → twinStep k 64 (epiReads { tile := k, ctx := j.ctx, engine := true, unit := 64, subreg := some j.subreg } j.cfg) s =
        .error (.trap c v) u → exec (.epiDrainEnd die tile) s = .next (opFault ((free u).modEng k (fun e =>
          { e with tok := e.tok.setIfInBounds w (e.count w - 1) })) k j.ctx j.pc 0 c.code (ptrOff v))) ∧
    (∀ w rd s0, j.tok = some w →
      let r : Requester := { tile := k, ctx := j.ctx, engine := true, unit := 64, subreg := some j.subreg }
      (j.reads = some rd ∧ s0 = s ∨ j.reads = none ∧ ∃ u, twinStep k 64 (epiReads r j.cfg) s = .ok rd u ∧
        s0 = u.modEng k (fun e => { e with epiq := { j with reads := some rd } :: l })) →
      let d : EpiData := { scale := decodeFp .f32 rd.1.toNat, bias := (List.range 16).map (fun n => decodeFp .f32 (bits rd.2.toNat (32 * n) 32)) }
      let one (m n : Nat) : Nat × Flags := epiElem j ((epTable j.cfg).map (fun i => (s.tile k).table i)) d (epiDraw s k j (16 * m + n)) n (x.elem m n)
      let rows (m : Nat) : List Nat := (List.range m).filter (fun i => decide (j.row ≤ i))
      let f (m : Nat) : Flags := (rows m).foldl (fun (f : Flags) i => (List.range 16).foldl (fun (f : Flags) n => f ||| (one i n).2) f) j.flags
      let write (m : Nat) : A Unit := twinStep k 64 (do
        writeAcc r (epiRow j.dst j.stride (epOut j.cfg) m .store) ((List.range 16).flatMap (fun n => bytesOfNat (outSize (epOut j.cfg)) (one m n).1))
        modA (fun t => t.modEng k (fun e => { e with epiq := { j with reads := some rd, row := m + 1, flags := f (m + 1) } :: l })))
      (∀ s1, writesAll write (rows 16) s0 s1 → exec (.epiDrainEnd die tile) s = .next (((free s1).modEng k (fun e =>
        { e with tok := e.tok.setIfInBounds w (e.count w - 1) })).modCtx k j.ctx (fun z => z.orFlags (f 16)))) ∧
      (∀ m s1 s2 pw, j.row ≤ m → m < 16 → writesAll write (rows m) s0 s1 → write m s1 = .error (.refer pw) s2 →
        exec (.epiDrainEnd die tile) s = .next (s2.modEng k (fun e => { e with epiq := match e.epiq with
          | [] => []
          | j :: l => { j with waits := [pw] } :: l }))))) ∧
  (∀ (r : Requester) (cfg : BitVec 512) (s s1 : State), let a : Acc := { accAt (epQSB cfg) 0 64 64 .load with declared := some 8 }
    epBI cfg = false → (epQS cfg = false → epiReads r cfg s = .ok (0, 0) s) ∧
    (epQS cfg = true → ∀ bs, readAcc r a s = .ok bs s1 → let sc : BitVec 32 := BitVec.ofNat 32 (natOfBytes (bs.take 4))
      epiReads r cfg s = if badScale sc = true ∨ natOfBytes (bs.drop 4) ≠ 0 then .error (.trap .scale (epQSB cfg)) s1 else .ok (sc, 0) s1)) ∧
  (∀ (j : EpiJob) (x : EpiData) (draw : BitVec 16) (n : Nat) (v : BitVec 32), epOut j.cfg = 7 → epQS j.cfg = false → epSC j.cfg = false →
    epBI j.cfg = false → epiElem j none x draw n v = (v.toNat, 0))

/-- One step of an engine operation: a group of up to 64 bytes is read and written, or delivered to a stream, or one element of a COPYR is reduced at its home;
the last step ends the operation, which subtracts 1 from its token and raises its flags. A group is read whole before any of it is written, and one of which a write waits
is not read again (R222, R225, R236). A containment event ends the operation, and freezes the context that issued it (R413; that it ends as a run-time
fault does is the model's reading, log 74). -/
def Sys2Proof.Claims.CopySteps : Prop :=
  (∀ (s s1 : State) (die tile id : Nat) (o : EngineOp), let k := tileKey die tile
    let next (total : Nat) (o : EngineOp) (u : State) : State := let o : EngineOp := { o with done := o.done + 1, waits := [] }
      if o.done < total then (setOp u k o).post (.copyComplete (tileDie k) (tileId k) id)
      else (endOp u k o).modCtx k o.ctx (fun x => x.orFlags o.flags)
    (s.tile k).eng.op? id = some o →
    (∀ bs, o.kind ≠ .copyr → portRoom (s.tile k) o = true → copyGroup k o o.done s = .ok bs s1 →
      exec (.copyComplete die tile id) s = .next (next (groups64 o.shape.len) (opNow s1 k o) (deliver s1 k o bs))) ∧
    (o.kind ≠ .copyr → portRoom (s.tile k) o = false → exec (.copyComplete die tile id) s = .next (s.post (.copyComplete (tileDie k) (tileId k) id))) ∧
    (∀ f, o.kind = .copyr → copyrElem k o o.done s = .ok f s1 →
      exec (.copyComplete die tile id) s = .next (next o.sb.toNat { opNow s1 k o with flags := o.flags ||| f } s1)) ∧
    (∀ c v, o.kind ≠ .copyr → portRoom (s.tile k) o = true → copyGroup k o o.done s = .error (.contain c v) s1 → o.id = id → o.ctx < 11 →
      ∃ t, exec (.copyComplete die tile id) s = .next t ∧ (t.tile k).eng.ops = (s1.tile k).eng.ops.filter (fun x => x.id != id) ∧
        (t.ctx k o.ctx).st = .frozen ∧ (t.ctx k o.ctx).tcause = c.code ∧ (t.ctx k o.ctx).tval = v ∧ (t.ctx k o.ctx).tpc = o.pc)) ∧
  (∀ (s s2 : State) (k : Nat) (o : EngineOp) (g : Nat) (bs : List Byte), let n := min 64 (o.sb.toNat - 64 * g)
    let key := opKey o.id 0
    let r : Requester := { tile := k, ctx := o.ctx, engine := true, unit := key, subreg := some o.subreg }
    let ops (f : EngineOp → EngineOp) (t : State) : State :=
      t.modEng k (fun e => { e with ops := e.ops.map (fun x => if x.id = o.id then f x else x) })
    let had : Option (Nat × List Byte × Nat) := o.got.find? (fun e => decide (e.1 = g))
    o.kind ≠ .copy2d → o.kind ≠ .copyg → o.stream = false → 64 * g < o.sb.toNat → bs.length = n → ∀ s1,
    (had = none ∧ ∃ u, readAcc r (accAt (formPtr o.sa (64 * g : Nat)).1 0 n 1 .load) (rewindTwin s k) = .ok bs u ∧
        s1 = ops (EngineOp.keep g bs 0) (forgetTwin u k key) ∨ had = some (g, bs, 0) ∧ s1 = s) →
    writeAcc r (accAt (formPtr o.sd (64 * g : Nat)).1 0 n 1 .store) bs (rewindTwin s1 k) = .ok () s2 →
    copyGroup k o g s = .ok bs (ops (EngineOp.drop g) (forgetTwin s2 k key))) ∧
  (∀ a b : Nat, a < 2 ^ 32 → b < 2 ^ 32 → (reduceElem 0 3 a b).val = (a + b) % 2 ^ 32 ∧
    ((reduceElem 1 3 a b).val : Int) = (if (BitVec.ofNat 32 a).toInt ≤ (BitVec.ofNat 32 b).toInt then a else b) ∧
    ((reduceElem 2 3 a b).val : Int) = (if (BitVec.ofNat 32 a).toInt ≤ (BitVec.ofNat 32 b).toInt then b else a))

/-- A row of a COPYG: the indices up to the end of its batch of 64 are read, each once and in order, the row is read where its index leads and written in its
place; with the last row the operation is complete, which subtracts 1 from the token and posts an entry of TYPE 0x02 with the operation's tag. Of several rows that
fault the one with the lowest number is reported, and after a fault no row is written any more (R224, R315). -/
def Sys2Proof.Claims.GatherSteps : Prop :=
  ∀ (s : State) (die tile id row : Nat) (o : EngineOp), let k := tileKey die tile
    let key := opKey o.id (row + 1)
    let r : Requester := { tile := k, ctx := o.ctx, engine := true, unit := key, subreg := some o.subreg }
    let z := if gPtrs o.desc then 8 else 4
    let idx : Word := BitVec.ofNat 64 (cfgField o.desc 16 8)
    let io := (s.tile k).io
    let runs (t : State) : Prop := exec (.gatherRowArrive die tile id row) s = .next t
    (s.tile k).eng.op? id = some o → o.kind = .copyg →
    (∀ l s1, o.rows.contains row = false → twinStep k key (readBatches r idx z (gRows o.desc) row o.batch) s = .ok l s1 →
      let o1 : EngineOp := { o with batch := o.batch ++ l }
      let x := batchIndex o1.batch row
      (∀ s2, gatherRow k o1 row x (setOp s1 k o1) = .ok () s2 → let o2 := opNow s2 k o1
        let u := setOp s2 k { o2 with rows := insertNat o2.rows row }
        (o2.failed ≠ none → runs s2) ∧
        (o2.failed = none → runs (if (insertNat o2.rows row).length = gRows o.desc then u.post (.copygComplete (tileDie k) (tileId k) id) else u))) ∧
      (∀ c v s2, gatherRow k o1 row x (setOp s1 k o1) = .error (.trap c v) s2 → let o2 := opNow s2 k o1
        let off : BitVec 40 := BitVec.ofNat 40 (ptrOff v)
        ((∃ e, o2.failed = some e ∧ e.1 ≤ row) → runs s2) ∧
        ((∀ e, o2.failed = some e → row < e.1) → ∃ t, runs t ∧ t.tiles = (setOp s2 k { o2 with failed := some (row, c.code, off) }).tiles ∧
          .engineFault (tileDie k) (tileId k) o2.id c.code off ∈ t.pending ∧
          ∀ c' off', .engineFault (tileDie k) (tileId k) o2.id c' off' ∈ t.pending → c' = c.code ∧ off' = off)) ∧
      (∀ w s2, gatherRow k o1 row x (setOp s1 k o1) = .error (.refer w) s2 → let o2 := opNow s2 k o1
        runs (setOp s2 k { o2 with waits := o2.waits ++ [{ w with elem := row }] }))) ∧
    (∀ x bs s1 s2, o.got.find? (fun e => decide (e.1 = row)) = none → bs.length = gRowb o.desc →
      let ops (f : EngineOp → EngineOp) (t : State) : State :=
        t.modEng k (fun e => { e with ops := e.ops.map (fun x => if x.id = o.id then f x else x) })
      twinStep k key (readAcc r (if gPtrs o.desc then accAt (BitVec.ofNat 64 x) 0 (gRowb o.desc) 1 .load
        else accAt o.sa (x * gRowb o.desc : Nat) (gRowb o.desc) 1 .load)) s = .ok bs s1 →
      (o.failed ≠ none → gatherRow k o row x s = .ok () (ops (EngineOp.keep row bs 0) s1)) ∧
      (o.failed = none → twinStep k key (writeAcc r (accAt (formPtr o.sd (row * gRowb o.desc : Nat)).1 0 (gRowb o.desc) 1 .store) bs)
        (ops (EngineOp.keep row bs 0) s1) = .ok () s2 → gatherRow k o row x s = .ok () (ops (EngineOp.drop row) s2))) ∧
    (∀ n i l u t, l.length = min n (i / 64 * 64 + 64) → readBatches r idx z n i l u = .ok [] u ∧
      (∀ j e, l = j ++ [e] → e.1 = j.length → ∀ xs, readAcc r (accAt idx (z * j.length : Nat) z z .load) u = .ok xs t →
        readBatches r idx z n i j u = .ok [(j.length, natOfBytes xs)] t)) ∧
    (io.inbox.length < 32 → io.heldIn = [] → ∃ t, exec (.copygComplete die tile id) s = .next t ∧
      (t.tile k).io.inbox = io.inbox ++ [0#64 ++ (s.tile k).step.ssn ++ o.tag ++ 0#6 ++ 0#2 ++ 0x02#8] ∧
      (t.tile k).eng.ops = (s.tile k).eng.ops.filter (fun x => x.id != id) ∧
      (o.tok < 8 → (t.tile k).eng.count o.tok = (s.tile k).eng.count o.tok - 1) ∧ t.mem = s.mem)

/-- A run-time fault of an engine operation: the operation is gone with everything of it in flight, its token falls by 1, PEND is set, and an entry of TYPE 0x01 with the
cause and the offset is posted (R205). -/
def Sys2Proof.Claims.EngineFaults : Prop :=
  ∀ (s : State) (die tile id : Nat) (o : EngineOp) (cause : BitVec 8) (off : BitVec 40), let k := tileKey die tile
    let io := (s.tile k).io
    let st := (s.tile k).step
    (s.tile k).eng.op? id = some o → io.inbox.length < 32 → io.heldIn = [] → st.bound = false ∨ st.settled = true →
    ∃ t, exec (.engineFault die tile id cause off) s = .next t ∧ t.mem = s.mem ∧
      (t.tile k).io.inbox = io.inbox ++ [(0#8 ++ off ++ cause ++ 2#8) ++ st.ssn ++ o.tag ++ 0#6 ++ 0#2 ++ 0x01#8] ∧
      (t.tile k).step = { st with pend := true, cause := if st.cause = 0 then cause else st.cause } ∧
      (t.tile k).eng.ops = (s.tile k).eng.ops.filter (fun x => x.id != id) ∧
      (o.tok < 8 → (t.tile k).eng.count o.tok = (s.tile k).eng.count o.tok - 1) ∧
      (∀ row, .gatherRowArrive (tileDie k) (tileId k) id row ∉ t.pending) ∧ .copyComplete (tileDie k) (tileId k) id ∉ t.pending

/-- The engines of a tile, in five parts: MMAs, epilogue jobs, copies, gathers and faults. -/
def Obligations.EngineEvents : Prop := MmaCompletes ∧ EpilogueDrains ∧ CopySteps ∧ GatherSteps ∧ EngineFaults

/-! ### Launches (R13, R15, R320 to R331) -/

/-- A write to TAILR raises TAIL to the maximum and examines the ring, and a paused scan goes on, after a write to RINGBASE that waited has been examined; a
ring that is not enabled is not scanned (R320, R322). -/
def Sys2Proof.Claims.RingDoorbells : Prop :=
  ∀ (s : State) (m fn r : Nat) (v : Word), let x := Map.getD (s.modl m).rings (fn * 64 + r) {}
    let raised (s : State) : State := s.modModl m (fun y => { y with
      rings := Map.set y.rings (fn * 64 + r) { x with tail := if x.tail.toNat < v.toNat then v else x.tail } })
    (fnAnswers s m fn = true → r < 64 → exec (.tailrWrite m fn r v) s = .next (scanRing m fn r 4 (raised s))) ∧
    (fnAnswers s m fn = true → r < 64 → x.enabled = false → exec (.tailrWrite m fn r v) s = .next (raised s)) ∧
    (x.asked = none → exec (.ringScanResume m fn r) s = .next (scanRing m fn r 4 s)) ∧
    (x.asked = none → x.enabled = false → exec (.ringScanResume m fn r) s = .next s) ∧
    (∀ b, x.asked = some b → exec (.ringScanResume m fn r) s = .next (scanRing m fn r 4 (examineRingbase m fn r b s))) ∧
    (fnAnswers s m fn = false → exec (.tailrWrite m fn r v) s = .next s)

/-- A slot of an enabled ring below TAIL whose SEQ is one more than HEAD is consumed: HEAD is advanced, the block becomes a held launch under its ID, and
the dispatcher will check it. A slot that is not published ends the scan. A scan that a page service holds goes on when it has answered; a control block or a
slot that cannot be read disables the ring, with code 11 (R310, R322, R324). -/
def Sys2Proof.Claims.RingScan : Prop :=
  ∀ (s s1 s2 s3 s4 : State) (m fn r n j size head : Nat) (base : Word) (q body : List Byte), let x := Map.getD (s.modl m).rings (fn * 64 + r) {}
    let slot := ptrAdd base (128 * (head % size))
    let h : HwFor := { job := j, fn := fn }
    let scan : State := scanRing m fn r (n + 1) s
    let stops (t : State) (a : Word) : State := recordMerr ((hwSettled t h).modModl m (fun y => { y with
      rings := Map.set y.rings (fn * 64 + r) { x with base := 0, enabled := false } })) m fn 11 (a.toNat % 2 ^ 48)
    x.enabled = true → (s.modl m).bootState = 4 → (s.modl m).frozenFns.contains fn = false → (heldOf s m fn r).length < 4 →
    fnJob s m fn = some j →
    (∀ w, readControl m fn x.base s = .error (.refer w) s1 → scan = hwAgain s1 h (.ringScanResume m fn r) w) ∧
    (∀ c v, readControl m fn x.base s = .error (.trap c v) s1 → scan = stops s1 x.base) ∧
    (readControl m fn x.base s = .ok (base, size, head) s1 → (x.tail.toNat ≤ head → scan = hwSettled s1 h) ∧ (head < x.tail.toNat →
      (∀ w, fnRead m fn (ptrAdd slot 120) 8 s1 = .error (.refer w) s2 → scan = hwAgain s2 h (.ringScanResume m fn r) w) ∧
      (∀ c v, fnRead m fn (ptrAdd slot 120) 8 s1 = .error (.trap c v) s2 → scan = stops s2 slot) ∧
      (fnRead m fn (ptrAdd slot 120) 8 s1 = .ok q s2 → natOfBytes q ≠ (head + 1) % 2 ^ 64 → scan = hwSettled s2 h) ∧
      (fnRead m fn (ptrAdd slot 120) 8 s1 = .ok q s2 → natOfBytes q = (head + 1) % 2 ^ 64 → fnRead m fn slot 120 s2 = .ok body s3 →
        hwWrite (ringFor s3 m fn) (ptrAdd x.base 24) (bytesLE 8 (BitVec.ofNat 64 (head + 1))) s3 = .ok () s4 →
        let u := handBlock m fn r j head (body ++ q) (hwSettled s4 h)
        scan = scanRing m fn r n u ∧
        ∃ l, Map.get? u.launches (m * 2 ^ 32 + (fn * 2 ^ 27 + r * 2 ^ 21 + head % 2 ^ 21)) = some l ∧
          l.phase = .held ∧ l.block = BitVec.ofNat 1024 (natOfBytes (body ++ q)) ∧ l.modl = m ∧ l.fn = fn ∧ l.ring = r ∧ l.job = j)))

/-- A write to RINGBASE: 0 disables the ring; the address of a control block that keeps its limits enables it, with TAIL as HEAD has it; of any
other block it is recorded with code 5, and the ring stays disabled; while entries below TAIL are not consumed it is recorded with code 2. A write whose
control block waits for a page service is kept for the time when it has answered (R310, R320). -/
def Sys2Proof.Claims.RingBases : Prop :=
  ∀ (s s1 : State) (m fn r : Nat) (v : Word), let x : Ring := { Map.getD (s.modl m).rings (fn * 64 + r) {} with asked := none }
    let put (s : State) (y : Ring) : State := s.modModl m (fun z => { z with rings := Map.set z.rings (fn * 64 + r) y })
    let h := ringFor s m fn
    let runs (t : State) : Prop := exec (.ringbaseWrite m fn r v) s = .next t
    let again (w : PageWait) : State := hwAgain (put s1 { x with asked := some v }) h (.ringScanResume m fn r) w
    fnAnswers s m fn = true → r < 64 →
    (v = 0 → runs (put s { x with base := 0, enabled := false })) ∧
    (v ≠ 0 → x.enabled = false →
      (∀ base size head, readControl m fn v s = .ok (base, size, head) s1 →
        runs (put (hwSettled s1 h) { base := v, tail := BitVec.ofNat 64 head, enabled := true })) ∧
      (∀ c a, readControl m fn v s = .error (.trap c a) s1 →
        runs (recordMerr (put (hwSettled s1 h) { x with base := v, enabled := false }) m fn 5 (0x200 + 8 * r))) ∧
      (∀ w, readControl m fn v s = .error (.refer w) s1 → runs (again w))) ∧
    (v ≠ 0 → x.enabled = true →
      (∀ base size head, readControl m fn x.base s = .ok (base, size, head) s1 → head < x.tail.toNat →
        runs (recordMerr (put (hwSettled s1 h) x) m fn 2 (0x200 + 8 * r))) ∧
      (∀ w, readControl m fn x.base s = .error (.refer w) s1 → runs (again w)))

/-- The checks of a held launch, of which the first that fails gives the status: BADBLOCK, EMPTY, RANGE, NORES, PROGRESS. A launch that passes them runs, with
the version that LATEST gives, and with the generation that its partition has reached: a CON launch takes its tiles and its partition; a WP or PAR launch places its first unit, or waits for a tile. A check that a
page service holds is made again when it has answered (R310, R326, R328, R330, R380). -/
def Sys2Proof.Claims.DispatchChecks : Prop :=
  ∀ (s s1 : State) (key : Nat) (l : Launch), let units := blockField l.block 12 4
    let h := l.hwFor s key
    let u := takeLaunch key l (hwSettled s1 h)
    let runs (t : State) : Prop := exec (.dispatchCheck key) s = .next t
    let run : Launch := { l with phase := .running }
    let con : Prop := blockField l.block 20 1 = 2
    let v := BitVec.ofNat 16 (latestOf u l.job (blockField l.block 22 1))
    Map.get? s.launches key = some l → l.phase = .held →
    (readBlock key l s = .ok none s1 → runs (endLaunch u key 5)) ∧
    (∀ c a, readBlock key l s = .error (.trap c a) s1 → runs (endLaunch u key 5)) ∧
    (∀ w, readBlock key l s = .error (.refer w) s1 → runs (hwAgain s1 h (.dispatchCheck key) w)) ∧
    (∀ i, readBlock key l s = .ok (some i) s1 →
      (units = 0 → runs (endLaunch u key 1)) ∧ (16777216 < units → runs (endLaunch u key 2)) ∧
      (0 < units → units ≤ 16777216 →
        (granted s1 l = false → runs (endLaunch u key 7)) ∧
        (granted s1 l = true → (con → conTiles u l = none → runs (endLaunch u key 3)) ∧ (¬ con → gangHolds u l = false → runs (endLaunch u key 3)) ∧
          (¬ con → gangHolds u l = true → let first : Machine.Partition := { launch := some key, pvSel := v, gen := (u.part l.part).genTop }
            let begun := (u.setLaunch key run).setPart (2 ^ 80 + key) first
            (unitSpot begun key = none → runs (begun.post (.unitPlace key))) ∧ (unitSpot begun key ≠ none → runs (placeWith key i begun))) ∧
          (con → ∀ ks, conTiles u l = some ks → ∃ t, runs t ∧ (t.part l.part).launch = some key ∧ (t.part l.part).members = ks.flatten ∧
            (t.part l.part).bar = .running ∧ (t.part l.part).ssn = 0 ∧ (t.part l.part).pvSel = v ∧ .conLaunchStart key ∈ t.pending))))

/-- A launch that ends has its status, and no tile holds a unit of it any more (R318, R327). -/
def Sys2Proof.Claims.LaunchEnds : Prop :=
  ∀ (s : State) (key status : Nat) (l : Launch), Map.get? s.launches key = some l → l.phase ≠ .ended →
    (∃ r, Map.get? (endLaunch s key status).launches key = some r ∧ r.phase = .ended ∧ r.status = BitVec.ofNat 8 status ∧ r.block = l.block) ∧
    ∀ k u, (s.tile k).work = some u → u.launch = key → ((endLaunch s key status).tile k).work = none

/-- The next unit of a WP or PAR launch, once the bytes that it begins with are read, takes its tile: the tile holds the unit, its control context, which has not started, stands at the launch's entry with
the unit's ID in s1 and the record's address in s2, and its other registers are zero (R15, R330). -/
def Sys2Proof.Claims.UnitPlacement : Prop :=
  ∀ (s s1 : State) (key k : Nat) (l : Launch) (i : InitBytes), let h := l.hwFor s key
    let u := hwSettled s1 h
    Map.get? s.launches key = some l → unitSpot s key ≠ none →
    (∀ w, readInit h l.block s = .error (.refer w) s1 → exec (.unitPlace key) s = .next (hwAgain s1 h (.unitPlace key) w)) ∧
    (readInit h l.block s = .ok i s1 → Map.get? u.launches key = some l → unitSpot u key = some [k] →
    ∃ t, exec (.unitPlace key) s = .next t ∧ (t.tile k).work = some (unitOf l key l.next) ∧
      Map.get? t.launches key = some { l with next := l.next + 1 } ∧ .workUnitStart (tileDie k) (tileId k) ∈ t.pending ∧
      (t.ctx k 0).st = .idle ∧ (t.ctx k 0).pc = ptrAdd (blockPtr l.block 0) (blockField l.block 8 4) ∧
      (t.ctx k 0).sreg 1 = BitVec.ofNat 64 l.next ∧ (t.ctx k 0).sreg 2 = ptrAdd (blockPtr l.block 40) 64 ∧
      (∀ i, i ≠ 1 → i ≠ 2 → (t.ctx k 0).sreg i = 0) ∧ (∀ c, 0 < c → c < 11 → t.ctx k c = {}))

/-- The control context of a placed unit becomes RESIDENT. When a CON launch starts its barrier tree is built over its members, PARTSZ counts them, they
select LATEST, and every control context starts (R13, R15, R282, R331, R380). -/
def Sys2Proof.Claims.UnitStarts : Prop :=
  (∀ (s : State) (die tile : Nat), let k := tileKey die tile
    (s.tile k).work ≠ none → (s.ctx k 0).st = .idle → ∃ t, exec (.workUnitStart die tile) s = .next t ∧
      t.ctx k 0 = { s.ctx k 0 with st := .resident } ∧ (∀ c, c ≠ 0 → t.ctx k c = s.ctx k c) ∧ t.mem = s.mem ∧ t.pending = s.pending) ∧
  (∀ (s : State) (key : Nat) (l : Launch), Map.get? s.launches key = some l → let p := s.part l.part
    let own := p.members.filter (fun k => decide (s.idKey k = k))
    ∃ t, exec (.conLaunchStart key) s = .next t ∧ (t.part l.part).nodes = buildNodes own ∧ t.mem = s.mem ∧
      ∀ k ∈ p.members, (t.tile k).csr.partsz = BitVec.ofNat 24 own.length ∧
        (t.tile k).csr.pvCur = BitVec.ofNat 16 (latestOf s l.job (blockField l.block 22 1)) ∧
        ((s.tile k).work ≠ none → (s.ctx k 0).st = .idle → (t.ctx k 0).st = .resident))

/-- Launches from the doorbell to their first instruction, in seven parts. What a ring and a block that cannot be read do, the job of a function, and the places
of units where R330 and R416 leave them open are the model's reading (logs 48, 50 and 51); that a command's events are tried again is log 1. -/
def Obligations.LaunchEvents : Prop := RingDoorbells ∧ RingScan ∧ RingBases ∧ DispatchChecks ∧ LaunchEnds ∧ UnitPlacement ∧ UnitStarts

/-! ### Translation, and the registers of a die (R300, R308 to R312, R319, R339, R360, R372, R430) -/

/-- Writes to a die's registers. A word of a translation context, TINV, POLGRP, DTCTL, COLLTO and a link quota take the value; a reserved bit is recorded with
code 1, also of TINVST, MBST and BOOTST, which are read-only, and a context or a group in use with code 2. Each invalidation completes in turn and drops
what it names (R8, R300, R308, R319, R339, R360, R372, R431, R435). -/
def Sys2Proof.Claims.DieRegisters : Prop :=
  ∀ (s : State) (d off g m pos : Nat) (v : Word), let wrong (o : Nat) (code : BitVec 8) : State := recordMerr s (d / 8) 0 code (d % 8 * 2 ^ 28 + o)
    let ok : Prop := v.extractLsb' 38 26 = 0 ∧ v.extractLsb' 13 3 = 0 ∧ v.extractLsb' 4 4 = 0 ∧ v.extractLsb' 2 2 ≠ 3 ∧ v.extractLsb' 0 2 ≠ 0
    ((s.die d).tinv = [] → exec (.tinvComplete d) s = .next s) ∧
    (∀ w l, (s.die d).tinv = w :: l → let u := s.modDie d (fun x => { x with tinv := l, kept := x.kept.filter (fun e => !tinvDrops w e) })
      exec (.tinvComplete d) s = .next (if w.getLsbD 63 then endDrop d u else u)) ∧
    (barsAnswer s (d / 8) 0 = true →
      (off < 0x800 → off % 8 = 0 → (tctxReserved (off % 64) v = true → exec (.tctxWrite d off v) s = .next (wrong off 1)) ∧
        (tctxReserved (off % 64) v = false → fnResident s d (off / 64) = true → exec (.tctxWrite d off v) s = .next (wrong off 2)) ∧
        (tctxReserved (off % 64) v = false → fnResident s d (off / 64) = false → ∃ t, exec (.tctxWrite d off v) s = .next t ∧
          (∀ i < 512, (t.tctx d (off / 64)).getLsbD i = if 8 * (off % 64) ≤ i ∧ i < 8 * (off % 64) + 64
            then v.getLsbD (i - 8 * (off % 64)) else (s.tctx d (off / 64)).getLsbD i) ∧
          (∀ f, f ≠ off / 64 → t.tctx d f = s.tctx d f) ∧ (t.die d).tinv = (s.die d).tinv ++ [BitVec.ofNat 64 (2 ^ 63 + off / 64 * 256 + 7)] ∧
          t.pending = s.pending ++ [.tinvComplete d])) ∧
      (ok → exec (.tinv d v) s = .next ((s.modDie d (fun x => { x with tinv := x.tinv ++ [v] })).post (.tinvComplete d))) ∧
      (¬ ok → exec (.tinv d v) s = .next (wrong 0x800 1)) ∧
      (g ≤ 254 → (v.toNat % 64 ≠ 0 → exec (.polgrpWrite d g v) s = .next (wrong (0x2000 + 8 * g) 1)) ∧
        (v.toNat % 64 = 0 → groupResident s d g = true → exec (.polgrpWrite d g v) s = .next (wrong (0x2000 + 8 * g) 2)) ∧
        (v.toNat % 64 = 0 → groupResident s d g = false →
          exec (.polgrpWrite d g v) s = .next (s.modDie d (fun x => { x with polgrp := Map.set x.polgrp g v }))))) ∧
    (barsAnswer s m 0 = true → pos < 8 → let k := 8 * m + pos
      (v.toNat < 2 → exec (.registerWrite m 0 2 (pos * 2 ^ 28 + 0x818) v) s = .next (s.modDie k (fun x => { x with dtctl := v = 1 }))) ∧
      (v.toNat < 2 ^ 24 → exec (.registerWrite m 0 2 (pos * 2 ^ 28 + 0x820) v) s =
        .next (s.modDie k (fun x => { x with switch := { x.switch with collto := v.setWidth 24 } }))) ∧
      (g < 256 → v.toNat < 2 ^ 32 → exec (.registerWrite m 0 2 (pos * 2 ^ 28 + 0x900 + 8 * g) v) s =
        .next (s.modDie k (fun x => { x with lq := Map.set x.lq g (v.setWidth 32) }))) ∧
      (v.toNat < 2 → exec (.registerWrite m 0 2 (pos * 2 ^ 28 + 0x808) v) s = .next s) ∧
      (2 ≤ v.toNat → exec (.registerWrite m 0 2 (pos * 2 ^ 28 + 0x808) v) s = .next (recordMerr s m 0 1 (pos * 2 ^ 28 + 0x808))) ∧
      (2 ≤ v.toNat → exec (.registerWrite m 0 2 (pos * 2 ^ 28 + 0x818) v) s = .next (recordMerr s m 0 1 (pos * 2 ^ 28 + 0x818)))) ∧
    (∀ fn, fnAnswers s m fn = true →
      (2 ^ 16 ≤ v.toNat → exec (.registerWrite m fn 0 0x1200 v) s = .next (recordMerr s m fn 1 0x1200)) ∧
      (v.toNat < 2 ^ 16 → exec (.registerWrite m fn 0 0x1200 v) s = .next s) ∧
      (fn = 0 → v.extractLsb' 8 55 ≠ 0 → exec (.registerWrite m fn 0 0x1108 v) s = .next (recordMerr s m fn 1 0x1108)))

/-- A read of a word of a dirty bitmap returns it, and clears it (R319). -/
def Sys2Proof.Claims.DirtyBitmaps : Prop :=
  ∀ (s : State) (d c w : Nat), barsAnswer s (d / 8) 0 = true → c < 4 → w < 0x4000 → (s.die d).dirty.Nodup →
    let g := (c / 2 * 2 ^ 37 + c % 2 * (732416 * 65536)) / 65536
    let here (x : Nat) : Prop := g + 64 * w ≤ x ∧ x < g + 64 * w + 64 ∧ x < g + 732416
    ∃ t data, exec (.dirtyBitmapRead d c w) s = .next t ∧
      t.completions = s.completions ++ [{ addr := d % 8 * 2 ^ 28 + (0x100000 + 0x20000 * c + 8 * w), data := data, status := 0 }] ∧
      data.length = 8 ∧ (∀ i < 64, (natOfBytes data).testBit i = true ↔ here (g + 64 * w + i) ∧ g + 64 * w + i ∈ (s.die d).dirty) ∧
      (∀ x, x ∈ (t.die d).dirty ↔ x ∈ (s.die d).dirty ∧ ¬ here x) ∧ t.mem = s.mem

/-- An answer of a page service to a request that is outstanding removes the request, whose tag the die keeps as the one answered last for its granule. RETRY wakes a context whose access waits on it, which then executes its
instruction again; REFUSE wakes it with the access marked as refused. An answer to no such request is recorded with code 3 (R311, R313). -/
def Sys2Proof.Claims.PageAnswers : Prop :=
  ∀ (s : State) (d : Nat) (v : Word), let fn := (v.extractLsb' 16 5).toNat
    let stage := (v.extractLsb' 14 1).toNat + 1
    let tag := (v.extractLsb' 0 12).toNat
    let asked : Bool := (s.die d).reqs.any (fun r => decide (r.fn = fn ∧ r.stage = stage ∧ r.tag = tag))
    let mine (r : PageReq) : Bool := decide (r.fn = fn ∧ r.stage = stage ∧ r.tag = tag)
    let same (a b : PageReq) : Bool := decide (a.fn = b.fn ∧ a.stage = b.stage ∧ a.granule = b.granule) && a.sub == b.sub
    let u := s.modDie d (fun x => { x with reqs := x.reqs.filter (fun r => !mine r)
                                           answered := (x.reqs.filter mine).foldl (fun l r => l.filter (fun y => !same y r) ++ [r]) x.answered })
    barsAnswer s (d / 8) 0 = true → v.extractLsb' 21 43 = 0 → v.extractLsb' 15 1 = 0 →
    (v.extractLsb' 12 2 = 0 → asked = true → exec (.prespRetry d v) s = .next (answerRetry d fn stage tag u)) ∧
    (v.extractLsb' 12 2 = 1 → asked = true → exec (.prespRefuse d v) s = .next (answerRefuse d fn stage tag u)) ∧
    ((v.extractLsb' 12 2).toNat < 2 → asked = false → ∀ i ∈ [Instr.prespRetry d v, .prespRefuse d v],
      exec i s = .next (recordMerr s (d / 8) 0 3 (d % 8 * 2 ^ 28 + 0x810))) ∧
    (∀ k c ws done part w, u.hostWaits = [] → Map.get? u.tiles k ≠ none → c < 11 → (u.ctx k c).wait = some (.pages ws done part) → w ∈ ws →
      w.die = d → w.fn = fn → w.stage = stage → w.tag = tag → w.parked = none → w.solo = true → (u.ctx k c).st ≠ .frozen →
      ((answerRetry d fn stage tag u).ctx k c).wait = none ∧ ((answerRetry d fn stage tag u).ctx k c).pc = (u.ctx k c).pc ∧
      ((answerRefuse d fn stage tag u).ctx k c).wait = none ∧ w.addr ∈ ((answerRefuse d fn stage tag u).ctx k c).refused)

/-- The first miss held that can be appended becomes a request record with a tag that is free, and that is not the one answered last for its granule, so that
a late answer to that one answers nothing (R311, R312); which one it is is a free value (log 13). -/
def Sys2Proof.Claims.HeldRequests : Prop :=
  ∀ (s : State) (d tag : Nat) (h : HeldMiss), let r := ringDescAt s d h.fn h.stage
    heldReady s d = some h → ringDescOk s d r = true → freeTag (s.die d) h.fn h.stage h.granule h.sub s.free = some tag →
    (∀ q ∈ (s.die d).reqs, q.fn = h.fn → q.stage = h.stage → q.tag ≠ tag) ∧
    (∀ q ∈ (s.die d).answered, q.fn = h.fn → q.stage = h.stage → q.granule = h.granule → q.sub = h.sub → q.tag ≠ tag) ∧
    ∃ t, exec (.requestAppendResume d) s = .next t ∧ (t.die d).heldMisses = (s.die d).heldMisses.filter (fun y => y.id != h.id) ∧
      (t.die d).reqs = (s.die d).reqs ++ [{ fn := h.fn, stage := h.stage, tag := tag, granule := h.granule, sub := h.sub }] ∧
      t.mem = (appendRequest s d r tag h.bytes).mem

/-- Accesses parked at a die. SERVICED takes the access out of the queue and lets what waits on it go on, or performs one that its requester has given up; KEEPWAIT
restarts its count, and its first one posts an entry of TYPE 0x03 to the tile, but no notice tells of a request that waits outside a full queue; BEGUN marks it; WITHDRAWN takes out
one that has not begun; REMOTETO traps the context, withdraws what has not begun, and leaves what has begun to the target, and of an engine operation it raises a
fault. A pair's partner takes the same answer (R367, R368, R417). What becomes of an access that has begun and is given up is the model's reading (log 29), and the length
of the queue and of the count is its choice (log 36). -/
def Sys2Proof.Claims.ParkedAccesses : Prop :=
  ∀ (s : State) (d id : Nat) (p : Parked), let only (f : Parked → Option Parked) : State := s.modDie d (fun x =>
      { x with parked := x.parked.filterMap (fun p => if p.id = id then f p else some p) })
    let on (w : PageWait) : Bool := decide (w.die = d ∧ w.parked = some id)
    let kept : State := only (fun p => some { p with noticed := true, silent := 0 })
    let left (k : Nat) (x : Parked) : Parked := if x.id = id then { x with left := some (s.tile k) } else x
    exec (.begun d id) s = .next (only (fun p => some { p with begun := true })) ∧
    ((s.die d).parked.find? (fun p => decide (p.id = id)) = some p →
      (p.left = none → exec (.serviced d id) s = .next (resumeWaits on (only (fun _ => none)))) ∧
      (∀ g, p.left = some g → exec (.serviced d id) s = .next (performLeft d id p { g with twin := none } (only (fun _ => none)))) ∧
      (p.begun = true → exec (.withdrawn d id) s = .next s) ∧
      (p.begun = false → becomesCont s p.tile p.ctx = false → exec (.withdrawn d id) s = .next (resumeWaits on (only (fun _ => none)))) ∧
      (∀ ws done part t, p.begun = false → becomesCont s p.tile p.ctx = true → (s.ctx p.tile p.ctx).wait = some (.pages ws done part) →
        ws.any on = true → (∀ o ∈ (s.tile p.tile).eng.mmas, o.ctx ≠ p.ctx) →
        makeCont (only (fun _ => none)) p.tile p.ctx (ws.map (fun w => if on w then { w with parked := none } else w)) false = (t, none) →
        exec (.withdrawn d id) s = .next t)) ∧
    (((s.die d).parked.take 256).find? (fun p => decide (p.id = id)) = none → exec (.keepwait d id) s = .next s) ∧
    (((s.die d).parked.take 256).find? (fun p => decide (p.id = id)) = some p → p.left = none →
      exec (.keepwait d id) s = .next (if p.noticed then kept else notify kept p.tile p.addr 0 0 0x03)) ∧
    (∀ die tile c w done part q, let k := tileKey die tile
      c < 11 → (s.ctx k c).wait = some (.pages [w] done part) → w.parked = some id → w.die = d →
      (s.die d).parked.find? (fun p => decide (p.id = id)) = some q →
      let u := refuseTwin (s.modDie d (fun x => { x with parked := (x.parked.filter (fun p => p.id != id || p.begun)).map (left k) })) k
        (if w.solo then c else elemKey c w.elem) .remoteto w.addr
      exec (.remoteto die tile c) s = .next (trapWaiting u k c .remoteto w.addr) ∧
      ((s.tile k).eng.waiting c = none → exec (.remoteto die tile c) s = .next (takeTrapAt u k c .remoteto w.addr (s.ctx k c).pc false))) ∧
    (∀ die tile n o w, let k := tileKey die tile
      n < 2 ^ 40 → (s.tile k).eng.op? n = some o → firstParked s o.waits = some w →
        (∀ e, o.failed = some e → w.elem < e.1) → o.id = n → ∃ t, exec (.remoteto die tile (11 + n)) s = .next t ∧ t.mem = s.mem ∧
          t.dies = (giveUp s k o.waits).dies ∧ .engineFault (tileDie k) (tileId k) n 0x11 (BitVec.ofNat 40 (ptrOff w.addr)) ∈ t.pending)

/-- A write to MERRC of 1 clears the function's MERR, one of 0 does nothing, and any other is recorded with code 1 (R430). -/
def Sys2Proof.Claims.ErrorRegister : Prop :=
  ∀ (s : State) (m fn : Nat) (v : Word), fnAnswers s m fn = true →
    exec (.merrcWrite m fn 1) s = .next (s.modModl m (fun x => { x with merr := Map.erase x.merr fn })) ∧
    exec (.merrcWrite m fn 0) s = .next s ∧ (2 ≤ v.toNat → exec (.merrcWrite m fn v) s = .next (recordMerr s m fn 1 0x1008))

/-- Registers of a die and what depends on its page services, in six parts. That an invalidation completes by an event of its own, and when, is the model's choice
(logs 1 and 8), and the outcomes that R430 leaves open are its reading (log 52; a bitmap word read in part, log 55). -/
def Obligations.TranslationEvents : Prop :=
  DieRegisters ∧ DirtyBitmaps ∧ PageAnswers ∧ HeldRequests ∧ ParkedAccesses ∧ ErrorRegister

/-! ### Host accesses (R257, R264, R429) -/

/-- A host access to transit bytes of the scratchpad of a tile that holds a unit of the function: a read returns the bytes, a write of n bytes stores them,
and a FetchAdd returns the old value and stores the sum. A function that does not answer at the port completes with Unsupported Request, and so do a Swap and a CAS; a write whose
data are poisoned is discarded and recorded with code 9 (R427 to R429). -/
def Sys2Proof.Claims.HostTileAccesses : Prop :=
  ∀ (s : State) (m port fn addr n t o : Nat) (bs : List Byte) (v : Word) (u : WorkUnit), let d := 8 * m + bits addr 40 3
    let off := addr % 2 ^ 40
    let old := (List.range n).map (fun i => tileByte s (t + 1) t false (o + i))
    let stored (l : List Byte) : State := { s with mem := Memory.writeN s.mem (spadKey t o) l }
    let done (s : State) (data : List Byte) (st : Nat) : State :=
      { s with completions := s.completions ++ [{ addr := addr, data := data, status := st }] }
    (fnHere s m port fn = false → ∀ bar relaxed poisoned, exec (.hostRead m (port, fn) (bar, addr) n) s = .next (done s [] 1) ∧
      (bar ≠ 8 → exec (.hostWrite m (port, fn) (bar, addr) (relaxed, poisoned, bs)) s = .next (done s [] 1)) ∧
      exec (.hostAtomicFetchadd m (port, fn) addr n (0, v)) s = .next (done s [] 1)) ∧
    (∀ op, op ≠ 0 → exec (.hostAtomicFetchadd m (port, fn) addr n (op, v)) s = .next (done s [] 1)) ∧
    (fnHere s m port fn = true → ∀ bar relaxed, bar ≠ 8 → exec (.hostWrite m (port, fn) (bar, addr) (relaxed, true, bs)) s = .next (recordMerr s m fn 9 (addr % 2 ^ 48))) ∧
    (fnHere s m port fn = true → barsAnswer s m fn = true → addr < 2 ^ 43 → 0 < n → off + n ≤ 2 ^ 40 → spotOf d (tileKey (d + 1) 0) off = .spad t o →
      (∃ o', spotOf d (tileKey (d + 1) 0) (off + n - 1) = .spad t o') → (s.tile t).work = some u → u.fn = fn → (s.tile t).twin = none →
      (s.modl (tileDie t / 8)).quarantine.contains t = false → (∀ i < n, regionOf s t false (o + i) = .transit) →
      exec (.hostRead m (port, fn) (4, addr) n) s = .next (done s old 0) ∧
      (∀ relaxed, bs.length = n → exec (.hostWrite m (port, fn) (4, addr) (relaxed, false, bs)) s = .next (stored bs)) ∧
      (n = 4 ∨ n = 8 → off % n = 0 → exec (.hostAtomicFetchadd m (port, fn) addr n (0, v)) s =
        .next (done (stored (bytesOfNat n (natOfBytes old + natOfBytes (bytesOfNat n v.toNat)))) old 0)))

/-- A host access to a register of 64 bits. A write of a whole word does what the write of that register does; a read of one returns its value: RINGBASE and
TAILR of a ring, MERR, MBST and BOOTST through BAR0, and those of a die's control window through BAR2 of function 0 (R8, R298, R320, R429 to R431, R435). A
virtual function has no mailbox and no BAR2, and completes with Unsupported Request there (R429). -/
def Sys2Proof.Claims.HostRegisters : Prop :=
  ∀ (s : State) (m port fn r d o : Nat) (relaxed : Bool) (bs : List Byte), let v : Word := BitVec.ofNat 64 (natOfBytes bs)
    let at' (pos o : Nat) : Nat := pos * 2 ^ 28 + o
    let x := Map.getD (s.modl m).rings (fn * 64 + r) {}
    let done (s : State) (addr : Nat) (data : List Byte) (st : Nat) : State :=
      { s with completions := s.completions ++ [{ addr := addr, data := data, status := st }] }
    let wr (bar addr : Nat) (e : Instr) : Prop := exec (.hostWrite m (port, fn) (bar, addr) (relaxed, false, bs)) s = exec e s
    let rd (bar addr : Nat) (v : Word) : Prop := exec (.hostRead m (port, fn) (bar, addr) 8) s = .next (done s addr (bytesLE 8 v) 0)
    fnHere s m port fn = true → bs.length = 8 →
    (r < 64 → wr 0 (8 * r) (.tailrWrite m fn r v) ∧ wr 0 (0x200 + 8 * r) (.ringbaseWrite m fn r v) ∧ rd 0 (8 * r) x.tail ∧ rd 0 (0x200 + 8 * r) x.base) ∧
    wr 0 0x1008 (.merrcWrite m fn v) ∧ rd 0 0x1000 (Map.getD (s.modl m).merr fn 0) ∧ rd 0 0x1008 0 ∧ rd 0 0x1200 (bootst s m) ∧
    (fn = 0 → rd 0 0x1108 (mbst s m) ∧ let p := v.toNat
      (v.toNat % 256 = 1 → wr 0 0x1100 (.cloveResume m p)) ∧ (v.toNat % 256 = 5 → wr 0 0x1100 (.kill m p)) ∧ (v.toNat % 256 = 9 → wr 0 0x1100 (.swcfg m p))) ∧
    (fn ≠ 0 → ∀ a ∈ [0x1100, 0x1108], exec (.hostWrite m (port, fn) (0, a) (relaxed, false, bs)) s = .next (done s a [] 1) ∧
      exec (.hostRead m (port, fn) (0, a) 8) s = .next (done s a [] 1)) ∧
    (fn ≠ 0 → ∀ a, exec (.hostWrite m (port, fn) (2, 8 * a) (relaxed, false, bs)) s = .next (done s (8 * a) [] 1) ∧
      exec (.hostRead m (port, fn) (2, 8 * a) 8) s = .next (done s (8 * a) [] 1)) ∧
    (fn = 0 → barsAnswer s m 0 = true → d < 8 → let k := 8 * m + d
      (8 * o < 0x800 → wr 2 (at' d (8 * o)) (.tctxWrite k (8 * o) v)) ∧ wr 2 (at' d 0x800) (.tinv k v) ∧ wr 2 (at' d 0x810) (.prespRetry k v) ∧
      (o < 255 → wr 2 (at' d (0x2000 + 8 * o)) (.polgrpWrite k o v)) ∧ rd 2 (at' d 0x808) (if (s.die k).tinv = [] then 0 else 1) ∧
      (8 * o < 0x800 → rd 2 (at' d (8 * o)) (BitVec.ofNat 64 (tctxField (s.tctx k (8 * o / 64)) (8 * o % 64) 8))) ∧
      rd 2 (at' d 0x820) ((s.die k).switch.collto.setWidth 64) ∧ (o < 255 → rd 2 (at' d (0x2000 + 8 * o)) (Map.getD (s.die k).polgrp o 0)))

/-- How a host access to the HBM window ends: its pieces are translated in order of address; a write to sealed memory is refused; then the sectors that are
read give the outcome by the most severe syndrome, and an access that passes is made. -/
def Sys2Proof.Claims.hostGives (s : State) (d fn port : Nat) (k : HostKind) (o n : Nat) (v : List Byte) (t : State) (e : HostEnd) : Prop :=
  let pieces := hostPieces d fn port (decide (k ≠ .read)) (cutHbm (n / 1024 + 2) o n) s
  let kind : AccKind := match k with
    | .read => .load
    | .write => .store
    | .add => .amo
  pieces = (t, .error e) ∨
  ∃ ps s1, pieces = (s1, .ok ps) ∧
    let s2 := ps.foldl (fun (s : State) p => match p with
      | .hbm die hpa m leaf => recordErrors s die (sectorsRead kind hpa m) leaf.tag
      | .tile _ _ _ _ | .host _ _ _ | .shard _ => s) s1
    let shut : Bool := decide (k ≠ .read) && ps.any (Piece.sealedFor s1 d)
    let lost : Bool := ps.any (Piece.broken s2 kind)
    let alien : Bool := ps.any (Piece.mistagged s2 kind)
    (shut = true ∧ t = s1 ∧ e = .refused false) ∨ (shut = false ∧ lost = true ∧ t = s2 ∧ e = .poisoned) ∨
    (shut = false ∧ lost = false ∧ alien = true ∧ t = s2 ∧ e = .refused true) ∨
    (shut = false ∧ lost = false ∧ alien = false ∧ ∃ old, hostMake fn k ps v s2 = (t, old) ∧ e = .done (if k = .write then [] else old))

/-- A host access to HBM. A read and a FetchAdd complete with what was read, a write that succeeds has no
completion; a refusal completes with Unsupported Request, and freezes the function where it is a containment event; data that cannot be corrected
completes as poisoned; an access that a page service must answer waits (R310, R317, R413, R429). -/
def Sys2Proof.Claims.HostMemoryAccesses : Prop :=
  ∀ (s s1 : State) (m port fn addr n o : Nat) (bs : List Byte) (v : Word) (relaxed : Bool) (e : HostEnd), let d := 8 * m + bits addr 40 3
    let off := addr % 2 ^ 40
    let done (s : State) (data : List Byte) (st : Nat) : State :=
      { s with completions := s.completions ++ [{ addr := addr, data := data, status := st }] }
    let waiting (kind : Nat) (data : List Byte) (die stage tag : Nat) : HostWait :=
      { modl := m, port := port, fn := fn, addr := addr, size := n, kind := kind, bytes := data, relaxed := relaxed && decide (kind = 1)
        die := die, stage := stage, tag := tag }
    let ends (kind : Nat) (data : List Byte) : State := match e with
      | .done l => if kind = 1 then s1 else done s1 l 0
      | .refused false => done s1 [] 1
      | .refused true => done (freezeFn s1 m fn) [] 1
      | .poisoned => done s1 [] 2
      | .waits die stage tag => { s1 with hostWaits := s1.hostWaits ++ [waiting kind data die stage tag] }
    let gives (k : HostKind) (l : List Byte) : Prop := hostGives s d fn port k o n l s1 e
    fnHere s m port fn = true → barsAnswer s m fn = true → addr < 2 ^ 43 → 0 < n → off + n ≤ 2 ^ 40 → spotOf d (tileKey (d + 1) 0) off = .hbm o →
    (∃ o', spotOf d (tileKey (d + 1) 0) (off + n - 1) = .hbm o') →
    (gives .read [] → exec (.hostRead m (port, fn) (4, addr) n) s = .next (ends 0 [])) ∧
    (bs.length = n → gives .write bs → exec (.hostWrite m (port, fn) (4, addr) (relaxed, false, bs)) s = .next (ends 1 bs)) ∧
    (n = 4 ∨ n = 8 → off % n = 0 → gives .add (bytesOfNat n v.toNat) →
      exec (.hostAtomicFetchadd m (port, fn) addr n (0, v)) s = .next (ends 2 (bytesOfNat n v.toNat)))

/-- What the host reads and writes: tile memory, registers, and HBM. The status that a refused write shows, the reads of offsets without a register, and that a
service's refusal gives Unsupported Request are the model's reading (log 52); the times it waits are its choice (log 36). -/
def Obligations.HostAccesses : Prop := HostTileAccesses ∧ HostRegisters ∧ HostMemoryAccesses

/-! ### The fabric (R348 to R365, R369, R370, R417) -/

/-- The packet at the head of a virtual channel that goes by an address leaves its switch towards the die of its target: from a die switch to a die of the same module by the
direct link, else to the fabric switch; from a fabric switch to a die of its own module by that die's port, else by the first of X, Y, Z and W in which the
modules' places in the box differ, along X and Y straight, along Z and W the shorter way round; at its target die it enters the mesh. A packet of an older generation is
dropped (R352, R358). That an access acts at its target without packets, so that a packet at its target die has nothing left to do, is the model's choice (log 7), and so
are the ports of a route where R352 leaves them open (log 36). -/
def Sys2Proof.Claims.PacketRouting : Prop :=
  ∀ (s s1 : State) (sw port vc : Nat) (p : Packet), takeIn s sw port (fun x => decide (x.kind ≠ 2 ∧ x.vc.toNat = vc)) = some (p, s1) →
    let job := s1.job p.job
    let runs (t : State) : Prop := exec (.packetRoute sw port vc) s = .next t
    (pktOld s1 p = true → runs s1) ∧
    (pktOld s1 p = false → ∀ d, (job.entry? (ptrDie p.target)).bind entryDie = some d →
      (sw < 2 ^ 40 → d = sw → runs s1) ∧ (sw < 2 ^ 40 → d ≠ sw → runs (sendOut s1 sw port (if d / 8 = sw / 8 then d % 8 else 8) p)) ∧
      (∀ m, sw = fabricSw m → (d / 8 = m → runs (sendOut s1 sw port (8 + d % 8) p)) ∧
        (d / 8 ≠ m → ∀ i n dim, job.box.findIdx? (fun x => decide (x = m)) = some i → job.box.findIdx? (fun x => decide (x = d / 8)) = some n →
          let place (x e : Nat) : Nat := x / job.pitch e % job.extent e
          dim < 4 → (∀ e, e < dim → place i e = place n e) → place i dim ≠ place n dim →
          let up : Bool := if dim < 2 then decide (place i dim < place n dim)
            else decide (2 * ((place n dim + job.extent dim - place i dim) % job.extent dim) ≤ job.extent dim)
          runs (sendOut s1 sw port (if up then 2 * dim else 2 * dim + 1) p))))

/-- The oldest collective packet of a port acts at its switch: FWD sends it on, REDUCE with the last contributions goes on with the merge and else holds it, MCAST stores it for its
branches, or, where its mask names none, lets operations of routes that deliver nowhere complete, DELIVER takes it to the die's endpoint. What cannot be done faults at the packet's issuers (R239, R353, R360, R365). -/
def Sys2Proof.Claims.CollectiveHops : Prop :=
  ∀ (s s1 : State) (sw port : Nat) (p : Packet) (e : BitVec 32) (rest : List (BitVec 32)),
    takeIn s sw port (fun x => decide (x.kind = 2)) = some (p, s1) → p.ops = e :: rest → let sel := (e.extractLsb' 0 16).toNat
    let q : Packet := { p with det := false, ingress := 0, ops := rest, nhop := p.nhop - 1 }
    let runs (t : State) : Prop := exec (.collHop sw port) s = .next t
    (pktOld s1 p = true → runs s1) ∧
    (pktOld s1 p = false →
      (e.extractLsb' 28 4 = 0 → (badPort s1 q sw sel = false → runs (sendOut s1 sw port sel q)) ∧
        (badPort s1 q sw sel = true → runs (faultPkt s1 q Cause.nomem.code 0))) ∧
      (e.extractLsb' 28 4 = 1 → let ports := (List.range 16).filter (fun i => e.getLsbD i)
        ports ≠ [] → (∀ i ∈ ports, badPort s1 q sw i = false) →
        ∃ t, runs t ∧ (t.sw sw).store = (s1.sw sw).store ++ [{ id := (s1.sw sw).nextEntry, ingress := port, pkt := q, ports := ports }] ∧
          ∀ i ∈ ports, .mcastBranchSend sw i (s1.sw sw).nextEntry ∈ t.pending) ∧
      (e.extractLsb' 28 4 = 1 → (∀ i < 16, e.getLsbD i = false) → runs (endBranch s1 q)) ∧
      (e.extractLsb' 28 4 = 2 → p.ord = false → let key := slotKey q sel
        let total := (e.extractLsb' 16 12).toNat
        (∀ r ∈ (s1.sw sw).slots, r.key ≠ key) → (s1.sw sw).slots.length < 256 → p.leaves < total →
        ∃ t x, runs t ∧ (t.sw sw).slots = (s1.sw sw).slots ++ [x] ∧ x.key = key ∧ x.expect = total ∧ x.late = false ∧
          x.pkt.elems = p.elems ∧ x.pkt.leaves = p.leaves ∧ x.pkt.contrib = 1#16 <<< port ∧ t.pending = s1.pending) ∧
      (e.extractLsb' 28 4 = 3 → (sw < 2 ^ 40 → runs (s1.post (.collEndpointArrival sw q))) ∧
        (2 ^ 40 ≤ sw → runs (faultPkt s1 q Cause.nomem.code 0))))

/-- A branch of a stored packet leaves; with the last, the packet leaves the store. A slot whose time has run out sends its partial on; a limit of 0 disables
that. The ingress of a partial is the lowest port that has contributed, which is the model's reading (log 37) (R360, R365). -/
def Sys2Proof.Claims.BranchesAndTimeouts : Prop :=
  ∀ (s : State) (sw port n : Nat),
    (∀ e, (s.sw sw).store.find? (fun x => decide (x.id = n) && x.ports.contains port) = some e → let left := e.ports.filter (fun q => q != port)
      let store (l : List McastEntry) : List McastEntry := if left = [] then l.filter (fun y => y.id != n) else l.map (fun y => if y.id = n then { e with ports := left } else y)
      let u := s.modSw sw (fun x => { x with store := store x.store })
      (pktOld u e.pkt = false → exec (.mcastBranchSend sw port n) s = .next (sendOut u sw e.ingress port e.pkt)) ∧
      (pktOld u e.pkt = true → exec (.mcastBranchSend sw port n) s = .next u)) ∧
    ((s.sw sw).collto = 0 → exec (.collSlotTimeout sw n) s = .next s) ∧
    (∀ r e rest, (s.sw sw).collto ≠ 0 → (s.sw sw).slots.find? (fun x => decide (x.key = n)) = some r → r.late = false →
      r.pkt.ops = e :: rest → e.extractLsb' 28 4 = 0 → let sel := (e.extractLsb' 0 16).toNat
      let u := s.modSw sw (fun x => { x with slots := x.slots.map (fun y => if y.key = n then { r with late := true } else y) })
      let q : Packet := { r.pkt with ops := rest, nhop := r.pkt.nhop - 1 }
      badPort u q sw sel = false → exec (.collSlotTimeout sw n) s = .next (sendOut u sw (((List.range 16).find? (fun i => r.pkt.contrib.getLsbD i)).getD 0) sel q))

/-- Contributions at an endpoint. An unreduced packet is delivered; a contribution to an unordered reduction joins its context, and the
last one delivers the result; the context of an ordered reduction keeps its contributions for the canonical order. The last acknowledgement completes the operation (R239,
R361, R362, R364). -/
def Sys2Proof.Claims.EndpointArrivals : Prop :=
  (∀ (s : State) (d : Nat) (p : Packet), let t := tileKey d p.srcTile
    let runs (u : State) : Prop := exec (.collEndpointArrival d p) s = .next u
    (pktOld s p = true → runs s) ∧
    (pktOld s p = false → (p.red = 3 → runs (deliverPkt t p s)) ∧
      (p.red ≠ 3 → p.ord = false → ∀ r, (s.die d).endpoints.find? (fun r => decide (r.key = endKey p)) = some r → r.late = false →
        let m := mergePkt r.pkt p
        let put (x : RedSlot) : State := s.modDie d (fun y => { y with endpoints := y.endpoints.filter (fun z => z.key != endKey p) ++ [x] })
        (m.leaves < p.total → runs (put { key := endKey p, pkt := m, expect := p.total, late := false })) ∧
        (p.total ≤ m.leaves →
          runs (deliverPkt t m (put { key := endKey p, pkt := { m with elems := [] }, expect := p.total, late := true })))) ∧
      (p.red ≠ 3 → p.ord = true → ∀ o, (s.die d).ordered.find? (fun o => decide (o.key = endKey p)) = some o → o.leaves.length + 1 < o.total →
        runs (s.modDie d (fun y => { y with
          ordered := y.ordered.filter (fun z => z.key != endKey p) ++ [{ o with leaves := o.leaves ++ [p] }] }))))) ∧
  (∀ (s : State) (die tile id : Nat) (o : EngineOp), let k := tileKey die tile
    (s.tile k).eng.op? id = some o → exec (.collComplete die tile id) s = .next (endOp s k o))

/-- A flit arrives at a port. The number expected with a good CRC is accepted, and the next is expected, as far as flits that are held follow; with its last flit a
packet has arrived, and its sender holds it no more and goes on with what waited for room. On a detour a later number is held, once. Any other flit changes nothing but
that the sender may be told the number expected (R355, R357). Between modules a link has a number for each pair of modules that it joins (the model's choice, log 36). -/
def Sys2Proof.Claims.LinkFlits : Prop :=
  ∀ (s : State) (sw port far q : Nat) (seq : BitVec 16), linkPeer sw port = some (far, q) → let l := s.link sw port
    let u := (s.modLink sw port (fun l => { l with rxSeq := l.rxSeq + 1 })).modLink far q (fun l => { l with replays := 0 })
    let comes (good : Bool) (p : Option Packet) (t : State) : Prop := exec (.linkFlitReceive sw port seq good p) s = .next t
    (∀ p, seq = l.rxSeq → comes true p (acceptEarly sw port far q l.early.length (acceptFlit sw port far q seq p s))) ∧
    (seq = l.rxSeq → l.early = [] → comes true none u ∧
      ∀ x, comes true (some x) (arrivePkt (flushLink (u.modLink far q (fun l => { l with
        unacked := ((u.link far q).unacked.dropWhile (fun e => e.1 != seq)).drop 1 })) far q) sw (port % 16) x)) ∧
    (∀ p, (s.link far q).up = false → seq ≠ l.rxSeq → let old : Prop := (seq - l.rxSeq).getLsbD 15 = true ∨ ∃ e ∈ l.early, e.1 = seq
      (old → comes true p s) ∧ (¬ old → comes true p (s.modLink sw port (fun l => { l with early := l.early ++ [(seq, p)] })))) ∧
    (∀ good p, good = false ∨ (seq ≠ l.rxSeq ∧ (s.link far q).up = true) → comes good p s ∨ comes good p (s.post (.linkReplay far q l.rxSeq)))

/-- A sender replays from the number that its receiver named, and after eight replays without progress the link is down. A link that is down is down at both
its ends, as is the retrained link up at both (R355, R357). -/
def Sys2Proof.Claims.LinkStates : Prop :=
  ∀ (s : State) (sw port far q : Nat) (seq : BitVec 16), linkPeer sw port = some (far, q) →
    ((s.link sw port).replays < 8 ∨ (s.link sw port).up = false → exec (.linkReplay sw port seq) s =
      .next (resend (s.modLink sw port (fun l => { l with replays := l.replays + 1 })) sw port (some seq))) ∧
    ((s.link sw port).up = true → ∀ i, i = .linkDown sw port ∨ (i = .linkReplay sw port seq ∧ 8 ≤ (s.link sw port).replays) →
      ∃ t, exec i s = .next t ∧ (t.link sw port).up = false ∧ (t.link far q).up = false ∧ t.mem = s.mem) ∧
    ((s.link sw port).up = false → exec (.linkDown sw port) s = .next s) ∧
    (∃ t, exec (.linkRetrain sw port) s = .next t ∧ (t.link sw port).up = true ∧ (t.link far q).up = true ∧ t.mem = s.mem)

/-- The sweep. A packet that arrives joins the main segment, the late segment where a MARK has come by its port, and the overflow segment where the switch is
closed. A MARK marks its port; all eight die ports of a fabric switch start its sweep, and the last of its connected ports closes a switch. The drained mesh of a die
starts the sweep of its switch, and marks the switch's own port (R369, R370, R391). What the sweep makes of a packet inside a switch is the model's reading (log 38). -/
def Sys2Proof.Claims.SweepSteps : Prop :=
  (∀ (s : State) (sw port j : Nat) (p : Packet) (w : Sweep), (s.sw sw).sweep = some w → let es := (nextPorts 9 s sw port p).map (fun e => (port, e))
    let keeps (v : Sweep) : Prop := exec (.sweepPacketArrive sw port p) s = .next (s.modSw sw (fun x => { x with sweep := some v }))
    let marks (t : State) : Prop := exec (.markArrive sw port j) s = .next t
    let v : Sweep := { w with marked := insertNat w.marked port }
    let u := s.modSw sw (fun x => { x with sweep := some v })
    let more := addSwept w.overflow es
    (w.closed = false → (port ∉ w.marked → keeps { w with main := addSwept w.main es }) ∧
      (port ∈ w.marked → keeps { w with late := addSwept w.late es })) ∧
    (w.closed = true → (segBytes more ≤ Config.overflowBytes → keeps { w with overflow := more }) ∧
      (Config.overflowBytes < segBytes more → keeps { w with lost := true })) ∧
    (w.job ≠ j → marks s) ∧
    (w.job = j → (sw < 2 ^ 40 ∨ w.begun = true ∨ ∃ n < 8, 8 + n ∉ v.marked) → (w.begun = false ∨ ∃ n ∈ connected u j sw, n ∉ v.marked) → marks u) ∧
    (w.job = j → 2 ^ 40 ≤ sw → w.begun = false → (∀ n < 8, 8 + n ∈ v.marked) → (∃ n ∈ connected (startSweep j sw u) j sw, n ∉ v.marked) →
      marks (startSweep j sw u)) ∧
    (w.job = j → w.begun = true → (∀ n ∈ connected u j sw, n ∈ v.marked) →
      marks (sweepDone j (u.modSw sw (fun x => { x with sweep := some { v with closed := true } }))))) ∧
  (∀ (s : State) (d j : Nat), d < 2 ^ 40 → let u := startSweep j d s
    ∃ w, (u.sw d).sweep = some w ∧ w.job = j ∧ w.begun = true ∧ w.closed = false ∧ w.late = [] ∧ w.overflow = [] ∧ w.lost = false ∧
      let v : Sweep := { w with marked := insertNat w.marked (d % 8) }
      ((∃ n ∈ connected u j d, n ∉ v.marked) → exec (.meshDrained d j) s = .next (u.modSw d (fun x => { x with sweep := some v }))))

/-- The comparator of a pair, which compares the packets in the next place of both twins. Equal copies of a barrier arrival or of a forced vote go on as one record, equal copies of
any other packet permit their senders to go on; copies that differ are dropped, and both twins raise PAIR; then it goes on to the next place. A copy whose partner does
not come in time is dropped in the same way, also where the partner's tile is gone; where both copies are there, or neither, no time has run out (R417). The hash is a
free function (log 35). -/
def Sys2Proof.Claims.PairComparisons : Prop :=
  ∀ (s : State) (die tile : Nat) (w x : Twin), let k := tileKey die tile
    (s.tile k).twin = some w → w.partner ≠ k →
    ((s.tile w.partner).twin = none → (w.sent = [] → exec (.pairTimeout die tile) s = .next s) ∧
      (w.sent ≠ [] → ∃ t, exec (.pairTimeout die tile) s = .next t ∧ t = raiseForced (modTwin s k (fun y => { y with
        sent := y.sent.drop 1, mismatches := if y.mismatchSsn = (s.tile k).step.ssn then y.mismatches + 1 else 1
        mismatchSsn := (s.tile k).step.ssn })) k 0x22 1)) ∧
    ((s.tile w.partner).twin = some x →
      let both (f g : Twin → Twin) : State := modTwin (modTwin s k f) w.partner g
      let drop (ssn : BitVec 32) (y : Twin) : Twin := { y with
        sent := y.sent.drop 1, mismatches := if y.mismatchSsn = ssn then y.mismatches + 1 else 1, mismatchSsn := ssn }
      let differ : State := raiseForced (raiseForced (both (drop (s.tile k).step.ssn) (drop (s.tile w.partner).step.ssn)) k 0x22 1) w.partner 0x22 1
      let compares (t : State) : Prop := exec (.pairCompare die tile) s = .next (if pairReady t k then t.post (.pairCompare (tileDie k) (tileId k)) else t)
      (∀ ka a l kb b r, w.sent = (ka, a) :: l → x.sent = (kb, b) :: r →
        exec (.pairTimeout die tile) s = .next s ∧
        (Config.packetHash a ≠ Config.packetHash b → compares differ) ∧
        (Config.packetHash a = Config.packetHash b →
          (ka = 32 ∨ ka = 33 → compares (sendRecord (both (fun y => { y with sent := l }) (fun y => { y with sent := r })) k
            (BitVec.ofNat 128 (natOfBytes a)))) ∧
          (ka ≠ 32 → ka ≠ 33 → compares (both (fun y => { y with sent := l, permits := y.permits ++ [(ka, kb)] })
            (fun y => { y with sent := r, permits := y.permits ++ [(kb, ka)] }))))) ∧
      (w.sent = [] → x.sent = [] → exec (.pairTimeout die tile) s = .next s) ∧
      (w.sent = [] ∨ x.sent = [] → exec (.pairCompare die tile) s = .next s) ∧
      ((w.sent = [] ∧ x.sent ≠ []) ∨ (w.sent ≠ [] ∧ x.sent = []) → exec (.pairTimeout die tile) s = .next differ))

/-- The scale-up fabric and the comparator of a pair, in eight parts. -/
def Obligations.FabricEvents : Prop := PacketRouting ∧ CollectiveHops ∧ BranchesAndTimeouts ∧ EndpointArrivals ∧ LinkFlits ∧ LinkStates ∧ SweepSteps ∧ PairComparisons

/-! ### The mailbox (R383 to R423, R431, R436 to R439) -/

/-- The firmware of a module answers its mailbox, no command is under way, and the host completes the module's reads of the block at `ptr`. That it may fail to is the
model's input (log 43, DESIGN CHOICE). -/
def Sys2Proof.Claims.mailboxFree (s : State) (m ptr : Nat) : Prop :=
  m < 2 ^ 32 ∧ mbState s m = .ready ∧ (s.modl m).mbBusy = false ∧ hostMute s (ptr / 256 * 256 % 2 ^ 64) 64 = false

/-- The first n bytes of the command block at `ptr`. -/
def Sys2Proof.Claims.blockAt (s : State) (ptr n : Nat) : List Byte := Memory.readN s.hostMem (ptr / 256 * 256 % 2 ^ 64) n

/-- The commands whose block names a switch, a resume, a checkpoint or a restore. -/
def Sys2Proof.Claims.cloveForm (m ptr : Nat) (i : Instr) : Prop :=
  i = .cloveSwitchDrain m ptr ∨ i = .cloveAbortSwitch m ptr ∨ i = .cloveSwitchForced m ptr ∨ i = .cloveResume m ptr ∨ i = .checkpoint m ptr ∨
    (ptr ≠ 0 ∧ i = .restore m ptr)

/-- Whether an entry of `saves` is a save of module m by a switch of job j, as the job's module of index `i`. -/
def Sys2Proof.Claims.isSaveOf (m j i : Nat) (e : Nat × Save) : Bool :=
  decide (2 ^ 60 ≤ e.1) && decide (e.2.modl = m) && decide (e.2.index = i) && e.2.parts.all (fun g => decide (2 ^ 80 ≤ g.1 ∨ g.1 / 256 = j))

/-- A command while BUSY is set is ignored and recorded with code 2. In RECOVERY and in ROLLBACK only IMAGE is accepted, and any other ends DENIED. An opcode that the mailbox does
not know ends BADOP. A block that cannot be read ends FAILED, with nothing done. A block with a reserved byte that is not zero ends BADBLOCK (R431, R435). Which bytes
of host memory cannot be read is an input of the model (log 43, DESIGN CHOICE), and that the mailbox is silent before its firmware runs is log 43 too. -/
def Sys2Proof.Claims.MailboxRules : Prop :=
  ∀ (s : State) (m ptr : Nat) (v : Word), let x := s.modl m
    let other (i : Instr) : Prop := cloveForm m ptr i ∨ i ∈ [Instr.containRelease m ptr, .containExclude m ptr, .containKill m ptr, .readctx m ptr,
      .throttle m ptr, .kill m ptr, .attest m ptr, .keywrap m ptr, .swcfg m ptr, .badop m v]
    x.powered = true → x.frozenFns.contains 0 = false →
    (x.bootState ∈ [4#8, 0x80#8, 0x81#8] → x.mbBusy = true → ∀ i, i = .image m ptr ∨ other i → exec i s = .next (recordMerr s m 0 2 0x1100)) ∧
    (x.bootState ∈ [0x80#8, 0x81#8] → x.mbBusy = false → ∀ i, other i → exec i s = .next (mbEnd s m 3)) ∧
    (x.bootState ∉ [4#8, 0x80#8, 0x81#8] → ∀ i, i = .image m ptr ∨ other i → exec i s = .next s) ∧
    (x.bootState = 4 → x.mbBusy = false → let b := ptr / 256 * 256 % 2 ^ 64
      let size : List (Instr × Nat) := [(.containRelease m ptr, 8), (.containExclude m ptr, 8), (.containKill m ptr, 8), (.readctx m ptr, 16), (.throttle m ptr, 8),
        (.kill m ptr, 8), (.image m ptr, 16), (.attest m ptr, 40), (.keywrap m ptr, 16), (.swcfg m ptr, 8)]
      exec (.badop m v) s = .next (mbEnd s m 1) ∧
      (∀ e ∈ size, hostMute s b e.2 = true → exec e.1 s = .next (mbEnd s m 4)) ∧
      (∀ i, cloveForm m ptr i → hostMute s b 64 = true → exec i s = .next (mbEnd s m 4)) ∧
      (hostMute s b 64 = false →
        (descField (blockAt s ptr 8) 4 4 ≠ 0 → exec (.kill m ptr) s = .next (mbEnd s m 2) ∧ exec (.throttle m ptr) s = .next (mbEnd s m 2)) ∧
        (descField (blockAt s ptr 16) 4 4 ≠ 0 → exec (.keywrap m ptr) s = .next (mbEnd s m 2)) ∧
        (descField (blockAt s ptr 16) 5 3 ≠ 0 → ∀ i ∈ [Instr.containRelease m ptr, .containExclude m ptr, .containKill m ptr, .readctx m ptr], exec i s = .next (mbEnd s m 2)) ∧
        (descField (blockAt s ptr 64) 12 4 ≠ 0 ∨ descField (blockAt s ptr 64) 40 24 ≠ 0 → ∀ i, cloveForm m ptr i → exec i s = .next (mbEnd s m 2))))

/-- A module accepts a command of the switch family: its mailbox is BUSY. A block that breaks its table ends BADCMD, and a save area that is malformed or too small BADAREA. Where
the box has one module the switch starts at once: in mode 0 every partition holds at its boundary; in mode 1 the partition aborts and holds, also a WP or PAR launch with
IDEM = 1 that has begun, whether or not a unit of it is resident; in mode 2 it stops where it is (R383 to R387, R391, R393). The bounds on the size of a save are log 39 (DESIGN
CHOICE), what breaks the table log 41 (DEDUCED), and the sweep's start log 38 (DEDUCED). -/
def Sys2Proof.Claims.SwitchCommands : Prop :=
  ∀ (s : State) (m ptr : Nat), mailboxFree s m ptr → let bs := blockAt s ptr 64
    let f (o n : Nat) : Nat := descField bs o n
    let j := f 8 2
    let a : Accepted := { index := f 10 2, modl := m, area := BitVec.ofNat 64 (f 16 8), result := BitVec.ofNat 64 (f 24 8), map := BitVec.ofNat 64 (f 32 8) }
    let c : Command := { cmd := f 0 1, mode := f 1 1, esc := f 2 1, hbm := f 3 1, limit := f 4 4, accepted := [a] }
    let busy := s.modModl m (fun x => { x with mbBusy := true })
    let held (y : Command) : State := busy.modJob j (fun x => { x with cmd := some y })
    let need := saveBytes s j m (f 3 1) (decide (f 1 1 = 2 ∨ f 4 4 ≠ 0))
    let room : Prop := ∃ l, scatterList s a.area.toNat = some l ∧ need ≤ (l.map (fun e => e.2)).sum
    ∀ i, cloveForm m ptr i → f 12 4 = 0 → f 40 24 = 0 →
    (badCommand s m bs = true → exec i s = .next (finishOn s a 5 0 0 0 [])) ∧
    (badCommand s m bs = false → f 0 1 ∈ [1, 3] → (scatterList s a.area.toNat = none → exec i s = .next (finishOn s a 6 0 0 0 [])) ∧
      (∀ l, scatterList s a.area.toNat = some l → (l.map (fun e => e.2)).sum < need → exec i s = .next (finishOn s a 6 0 0 0 [])) ∧
      (room → (s.job j).cmd = none → (1 < (s.aliveBox j).length → exec i s = .next (held c)) ∧
        ((s.job j).box = [m] → a.index = 0 → let u := busy.modJob j (fun x => { x with
            cmd := some { c with begun := true }, manifest := if c.cmd = 3 then a.map else x.manifest })
          (c.mode = 0 → ∃ t, exec i s = .next t ∧ (t.modl m).mbBusy = true ∧ .switchQuiet j ∈ t.pending ∧ (c.limit ≠ 0 → .switchEscalate j ∈ t.pending) ∧
            ∀ g ∈ jobBars u j, (t.part g).holding = true) ∧
          (∀ g, jobBars u j = [g] → (u.part g).bar = .running → c.limit = 0 → (g < 2 ^ 80 → barSettled u g = false →
            (c.mode = 1 → u.isIrrevocable g = false → exec i s = .next ((switchAbort g u).post (.switchQuiet j))) ∧
            (c.mode = 2 → exec i s = .next ((stopPart g u).post (.switchQuiet j)))) ∧
            (∀ n l, g = 2 ^ 80 + n → Map.get? u.launches n = some l → bits (blockField l.block 27 1) 1 1 = 1 → l.next ≠ 0 → (u.part g).held = false →
              (u.part g).stoppedMid = false → u.isIrrevocable g = false → c.mode = 1 → exec i s = .next ((switchAbort g u).post (.switchQuiet j)))))))

/-- RESUME and RESTORE, for a box of one module: the job is loaded, the result record has status 0 and counts the bytes read, none where a restore takes the buddy's copy, and the
mailbox is free; a RESUME keeps the address of the die map. The restore that follows an UNRECOVERABLE outcome takes the job's last checkpoint, or where it has none ends its launches
(R288, R384, R404, R423). What a save is checked for and what is counted are logs 32 and 40 (DEDUCED), and the shards that a map adopts log 47 (DEDUCED). -/
def Sys2Proof.Claims.LoadCommands : Prop :=
  (∀ (s : State) (m ptr : Nat), mailboxFree s m ptr → let bs := blockAt s ptr 64
    let f (o n : Nat) : Nat := descField bs o n
    let j := f 8 2
    let a : Accepted := { index := f 10 2, modl := m, area := BitVec.ofNat 64 (f 16 8), result := BitVec.ofNat 64 (f 24 8), map := BitVec.ofNat 64 (f 32 8) }
    let c : Command := { cmd := f 0 1, mode := f 1 1, esc := f 2 1, hbm := f 3 1, limit := f 4 4, accepted := [a] }
    let u := (s.modModl m (fun x => { x with mbBusy := true })).modJob j (fun x => { x with off := x.off || decide (c.cmd = 2), cmd := some c })
    badCommand s m bs = false → f 12 4 = 0 → f 40 24 = 0 → (s.job j).cmd = none → a.index = 0 → ∀ i, cloveForm m ptr i →
    (f 0 1 = 2 → ∀ l x dieMap v, scatterList s a.area.toNat = some l → findSave s j 0 m l = some x → findSave u j 0 m l = some x →
      readMap s a.map.toNat = dieMap → dieMap.length = 8 → shapeOk u j dieMap [x] = true → loadSaves j dieMap (mapBox dieMap) [x] u = some v →
      let t := v.modJob j (fun y => { y with mapAt := some a.map, adopted := adoptedOf u j dieMap })
      exec i s = .next (finishOn (t.modJob j (fun y => { y with cmd := none })) a 0 0 x.image.length 0 (savedStates t j))) ∧
    (f 0 1 = 4 → (s.job j).box = [m] → let areas : Areas := fun i => ([a].find? (fun b => decide (b.index = i))).bind (fun b => scatterList u b.area.toNat)
      let ck := (restoreChoice u j a.map.toNat areas 1).getD 0
      let count := ((shardPresent u j a.map.toNat areas 0 ck).map (fun e => if e.2 then 0 else e.1.image.length)).getD 0
      ∀ v, restoreJob j a.map.toNat areas u = (v, 0) → let t := v.modJob j (fun y => { y with cmd := none })
      exec i s = .next (finishOn t a 0 0 count 0 (savedStates t j)))) ∧
  (∀ (s : State) (m j : Nat) (job : Job), s.jobs.filter (fun e => decide (e.2.modl = m) && e.2.stopped) = [(j, job)] →
    (job.ck = 0 → exec (.restore m 0) s = .next (endUnrecoverable j s)) ∧
    (job.ck ≠ 0 → ∀ t st, restoreJob j job.manifest.toNat (fun _ => none) s = (t, st) →
      exec (.restore m 0) s = .next (if st = 0 then t else endUnrecoverable j s)))

/-- The sweep of a quiet job begins: the meshes of the dies of its modules drain. An escalation makes a drain an abort where the block says so, else a forced switch, which also stops a
partition that is held, and abandons a checkpoint; a forced switch has none (R369, R388, R389, R420). What an escalation does to a partition that is held already, and the order of a sweep, are
log 38 (DEDUCED). -/
def Sys2Proof.Claims.SwitchProgress : Prop :=
  ∀ (s : State) (j : Nat) (c : Command), (s.job j).cmd = some c → c.begun = true → c.sweeping = false →
    (∃ t, exec (.switchQuiet j) s = .next t ∧ t.mem = s.mem ∧ t.dies = s.dies ∧ (t.job j).cmd = some { c with sweeping := true } ∧
      ∀ m ∈ s.aliveBox j, ∀ p < 8, .meshDrained (8 * m + p) j ∈ t.pending) ∧
    (c.limit = 0 ∨ c.mode = 2 → exec (.switchEscalate j) s = .next s) ∧
    (c.limit ≠ 0 → c.mode ≠ 2 → let mode := if c.mode = 0 ∧ c.esc = 1 then 1 else 2
      let next := if c.hbm = 2 then 1 else c.hbm
      let u (mode : Nat) : State := s.modJob j (fun x => { x with cmd := some { c with mode := mode, escalated := true, hbm := next } })
      (c.cmd ≠ 3 → ∀ g, jobBars s j = [g] → (barSettled s g = false → exec (.switchEscalate j) s = .next (holdBar mode g (u mode))) ∧
        (barSettled s g = true → exec (.switchEscalate j) s = .next (stopPart g (u 2)))) ∧
      (c.cmd = 3 → ∀ a, c.accepted = [a] → exec (.switchEscalate j) s =
        .next (finishOn (releaseHold j (s.modJob j (fun x => { x with cmd := none }))) a 8 0 0 0 [])))

/-- The second and the third phase of a checkpoint: the shard is with the buddy, and the manifest has its number and the digest of its header; then it is in host storage, and the
command of the module has ended. Where the buddy has no power the module's part ends ABANDONED. With the last module's second phase the ADOPTED indices of the job are to
become UNMAPPED, and do once every partition is held: in the job's table and in the map in host memory, with the next EPOCH (R411, R412, R420 to R422, R426). That the part is
abandoned, and when the indices change, are logs 32 and 47 (DEDUCED). -/
def Sys2Proof.Claims.CheckpointPhases : Prop :=
  (∀ (s : State) (j m : Nat) (c : Command) (a : Accepted) (x : Save), let key := shardKey j a.index (s.job j).ck
    let entry := a.map.toNat + 256 * a.index + 128 * (x.ck % 2)
    (s.job j).cmd = some c → c.accepted.find? (fun b => decide (b.modl = m)) = some a → Map.get? s.saves key = some x → shardKey j a.index x.ck = key → Canonical s →
    (s.job j).unmapping ≠ some m →
    (∀ b, x.keeper = some b → (s.modl b).powered = false → ∀ i ∈ [Instr.checkpointPhase2Done j m, .checkpointPhase3Done j m],
      exec i s = .next (endPart j m (finishOn s a 8 0 0 0 []))) ∧
    ((∀ b, x.keeper = some b → (s.modl b).powered = true) →
    (∃ t, exec (.checkpointPhase2Done j m) s = .next t ∧ Map.get? t.saves key = some { x with buddy := x.keeper.isSome } ∧ (t.job j).dieMap = (s.job j).dieMap ∧
      .checkpointPhase3Done j m ∈ t.pending ∧ t.mem = s.mem ∧ natOfBytes (Memory.readN t.hostMem entry 4) = x.ck % 2 ^ 32 ∧
      Memory.readN t.hostMem (entry + 16) 48 = sha384 (x.image.take 16384) ∧
      (if (insertNat c.phase2 a.index).length = c.parties ∧ (s.job j).dieMap.any entryAdopted = true ∧ (s.job j).unmapping = none then
        (t.job j).unmapping = some m ∧ .checkpointPhase2Done j m ∈ t.pending else (t.job j).unmapping = (s.job j).unmapping)) ∧
    (∃ t, exec (.checkpointPhase3Done j m) s = .next t ∧ Map.get? t.saves key = some { x with host := true } ∧ (t.modl m).mbBusy = false ∧
      t.mem = s.mem ∧ ((∀ b ∈ c.accepted, b.modl = m) → (t.job j).cmd = none)))) ∧
  (∀ (s : State) (j m : Nat) (p : Word), (s.job j).unmapping = some m → (s.job j).mapAt = some p → (s.job j).dieMap.length < 2 ^ 32 → Canonical s → ∃ u,
    (∀ e ∈ (u.job j).dieMap, entryAdopted e = false) ∧ (∀ e ∈ (u.job j).adopted, e.2 = none) ∧ (u.job j).unmapping = none ∧ u.mem = s.mem ∧
    hostNat u (p.toNat + 4) 4 = (hostNat s (p.toNat + 4) 4 + 1) % 2 ^ 32 ∧ hostNat u p.toNat 4 = (s.job j).dieMap.length ∧
    (∀ n e, (u.job j).dieMap[n]? = some e → hostNat u (p.toNat + 64 + 8 * n) 8 = e.toNat) ∧
    exec (.checkpointPhase2Done j m) s = .next (if (s.job j).leaving = [] then (jobBars s j).foldl releaseMap u else u))

/-- CONTAIN on a tile of a partition that containment holds: RELEASE reloads a frozen control context and frees frozen helpers, EXCLUDE quarantines the tile and removes its unit,
KILL ends the launch with status 8. A tile of the gang of a held WP or PAR launch, whose units have been stopped, is named too: RELEASE lets the launch go on, EXCLUDE does so without
the tile. Another tile is DENIED. READCTX stores the frame of a frozen context, 2,688 bytes (R332, R396, R415, R431). Which tile a block names, and the tiles of a held launch, are log 42
(DEDUCED). -/
def Sys2Proof.Claims.ContainmentCommands : Prop :=
  ∀ (s : State) (m ptr : Nat), mailboxFree s m ptr →
    (let bs := blockAt s ptr 8
      let action := descField bs 4 1
      action < 3 → descField bs 5 3 = 0 → ∀ i ∈ [Instr.containRelease m ptr, .containExclude m ptr, .containKill m ptr],
      (namedTile s m (descField bs 0 2) (descField bs 2 2) = none → exec i s = .next (mbEnd s m 3)) ∧
      (∀ k u, namedTile s m (descField bs 0 2) (descField bs 2 2) = some k → (s.tile k).work = some u → let p := s.part u.barKey
        (p.frozenHold = false ∨ p.held = false → exec i s = .next (mbEnd s m 3)) ∧
        (p.frozenHold = true → p.held = true →
          (action = 0 → exec i s = .next (unfreeze u.barKey (releaseFrozen k u (mbEnd s m 0)))) ∧
          (action = 1 → exec i s = .next (unfreeze u.barKey (excludeTile k u (mbEnd s m 0)))) ∧
          (action = 2 → exec i s = .next (endLaunch (mbEnd s m 0) u.launch 8)))) ∧
      (∀ k, namedTile s m (descField bs 0 2) (descField bs 2 2) = some k → (s.tile k).work = none →
        (frozenGang s k = none → exec i s = .next (mbEnd s m 3)) ∧
        (∀ g, frozenGang s k = some g →
          (action = 0 → exec i s = .next (unfreeze g (mbEnd s m 0))) ∧
          (action = 1 → exec i s = .next (unfreeze g (quarantine (mbEnd s m 0) k))) ∧
          (action = 2 → exec i s = .next (endLaunch (mbEnd s m 0) (g - 2 ^ 80) 8))))) ∧
    (let bs := blockAt s ptr 16
      let c := descField bs 4 1
      c < 11 → descField bs 5 3 = 0 → ∀ k, namedTile s m (descField bs 0 2) (descField bs 2 2) = some k →
      ((s.ctx k c).st ≠ .frozen → exec (.readctx m ptr) s = .next (mbEnd s m 3)) ∧
      ((s.ctx k c).st = .frozen → ∃ frame, frame.length = 2688 ∧ frame.take 8 = bytesLE 8 (s.ctx k c).pc ∧
        (∀ r : BitVec 5, (frame.drop (8 + 8 * r.toNat)).take 8 = bytesLE 8 ((s.ctx k c).sreg r)) ∧
        exec (.readctx m ptr) s = .next (mbEnd { s with hostMem := Memory.writeN s.hostMem (descField bs 8 8) frame } m 0))) ∧
    (∀ k u t c, u.cls = 2 → c < 11 → t = releaseFrozen k u s → ((s.ctx k c).st = .frozen → c ≠ 0 → t.ctx k c = {}) ∧
      ((s.ctx k c).st = .frozen → c = 0 → (t.ctx k 0).st = .resident ∧ (t.ctx k 0).pc = (s.tile k).step.retained.pc ∧ (t.ctx k 0).s = (s.tile k).step.retained.s) ∧
      ((s.ctx k c).st ≠ .frozen → t.ctx k c = s.ctx k c))

/-- The other commands. THROTTLE sets the step of a partition of a job of the module, and denies others; KILL ends a launch that has not ended with status 8, and fails for any other;
SWCFG sets COLLTO of the fabric switch; IMAGE stages a firmware image or a test kernel set that verifies, and denies others, recorded with code 10; ATTEST writes the report after
the bytes of the challenge: the module, the firmware's SVN, the measurements of firmware and test kernels, the length of the quarantine list and the boot count, the signature and
the certificate; KEYWRAP writes the wrapped key of the module's latest save into it, for a certificate chain that verifies, and fails where there is no save (R347, R360, R431, R433, R436, R438,
R439). Which part and launch a block names is log 42 (DEDUCED), the standards behind a signature and a wrapping log 84 (PRESUMED), their keys and the certificates log 34 (DESIGN CHOICE), and the throttle steps
log 45 (DEDUCED). -/
def Sys2Proof.Claims.OtherCommands : Prop :=
  ∀ (s : State) (m ptr : Nat), mailboxFree s m ptr →
    (let bs := blockAt s ptr 8
      let g := descField bs 0 2 * 256 + descField bs 2 1
      let here : Prop := m ∈ (s.job (descField bs 0 2)).box ∧ (s.part g).gang ≠ []
      (descField bs 3 1 < 7 → descField bs 4 4 = 0 → (¬ here → exec (.throttle m ptr) s = .next (mbEnd s m 3)) ∧
        (here → exec (.throttle m ptr) s = .next (mbEnd ((s.modPart g (fun p => { p with stepSet := descField bs 3 1 })).post (.throttleApply g)) m 0))) ∧
      (descField bs 4 4 = 0 → (Map.get? s.launches (m * 2 ^ 32 + descField bs 0 4) = none → exec (.kill m ptr) s = .next (mbEnd s m 4)) ∧
        (∀ l, Map.get? s.launches (m * 2 ^ 32 + descField bs 0 4) = some l → (l.phase = .ended → exec (.kill m ptr) s = .next (mbEnd s m 4)) ∧
          (l.phase ≠ .ended → ∃ t r, exec (.kill m ptr) s = .next t ∧ Map.get? t.launches (m * 2 ^ 32 + descField bs 0 4) = some r ∧ r.phase = .ended ∧ r.status = 8 ∧
            ∀ k u, (s.tile k).work = some u → u.launch = m * 2 ^ 32 + descField bs 0 4 → (t.tile k).work = none))) ∧
      (natOfBytes bs < 2 ^ 24 → ∃ t, exec (.swcfg m ptr) s = .next t ∧ (t.modl m).fabric = { (s.modl m).fabric with collto := BitVec.ofNat 24 (natOfBytes bs) } ∧
        (t.modl m).mbSt = 0 ∧ (t.modl m).mbBusy = false)) ∧
    (let bs := blockAt s ptr 16
      let img := Memory.readN s.hostMem (descField bs 0 8) (descField bs 8 8)
      (∀ v, checkImage (s.modl m).svnMin img = .good 1 v → exec (.image m ptr) s = .next (mbEnd (s.modModl m (fun x => { x with staged := some img })) m 0)) ∧
      (∀ v, checkImage (s.modl m).svnMin img = .good 2 v → exec (.image m ptr) s = .next (mbEnd (s.modModl m (fun x => { x with kernels := img })) m 0)) ∧
      (checkImage (s.modl m).svnMin img = .broken ∨ checkImage (s.modl m).svnMin img = .old →
        exec (.image m ptr) s = .next (mbEnd (recordMerr s m 0 10 (descField bs 0 8 % 2 ^ 48)) m 3)) ∧
      (descField bs 4 4 = 0 → let cert := Memory.readN s.hostMem (descField bs 8 8) 4096
        let saves := s.saves.filter (isSaveOf m (descField bs 0 2) (descField bs 2 2))
        (saves = [] → exec (.keywrap m ptr) s = .next (mbEnd s m 4)) ∧
        (∀ e, saves.getLast? = some e → (Config.chainGood cert = false → exec (.keywrap m ptr) s = .next (mbEnd s m 3)) ∧
          (Config.chainGood cert = true → exec (.keywrap m ptr) s = .next (mbEnd (areaPut e.2.area 0x3F60
            (keyWrap (sharedKey (s.modl m).idKey (pointOf (Config.chainKey cert))) e.2.key) s) m 0))))) ∧
    (let bs := blockAt s ptr 40
      let x := s.modl m
      let body := bs.take 32 ++ bytesOfNat 4 m ++ bytesOfNat 2 (descField x.running 6 2) ++ bytesOfNat 2 0 ++ sha384 (payload x.running) ++ sha384 (payload x.kernels)
        ++ bytesOfNat 8 x.quarantine.length ++ bytesOfNat 8 x.boots ++ bytesOfNat 8 0
      exec (.attest m ptr) s = .next (mbEnd (hostPut s (descField bs 32 8) (body ++ signBy s m body ++ Config.certificate m)) m 0))

/-- The management mailbox, in seven parts. -/
def Obligations.MailboxCommands : Prop :=
  MailboxRules ∧ SwitchCommands ∧ LoadCommands ∧ SwitchProgress ∧ CheckpointPhases ∧ ContainmentCommands ∧ OtherCommands

/-! ### Power, boot, test kernels, jobs and modules (R328, R345 to R348, R408 to R411, R415, R419, R424, R433 to R436) -/

/-- A throttle step takes effect as the slower of the two that are set. A power limit takes every partition with tiles on the module one step down, as far as step 6, and a restored
step goes back up, to the step that THROTTLE set (R347, R433). That the slower prevails and how one limit follows another is log 45 (DEDUCED). -/
def Sys2Proof.Claims.PowerSteps : Prop :=
  (∀ (s : State) (g : Nat), exec (.throttleApply g) s = .next (s.modPart g (fun p => { p with stepNow := max p.stepSet p.stepLow }))) ∧
  (∀ (s : State) (m : Nat), (partsOn s m).Nodup →
    (∃ t, exec (.powerLimitStep m) s = .next t ∧ t.mem = s.mem ∧ (∀ g, g ∉ partsOn s m → t.part g = s.part g) ∧
      ∀ g ∈ partsOn s m, .throttleApply g ∈ t.pending ∧ t.part g = { s.part g with stepLow := min 6 (max (s.part g).stepLow (s.part g).stepNow + 1) }) ∧
    (∃ t, exec (.powerRestoreStep m) s = .next t ∧ t.mem = s.mem ∧ (∀ g, g ∉ partsOn s m → t.part g = s.part g) ∧
      ∀ g ∈ partsOn s m, .throttleApply g ∈ t.pending ∧
        t.part g = { s.part g with stepLow := if (s.part g).stepLow ≤ (s.part g).stepSet + 1 then 0 else (s.part g).stepLow - 1 }))

/-- A module whose dies lose their power holds no tile and no die state, and their memories read as zero. The thermal cut-off ends its jobs UNRECOVERABLE, to be restored; a loss of the
module's power leaves of the module itself only its fuses and its quarantine list, with the image staged for the next power-on, which log 44 (DEDUCED) keeps; a job that ran on that
module alone is gone, and to the others it is a module loss (R288, R419, R424, R433, R436). -/
def Sys2Proof.Claims.PowerLoss : Prop :=
  ∀ (s : State) (m : Nat), let x := s.modl m
    let cold : Modl := { powered := false, quarantine := x.quarantine, svnMin := x.svnMin, staged := x.staged, records := x.records }
    let dark (t : State) : Prop := (t.modl m).powered = false ∧ (∀ k, tileDie k / 8 = m → Map.get? t.tiles k = none) ∧ (∀ p < 8, Map.get? t.dies (8 * m + p) = none) ∧
      ∀ a, Memory.read t.mem a = if a / 2 ^ 40 / 8 = m then 0 else Memory.read s.mem a
    let alone (j : Job) : Prop := m ∈ j.box ∧ ∀ n ∈ j.box, n = m ∨ n = absentModule
    (∃ t, exec (.thermalCutoff m) s = .next t ∧ dark t ∧
      ∀ e ∈ s.jobs, m ∈ e.2.box → e.2.off = false → (t.job e.1).stopped = true ∧ .restore (s.job e.1).modl 0 ∈ t.pending) ∧
    (∃ t, exec (.modulePowerLoss m) s = .next t ∧ dark t ∧ t.modl m = cold ∧
      (∀ e ∈ s.jobs, alone e.2 → Map.get? t.jobs e.1 = none ∧ ∀ l ∈ t.launches, l.2.job ≠ e.1) ∧
      (∀ j, (∀ e ∈ s.jobs, e.1 = j → ¬ alone e.2) → Map.get? t.jobs j = Map.get? s.jobs j) ∧
      ∀ e ∈ s.jobs, m ∈ e.2.box → e.2.off = false → (∀ y ∈ s.jobs, y.1 = e.1 → ¬ alone y.2) → .moduleLoss m ∈ t.pending)

/-- A boot goes from the ROM to the check of the stored image, to training, to READY. One that verifies and is not below the fused minimum runs; an image below the minimum leaves ROLLBACK,
any other RECOVERY, and a failure of the hardware in training HWFAIL. At READY every tile is zero, the minimum is raised to a newly staged image's number, the identity key is
derived from the fused secret, and at most 31 virtual functions are enabled. A boot that has ended is not repeated (R428, R434 to R437). What fails and how many functions firmware enables are
free values (logs 5, DESIGN CHOICE, and 44, DEDUCED), as are the keys behind a signature (log 34, DESIGN CHOICE); how signatures are computed is log 84 (PRESUMED). -/
def Sys2Proof.Claims.Boots : Prop :=
  ∀ (s : State) (m : Nat), let x := s.modl m
    let img := x.staged.getD (Config.makerImage m)
    (x.powered = false ∨ x.bootState = 0 →
      exec (.boot m) s = .next ((s.setModl m { x with powered := true, bootState := 1, boots := x.boots + 1, mbBusy := false }).post (.boot m))) ∧
    (x.powered = true → (x.bootState = 1 → exec (.boot m) s = .next ((s.setModl m { x with bootState := 2 }).post (.boot m))) ∧
      (x.bootState = 2 →
        (∀ v, checkImage x.svnMin img = .good 1 v → exec (.boot m) s = .next
          ((s.setModl m { x with bootState := 3, bootSvn := BitVec.ofNat 8 v, running := img }).post (.boot m))) ∧
        (checkImage x.svnMin img = .old → exec (.boot m) s = .next (s.setModl m { x with bootState := 0x81 })) ∧
        (checkImage x.svnMin img = .broken ∨ (∃ v, checkImage x.svnMin img = .good 2 v) → exec (.boot m) s = .next (s.setModl m { x with bootState := 0x80 }))) ∧
      (x.bootState = 3 → ∃ t, exec (.boot m) s = .next t ∧ (t.modl m).quarantine = x.quarantine ∧
        (Config.freeFail s.free = true → (t.modl m).bootState = 0x82 ∧ (t.modl m).svnMin = x.svnMin ∧ t.tiles = s.tiles) ∧
        (Config.freeFail s.free = false → (t.modl m).bootState = 4 ∧ (t.modl m).na + (t.modl m).nb ≤ 31 ∧ (t.modl m).bootSvn = x.bootSvn ∧
          (t.modl m).svnMin = (if x.staged = none then x.svnMin else max x.svnMin (descField x.running 6 2)) ∧
          (t.modl m).idKey = Config.identityKey (Config.fusedSecret m) ∧ ∀ k, tileDie k / 8 = m → t.tile k = {})) ∧
      (x.bootState ∉ [0, 1, 2, 3] → exec (.boot m) s = .next s)) ∧
    (∀ img v, checkImage x.svnMin img = .good 1 v ∨ checkImage x.svnMin img = .good 2 v →
      192 ≤ img.length ∧ descField img 0 4 = 0x4F444B48 ∧ v = descField img 6 2 ∧ x.svnMin ≤ v ∧ descField img 160 32 = 0 ∧
      (img.drop 16).take 48 = sha384 (payload img) ∧ ecdsaVerify (some Config.makerKey) (img.take 64) ((img.drop 64).take 96) = true ∧
      sha384 (pointBytes (some Config.makerKey)) = Config.makerHash)

/-- A test kernel runs on a tile, from the set that the tile took at its last slot boundary, where the module can run one; at a slot boundary a tile that runs none takes the set that IMAGE
last gave. When a kernel ends the tile runs none; a result that does not agree with its signature is recorded with code 8, and the tile is to be quarantined (R345, R346, R430, R436). -/
def Sys2Proof.Claims.TestKernels : Prop :=
  ∀ (s : State) (die tile : Nat), let k := tileKey die tile
    let m := tileDie k / 8
    let ready : Prop := 4 ∈ (s.modl m).records ∧ (s.tile k).kernels ≠ []
    (ready → exec (.testKernelPlace die tile) s = .next (s.modTile k (fun t => { t with testKernel := true }))) ∧
    (¬ ready → exec (.testKernelPlace die tile) s = .next s) ∧
    ((s.tile k).work = none → ∃ t, exec (.slotBoundary die tile) s = .next t ∧ t.mem = s.mem ∧
      (t.tile k) = if (s.tile k).testKernel = true then s.tile k else { s.tile k with kernels := (s.modl m).kernels }) ∧
    (∀ b, (s.tile k).testKernel = false → exec (.testKernelEnd die tile b) s = .next s) ∧
    ((s.tile k).testKernel = true →
      exec (.testKernelEnd die tile true) s = .next (s.modTile k (fun t => { t with testKernel := false })) ∧
      exec (.testKernelEnd die tile false) s = .next (recordMerr (s.modTile k (fun t => { t with testKernel := false, testFailed := true })) m 0 8
        (tileDie k % 8 * 2 ^ 40 + 0x8000000000 + tileId k * 2 ^ 20)))

/-- A job starts on the modules that its die map names, where its tag is free and its box and map keep their limits; the address of the map's table is kept, if it is given. A gang has the tiles allotted to it
that lie on the job's dies, unless its partition runs a launch. A function reset ends the freeze of a function, and a tile leaves the quarantine list (R328, R348, R411, R415, R419).
That such an input otherwise changes nothing is log 51 (DEDUCED). -/
def Sys2Proof.Claims.JobsAndGangs : Prop :=
  (∀ (s : State) (j x y z w fn : Nat) (p : Option Nat) (entries : List Word), let old := s.job j
    let fits : Prop := 1 ≤ x ∧ x ≤ 4 ∧ 1 ≤ y ∧ y ≤ 4 ∧ 1 ≤ z ∧ z ≤ 16 ∧ 1 ≤ w ∧ w ≤ 16 ∧ entries.length = 8 * (x * y * z * w) ∧
      (∀ e ∈ entries, e.extractLsb' 62 2 = 1 ∧ e.extractLsb' 35 27 = 0) ∧ (entries.map (fun e => (e.extractLsb' 0 35).toNat)).Nodup ∧ j < 2 ^ 16 ∧ fn < 32
    (fits → old.box = [] ∨ old.lost = true → exec (.jobStart j ([x, y, z, w, fn] ++ p.toList) entries) s = .next (s.setJob j
      { modl := (mapBox entries).headD 0, fn := fn, box := mapBox entries, extents := [x, y, z, w], dieMap := entries, mapAt := p.map (BitVec.ofNat 64) })) ∧
    (¬ fits ∨ (old.box ≠ [] ∧ old.lost = false) → exec (.jobStart j ([x, y, z, w, fn] ++ p.toList) entries) s = .next s)) ∧
  (∀ (s : State) (g : Nat) (tiles : List (Nat × Nat)), let job := s.job (g / 256)
    let busy : Prop := ∃ e ∈ s.launches, e.2.part = g ∧ e.2.phase = .running
    (job.box = [] ∨ busy → exec (.gangAllot g tiles) s = .next s) ∧
    (job.box ≠ [] → ¬ busy → ∃ t, exec (.gangAllot g tiles) s = .next t ∧ t.mem = s.mem ∧ t.tiles = s.tiles ∧
      (∀ k, k ∈ (t.part g).gang ↔ ∃ e ∈ tiles, e.1 ∈ job.dies ∧ e.2 < 1024 ∧ k = tileKey e.1 e.2) ∧
      (g ∈ (t.job (g / 256)).parts ↔ (t.part g).gang ≠ []) ∧ ∀ h, h ≠ g → t.part h = s.part h)) ∧
  (∀ (s : State) (m fn die tile : Nat),
    exec (.functionReset m fn) s = .next (s.modModl m (fun x => { x with frozenFns := x.frozenFns.filter (fun f => f != fn) })) ∧
    exec (.quarantineClear m die tile) s = .next (s.modModl m (fun x => { x with quarantine := x.quarantine.filter (fun k => k != tileKey die tile) })))

/-- A module is lost. Its dies are gone. A job whose only module it was is stopped, to be restored; of a job whose other modules still reach each other the partitions that had
tiles there are noted, its map stands, and the event will happen again. Once every partition is held it does, and the new map takes effect: where no shard serves the lost indices their
entries are UNMAPPED, every other entry stands, the table in host memory has the next EPOCH, and PARTSZ counts what is left (R288, R411, R412, R424, R425). That the event
happens twice, and whether survivors have a route elsewhere, are log 47 (DEDUCED). -/
def Sys2Proof.Claims.ModuleLosses : Prop :=
  (∀ (s : State) (m : Nat), (∀ e ∈ s.jobs, ∀ x ∈ e.2.leaving, x.1 ≠ m) →
    ∃ t, exec (.moduleLoss m) s = .next t ∧ (t.modl m).powered = false ∧ (∀ k, tileDie k / 8 = m → Map.get? t.tiles k = none) ∧
    (∀ p < 8, Map.get? t.dies (8 * m + p) = none) ∧ (∀ a, a / 2 ^ 40 / 8 = m → Memory.read t.mem a = 0) ∧
    (∀ j, (s.jobs.filter (fun e => e.2.box.contains m && !e.2.off)).map (fun e => e.1) = [j] → (∀ e ∈ s.jobs, e.2.adopted = []) → (s.job j).cmd = none →
      ((∀ x ∈ (s.job j).box, x = m) → (t.job j).stopped = true ∧ .restore (s.job j).modl 0 ∈ t.pending) ∧
      (∀ a l, (s.aliveBox j).filter (fun x => decide (x ≠ m)) = a :: l → (reach s j (a :: l) (l.length + 1) [a]).length = l.length + 1 →
        (t.job j).dieMap = (s.job j).dieMap ∧ (t.job j).box = (s.job j).box ∧ .moduleLoss m ∈ t.pending ∧
        (t.job j).leaving = (s.job j).leaving ++ [(m, (jobBars s j).filter (fun g => (barTiles s g).any (fun k => decide (tileDie k / 8 = m))))]))) ∧
  (∀ (s : State) (m j i : Nat) (hit : List Nat),
    s.jobs.filterMap (fun e => (e.2.leaving.find? (fun x => decide (x.1 = m))).map (fun x => (e.1, x.2))) = [(j, hit)] →
    (s.job j).box.findIdx? (fun x => decide (x = m)) = some i → s.saves = [] → ∃ t, exec (.moduleLoss m) s = .next t ∧
      (t.job j).dieMap.length = (s.job j).dieMap.length ∧ (t.job j).leaving = (s.job j).leaving.filter (fun e => e.1 != m) ∧
      (∀ n < (s.job j).dieMap.length, (t.job j).dieMap[n]? = if n / 8 = i then some 0 else (s.job j).dieMap[n]?) ∧
      (∀ p, hit = [] → (s.job j).mapAt = some p → (s.job j).dieMap.length < 2 ^ 32 → Canonical s →
        hostNat t (p.toNat + 4) 4 = (hostNat s (p.toNat + 4) 4 + 1) % 2 ^ 32) ∧
      ∀ g, hit = [g] → g < 2 ^ 80 → ∀ k ∈ (s.part g).members,
        (t.tile k).csr.partsz = BitVec.ofNat 24 ((s.part g).members.filter (fun k => decide (s.idKey k = k))).length)

/-- Migration copies a granule of 64 KiB from one die's memory to another's, with the tags of sectors that have been written; and when a job that is off releases a module, its tiles
there are free and zero, and the key of its function is destroyed (R318, R408, R410). Under which key a granule is written is log 33 (DESIGN CHOICE). -/
def Sys2Proof.Claims.Migration : Prop :=
  (∀ (s : State) (m ds dt a b : Nat), mbState s m = .ready → Canonical s → a < 2 ^ 22 → b < 2 ^ 22 → (ds, a) ≠ (dt, b) → let src := a * 65536
    let dst := b * 65536
    ∃ t, exec (.migrationCopy m (ds * 2 ^ 40 + src) (dt * 2 ^ 40 + dst)) s = .next t ∧
      (∀ i < 65536, Memory.read t.mem (hbmKey dt (dst + i)) = Memory.read s.mem (hbmKey ds (src + i))) ∧
      (∀ x, (∀ i < 65536, x ≠ hbmKey dt (dst + i)) → Memory.read t.mem x = Memory.read s.mem x) ∧
      (∀ i < 2048, Map.get? (s.die ds).sectorKeys (2048 * a + i) ≠ none → (t.die dt).tagOf (2048 * b + i) = (s.die ds).tagOf (2048 * a + i))) ∧
  (∀ (s : State) (m src dst : Nat), mbState s m ≠ .ready → exec (.migrationCopy m src dst) s = .next s) ∧
  (∀ (s : State) (j m : Nat), let job := s.job j
    (job.off = false → m ∈ job.box → exec (.moduleRelease j m) s = .next s) ∧
    (job.off = true → (∀ e ∈ s.jobs, e.1 ≠ j → e.2.fn = job.fn → m ∉ e.2.box) → ∃ t, exec (.moduleRelease j m) s = .next t ∧
      (∀ k ∈ jobTiles s j, tileDie k / 8 = m → (t.tile k).work = none ∧ ∀ o < 2 ^ 20, Memory.read t.mem (spadKey k o) = 0) ∧
      ∀ p < 8, ((s.tctx (8 * m + p) job.fn).extractLsb' 320 8).toNat ∉ (t.die (8 * m + p)).keys))

/-- Power, boot, test kernels, jobs, gangs and modules, in seven parts. -/
def Obligations.ModuleEvents : Prop := PowerSteps ∧ PowerLoss ∧ Boots ∧ TestKernels ∧ JobsAndGangs ∧ ModuleLosses ∧ Migration
end

