-- ==== Sys2Proof/Laws/Crypto.lean ====
section
/-! SUPPORT. Lengths of what the cryptographic functions give. -/

namespace Sys2Proof.Machine

@[simp] theorem beBytes_length (n x : Nat) : (beBytes n x).length = n := by simp [beBytes]
@[simp] theorem sha384_length (bs : List Byte) : (sha384 bs).length = 48 := by simp [sha384]
@[simp] theorem pointBytes_length (x : Point) : (pointBytes x).length = 97 := by simp [pointBytes]
@[simp] theorem ecdsaSign_length (d nonce : Nat) (bs : List Byte) : (ecdsaSign d nonce bs).length = 96 := by simp [ecdsaSign]

end Sys2Proof.Machine
end

