-- ==== Sys2Proof/Laws/Encoding.lean ====
section
/-! SUPPORT. The fields of a word: what a placed field shows to a field read and to a mask. -/

namespace Sys2Proof

/-- A field reads back as it was placed. -/
theorem place_same {n lo : Nat} (x : BitVec n) (h : lo + n ≤ 32) : (place lo x).extractLsb' lo n = x := by
  ext i hi
  simp only [place, BitVec.getElem_extractLsb', BitVec.getLsbD_shiftLeft, BitVec.getLsbD_setWidth]
  have h1 : lo + i < 32 := by omega
  have h2 : lo + i - lo = i := by omega
  simp [h1, h2, hi]
  omega

/-- A field shows nothing elsewhere. -/
theorem place_disj {n lo s l : Nat} (x : BitVec n) (h : lo + n ≤ s ∨ s + l ≤ lo) : (place lo x).extractLsb' s l = 0#l := by
  ext i hi
  simp only [place, BitVec.getElem_extractLsb', BitVec.getLsbD_shiftLeft, BitVec.getLsbD_setWidth]
  rcases h with h | h
  · simp [BitVec.getLsbD_of_ge x (s + i - lo) (by omega)]
  · simp [show s + i < lo by omega]

/-- A mask with zeros at a field removes it. -/
theorem place_mask {n lo : Nat} (x : BitVec n) (m : Word32) (h : m.extractLsb' lo n = 0#n) : place lo x &&& m = 0#32 := by
  ext i hi
  simp only [place, BitVec.getElem_and, BitVec.getElem_shiftLeft, BitVec.getElem_zero]
  by_cases h1 : i < lo
  · simp [h1]
  · by_cases h2 : i - lo < n
    · have h3 := congrArg (fun v => v.getLsbD (i - lo)) h
      simp only [BitVec.getLsbD_extractLsb', h2, decide_true, Bool.true_and, BitVec.getLsbD_zero,
        show lo + (i - lo) = i by omega] at h3
      rw [BitVec.getLsbD_eq_getElem hi] at h3
      simp [h3]
    · simp [BitVec.getLsbD_of_ge x (i - lo) (by omega)]

/-- A mask acts on each part of a word. -/
theorem and_or_l (a b c : Word32) : (a ||| b) &&& c = (a &&& c) ||| (b &&& c) := by
  ext i hi
  simp [Bool.and_or_distrib_right]

/-- Fixed bits of a word show that it is not another row: where the bits `k` of `w` are `v`, a row whose fixed bits contradict
them is passed over. -/
theorem skip_row {α : Type} {w k v m c : Word32} (hk : w &&& k = v) (h : v &&& m ≠ c &&& k) (a b : α) :
    (if w &&& m = c then a else b) = b := by
  refine if_neg (fun e => h ?_)
  rw [← hk, ← e, BitVec.and_assoc, BitVec.and_comm k m, BitVec.and_assoc]

/-- The major opcode of a word whose fixed bits are known. -/
theorem major_of {w k v : Word32} (hk : w &&& k = v) (h : k.extractLsb' 26 6 = BitVec.allOnes 6) :
    fieldOf w 26 6 = v.extractLsb' 26 6 := by
  rw [← hk, BitVec.extractLsb'_and, h, BitVec.and_allOnes, fieldOf]

end Sys2Proof
end

