-- ==== Sys2Proof/Laws/Memory.lean ====
section
/-! SUPPORT. Laws of memory and of maps: what is written is read back, everything else stays, and the canonical form is kept
by every operation. -/

namespace Sys2Proof.Machine

/-! ### The canonical form -/

theorem Memory.wfFrom_le {m : Memory} {lo hi : Nat} (h : Memory.wfFrom hi m = true) (le : lo ≤ hi) :
    Memory.wfFrom lo m = true := by
  cases m with
  | nil => rfl
  | cons e m =>
    simp only [Memory.wfFrom, Bool.and_eq_true, decide_eq_true_eq] at h ⊢
    exact ⟨⟨by omega, h.1.2⟩, h.2⟩

theorem Memory.clear_wf {m : Memory} : ∀ {lo : Nat} (a : Nat), Memory.wfFrom lo m = true →
    Memory.wfFrom lo (Memory.clear m a) = true := by
  induction m with
  | nil => intro lo a h; exact h
  | cons e m ih =>
    intro lo a h
    simp only [Memory.wfFrom, Bool.and_eq_true, decide_eq_true_eq] at h
    simp only [Memory.clear]
    split
    · exact Memory.wfFrom_le h.2 (by omega)
    · simp only [Memory.wfFrom, Bool.and_eq_true, decide_eq_true_eq]
      exact ⟨h.1, ih a h.2⟩

theorem Memory.put_wf {m : Memory} : ∀ {lo : Nat} (a : Nat) (x : Byte), x ≠ 0#8 → lo ≤ a → Memory.wfFrom lo m = true →
    Memory.wfFrom lo (Memory.put m a x) = true := by
  induction m with
  | nil => intro lo a x hx ha _; simp [Memory.put, Memory.wfFrom, hx, ha]
  | cons e m ih =>
    intro lo a x hx ha h
    simp only [Memory.wfFrom, Bool.and_eq_true, decide_eq_true_eq] at h
    simp only [Memory.put]
    split
    · simp only [Memory.wfFrom, Bool.and_eq_true, decide_eq_true_eq]
      exact ⟨⟨ha, by simp [hx]⟩, ⟨by omega, h.1.2⟩, h.2⟩
    · split
      · rename_i h1 h2
        simp only [Memory.wfFrom, Bool.and_eq_true, decide_eq_true_eq]
        exact ⟨⟨ha, by simp [hx]⟩, h2 ▸ h.2⟩
      · simp only [Memory.wfFrom, Bool.and_eq_true, decide_eq_true_eq]
        exact ⟨h.1, ih a x hx (by omega) h.2⟩

/-- A write keeps the canonical form. -/
theorem Memory.write_wf {m : Memory} (a : Nat) (x : Byte) (h : m.wf = true) : (Memory.write m a x).wf = true := by
  unfold Memory.write Memory.wf
  split
  · exact Memory.clear_wf a h
  · rename_i hx
    exact Memory.put_wf a x hx (Nat.zero_le a) h

/-- A write of several bytes keeps the canonical form. -/
theorem Memory.writeN_wf (l : List Byte) : ∀ {m : Memory} (a : Nat), m.wf = true → (Memory.writeN m a l).wf = true := by
  induction l with
  | nil => intro m a h; exact h
  | cons b l ih => intro m a h; exact ih (a + 1) (Memory.write_wf a b h)

theorem Memory.filter_wfFrom {m : Memory} (f : Host.Cell → Bool) : ∀ {lo : Nat}, Memory.wfFrom lo m = true →
    Memory.wfFrom lo (m.filter f) = true := by
  induction m with
  | nil => intro lo h; exact h
  | cons e m ih =>
    intro lo h
    simp only [Memory.wfFrom, Bool.and_eq_true, decide_eq_true_eq] at h
    simp only [List.filter_cons]
    split
    · simp only [Memory.wfFrom, Bool.and_eq_true, decide_eq_true_eq]
      exact ⟨h.1, ih h.2⟩
    · exact Memory.wfFrom_le (ih h.2) (by omega)

/-- Taking cells away keeps the canonical form. -/
theorem Memory.filter_wf {m : Memory} (f : Host.Cell → Bool) (h : m.wf = true) : Memory.wf (m.filter f) = true :=
  Memory.filter_wfFrom f h

/-- Writes made one after the other keep the canonical form. -/
theorem Memory.foldl_wf {α : Type} (f : Memory → α → Memory) (hf : ∀ m x, Memory.wf m = true → Memory.wf (f m x) = true) :
    ∀ (l : List α) (m : Memory), m.wf = true → Memory.wf (l.foldl f m) = true := by
  intro l
  induction l with
  | nil => intro m h; exact h
  | cons x l ih => intro m h; exact ih (f m x) (hf m x h)

/-! ### Reads after writes -/

theorem Memory.read_below {m : Memory} : ∀ {lo : Nat} (a : Nat), Memory.wfFrom lo m = true → a < lo → Memory.read m a = 0#8 := by
  induction m with
  | nil => intro lo a _ _; rfl
  | cons e m ih =>
    intro lo a h lt
    simp only [Memory.wfFrom, Bool.and_eq_true, decide_eq_true_eq] at h
    simp only [Memory.read]
    rw [if_neg (by omega)]
    exact ih a h.2 (by omega)

theorem Memory.read_clear_same {m : Memory} : ∀ {lo : Nat} (a : Nat), Memory.wfFrom lo m = true →
    Memory.read (Memory.clear m a) a = 0#8 := by
  induction m with
  | nil => intro lo a _; rfl
  | cons e m ih =>
    intro lo a h
    simp only [Memory.wfFrom, Bool.and_eq_true, decide_eq_true_eq] at h
    simp only [Memory.clear]
    split
    · rename_i he
      exact Memory.read_below a h.2 (by omega)
    · rename_i he
      simp only [Memory.read, if_neg he]
      exact ih a h.2

theorem Memory.read_clear_other (m : Memory) (a c : Nat) (h : c ≠ a) : Memory.read (Memory.clear m a) c = Memory.read m c := by
  induction m with
  | nil => rfl
  | cons e m ih =>
    simp only [Memory.clear]
    split
    · rename_i he
      simp only [Memory.read]
      rw [if_neg (by omega)]
    · simp only [Memory.read, ih]

theorem Memory.read_put_same (m : Memory) (a : Nat) (x : Byte) : Memory.read (Memory.put m a x) a = x := by
  induction m with
  | nil => simp [Memory.put, Memory.read]
  | cons e m ih =>
    simp only [Memory.put]
    split
    · simp [Memory.read]
    · split
      · simp [Memory.read]
      · rename_i h1 h2
        simp only [Memory.read, if_neg (Ne.symm h2), ih]

theorem Memory.read_put_other (m : Memory) (a c : Nat) (x : Byte) (h : c ≠ a) :
    Memory.read (Memory.put m a x) c = Memory.read m c := by
  induction m with
  | nil => simp [Memory.put, Memory.read, Ne.symm h]
  | cons e m ih =>
    simp only [Memory.put]
    split
    · simp [Memory.read, Ne.symm h]
    · split
      · rename_i h1 h2
        simp only [Memory.read]
        rw [if_neg (by omega), if_neg (by omega)]
      · simp only [Memory.read, ih]

/-- A byte that has been written is read back. -/
theorem Memory.read_write_same {m : Memory} (a : Nat) (x : Byte) (h : m.wf = true) : Memory.read (Memory.write m a x) a = x := by
  unfold Memory.write
  split
  · rename_i hx
    rw [Memory.read_clear_same a h, hx]
  · exact Memory.read_put_same m a x

/-- A write leaves every other byte. -/
theorem Memory.read_write_other (m : Memory) (a c : Nat) (x : Byte) (h : c ≠ a) :
    Memory.read (Memory.write m a x) c = Memory.read m c := by
  unfold Memory.write
  split
  · exact Memory.read_clear_other m a c h
  · exact Memory.read_put_other m a c x h

/-- A write of several bytes leaves every byte outside them. -/
theorem Memory.read_writeN_other (l : List Byte) : ∀ (m : Memory) (a c : Nat), c < a ∨ a + l.length ≤ c →
    Memory.read (Memory.writeN m a l) c = Memory.read m c := by
  induction l with
  | nil => intro m a c _; rfl
  | cons b l ih =>
    intro m a c h
    simp only [List.length_cons] at h
    rw [Memory.writeN, ih _ (a + 1) c (by omega), Memory.read_write_other m a c b (by omega)]

/-- Each of several bytes that have been written is read back. -/
theorem Memory.read_writeN_same (l : List Byte) : ∀ {m : Memory} (a i : Nat) (hi : i < l.length), m.wf = true →
    Memory.read (Memory.writeN m a l) (a + i) = l[i] := by
  induction l with
  | nil => intro m a i hi _; exact absurd hi (Nat.not_lt_zero i)
  | cons b l ih =>
    intro m a i hi h
    cases i with
    | zero =>
      rw [Memory.writeN, Memory.read_writeN_other l _ (a + 1) (a + 0) (by omega)]
      exact Memory.read_write_same a b h
    | succ i =>
      rw [Memory.writeN, show a + (i + 1) = (a + 1) + i by omega,
        ih (a + 1) i (by simp only [List.length_cons] at hi; omega) (Memory.write_wf a b h)]
      simp

/-! ### Maps -/

@[simp] theorem Map.get?_set_same {α : Type} (m : Map α) (k : Nat) (a : α) : Map.get? (Map.set m k a) k = some a := by
  induction m with
  | nil => simp [Map.set, Map.get?]
  | cons e m ih =>
    simp only [Map.set]
    split
    · simp [Map.get?]
    · split
      · simp [Map.get?]
      · rename_i h1 h2
        simp only [Map.get?, if_neg (Ne.symm h2), ih]

theorem Map.get?_set_other {α : Type} (m : Map α) (k j : Nat) (a : α) (h : j ≠ k) :
    Map.get? (Map.set m k a) j = Map.get? m j := by
  induction m with
  | nil => simp [Map.set, Map.get?, Ne.symm h]
  | cons e m ih =>
    simp only [Map.set]
    split
    · simp [Map.get?, Ne.symm h]
    · split
      · rename_i h1 h2
        simp only [Map.get?]
        rw [if_neg (by omega), if_neg (by omega)]
      · simp only [Map.get?, ih]

@[simp] theorem Map.getD_set_same {α : Type} (m : Map α) (k : Nat) (a b : α) : Map.getD (Map.set m k a) k b = a := by
  simp [Map.getD]

theorem Map.getD_set_other {α : Type} (m : Map α) (k j : Nat) (a b : α) (h : j ≠ k) :
    Map.getD (Map.set m k a) j b = Map.getD m j b := by
  simp [Map.getD, Map.get?_set_other m k j a h]

end Sys2Proof.Machine
end

