-- ==== Sys2Proof/Laws/PerInstr.lean ====
section
/-! SUPPORT. Statements for all instructions, one lemma for each constructor of Instr. -/

set_option Elab.async false

namespace Sys2Proof.Laws

/-- The word of a well-formed instruction decodes to that instruction (R67, R75); a step of the part has no word. -/
def Encoding.Statement (i : Instr) : Prop := ∀ w, i.wf = true → encode i = some w → decode w = .ok i

theorem Encoding.add (d : BitVec 5) (a : BitVec 5) (b : BitVec 5) (t : BitVec 4) : Encoding.Statement (.add d a b t) := by
  intro w _ e
  have hk : w &&& 0xFC0007F0#32 = 0x04000000#32 := by
    rw [← Option.some.inj e]
    simp [and_or_l, place_mask]
  have hd : decode w = decodeIntR w := by
    rw [decode, major_of hk (by decide)]
    rfl
  rw [hd, decodeIntR, if_pos hk, ← Option.some.inj e]
  simp [fieldOf, BitVec.extractLsb'_or, place_disj, place_same]

theorem Encoding.sub (d : BitVec 5) (a : BitVec 5) (b : BitVec 5) (t : BitVec 4) : Encoding.Statement (.sub d a b t) := by
  intro w _ e
  have hk : w &&& 0xFC0007F0#32 = 0x04000010#32 := by
    rw [← Option.some.inj e]
    simp [and_or_l, place_mask]
  have hd : decode w = decodeIntR w := by
    rw [decode, major_of hk (by decide)]
    rfl
  rw [hd, decodeIntR, skip_row hk (by decide), if_pos hk, ← Option.some.inj e]
  simp [fieldOf, BitVec.extractLsb'_or, place_disj, place_same]

theorem Encoding.mul (d : BitVec 5) (a : BitVec 5) (b : BitVec 5) (t : BitVec 4) : Encoding.Statement (.mul d a b t) := by
  intro w _ e
  have hk : w &&& 0xFC0007F0#32 = 0x04000020#32 := by
    rw [← Option.some.inj e]
    simp [and_or_l, place_mask]
  have hd : decode w = decodeIntR w := by
    rw [decode, major_of hk (by decide)]
    rfl
  rw [hd, decodeIntR, skip_row hk (by decide), skip_row hk (by decide), if_pos hk, ← Option.some.inj e]
  simp [fieldOf, BitVec.extractLsb'_or, place_disj, place_same]

theorem Encoding.mulh (d : BitVec 5) (a : BitVec 5) (b : BitVec 5) (t : BitVec 4) : Encoding.Statement (.mulh d a b t) := by
  intro w _ e
  have hk : w &&& 0xFC0007F0#32 = 0x04000030#32 := by
    rw [← Option.some.inj e]
    simp [and_or_l, place_mask]
  have hd : decode w = decodeIntR w := by
    rw [decode, major_of hk (by decide)]
    rfl
  rw [hd, decodeIntR, skip_row hk (by decide), skip_row hk (by decide), skip_row hk (by decide), if_pos hk, ← Option.some.inj e]
  simp [fieldOf, BitVec.extractLsb'_or, place_disj, place_same]

theorem Encoding.mulhn (d : BitVec 5) (a : BitVec 5) (b : BitVec 5) (t : BitVec 4) : Encoding.Statement (.mulhn d a b t) := by
  intro w _ e
  have hk : w &&& 0xFC0007F0#32 = 0x04000040#32 := by
    rw [← Option.some.inj e]
    simp [and_or_l, place_mask]
  have hd : decode w = decodeIntR w := by
    rw [decode, major_of hk (by decide)]
    rfl
  rw [hd, decodeIntR, skip_row hk (by decide), skip_row hk (by decide), skip_row hk (by decide), skip_row hk (by decide), if_pos hk, ← Option.some.inj e]
  simp [fieldOf, BitVec.extractLsb'_or, place_disj, place_same]

theorem Encoding.div (d : BitVec 5) (a : BitVec 5) (b : BitVec 5) (t : BitVec 4) : Encoding.Statement (.div d a b t) := by
  intro w _ e
  have hk : w &&& 0xFC0007F0#32 = 0x04000050#32 := by
    rw [← Option.some.inj e]
    simp [and_or_l, place_mask]
  have hd : decode w = decodeIntR w := by
    rw [decode, major_of hk (by decide)]
    rfl
  rw [hd, decodeIntR, skip_row hk (by decide), skip_row hk (by decide), skip_row hk (by decide), skip_row hk (by decide), skip_row hk (by decide), if_pos hk, ← Option.some.inj e]
  simp [fieldOf, BitVec.extractLsb'_or, place_disj, place_same]

theorem Encoding.divn (d : BitVec 5) (a : BitVec 5) (b : BitVec 5) (t : BitVec 4) : Encoding.Statement (.divn d a b t) := by
  intro w _ e
  have hk : w &&& 0xFC0007F0#32 = 0x04000060#32 := by
    rw [← Option.some.inj e]
    simp [and_or_l, place_mask]
  have hd : decode w = decodeIntR w := by
    rw [decode, major_of hk (by decide)]
    rfl
  rw [hd, decodeIntR, skip_row hk (by decide), skip_row hk (by decide), skip_row hk (by decide), skip_row hk (by decide), skip_row hk (by decide), skip_row hk (by decide), if_pos hk, ← Option.some.inj e]
  simp [fieldOf, BitVec.extractLsb'_or, place_disj, place_same]

theorem Encoding.rem (d : BitVec 5) (a : BitVec 5) (b : BitVec 5) (t : BitVec 4) : Encoding.Statement (.rem d a b t) := by
  intro w _ e
  have hk : w &&& 0xFC0007F0#32 = 0x04000070#32 := by
    rw [← Option.some.inj e]
    simp [and_or_l, place_mask]
  have hd : decode w = decodeIntR w := by
    rw [decode, major_of hk (by decide)]
    rfl
  rw [hd, decodeIntR, skip_row hk (by decide), skip_row hk (by decide), skip_row hk (by decide), skip_row hk (by decide), skip_row hk (by decide), skip_row hk (by decide), skip_row hk (by decide), if_pos hk, ← Option.some.inj e]
  simp [fieldOf, BitVec.extractLsb'_or, place_disj, place_same]

theorem Encoding.remn (d : BitVec 5) (a : BitVec 5) (b : BitVec 5) (t : BitVec 4) : Encoding.Statement (.remn d a b t) := by
  intro w _ e
  have hk : w &&& 0xFC0007F0#32 = 0x04000080#32 := by
    rw [← Option.some.inj e]
    simp [and_or_l, place_mask]
  have hd : decode w = decodeIntR w := by
    rw [decode, major_of hk (by decide)]
    rfl
  rw [hd, decodeIntR, skip_row hk (by decide), skip_row hk (by decide), skip_row hk (by decide), skip_row hk (by decide), skip_row hk (by decide), skip_row hk (by decide), skip_row hk (by decide), skip_row hk (by decide), if_pos hk, ← Option.some.inj e]
  simp [fieldOf, BitVec.extractLsb'_or, place_disj, place_same]

theorem Encoding.and (d : BitVec 5) (a : BitVec 5) (b : BitVec 5) (t : BitVec 4) : Encoding.Statement (.and d a b t) := by
  intro w _ e
  have hk : w &&& 0xFC0007F0#32 = 0x04000100#32 := by
    rw [← Option.some.inj e]
    simp [and_or_l, place_mask]
  have hd : decode w = decodeIntR w := by
    rw [decode, major_of hk (by decide)]
    rfl
  rw [hd, decodeIntR, skip_row hk (by decide), skip_row hk (by decide), skip_row hk (by decide), skip_row hk (by decide), skip_row hk (by decide), skip_row hk (by decide), skip_row hk (by decide), skip_row hk (by decide), skip_row hk (by decide), if_pos hk, ← Option.some.inj e]
  simp [fieldOf, BitVec.extractLsb'_or, place_disj, place_same]

theorem Encoding.or (d : BitVec 5) (a : BitVec 5) (b : BitVec 5) (t : BitVec 4) : Encoding.Statement (.or d a b t) := by
  intro w _ e
  have hk : w &&& 0xFC0007F0#32 = 0x04000110#32 := by
    rw [← Option.some.inj e]
    simp [and_or_l, place_mask]
  have hd : decode w = decodeIntR w := by
    rw [decode, major_of hk (by decide)]
    rfl
  rw [hd, decodeIntR, skip_row hk (by decide), skip_row hk (by decide), skip_row hk (by decide), skip_row hk (by decide), skip_row hk (by decide), skip_row hk (by decide), skip_row hk (by decide), skip_row hk (by decide), skip_row hk (by decide), skip_row hk (by decide), if_pos hk, ← Option.some.inj e]
  simp [fieldOf, BitVec.extractLsb'_or, place_disj, place_same]

theorem Encoding.xor (d : BitVec 5) (a : BitVec 5) (b : BitVec 5) (t : BitVec 4) : Encoding.Statement (.xor d a b t) := by
  intro w _ e
  have hk : w &&& 0xFC0007F0#32 = 0x04000120#32 := by
    rw [← Option.some.inj e]
    simp [and_or_l, place_mask]
  have hd : decode w = decodeIntR w := by
    rw [decode, major_of hk (by decide)]
    rfl
  rw [hd, decodeIntR, skip_row hk (by decide), skip_row hk (by decide), skip_row hk (by decide), skip_row hk (by decide), skip_row hk (by decide), skip_row hk (by decide), skip_row hk (by decide), skip_row hk (by decide), skip_row hk (by decide), skip_row hk (by decide), skip_row hk (by decide), if_pos hk, ← Option.some.inj e]
  simp [fieldOf, BitVec.extractLsb'_or, place_disj, place_same]

theorem Encoding.andn (d : BitVec 5) (a : BitVec 5) (b : BitVec 5) (t : BitVec 4) : Encoding.Statement (.andn d a b t) := by
  intro w _ e
  have hk : w &&& 0xFC0007F0#32 = 0x04000130#32 := by
    rw [← Option.some.inj e]
    simp [and_or_l, place_mask]
  have hd : decode w = decodeIntR w := by
    rw [decode, major_of hk (by decide)]
    rfl
  rw [hd, decodeIntR, skip_row hk (by decide), skip_row hk (by decide), skip_row hk (by decide), skip_row hk (by decide), skip_row hk (by decide), skip_row hk (by decide), skip_row hk (by decide), skip_row hk (by decide), skip_row hk (by decide), skip_row hk (by decide), skip_row hk (by decide), skip_row hk (by decide), if_pos hk, ← Option.some.inj e]
  simp [fieldOf, BitVec.extractLsb'_or, place_disj, place_same]

theorem Encoding.shl (d : BitVec 5) (a : BitVec 5) (b : BitVec 5) (t : BitVec 4) : Encoding.Statement (.shl d a b t) := by
  intro w _ e
  have hk : w &&& 0xFC0007F0#32 = 0x04000180#32 := by
    rw [← Option.some.inj e]
    simp [and_or_l, place_mask]
  have hd : decode w = decodeIntR w := by
    rw [decode, major_of hk (by decide)]
    rfl
  rw [hd, decodeIntR, skip_row hk (by decide), skip_row hk (by decide), skip_row hk (by decide), skip_row hk (by decide), skip_row hk (by decide), skip_row hk (by decide), skip_row hk (by decide), skip_row hk (by decide), skip_row hk (by decide), skip_row hk (by decide), skip_row hk (by decide), skip_row hk (by decide), skip_row hk (by decide), if_pos hk, ← Option.some.inj e]
  simp [fieldOf, BitVec.extractLsb'_or, place_disj, place_same]

theorem Encoding.shr (d : BitVec 5) (a : BitVec 5) (b : BitVec 5) (t : BitVec 4) : Encoding.Statement (.shr d a b t) := by
  intro w _ e
  have hk : w &&& 0xFC0007F0#32 = 0x04000190#32 := by
    rw [← Option.some.inj e]
    simp [and_or_l, place_mask]
  have hd : decode w = decodeIntR w := by
    rw [decode, major_of hk (by decide)]
    rfl
  rw [hd, decodeIntR, skip_row hk (by decide), skip_row hk (by decide), skip_row hk (by decide), skip_row hk (by decide), skip_row hk (by decide), skip_row hk (by decide), skip_row hk (by decide), skip_row hk (by decide), skip_row hk (by decide), skip_row hk (by decide), skip_row hk (by decide), skip_row hk (by decide), skip_row hk (by decide), skip_row hk (by decide), if_pos hk, ← Option.some.inj e]
  simp [fieldOf, BitVec.extractLsb'_or, place_disj, place_same]

theorem Encoding.sra (d : BitVec 5) (a : BitVec 5) (b : BitVec 5) (t : BitVec 4) : Encoding.Statement (.sra d a b t) := by
  intro w _ e
  have hk : w &&& 0xFC0007F0#32 = 0x040001A0#32 := by
    rw [← Option.some.inj e]
    simp [and_or_l, place_mask]
  have hd : decode w = decodeIntR w := by
    rw [decode, major_of hk (by decide)]
    rfl
  rw [hd, decodeIntR, skip_row hk (by decide), skip_row hk (by decide), skip_row hk (by decide), skip_row hk (by decide), skip_row hk (by decide), skip_row hk (by decide), skip_row hk (by decide), skip_row hk (by decide), skip_row hk (by decide), skip_row hk (by decide), skip_row hk (by decide), skip_row hk (by decide), skip_row hk (by decide), skip_row hk (by decide), skip_row hk (by decide), if_pos hk, ← Option.some.inj e]
  simp [fieldOf, BitVec.extractLsb'_or, place_disj, place_same]

theorem Encoding.rot (d : BitVec 5) (a : BitVec 5) (b : BitVec 5) (t : BitVec 4) : Encoding.Statement (.rot d a b t) := by
  intro w _ e
  have hk : w &&& 0xFC0007F0#32 = 0x040001B0#32 := by
    rw [← Option.some.inj e]
    simp [and_or_l, place_mask]
  have hd : decode w = decodeIntR w := by
    rw [decode, major_of hk (by decide)]
    rfl
  rw [hd, decodeIntR, skip_row hk (by decide), skip_row hk (by decide), skip_row hk (by decide), skip_row hk (by decide), skip_row hk (by decide), skip_row hk (by decide), skip_row hk (by decide), skip_row hk (by decide), skip_row hk (by decide), skip_row hk (by decide), skip_row hk (by decide), skip_row hk (by decide), skip_row hk (by decide), skip_row hk (by decide), skip_row hk (by decide), skip_row hk (by decide), if_pos hk, ← Option.some.inj e]
  simp [fieldOf, BitVec.extractLsb'_or, place_disj, place_same]

theorem Encoding.min (d : BitVec 5) (a : BitVec 5) (b : BitVec 5) (t : BitVec 4) : Encoding.Statement (.min d a b t) := by
  intro w _ e
  have hk : w &&& 0xFC0007F0#32 = 0x04000200#32 := by
    rw [← Option.some.inj e]
    simp [and_or_l, place_mask]
  have hd : decode w = decodeIntR w := by
    rw [decode, major_of hk (by decide)]
    rfl
  rw [hd, decodeIntR, skip_row hk (by decide), skip_row hk (by decide), skip_row hk (by decide), skip_row hk (by decide), skip_row hk (by decide), skip_row hk (by decide), skip_row hk (by decide), skip_row hk (by decide), skip_row hk (by decide), skip_row hk (by decide), skip_row hk (by decide), skip_row hk (by decide), skip_row hk (by decide), skip_row hk (by decide), skip_row hk (by decide), skip_row hk (by decide), skip_row hk (by decide), if_pos hk, ← Option.some.inj e]
  simp [fieldOf, BitVec.extractLsb'_or, place_disj, place_same]

theorem Encoding.max (d : BitVec 5) (a : BitVec 5) (b : BitVec 5) (t : BitVec 4) : Encoding.Statement (.max d a b t) := by
  intro w _ e
  have hk : w &&& 0xFC0007F0#32 = 0x04000210#32 := by
    rw [← Option.some.inj e]
    simp [and_or_l, place_mask]
  have hd : decode w = decodeIntR w := by
    rw [decode, major_of hk (by decide)]
    rfl
  rw [hd, decodeIntR, skip_row hk (by decide), skip_row hk (by decide), skip_row hk (by decide), skip_row hk (by decide), skip_row hk (by decide), skip_row hk (by decide), skip_row hk (by decide), skip_row hk (by decide), skip_row hk (by decide), skip_row hk (by decide), skip_row hk (by decide), skip_row hk (by decide), skip_row hk (by decide), skip_row hk (by decide), skip_row hk (by decide), skip_row hk (by decide), skip_row hk (by decide), skip_row hk (by decide), if_pos hk, ← Option.some.inj e]
  simp [fieldOf, BitVec.extractLsb'_or, place_disj, place_same]

theorem Encoding.minn (d : BitVec 5) (a : BitVec 5) (b : BitVec 5) (t : BitVec 4) : Encoding.Statement (.minn d a b t) := by
  intro w _ e
  have hk : w &&& 0xFC0007F0#32 = 0x04000220#32 := by
    rw [← Option.some.inj e]
    simp [and_or_l, place_mask]
  have hd : decode w = decodeIntR w := by
    rw [decode, major_of hk (by decide)]
    rfl
  rw [hd, decodeIntR, skip_row hk (by decide), skip_row hk (by decide), skip_row hk (by decide), skip_row hk (by decide), skip_row hk (by decide), skip_row hk (by decide), skip_row hk (by decide), skip_row hk (by decide), skip_row hk (by decide), skip_row hk (by decide), skip_row hk (by decide), skip_row hk (by decide), skip_row hk (by decide), skip_row hk (by decide), skip_row hk (by decide), skip_row hk (by decide), skip_row hk (by decide), skip_row hk (by decide), skip_row hk (by decide), if_pos hk, ← Option.some.inj e]
  simp [fieldOf, BitVec.extractLsb'_or, place_disj, place_same]

theorem Encoding.maxn (d : BitVec 5) (a : BitVec 5) (b : BitVec 5) (t : BitVec 4) : Encoding.Statement (.maxn d a b t) := by
  intro w _ e
  have hk : w &&& 0xFC0007F0#32 = 0x04000230#32 := by
    rw [← Option.some.inj e]
    simp [and_or_l, place_mask]
  have hd : decode w = decodeIntR w := by
    rw [decode, major_of hk (by decide)]
    rfl
  rw [hd, decodeIntR, skip_row hk (by decide), skip_row hk (by decide), skip_row hk (by decide), skip_row hk (by decide), skip_row hk (by decide), skip_row hk (by decide), skip_row hk (by decide), skip_row hk (by decide), skip_row hk (by decide), skip_row hk (by decide), skip_row hk (by decide), skip_row hk (by decide), skip_row hk (by decide), skip_row hk (by decide), skip_row hk (by decide), skip_row hk (by decide), skip_row hk (by decide), skip_row hk (by decide), skip_row hk (by decide), skip_row hk (by decide), if_pos hk, ← Option.some.inj e]
  simp [fieldOf, BitVec.extractLsb'_or, place_disj, place_same]

theorem Encoding.slt (d : BitVec 5) (a : BitVec 5) (b : BitVec 5) (t : BitVec 4) : Encoding.Statement (.slt d a b t) := by
  intro w _ e
  have hk : w &&& 0xFC0007F0#32 = 0x04000280#32 := by
    rw [← Option.some.inj e]
    simp [and_or_l, place_mask]
  have hd : decode w = decodeIntR w := by
    rw [decode, major_of hk (by decide)]
    rfl
  rw [hd, decodeIntR, skip_row hk (by decide), skip_row hk (by decide), skip_row hk (by decide), skip_row hk (by decide), skip_row hk (by decide), skip_row hk (by decide), skip_row hk (by decide), skip_row hk (by decide), skip_row hk (by decide), skip_row hk (by decide), skip_row hk (by decide), skip_row hk (by decide), skip_row hk (by decide), skip_row hk (by decide), skip_row hk (by decide), skip_row hk (by decide), skip_row hk (by decide), skip_row hk (by decide), skip_row hk (by decide), skip_row hk (by decide), skip_row hk (by decide), if_pos hk, ← Option.some.inj e]
  simp [fieldOf, BitVec.extractLsb'_or, place_disj, place_same]

theorem Encoding.sltn (d : BitVec 5) (a : BitVec 5) (b : BitVec 5) (t : BitVec 4) : Encoding.Statement (.sltn d a b t) := by
  intro w _ e
  have hk : w &&& 0xFC0007F0#32 = 0x04000290#32 := by
    rw [← Option.some.inj e]
    simp [and_or_l, place_mask]
  have hd : decode w = decodeIntR w := by
    rw [decode, major_of hk (by decide)]
    rfl
  rw [hd, decodeIntR, skip_row hk (by decide), skip_row hk (by decide), skip_row hk (by decide), skip_row hk (by decide), skip_row hk (by decide), skip_row hk (by decide), skip_row hk (by decide), skip_row hk (by decide), skip_row hk (by decide), skip_row hk (by decide), skip_row hk (by decide), skip_row hk (by decide), skip_row hk (by decide), skip_row hk (by decide), skip_row hk (by decide), skip_row hk (by decide), skip_row hk (by decide), skip_row hk (by decide), skip_row hk (by decide), skip_row hk (by decide), skip_row hk (by decide), skip_row hk (by decide), if_pos hk, ← Option.some.inj e]
  simp [fieldOf, BitVec.extractLsb'_or, place_disj, place_same]

theorem Encoding.seq (d : BitVec 5) (a : BitVec 5) (b : BitVec 5) (t : BitVec 4) : Encoding.Statement (.seq d a b t) := by
  intro w _ e
  have hk : w &&& 0xFC0007F0#32 = 0x040002A0#32 := by
    rw [← Option.some.inj e]
    simp [and_or_l, place_mask]
  have hd : decode w = decodeIntR w := by
    rw [decode, major_of hk (by decide)]
    rfl
  rw [hd, decodeIntR, skip_row hk (by decide), skip_row hk (by decide), skip_row hk (by decide), skip_row hk (by decide), skip_row hk (by decide), skip_row hk (by decide), skip_row hk (by decide), skip_row hk (by decide), skip_row hk (by decide), skip_row hk (by decide), skip_row hk (by decide), skip_row hk (by decide), skip_row hk (by decide), skip_row hk (by decide), skip_row hk (by decide), skip_row hk (by decide), skip_row hk (by decide), skip_row hk (by decide), skip_row hk (by decide), skip_row hk (by decide), skip_row hk (by decide), skip_row hk (by decide), skip_row hk (by decide), if_pos hk, ← Option.some.inj e]
  simp [fieldOf, BitVec.extractLsb'_or, place_disj, place_same]

theorem Encoding.clz (d : BitVec 5) (a : BitVec 5) (t : BitVec 4) : Encoding.Statement (.clz d a t) := by
  intro w _ e
  have hk : w &&& 0xFC00FFF0#32 = 0x04000300#32 := by
    rw [← Option.some.inj e]
    simp [and_or_l, place_mask]
  have hd : decode w = decodeIntR w := by
    rw [decode, major_of hk (by decide)]
    rfl
  rw [hd, decodeIntR, skip_row hk (by decide), skip_row hk (by decide), skip_row hk (by decide), skip_row hk (by decide), skip_row hk (by decide), skip_row hk (by decide), skip_row hk (by decide), skip_row hk (by decide), skip_row hk (by decide), skip_row hk (by decide), skip_row hk (by decide), skip_row hk (by decide), skip_row hk (by decide), skip_row hk (by decide), skip_row hk (by decide), skip_row hk (by decide), skip_row hk (by decide), skip_row hk (by decide), skip_row hk (by decide), skip_row hk (by decide), skip_row hk (by decide), skip_row hk (by decide), skip_row hk (by decide), skip_row hk (by decide), if_pos hk, ← Option.some.inj e]
  simp [fieldOf, BitVec.extractLsb'_or, place_disj, place_same]

theorem Encoding.ctz (d : BitVec 5) (a : BitVec 5) (t : BitVec 4) : Encoding.Statement (.ctz d a t) := by
  intro w _ e
  have hk : w &&& 0xFC00FFF0#32 = 0x04000310#32 := by
    rw [← Option.some.inj e]
    simp [and_or_l, place_mask]
  have hd : decode w = decodeIntR w := by
    rw [decode, major_of hk (by decide)]
    rfl
  rw [hd, decodeIntR, skip_row hk (by decide), skip_row hk (by decide), skip_row hk (by decide), skip_row hk (by decide), skip_row hk (by decide), skip_row hk (by decide), skip_row hk (by decide), skip_row hk (by decide), skip_row hk (by decide), skip_row hk (by decide), skip_row hk (by decide), skip_row hk (by decide), skip_row hk (by decide), skip_row hk (by decide), skip_row hk (by decide), skip_row hk (by decide), skip_row hk (by decide), skip_row hk (by decide), skip_row hk (by decide), skip_row hk (by decide), skip_row hk (by decide), skip_row hk (by decide), skip_row hk (by decide), skip_row hk (by decide), skip_row hk (by decide), if_pos hk, ← Option.some.inj e]
  simp [fieldOf, BitVec.extractLsb'_or, place_disj, place_same]

theorem Encoding.popc (d : BitVec 5) (a : BitVec 5) (t : BitVec 4) : Encoding.Statement (.popc d a t) := by
  intro w _ e
  have hk : w &&& 0xFC00FFF0#32 = 0x04000320#32 := by
    rw [← Option.some.inj e]
    simp [and_or_l, place_mask]
  have hd : decode w = decodeIntR w := by
    rw [decode, major_of hk (by decide)]
    rfl
  rw [hd, decodeIntR, skip_row hk (by decide), skip_row hk (by decide), skip_row hk (by decide), skip_row hk (by decide), skip_row hk (by decide), skip_row hk (by decide), skip_row hk (by decide), skip_row hk (by decide), skip_row hk (by decide), skip_row hk (by decide), skip_row hk (by decide), skip_row hk (by decide), skip_row hk (by decide), skip_row hk (by decide), skip_row hk (by decide), skip_row hk (by decide), skip_row hk (by decide), skip_row hk (by decide), skip_row hk (by decide), skip_row hk (by decide), skip_row hk (by decide), skip_row hk (by decide), skip_row hk (by decide), skip_row hk (by decide), skip_row hk (by decide), skip_row hk (by decide), if_pos hk, ← Option.some.inj e]
  simp [fieldOf, BitVec.extractLsb'_or, place_disj, place_same]

theorem Encoding.sext (d : BitVec 5) (a : BitVec 5) (t : BitVec 4) : Encoding.Statement (.sext d a t) := by
  intro w _ e
  have hk : w &&& 0xFC00FFF0#32 = 0x04000380#32 := by
    rw [← Option.some.inj e]
    simp [and_or_l, place_mask]
  have hd : decode w = decodeIntR w := by
    rw [decode, major_of hk (by decide)]
    rfl
  rw [hd, decodeIntR, skip_row hk (by decide), skip_row hk (by decide), skip_row hk (by decide), skip_row hk (by decide), skip_row hk (by decide), skip_row hk (by decide), skip_row hk (by decide), skip_row hk (by decide), skip_row hk (by decide), skip_row hk (by decide), skip_row hk (by decide), skip_row hk (by decide), skip_row hk (by decide), skip_row hk (by decide), skip_row hk (by decide), skip_row hk (by decide), skip_row hk (by decide), skip_row hk (by decide), skip_row hk (by decide), skip_row hk (by decide), skip_row hk (by decide), skip_row hk (by decide), skip_row hk (by decide), skip_row hk (by decide), skip_row hk (by decide), skip_row hk (by decide), skip_row hk (by decide), if_pos hk, ← Option.some.inj e]
  simp [fieldOf, BitVec.extractLsb'_or, place_disj, place_same]

theorem Encoding.zext (d : BitVec 5) (a : BitVec 5) (t : BitVec 4) : Encoding.Statement (.zext d a t) := by
  intro w _ e
  have hk : w &&& 0xFC00FFF0#32 = 0x04000390#32 := by
    rw [← Option.some.inj e]
    simp [and_or_l, place_mask]
  have hd : decode w = decodeIntR w := by
    rw [decode, major_of hk (by decide)]
    rfl
  rw [hd, decodeIntR, skip_row hk (by decide), skip_row hk (by decide), skip_row hk (by decide), skip_row hk (by decide), skip_row hk (by decide), skip_row hk (by decide), skip_row hk (by decide), skip_row hk (by decide), skip_row hk (by decide), skip_row hk (by decide), skip_row hk (by decide), skip_row hk (by decide), skip_row hk (by decide), skip_row hk (by decide), skip_row hk (by decide), skip_row hk (by decide), skip_row hk (by decide), skip_row hk (by decide), skip_row hk (by decide), skip_row hk (by decide), skip_row hk (by decide), skip_row hk (by decide), skip_row hk (by decide), skip_row hk (by decide), skip_row hk (by decide), skip_row hk (by decide), skip_row hk (by decide), skip_row hk (by decide), if_pos hk, ← Option.some.inj e]
  simp [fieldOf, BitVec.extractLsb'_or, place_disj, place_same]

theorem Encoding.addi (d : BitVec 5) (a : BitVec 5) (i : BitVec 16) : Encoding.Statement (.addi d a i) := by
  intro w _ e
  have hk : w &&& 0xFC000000#32 = 0x08000000#32 := by
    rw [← Option.some.inj e]
    simp [and_or_l, place_mask]
  have hd : decode w = decodeAddi w := by
    rw [decode, major_of hk (by decide)]
    rfl
  rw [hd, decodeAddi, if_pos hk, ← Option.some.inj e]
  simp [fieldOf, BitVec.extractLsb'_or, place_disj, place_same]

theorem Encoding.andi (d : BitVec 5) (a : BitVec 5) (i : BitVec 16) : Encoding.Statement (.andi d a i) := by
  intro w _ e
  have hk : w &&& 0xFC000000#32 = 0x0C000000#32 := by
    rw [← Option.some.inj e]
    simp [and_or_l, place_mask]
  have hd : decode w = decodeAndi w := by
    rw [decode, major_of hk (by decide)]
    rfl
  rw [hd, decodeAndi, if_pos hk, ← Option.some.inj e]
  simp [fieldOf, BitVec.extractLsb'_or, place_disj, place_same]

theorem Encoding.ori (d : BitVec 5) (a : BitVec 5) (i : BitVec 16) : Encoding.Statement (.ori d a i) := by
  intro w _ e
  have hk : w &&& 0xFC000000#32 = 0x10000000#32 := by
    rw [← Option.some.inj e]
    simp [and_or_l, place_mask]
  have hd : decode w = decodeOri w := by
    rw [decode, major_of hk (by decide)]
    rfl
  rw [hd, decodeOri, if_pos hk, ← Option.some.inj e]
  simp [fieldOf, BitVec.extractLsb'_or, place_disj, place_same]

theorem Encoding.xori (d : BitVec 5) (a : BitVec 5) (i : BitVec 16) : Encoding.Statement (.xori d a i) := by
  intro w _ e
  have hk : w &&& 0xFC000000#32 = 0x14000000#32 := by
    rw [← Option.some.inj e]
    simp [and_or_l, place_mask]
  have hd : decode w = decodeXori w := by
    rw [decode, major_of hk (by decide)]
    rfl
  rw [hd, decodeXori, if_pos hk, ← Option.some.inj e]
  simp [fieldOf, BitVec.extractLsb'_or, place_disj, place_same]

theorem Encoding.shli (d : BitVec 5) (a : BitVec 5) (c : BitVec 6) : Encoding.Statement (.shli d a c) := by
  intro w _ e
  have hk : w &&& 0xFC00FFC0#32 = 0x18000000#32 := by
    rw [← Option.some.inj e]
    simp [and_or_l, place_mask]
  have hd : decode w = decodeShifti w := by
    rw [decode, major_of hk (by decide)]
    rfl
  rw [hd, decodeShifti, if_pos hk, ← Option.some.inj e]
  simp [fieldOf, BitVec.extractLsb'_or, place_disj, place_same]

theorem Encoding.shri (d : BitVec 5) (a : BitVec 5) (c : BitVec 6) : Encoding.Statement (.shri d a c) := by
  intro w _ e
  have hk : w &&& 0xFC00FFC0#32 = 0x18004000#32 := by
    rw [← Option.some.inj e]
    simp [and_or_l, place_mask]
  have hd : decode w = decodeShifti w := by
    rw [decode, major_of hk (by decide)]
    rfl
  rw [hd, decodeShifti, skip_row hk (by decide), if_pos hk, ← Option.some.inj e]
  simp [fieldOf, BitVec.extractLsb'_or, place_disj, place_same]

theorem Encoding.srai (d : BitVec 5) (a : BitVec 5) (c : BitVec 6) : Encoding.Statement (.srai d a c) := by
  intro w _ e
  have hk : w &&& 0xFC00FFC0#32 = 0x18008000#32 := by
    rw [← Option.some.inj e]
    simp [and_or_l, place_mask]
  have hd : decode w = decodeShifti w := by
    rw [decode, major_of hk (by decide)]
    rfl
  rw [hd, decodeShifti, skip_row hk (by decide), skip_row hk (by decide), if_pos hk, ← Option.some.inj e]
  simp [fieldOf, BitVec.extractLsb'_or, place_disj, place_same]

theorem Encoding.lil (d : BitVec 5) (i : BitVec 16) : Encoding.Statement (.lil d i) := by
  intro w _ e
  have hk : w &&& 0xFC1F0000#32 = 0x1C000000#32 := by
    rw [← Option.some.inj e]
    simp [and_or_l, place_mask]
  have hd : decode w = decodeLi w := by
    rw [decode, major_of hk (by decide)]
    rfl
  rw [hd, decodeLi, if_pos hk, ← Option.some.inj e]
  simp [fieldOf, BitVec.extractLsb'_or, place_disj, place_same]

theorem Encoding.lih (d : BitVec 5) (h : BitVec 5) (i : BitVec 16) : Encoding.Statement (.lih d h i) := by
  intro w hw e
  have hk : w &&& 0xFC000000#32 = 0x1C000000#32 := by
    rw [← Option.some.inj e]
    simp [and_or_l, place_mask]
  have hf : fieldOf w 16 5 = h := by
    rw [← Option.some.inj e]
    simp [fieldOf, BitVec.extractLsb'_or, place_disj, place_same]
  have hn : ¬ w &&& 0xFC1F0000#32 = 0x1C000000#32 := by
    intro x
    have y := congrArg (fun v : Word32 => v.extractLsb' 16 5) x
    rw [BitVec.extractLsb'_and] at y
    rw [fieldOf] at hf
    rw [hf, show (0xFC1F0000#32).extractLsb' 16 5 = BitVec.allOnes 5 from rfl, BitVec.and_allOnes] at y
    simp [Instr.wf, Instr.halfOk, Instr.condOk, y] at hw
  have hd : decode w = decodeLi w := by
    rw [decode, major_of hk (by decide)]
    rfl
  rw [hd, decodeLi, if_neg hn, if_pos hk, ← Option.some.inj e]
  simp [fieldOf, BitVec.extractLsb'_or, place_disj, place_same]

theorem Encoding.padd (d : BitVec 5) (a : BitVec 5) (b : BitVec 5) : Encoding.Statement (.padd d a b) := by
  intro w _ e
  have hk : w &&& 0xFC0007FF#32 = 0x20000000#32 := by
    rw [← Option.some.inj e]
    simp [and_or_l, place_mask]
  have hd : decode w = decodePtr w := by
    rw [decode, major_of hk (by decide)]
    rfl
  rw [hd, decodePtr, if_pos hk, ← Option.some.inj e]
  simp [fieldOf, BitVec.extractLsb'_or, place_disj, place_same]

theorem Encoding.pset (d : BitVec 5) (a : BitVec 5) (b : BitVec 5) (t : BitVec 4) : Encoding.Statement (.pset d a b t) := by
  intro w _ e
  have hk : w &&& 0xFC0007F0#32 = 0x20000010#32 := by
    rw [← Option.some.inj e]
    simp [and_or_l, place_mask]
  have hd : decode w = decodePtr w := by
    rw [decode, major_of hk (by decide)]
    rfl
  rw [hd, decodePtr, skip_row hk (by decide), if_pos hk, ← Option.some.inj e]
  simp [fieldOf, BitVec.extractLsb'_or, place_disj, place_same]

theorem Encoding.pget (d : BitVec 5) (a : BitVec 5) (t : BitVec 4) : Encoding.Statement (.pget d a t) := by
  intro w _ e
  have hk : w &&& 0xFC00FFF0#32 = 0x20000020#32 := by
    rw [← Option.some.inj e]
    simp [and_or_l, place_mask]
  have hd : decode w = decodePtr w := by
    rw [decode, major_of hk (by decide)]
    rfl
  rw [hd, decodePtr, skip_row hk (by decide), skip_row hk (by decide), if_pos hk, ← Option.some.inj e]
  simp [fieldOf, BitVec.extractLsb'_or, place_disj, place_same]

theorem Encoding.pdie (d : BitVec 5) (a : BitVec 5) : Encoding.Statement (.pdie d a) := by
  intro w _ e
  have hk : w &&& 0xFC00FFFF#32 = 0x20000030#32 := by
    rw [← Option.some.inj e]
    simp [and_or_l, place_mask]
  have hd : decode w = decodePtr w := by
    rw [decode, major_of hk (by decide)]
    rfl
  rw [hd, decodePtr, skip_row hk (by decide), skip_row hk (by decide), skip_row hk (by decide), if_pos hk, ← Option.some.inj e]
  simp [fieldOf, BitVec.extractLsb'_or, place_disj, place_same]

theorem Encoding.pdiff (d : BitVec 5) (a : BitVec 5) (b : BitVec 5) : Encoding.Statement (.pdiff d a b) := by
  intro w _ e
  have hk : w &&& 0xFC0007FF#32 = 0x20000040#32 := by
    rw [← Option.some.inj e]
    simp [and_or_l, place_mask]
  have hd : decode w = decodePtr w := by
    rw [decode, major_of hk (by decide)]
    rfl
  rw [hd, decodePtr, skip_row hk (by decide), skip_row hk (by decide), skip_row hk (by decide), skip_row hk (by decide), if_pos hk, ← Option.some.inj e]
  simp [fieldOf, BitVec.extractLsb'_or, place_disj, place_same]

theorem Encoding.paddi (d : BitVec 5) (a : BitVec 5) (i : BitVec 16) : Encoding.Statement (.paddi d a i) := by
  intro w _ e
  have hk : w &&& 0xFC000000#32 = 0x24000000#32 := by
    rw [← Option.some.inj e]
    simp [and_or_l, place_mask]
  have hd : decode w = decodePaddi w := by
    rw [decode, major_of hk (by decide)]
    rfl
  rw [hd, decodePaddi, if_pos hk, ← Option.some.inj e]
  simp [fieldOf, BitVec.extractLsb'_or, place_disj, place_same]

theorem Encoding.br (c : BitVec 4) (a : BitVec 5) (b : BitVec 5) (o : BitVec 12) : Encoding.Statement (.br c a b o) := by
  intro w _ e
  have hk : w &&& 0xFC000000#32 = 0x28000000#32 := by
    rw [← Option.some.inj e]
    simp [and_or_l, place_mask]
  have hd : decode w = decodeBr w := by
    rw [decode, major_of hk (by decide)]
    rfl
  rw [hd, decodeBr, if_pos hk, ← Option.some.inj e]
  simp [fieldOf, BitVec.extractLsb'_or, place_disj, place_same]

theorem Encoding.jmp (o : BitVec 26) : Encoding.Statement (.jmp o) := by
  intro w _ e
  have hk : w &&& 0xFC000000#32 = 0x2C000000#32 := by
    rw [← Option.some.inj e]
    simp [and_or_l, place_mask]
  have hd : decode w = decodeJmp w := by
    rw [decode, major_of hk (by decide)]
    rfl
  rw [hd, decodeJmp, if_pos hk, ← Option.some.inj e]
  simp [fieldOf, BitVec.extractLsb'_or, place_disj, place_same]

theorem Encoding.jal (o : BitVec 26) : Encoding.Statement (.jal o) := by
  intro w _ e
  have hk : w &&& 0xFC000000#32 = 0x30000000#32 := by
    rw [← Option.some.inj e]
    simp [and_or_l, place_mask]
  have hd : decode w = decodeJal w := by
    rw [decode, major_of hk (by decide)]
    rfl
  rw [hd, decodeJal, if_pos hk, ← Option.some.inj e]
  simp [fieldOf, BitVec.extractLsb'_or, place_disj, place_same]

theorem Encoding.jalr (d : BitVec 5) (a : BitVec 5) (i : BitVec 16) : Encoding.Statement (.jalr d a i) := by
  intro w _ e
  have hk : w &&& 0xFC000000#32 = 0x34000000#32 := by
    rw [← Option.some.inj e]
    simp [and_or_l, place_mask]
  have hd : decode w = decodeJalr w := by
    rw [decode, major_of hk (by decide)]
    rfl
  rw [hd, decodeJalr, if_pos hk, ← Option.some.inj e]
  simp [fieldOf, BitVec.extractLsb'_or, place_disj, place_same]

theorem Encoding.loop (c : BitVec 5) (l : BitVec 10) (v : BitVec 2) : Encoding.Statement (.loop c l v) := by
  intro w _ e
  have hk : w &&& 0xFC0001FF#32 = 0x38000000#32 := by
    rw [← Option.some.inj e]
    simp [and_or_l, place_mask]
  have hd : decode w = decodeLoop w := by
    rw [decode, major_of hk (by decide)]
    rfl
  rw [hd, decodeLoop, if_pos hk, ← Option.some.inj e]
  simp [fieldOf, BitVec.extractLsb'_or, place_disj, place_same]

theorem Encoding.loopi (c : BitVec 5) (l : BitVec 10) (v : BitVec 2) (h : BitVec 8) : Encoding.Statement (.loopi c l v h) := by
  intro w _ e
  have hk : w &&& 0xFC000100#32 = 0x38000100#32 := by
    rw [← Option.some.inj e]
    simp [and_or_l, place_mask]
  have hd : decode w = decodeLoop w := by
    rw [decode, major_of hk (by decide)]
    rfl
  rw [hd, decodeLoop, skip_row hk (by decide), if_pos hk, ← Option.some.inj e]
  simp [fieldOf, BitVec.extractLsb'_or, place_disj, place_same]

theorem Encoding.rpt (n : BitVec 4) (k : BitVec 6) (d : BitVec 4) (a : BitVec 4) (b : BitVec 4) : Encoding.Statement (.rpt n k d a b) := by
  intro w _ e
  have hk : w &&& 0xFC00000F#32 = 0x3C000000#32 := by
    rw [← Option.some.inj e]
    simp [and_or_l, place_mask]
  have hd : decode w = decodeRpt w := by
    rw [decode, major_of hk (by decide)]
    rfl
  rw [hd, decodeRpt, if_pos hk, ← Option.some.inj e]
  simp [fieldOf, BitVec.extractLsb'_or, place_disj, place_same]

theorem Encoding.csrr (d : BitVec 5) (c : BitVec 12) : Encoding.Statement (.csrr d c) := by
  intro w _ e
  have hk : w &&& 0xFC1FF000#32 = 0x40000000#32 := by
    rw [← Option.some.inj e]
    simp [and_or_l, place_mask]
  have hd : decode w = decodeCsr w := by
    rw [decode, major_of hk (by decide)]
    rfl
  rw [hd, decodeCsr, if_pos hk, ← Option.some.inj e]
  simp [fieldOf, BitVec.extractLsb'_or, place_disj, place_same]

theorem Encoding.csrw (d : BitVec 5) (a : BitVec 5) (c : BitVec 12) : Encoding.Statement (.csrw d a c) := by
  intro w _ e
  have hk : w &&& 0xFC00F000#32 = 0x40004000#32 := by
    rw [← Option.some.inj e]
    simp [and_or_l, place_mask]
  have hd : decode w = decodeCsr w := by
    rw [decode, major_of hk (by decide)]
    rfl
  rw [hd, decodeCsr, skip_row hk (by decide), if_pos hk, ← Option.some.inj e]
  simp [fieldOf, BitVec.extractLsb'_or, place_disj, place_same]

theorem Encoding.csrs (d : BitVec 5) (a : BitVec 5) (c : BitVec 12) : Encoding.Statement (.csrs d a c) := by
  intro w _ e
  have hk : w &&& 0xFC00F000#32 = 0x40008000#32 := by
    rw [← Option.some.inj e]
    simp [and_or_l, place_mask]
  have hd : decode w = decodeCsr w := by
    rw [decode, major_of hk (by decide)]
    rfl
  rw [hd, decodeCsr, skip_row hk (by decide), skip_row hk (by decide), if_pos hk, ← Option.some.inj e]
  simp [fieldOf, BitVec.extractLsb'_or, place_disj, place_same]

theorem Encoding.csrc (d : BitVec 5) (a : BitVec 5) (c : BitVec 12) : Encoding.Statement (.csrc d a c) := by
  intro w _ e
  have hk : w &&& 0xFC00F000#32 = 0x4000C000#32 := by
    rw [← Option.some.inj e]
    simp [and_or_l, place_mask]
  have hd : decode w = decodeCsr w := by
    rw [decode, major_of hk (by decide)]
    rfl
  rw [hd, decodeCsr, skip_row hk (by decide), skip_row hk (by decide), skip_row hk (by decide), if_pos hk, ← Option.some.inj e]
  simp [fieldOf, BitVec.extractLsb'_or, place_disj, place_same]

theorem Encoding.trap (a : BitVec 5) (b : BitVec 5) (c : BitVec 6) : Encoding.Statement (.trap a b c) := by
  intro w _ e
  have hk : w &&& 0xFFE007C0#32 = 0x44000100#32 := by
    rw [← Option.some.inj e]
    simp [and_or_l, place_mask]
  have hd : decode w = decodeSys w := by
    rw [decode, major_of hk (by decide)]
    rfl
  rw [hd, decodeSys, skip_row hk (by decide), if_pos hk, ← Option.some.inj e]
  simp [fieldOf, BitVec.extractLsb'_or, place_disj, place_same]

theorem Encoding.vaddFlt (d : BitVec 5) (a : BitVec 5) (b : BitVec 5) (k : BitVec 3) (t : BitVec 4) : Encoding.Statement (.vaddFlt d a b k t) := by
  intro w _ e
  have hk : w &&& 0xFC0000F0#32 = 0x60000000#32 := by
    rw [← Option.some.inj e]
    simp [and_or_l, place_mask]
  have hd : decode w = decodeVflt w := by
    rw [decode, major_of hk (by decide)]
    rfl
  rw [hd, decodeVflt, if_pos hk, ← Option.some.inj e]
  simp [fieldOf, BitVec.extractLsb'_or, place_disj, place_same]

theorem Encoding.vsubFlt (d : BitVec 5) (a : BitVec 5) (b : BitVec 5) (k : BitVec 3) (t : BitVec 4) : Encoding.Statement (.vsubFlt d a b k t) := by
  intro w _ e
  have hk : w &&& 0xFC0000F0#32 = 0x60000010#32 := by
    rw [← Option.some.inj e]
    simp [and_or_l, place_mask]
  have hd : decode w = decodeVflt w := by
    rw [decode, major_of hk (by decide)]
    rfl
  rw [hd, decodeVflt, skip_row hk (by decide), if_pos hk, ← Option.some.inj e]
  simp [fieldOf, BitVec.extractLsb'_or, place_disj, place_same]

theorem Encoding.vmulFlt (d : BitVec 5) (a : BitVec 5) (b : BitVec 5) (k : BitVec 3) (t : BitVec 4) : Encoding.Statement (.vmulFlt d a b k t) := by
  intro w _ e
  have hk : w &&& 0xFC0000F0#32 = 0x60000020#32 := by
    rw [← Option.some.inj e]
    simp [and_or_l, place_mask]
  have hd : decode w = decodeVflt w := by
    rw [decode, major_of hk (by decide)]
    rfl
  rw [hd, decodeVflt, skip_row hk (by decide), skip_row hk (by decide), if_pos hk, ← Option.some.inj e]
  simp [fieldOf, BitVec.extractLsb'_or, place_disj, place_same]

theorem Encoding.vdiv (d : BitVec 5) (a : BitVec 5) (b : BitVec 5) (k : BitVec 3) (t : BitVec 4) : Encoding.Statement (.vdiv d a b k t) := by
  intro w _ e
  have hk : w &&& 0xFC0000F0#32 = 0x60000030#32 := by
    rw [← Option.some.inj e]
    simp [and_or_l, place_mask]
  have hd : decode w = decodeVflt w := by
    rw [decode, major_of hk (by decide)]
    rfl
  rw [hd, decodeVflt, skip_row hk (by decide), skip_row hk (by decide), skip_row hk (by decide), if_pos hk, ← Option.some.inj e]
  simp [fieldOf, BitVec.extractLsb'_or, place_disj, place_same]

theorem Encoding.vsqrt (d : BitVec 5) (a : BitVec 5) (k : BitVec 3) (t : BitVec 4) : Encoding.Statement (.vsqrt d a k t) := by
  intro w _ e
  have hk : w &&& 0xFC00F8F0#32 = 0x60000040#32 := by
    rw [← Option.some.inj e]
    simp [and_or_l, place_mask]
  have hd : decode w = decodeVflt w := by
    rw [decode, major_of hk (by decide)]
    rfl
  rw [hd, decodeVflt, skip_row hk (by decide), skip_row hk (by decide), skip_row hk (by decide), skip_row hk (by decide), if_pos hk, ← Option.some.inj e]
  simp [fieldOf, BitVec.extractLsb'_or, place_disj, place_same]

theorem Encoding.vminFlt (d : BitVec 5) (a : BitVec 5) (b : BitVec 5) (k : BitVec 3) (t : BitVec 4) : Encoding.Statement (.vminFlt d a b k t) := by
  intro w _ e
  have hk : w &&& 0xFC0000F0#32 = 0x60000050#32 := by
    rw [← Option.some.inj e]
    simp [and_or_l, place_mask]
  have hd : decode w = decodeVflt w := by
    rw [decode, major_of hk (by decide)]
    rfl
  rw [hd, decodeVflt, skip_row hk (by decide), skip_row hk (by decide), skip_row hk (by decide), skip_row hk (by decide), skip_row hk (by decide), if_pos hk, ← Option.some.inj e]
  simp [fieldOf, BitVec.extractLsb'_or, place_disj, place_same]

theorem Encoding.vmaxFlt (d : BitVec 5) (a : BitVec 5) (b : BitVec 5) (k : BitVec 3) (t : BitVec 4) : Encoding.Statement (.vmaxFlt d a b k t) := by
  intro w _ e
  have hk : w &&& 0xFC0000F0#32 = 0x60000060#32 := by
    rw [← Option.some.inj e]
    simp [and_or_l, place_mask]
  have hd : decode w = decodeVflt w := by
    rw [decode, major_of hk (by decide)]
    rfl
  rw [hd, decodeVflt, skip_row hk (by decide), skip_row hk (by decide), skip_row hk (by decide), skip_row hk (by decide), skip_row hk (by decide), skip_row hk (by decide), if_pos hk, ← Option.some.inj e]
  simp [fieldOf, BitVec.extractLsb'_or, place_disj, place_same]

theorem Encoding.vabs (d : BitVec 5) (a : BitVec 5) (k : BitVec 3) (t : BitVec 4) : Encoding.Statement (.vabs d a k t) := by
  intro w _ e
  have hk : w &&& 0xFC00F8F0#32 = 0x60000070#32 := by
    rw [← Option.some.inj e]
    simp [and_or_l, place_mask]
  have hd : decode w = decodeVflt w := by
    rw [decode, major_of hk (by decide)]
    rfl
  rw [hd, decodeVflt, skip_row hk (by decide), skip_row hk (by decide), skip_row hk (by decide), skip_row hk (by decide), skip_row hk (by decide), skip_row hk (by decide), skip_row hk (by decide), if_pos hk, ← Option.some.inj e]
  simp [fieldOf, BitVec.extractLsb'_or, place_disj, place_same]

theorem Encoding.vneg (d : BitVec 5) (a : BitVec 5) (k : BitVec 3) (t : BitVec 4) : Encoding.Statement (.vneg d a k t) := by
  intro w _ e
  have hk : w &&& 0xFC00F8F0#32 = 0x60000080#32 := by
    rw [← Option.some.inj e]
    simp [and_or_l, place_mask]
  have hd : decode w = decodeVflt w := by
    rw [decode, major_of hk (by decide)]
    rfl
  rw [hd, decodeVflt, skip_row hk (by decide), skip_row hk (by decide), skip_row hk (by decide), skip_row hk (by decide), skip_row hk (by decide), skip_row hk (by decide), skip_row hk (by decide), skip_row hk (by decide), if_pos hk, ← Option.some.inj e]
  simp [fieldOf, BitVec.extractLsb'_or, place_disj, place_same]

theorem Encoding.vaddInt (d : BitVec 5) (a : BitVec 5) (b : BitVec 5) (k : BitVec 3) (t : BitVec 4) : Encoding.Statement (.vaddInt d a b k t) := by
  intro w _ e
  have hk : w &&& 0xFC0000F0#32 = 0x64000000#32 := by
    rw [← Option.some.inj e]
    simp [and_or_l, place_mask]
  have hd : decode w = decodeVint w := by
    rw [decode, major_of hk (by decide)]
    rfl
  rw [hd, decodeVint, if_pos hk, ← Option.some.inj e]
  simp [fieldOf, BitVec.extractLsb'_or, place_disj, place_same]

theorem Encoding.vsubInt (d : BitVec 5) (a : BitVec 5) (b : BitVec 5) (k : BitVec 3) (t : BitVec 4) : Encoding.Statement (.vsubInt d a b k t) := by
  intro w _ e
  have hk : w &&& 0xFC0000F0#32 = 0x64000010#32 := by
    rw [← Option.some.inj e]
    simp [and_or_l, place_mask]
  have hd : decode w = decodeVint w := by
    rw [decode, major_of hk (by decide)]
    rfl
  rw [hd, decodeVint, skip_row hk (by decide), if_pos hk, ← Option.some.inj e]
  simp [fieldOf, BitVec.extractLsb'_or, place_disj, place_same]

theorem Encoding.vmulInt (d : BitVec 5) (a : BitVec 5) (b : BitVec 5) (k : BitVec 3) (t : BitVec 4) : Encoding.Statement (.vmulInt d a b k t) := by
  intro w _ e
  have hk : w &&& 0xFC0000F0#32 = 0x64000020#32 := by
    rw [← Option.some.inj e]
    simp [and_or_l, place_mask]
  have hd : decode w = decodeVint w := by
    rw [decode, major_of hk (by decide)]
    rfl
  rw [hd, decodeVint, skip_row hk (by decide), skip_row hk (by decide), if_pos hk, ← Option.some.inj e]
  simp [fieldOf, BitVec.extractLsb'_or, place_disj, place_same]

theorem Encoding.vminInt (d : BitVec 5) (a : BitVec 5) (b : BitVec 5) (k : BitVec 3) (t : BitVec 4) : Encoding.Statement (.vminInt d a b k t) := by
  intro w _ e
  have hk : w &&& 0xFC0000F0#32 = 0x64000030#32 := by
    rw [← Option.some.inj e]
    simp [and_or_l, place_mask]
  have hd : decode w = decodeVint w := by
    rw [decode, major_of hk (by decide)]
    rfl
  rw [hd, decodeVint, skip_row hk (by decide), skip_row hk (by decide), skip_row hk (by decide), if_pos hk, ← Option.some.inj e]
  simp [fieldOf, BitVec.extractLsb'_or, place_disj, place_same]

theorem Encoding.vmaxInt (d : BitVec 5) (a : BitVec 5) (b : BitVec 5) (k : BitVec 3) (t : BitVec 4) : Encoding.Statement (.vmaxInt d a b k t) := by
  intro w _ e
  have hk : w &&& 0xFC0000F0#32 = 0x64000040#32 := by
    rw [← Option.some.inj e]
    simp [and_or_l, place_mask]
  have hd : decode w = decodeVint w := by
    rw [decode, major_of hk (by decide)]
    rfl
  rw [hd, decodeVint, skip_row hk (by decide), skip_row hk (by decide), skip_row hk (by decide), skip_row hk (by decide), if_pos hk, ← Option.some.inj e]
  simp [fieldOf, BitVec.extractLsb'_or, place_disj, place_same]

theorem Encoding.vand (d : BitVec 5) (a : BitVec 5) (b : BitVec 5) (k : BitVec 3) (t : BitVec 4) : Encoding.Statement (.vand d a b k t) := by
  intro w _ e
  have hk : w &&& 0xFC0000F0#32 = 0x64000050#32 := by
    rw [← Option.some.inj e]
    simp [and_or_l, place_mask]
  have hd : decode w = decodeVint w := by
    rw [decode, major_of hk (by decide)]
    rfl
  rw [hd, decodeVint, skip_row hk (by decide), skip_row hk (by decide), skip_row hk (by decide), skip_row hk (by decide), skip_row hk (by decide), if_pos hk, ← Option.some.inj e]
  simp [fieldOf, BitVec.extractLsb'_or, place_disj, place_same]

theorem Encoding.vor (d : BitVec 5) (a : BitVec 5) (b : BitVec 5) (k : BitVec 3) (t : BitVec 4) : Encoding.Statement (.vor d a b k t) := by
  intro w _ e
  have hk : w &&& 0xFC0000F0#32 = 0x64000060#32 := by
    rw [← Option.some.inj e]
    simp [and_or_l, place_mask]
  have hd : decode w = decodeVint w := by
    rw [decode, major_of hk (by decide)]
    rfl
  rw [hd, decodeVint, skip_row hk (by decide), skip_row hk (by decide), skip_row hk (by decide), skip_row hk (by decide), skip_row hk (by decide), skip_row hk (by decide), if_pos hk, ← Option.some.inj e]
  simp [fieldOf, BitVec.extractLsb'_or, place_disj, place_same]

theorem Encoding.vxor (d : BitVec 5) (a : BitVec 5) (b : BitVec 5) (k : BitVec 3) (t : BitVec 4) : Encoding.Statement (.vxor d a b k t) := by
  intro w _ e
  have hk : w &&& 0xFC0000F0#32 = 0x64000070#32 := by
    rw [← Option.some.inj e]
    simp [and_or_l, place_mask]
  have hd : decode w = decodeVint w := by
    rw [decode, major_of hk (by decide)]
    rfl
  rw [hd, decodeVint, skip_row hk (by decide), skip_row hk (by decide), skip_row hk (by decide), skip_row hk (by decide), skip_row hk (by decide), skip_row hk (by decide), skip_row hk (by decide), if_pos hk, ← Option.some.inj e]
  simp [fieldOf, BitVec.extractLsb'_or, place_disj, place_same]

theorem Encoding.vshl (d : BitVec 5) (a : BitVec 5) (b : BitVec 5) (k : BitVec 3) (t : BitVec 4) : Encoding.Statement (.vshl d a b k t) := by
  intro w _ e
  have hk : w &&& 0xFC0000F0#32 = 0x64000080#32 := by
    rw [← Option.some.inj e]
    simp [and_or_l, place_mask]
  have hd : decode w = decodeVint w := by
    rw [decode, major_of hk (by decide)]
    rfl
  rw [hd, decodeVint, skip_row hk (by decide), skip_row hk (by decide), skip_row hk (by decide), skip_row hk (by decide), skip_row hk (by decide), skip_row hk (by decide), skip_row hk (by decide), skip_row hk (by decide), if_pos hk, ← Option.some.inj e]
  simp [fieldOf, BitVec.extractLsb'_or, place_disj, place_same]

theorem Encoding.vshr (d : BitVec 5) (a : BitVec 5) (b : BitVec 5) (k : BitVec 3) (t : BitVec 4) : Encoding.Statement (.vshr d a b k t) := by
  intro w _ e
  have hk : w &&& 0xFC0000F0#32 = 0x64000090#32 := by
    rw [← Option.some.inj e]
    simp [and_or_l, place_mask]
  have hd : decode w = decodeVint w := by
    rw [decode, major_of hk (by decide)]
    rfl
  rw [hd, decodeVint, skip_row hk (by decide), skip_row hk (by decide), skip_row hk (by decide), skip_row hk (by decide), skip_row hk (by decide), skip_row hk (by decide), skip_row hk (by decide), skip_row hk (by decide), skip_row hk (by decide), if_pos hk, ← Option.some.inj e]
  simp [fieldOf, BitVec.extractLsb'_or, place_disj, place_same]

theorem Encoding.vsra (d : BitVec 5) (a : BitVec 5) (b : BitVec 5) (k : BitVec 3) (t : BitVec 4) : Encoding.Statement (.vsra d a b k t) := by
  intro w _ e
  have hk : w &&& 0xFC0000F0#32 = 0x640000A0#32 := by
    rw [← Option.some.inj e]
    simp [and_or_l, place_mask]
  have hd : decode w = decodeVint w := by
    rw [decode, major_of hk (by decide)]
    rfl
  rw [hd, decodeVint, skip_row hk (by decide), skip_row hk (by decide), skip_row hk (by decide), skip_row hk (by decide), skip_row hk (by decide), skip_row hk (by decide), skip_row hk (by decide), skip_row hk (by decide), skip_row hk (by decide), skip_row hk (by decide), if_pos hk, ← Option.some.inj e]
  simp [fieldOf, BitVec.extractLsb'_or, place_disj, place_same]

theorem Encoding.vfma (d : BitVec 5) (a : BitVec 5) (b : BitVec 5) (c : BitVec 5) (k : BitVec 3) (t : BitVec 1) : Encoding.Statement (.vfma d a b c k t) := by
  intro w _ e
  have hk : w &&& 0xFC000006#32 = 0x68000000#32 := by
    rw [← Option.some.inj e]
    simp [and_or_l, place_mask]
  have hd : decode w = decodeVfma w := by
    rw [decode, major_of hk (by decide)]
    rfl
  rw [hd, decodeVfma, if_pos hk, ← Option.some.inj e]
  simp [fieldOf, BitVec.extractLsb'_or, place_disj, place_same]

theorem Encoding.vfms (d : BitVec 5) (a : BitVec 5) (b : BitVec 5) (c : BitVec 5) (k : BitVec 3) (t : BitVec 1) : Encoding.Statement (.vfms d a b c k t) := by
  intro w _ e
  have hk : w &&& 0xFC000006#32 = 0x68000002#32 := by
    rw [← Option.some.inj e]
    simp [and_or_l, place_mask]
  have hd : decode w = decodeVfma w := by
    rw [decode, major_of hk (by decide)]
    rfl
  rw [hd, decodeVfma, skip_row hk (by decide), if_pos hk, ← Option.some.inj e]
  simp [fieldOf, BitVec.extractLsb'_or, place_disj, place_same]

theorem Encoding.vfnma (d : BitVec 5) (a : BitVec 5) (b : BitVec 5) (c : BitVec 5) (k : BitVec 3) (t : BitVec 1) : Encoding.Statement (.vfnma d a b c k t) := by
  intro w _ e
  have hk : w &&& 0xFC000006#32 = 0x68000004#32 := by
    rw [← Option.some.inj e]
    simp [and_or_l, place_mask]
  have hd : decode w = decodeVfma w := by
    rw [decode, major_of hk (by decide)]
    rfl
  rw [hd, decodeVfma, skip_row hk (by decide), skip_row hk (by decide), if_pos hk, ← Option.some.inj e]
  simp [fieldOf, BitVec.extractLsb'_or, place_disj, place_same]

theorem Encoding.vcmp (d : BitVec 5) (a : BitVec 5) (b : BitVec 5) (k : BitVec 3) (c : BitVec 4) (t : BitVec 4) : Encoding.Statement (.vcmp d a b k c t) := by
  intro w hw e
  have hk : w &&& 0xFC000000#32 = 0x6C000000#32 := by
    rw [← Option.some.inj e]
    simp [and_or_l, place_mask]
  have hf : fieldOf w 4 4 = c := by
    rw [← Option.some.inj e]
    simp [fieldOf, BitVec.extractLsb'_or, place_disj, place_same]
  have hn : ¬ w &&& 0xFC0000F0#32 = 0x6C000080#32 := by
    intro x
    have y := congrArg (fun v : Word32 => v.extractLsb' 4 4) x
    rw [BitVec.extractLsb'_and] at y
    rw [fieldOf] at hf
    rw [hf, show (0xFC0000F0#32).extractLsb' 4 4 = BitVec.allOnes 4 from rfl, BitVec.and_allOnes] at y
    simp [Instr.wf, Instr.halfOk, Instr.condOk, y] at hw
  have hd : decode w = decodeVcmp w := by
    rw [decode, major_of hk (by decide)]
    rfl
  rw [hd, decodeVcmp, if_neg hn, if_pos hk, ← Option.some.inj e]
  simp [fieldOf, BitVec.extractLsb'_or, place_disj, place_same]

theorem Encoding.vsel (d : BitVec 5) (a : BitVec 5) (b : BitVec 5) (k : BitVec 3) (t : BitVec 4) : Encoding.Statement (.vsel d a b k t) := by
  intro w _ e
  have hk : w &&& 0xFC0000F0#32 = 0x6C000080#32 := by
    rw [← Option.some.inj e]
    simp [and_or_l, place_mask]
  have hd : decode w = decodeVcmp w := by
    rw [decode, major_of hk (by decide)]
    rfl
  rw [hd, decodeVcmp, if_pos hk, ← Option.some.inj e]
  simp [fieldOf, BitVec.extractLsb'_or, place_disj, place_same]

theorem Encoding.vcvt (d : BitVec 5) (a : BitVec 5) (x : BitVec 1) (r : BitVec 3) (s : BitVec 1) (k : BitVec 3) (f : BitVec 4) (t : BitVec 4) : Encoding.Statement (.vcvt d a x r s k f t) := by
  intro w _ e
  have hk : w &&& 0xFC000000#32 = 0x70000000#32 := by
    rw [← Option.some.inj e]
    simp [and_or_l, place_mask]
  have hd : decode w = decodeVcvt w := by
    rw [decode, major_of hk (by decide)]
    rfl
  rw [hd, decodeVcvt, if_pos hk, ← Option.some.inj e]
  simp [fieldOf, BitVec.extractLsb'_or, place_disj, place_same]

theorem Encoding.vperm (d : BitVec 5) (a : BitVec 5) (b : BitVec 5) (k : BitVec 3) (t : BitVec 4) : Encoding.Statement (.vperm d a b k t) := by
  intro w _ e
  have hk : w &&& 0xFC0000F0#32 = 0x74000000#32 := by
    rw [← Option.some.inj e]
    simp [and_or_l, place_mask]
  have hd : decode w = decodeVperm w := by
    rw [decode, major_of hk (by decide)]
    rfl
  rw [hd, decodeVperm, if_pos hk, ← Option.some.inj e]
  simp [fieldOf, BitVec.extractLsb'_or, place_disj, place_same]

theorem Encoding.vbcast (d : BitVec 5) (a : BitVec 5) (k : BitVec 3) (t : BitVec 4) : Encoding.Statement (.vbcast d a k t) := by
  intro w _ e
  have hk : w &&& 0xFC00F8F0#32 = 0x74000010#32 := by
    rw [← Option.some.inj e]
    simp [and_or_l, place_mask]
  have hd : decode w = decodeVperm w := by
    rw [decode, major_of hk (by decide)]
    rfl
  rw [hd, decodeVperm, skip_row hk (by decide), if_pos hk, ← Option.some.inj e]
  simp [fieldOf, BitVec.extractLsb'_or, place_disj, place_same]

theorem Encoding.vmovs (d : BitVec 5) (a : BitVec 5) (b : BitVec 5) (t : BitVec 4) : Encoding.Statement (.vmovs d a b t) := by
  intro w _ e
  have hk : w &&& 0xFC0007F0#32 = 0x74000020#32 := by
    rw [← Option.some.inj e]
    simp [and_or_l, place_mask]
  have hd : decode w = decodeVperm w := by
    rw [decode, major_of hk (by decide)]
    rfl
  rw [hd, decodeVperm, skip_row hk (by decide), skip_row hk (by decide), if_pos hk, ← Option.some.inj e]
  simp [fieldOf, BitVec.extractLsb'_or, place_disj, place_same]

theorem Encoding.vins (d : BitVec 5) (a : BitVec 5) (b : BitVec 5) (t : BitVec 4) : Encoding.Statement (.vins d a b t) := by
  intro w _ e
  have hk : w &&& 0xFC0007F0#32 = 0x74000030#32 := by
    rw [← Option.some.inj e]
    simp [and_or_l, place_mask]
  have hd : decode w = decodeVperm w := by
    rw [decode, major_of hk (by decide)]
    rfl
  rw [hd, decodeVperm, skip_row hk (by decide), skip_row hk (by decide), skip_row hk (by decide), if_pos hk, ← Option.some.inj e]
  simp [fieldOf, BitVec.extractLsb'_or, place_disj, place_same]

theorem Encoding.viota (d : BitVec 5) (k : BitVec 3) (t : BitVec 4) : Encoding.Statement (.viota d k t) := by
  intro w _ e
  have hk : w &&& 0xFC1FF8F0#32 = 0x74000040#32 := by
    rw [← Option.some.inj e]
    simp [and_or_l, place_mask]
  have hd : decode w = decodeVperm w := by
    rw [decode, major_of hk (by decide)]
    rfl
  rw [hd, decodeVperm, skip_row hk (by decide), skip_row hk (by decide), skip_row hk (by decide), skip_row hk (by decide), if_pos hk, ← Option.some.inj e]
  simp [fieldOf, BitVec.extractLsb'_or, place_disj, place_same]

theorem Encoding.vpack (d : BitVec 5) (a : BitVec 5) (b : BitVec 5) : Encoding.Statement (.vpack d a b) := by
  intro w _ e
  have hk : w &&& 0xFC0007FF#32 = 0x74000050#32 := by
    rw [← Option.some.inj e]
    simp [and_or_l, place_mask]
  have hd : decode w = decodeVperm w := by
    rw [decode, major_of hk (by decide)]
    rfl
  rw [hd, decodeVperm, skip_row hk (by decide), skip_row hk (by decide), skip_row hk (by decide), skip_row hk (by decide), skip_row hk (by decide), if_pos hk, ← Option.some.inj e]
  simp [fieldOf, BitVec.extractLsb'_or, place_disj, place_same]

theorem Encoding.vunpk (d : BitVec 5) (a : BitVec 5) (h : BitVec 1) : Encoding.Statement (.vunpk d a h) := by
  intro w _ e
  have hk : w &&& 0xFC00F7FF#32 = 0x74000060#32 := by
    rw [← Option.some.inj e]
    simp [and_or_l, place_mask]
  have hd : decode w = decodeVperm w := by
    rw [decode, major_of hk (by decide)]
    rfl
  rw [hd, decodeVperm, skip_row hk (by decide), skip_row hk (by decide), skip_row hk (by decide), skip_row hk (by decide), skip_row hk (by decide), skip_row hk (by decide), if_pos hk, ← Option.some.inj e]
  simp [fieldOf, BitVec.extractLsb'_or, place_disj, place_same]

theorem Encoding.vreduce (d : BitVec 5) (a : BitVec 5) (k : BitVec 3) (o : BitVec 3) (t : BitVec 4) : Encoding.Statement (.vreduce d a k o t) := by
  intro w _ e
  have hk : w &&& 0xFC00F880#32 = 0x78000000#32 := by
    rw [← Option.some.inj e]
    simp [and_or_l, place_mask]
  have hd : decode w = decodeVred w := by
    rw [decode, major_of hk (by decide)]
    rfl
  rw [hd, decodeVred, if_pos hk, ← Option.some.inj e]
  simp [fieldOf, BitVec.extractLsb'_or, place_disj, place_same]

theorem Encoding.vscan (d : BitVec 5) (a : BitVec 5) (k : BitVec 3) (o : BitVec 3) (t : BitVec 4) : Encoding.Statement (.vscan d a k o t) := by
  intro w _ e
  have hk : w &&& 0xFC00F880#32 = 0x78000080#32 := by
    rw [← Option.some.inj e]
    simp [and_or_l, place_mask]
  have hd : decode w = decodeVred w := by
    rw [decode, major_of hk (by decide)]
    rfl
  rw [hd, decodeVred, skip_row hk (by decide), if_pos hk, ← Option.some.inj e]
  simp [fieldOf, BitVec.extractLsb'_or, place_disj, place_same]

theorem Encoding.tload (s : BitVec 5) (a : BitVec 5) : Encoding.Statement (.tload s a) := by
  intro w _ e
  have hk : w &&& 0xFC00FFFF#32 = 0x7C000000#32 := by
    rw [← Option.some.inj e]
    simp [and_or_l, place_mask]
  have hd : decode w = decodeTbl w := by
    rw [decode, major_of hk (by decide)]
    rfl
  rw [hd, decodeTbl, if_pos hk, ← Option.some.inj e]
  simp [fieldOf, BitVec.extractLsb'_or, place_disj, place_same]

theorem Encoding.tinterp (d : BitVec 5) (a : BitVec 5) (s : BitVec 5) (k : BitVec 3) (t : BitVec 4) : Encoding.Statement (.tinterp d a s k t) := by
  intro w _ e
  have hk : w &&& 0xFC0000F0#32 = 0x7C000010#32 := by
    rw [← Option.some.inj e]
    simp [and_or_l, place_mask]
  have hd : decode w = decodeTbl w := by
    rw [decode, major_of hk (by decide)]
    rfl
  rw [hd, decodeTbl, skip_row hk (by decide), if_pos hk, ← Option.some.inj e]
  simp [fieldOf, BitVec.extractLsb'_or, place_disj, place_same]

theorem Encoding.vqdq (d : BitVec 5) (a : BitVec 5) (b : BitVec 5) (k : BitVec 3) (t : BitVec 4) : Encoding.Statement (.vqdq d a b k t) := by
  intro w _ e
  have hk : w &&& 0xFC0000F0#32 = 0x7C000020#32 := by
    rw [← Option.some.inj e]
    simp [and_or_l, place_mask]
  have hd : decode w = decodeTbl w := by
    rw [decode, major_of hk (by decide)]
    rfl
  rw [hd, decodeTbl, skip_row hk (by decide), skip_row hk (by decide), if_pos hk, ← Option.some.inj e]
  simp [fieldOf, BitVec.extractLsb'_or, place_disj, place_same]

theorem Encoding.qscale (d : BitVec 5) (a : BitVec 5) (b : BitVec 5) (k : BitVec 3) (t : BitVec 4) : Encoding.Statement (.qscale d a b k t) := by
  intro w _ e
  have hk : w &&& 0xFC0000F0#32 = 0x7C000030#32 := by
    rw [← Option.some.inj e]
    simp [and_or_l, place_mask]
  have hd : decode w = decodeTbl w := by
    rw [decode, major_of hk (by decide)]
    rfl
  rw [hd, decodeTbl, skip_row hk (by decide), skip_row hk (by decide), skip_row hk (by decide), if_pos hk, ← Option.some.inj e]
  simp [fieldOf, BitVec.extractLsb'_or, place_disj, place_same]

theorem Encoding.kand (d : BitVec 5) (a : BitVec 5) (b : BitVec 5) : Encoding.Statement (.kand d a b) := by
  intro w _ e
  have hk : w &&& 0xFC0007FF#32 = 0x80000000#32 := by
    rw [← Option.some.inj e]
    simp [and_or_l, place_mask]
  have hd : decode w = decodeKops w := by
    rw [decode, major_of hk (by decide)]
    rfl
  rw [hd, decodeKops, if_pos hk, ← Option.some.inj e]
  simp [fieldOf, BitVec.extractLsb'_or, place_disj, place_same]

theorem Encoding.kor (d : BitVec 5) (a : BitVec 5) (b : BitVec 5) : Encoding.Statement (.kor d a b) := by
  intro w _ e
  have hk : w &&& 0xFC0007FF#32 = 0x80000001#32 := by
    rw [← Option.some.inj e]
    simp [and_or_l, place_mask]
  have hd : decode w = decodeKops w := by
    rw [decode, major_of hk (by decide)]
    rfl
  rw [hd, decodeKops, skip_row hk (by decide), if_pos hk, ← Option.some.inj e]
  simp [fieldOf, BitVec.extractLsb'_or, place_disj, place_same]

theorem Encoding.kxor (d : BitVec 5) (a : BitVec 5) (b : BitVec 5) : Encoding.Statement (.kxor d a b) := by
  intro w _ e
  have hk : w &&& 0xFC0007FF#32 = 0x80000002#32 := by
    rw [← Option.some.inj e]
    simp [and_or_l, place_mask]
  have hd : decode w = decodeKops w := by
    rw [decode, major_of hk (by decide)]
    rfl
  rw [hd, decodeKops, skip_row hk (by decide), skip_row hk (by decide), if_pos hk, ← Option.some.inj e]
  simp [fieldOf, BitVec.extractLsb'_or, place_disj, place_same]

theorem Encoding.knot (d : BitVec 5) (a : BitVec 5) : Encoding.Statement (.knot d a) := by
  intro w _ e
  have hk : w &&& 0xFC00FFFF#32 = 0x80000003#32 := by
    rw [← Option.some.inj e]
    simp [and_or_l, place_mask]
  have hd : decode w = decodeKops w := by
    rw [decode, major_of hk (by decide)]
    rfl
  rw [hd, decodeKops, skip_row hk (by decide), skip_row hk (by decide), skip_row hk (by decide), if_pos hk, ← Option.some.inj e]
  simp [fieldOf, BitVec.extractLsb'_or, place_disj, place_same]

theorem Encoding.kpop (d : BitVec 5) (a : BitVec 5) : Encoding.Statement (.kpop d a) := by
  intro w _ e
  have hk : w &&& 0xFC00FFFF#32 = 0x80000004#32 := by
    rw [← Option.some.inj e]
    simp [and_or_l, place_mask]
  have hd : decode w = decodeKops w := by
    rw [decode, major_of hk (by decide)]
    rfl
  rw [hd, decodeKops, skip_row hk (by decide), skip_row hk (by decide), skip_row hk (by decide), skip_row hk (by decide), if_pos hk, ← Option.some.inj e]
  simp [fieldOf, BitVec.extractLsb'_or, place_disj, place_same]

theorem Encoding.kfirst (d : BitVec 5) (a : BitVec 5) : Encoding.Statement (.kfirst d a) := by
  intro w _ e
  have hk : w &&& 0xFC00FFFF#32 = 0x80000005#32 := by
    rw [← Option.some.inj e]
    simp [and_or_l, place_mask]
  have hd : decode w = decodeKops w := by
    rw [decode, major_of hk (by decide)]
    rfl
  rw [hd, decodeKops, skip_row hk (by decide), skip_row hk (by decide), skip_row hk (by decide), skip_row hk (by decide), skip_row hk (by decide), if_pos hk, ← Option.some.inj e]
  simp [fieldOf, BitVec.extractLsb'_or, place_disj, place_same]

theorem Encoding.kset (d : BitVec 5) (a : BitVec 5) : Encoding.Statement (.kset d a) := by
  intro w _ e
  have hk : w &&& 0xFC00FFFF#32 = 0x80000006#32 := by
    rw [← Option.some.inj e]
    simp [and_or_l, place_mask]
  have hd : decode w = decodeKops w := by
    rw [decode, major_of hk (by decide)]
    rfl
  rw [hd, decodeKops, skip_row hk (by decide), skip_row hk (by decide), skip_row hk (by decide), skip_row hk (by decide), skip_row hk (by decide), skip_row hk (by decide), if_pos hk, ← Option.some.inj e]
  simp [fieldOf, BitVec.extractLsb'_or, place_disj, place_same]

theorem Encoding.sbindIn (d : BitVec 5) (a : BitVec 5) (b : BitVec 5) (e : BitVec 3) : Encoding.Statement (.sbindIn d a b e) := by
  intro w _ e
  have hk : w &&& 0xFC0000FF#32 = 0x84000000#32 := by
    rw [← Option.some.inj e]
    simp [and_or_l, place_mask]
  have hd : decode w = decodeStream w := by
    rw [decode, major_of hk (by decide)]
    rfl
  rw [hd, decodeStream, if_pos hk, ← Option.some.inj e]
  simp [fieldOf, BitVec.extractLsb'_or, place_disj, place_same]

theorem Encoding.sbindOut (d : BitVec 5) (a : BitVec 5) (b : BitVec 5) (e : BitVec 3) : Encoding.Statement (.sbindOut d a b e) := by
  intro w _ e
  have hk : w &&& 0xFC0000FF#32 = 0x84000040#32 := by
    rw [← Option.some.inj e]
    simp [and_or_l, place_mask]
  have hd : decode w = decodeStream w := by
    rw [decode, major_of hk (by decide)]
    rfl
  rw [hd, decodeStream, skip_row hk (by decide), if_pos hk, ← Option.some.inj e]
  simp [fieldOf, BitVec.extractLsb'_or, place_disj, place_same]

theorem Encoding.sbindCopy (d : BitVec 5) (e : BitVec 3) : Encoding.Statement (.sbindCopy d e) := by
  intro w _ e
  have hk : w &&& 0xFC1FF8FF#32 = 0x84000080#32 := by
    rw [← Option.some.inj e]
    simp [and_or_l, place_mask]
  have hd : decode w = decodeStream w := by
    rw [decode, major_of hk (by decide)]
    rfl
  rw [hd, decodeStream, skip_row hk (by decide), skip_row hk (by decide), if_pos hk, ← Option.some.inj e]
  simp [fieldOf, BitVec.extractLsb'_or, place_disj, place_same]

theorem Encoding.sunbind (d : BitVec 5) : Encoding.Statement (.sunbind d) := by
  intro w _ e
  have hk : w &&& 0xFC1FFFFF#32 = 0x84000001#32 := by
    rw [← Option.some.inj e]
    simp [and_or_l, place_mask]
  have hd : decode w = decodeStream w := by
    rw [decode, major_of hk (by decide)]
    rfl
  rw [hd, decodeStream, skip_row hk (by decide), skip_row hk (by decide), skip_row hk (by decide), if_pos hk, ← Option.some.inj e]
  simp [fieldOf, BitVec.extractLsb'_or, place_disj, place_same]

theorem Encoding.sstat (d : BitVec 5) (a : BitVec 5) : Encoding.Statement (.sstat d a) := by
  intro w _ e
  have hk : w &&& 0xFC00FFFF#32 = 0x84000002#32 := by
    rw [← Option.some.inj e]
    simp [and_or_l, place_mask]
  have hd : decode w = decodeStream w := by
    rw [decode, major_of hk (by decide)]
    rfl
  rw [hd, decodeStream, skip_row hk (by decide), skip_row hk (by decide), skip_row hk (by decide), skip_row hk (by decide), if_pos hk, ← Option.some.inj e]
  simp [fieldOf, BitVec.extractLsb'_or, place_disj, place_same]

theorem Encoding.ld (d : BitVec 5) (b : BitVec 5) (f : BitVec 3) (i : BitVec 12) : Encoding.Statement (.ld d b f i) := by
  intro w _ e
  have hk : w &&& 0xFC001000#32 = 0x90000000#32 := by
    rw [← Option.some.inj e]
    simp [and_or_l, place_mask]
  have hd : decode w = decodeLd w := by
    rw [decode, major_of hk (by decide)]
    rfl
  rw [hd, decodeLd, if_pos hk, ← Option.some.inj e]
  simp [fieldOf, BitVec.extractLsb'_or, place_disj, place_same]

theorem Encoding.ldAcq (d : BitVec 5) (b : BitVec 5) (f : BitVec 3) (e : BitVec 5) : Encoding.Statement (.ldAcq d b f e) := by
  intro w _ e
  have hk : w &&& 0xFC001FE0#32 = 0x90001000#32 := by
    rw [← Option.some.inj e]
    simp [and_or_l, place_mask]
  have hd : decode w = decodeLd w := by
    rw [decode, major_of hk (by decide)]
    rfl
  rw [hd, decodeLd, skip_row hk (by decide), if_pos hk, ← Option.some.inj e]
  simp [fieldOf, BitVec.extractLsb'_or, place_disj, place_same]

theorem Encoding.st (d : BitVec 5) (b : BitVec 5) (n : BitVec 1) (w : BitVec 2) (i : BitVec 12) : Encoding.Statement (.st d b n w i) := by
  intro w _ e
  have hk : w &&& 0xFC001000#32 = 0x94000000#32 := by
    rw [← Option.some.inj e]
    simp [and_or_l, place_mask]
  have hd : decode w = decodeSt w := by
    rw [decode, major_of hk (by decide)]
    rfl
  rw [hd, decodeSt, if_pos hk, ← Option.some.inj e]
  simp [fieldOf, BitVec.extractLsb'_or, place_disj, place_same]

theorem Encoding.stRel (d : BitVec 5) (b : BitVec 5) (n : BitVec 1) (w : BitVec 2) (e : BitVec 5) : Encoding.Statement (.stRel d b n w e) := by
  intro w _ e
  have hk : w &&& 0xFC001FE0#32 = 0x94001000#32 := by
    rw [← Option.some.inj e]
    simp [and_or_l, place_mask]
  have hd : decode w = decodeSt w := by
    rw [decode, major_of hk (by decide)]
    rfl
  rw [hd, decodeSt, skip_row hk (by decide), if_pos hk, ← Option.some.inj e]
  simp [fieldOf, BitVec.extractLsb'_or, place_disj, place_same]

theorem Encoding.ldv (d : BitVec 5) (b : BitVec 5) (n : BitVec 1) (i : BitVec 12) : Encoding.Statement (.ldv d b n i) := by
  intro w _ e
  have hk : w &&& 0xFC00D000#32 = 0x98000000#32 := by
    rw [← Option.some.inj e]
    simp [and_or_l, place_mask]
  have hd : decode w = decodeLdv w := by
    rw [decode, major_of hk (by decide)]
    rfl
  rw [hd, decodeLdv, if_pos hk, ← Option.some.inj e]
  simp [fieldOf, BitVec.extractLsb'_or, place_disj, place_same]

theorem Encoding.ldvAcq (d : BitVec 5) (b : BitVec 5) (n : BitVec 1) (e : BitVec 5) : Encoding.Statement (.ldvAcq d b n e) := by
  intro w _ e
  have hk : w &&& 0xFC00DFE0#32 = 0x98001000#32 := by
    rw [← Option.some.inj e]
    simp [and_or_l, place_mask]
  have hd : decode w = decodeLdv w := by
    rw [decode, major_of hk (by decide)]
    rfl
  rw [hd, decodeLdv, skip_row hk (by decide), if_pos hk, ← Option.some.inj e]
  simp [fieldOf, BitVec.extractLsb'_or, place_disj, place_same]

theorem Encoding.stv (d : BitVec 5) (b : BitVec 5) (n : BitVec 1) (i : BitVec 12) : Encoding.Statement (.stv d b n i) := by
  intro w _ e
  have hk : w &&& 0xFC00D000#32 = 0x9C000000#32 := by
    rw [← Option.some.inj e]
    simp [and_or_l, place_mask]
  have hd : decode w = decodeStv w := by
    rw [decode, major_of hk (by decide)]
    rfl
  rw [hd, decodeStv, if_pos hk, ← Option.some.inj e]
  simp [fieldOf, BitVec.extractLsb'_or, place_disj, place_same]

theorem Encoding.stvRel (d : BitVec 5) (b : BitVec 5) (n : BitVec 1) (e : BitVec 5) : Encoding.Statement (.stvRel d b n e) := by
  intro w _ e
  have hk : w &&& 0xFC00DFE0#32 = 0x9C001000#32 := by
    rw [← Option.some.inj e]
    simp [and_or_l, place_mask]
  have hd : decode w = decodeStv w := by
    rw [decode, major_of hk (by decide)]
    rfl
  rw [hd, decodeStv, skip_row hk (by decide), if_pos hk, ← Option.some.inj e]
  simp [fieldOf, BitVec.extractLsb'_or, place_disj, place_same]

theorem Encoding.ldvs (d : BitVec 5) (a : BitVec 5) (b : BitVec 5) (t : BitVec 4) : Encoding.Statement (.ldvs d a b t) := by
  intro w _ e
  have hk : w &&& 0xFC0007F0#32 = 0xA0000000#32 := by
    rw [← Option.some.inj e]
    simp [and_or_l, place_mask]
  have hd : decode w = decodeLdvs w := by
    rw [decode, major_of hk (by decide)]
    rfl
  rw [hd, decodeLdvs, if_pos hk, ← Option.some.inj e]
  simp [fieldOf, BitVec.extractLsb'_or, place_disj, place_same]

theorem Encoding.ldvsAcq (d : BitVec 5) (a : BitVec 5) (b : BitVec 5) (e : BitVec 5) (t : BitVec 4) : Encoding.Statement (.ldvsAcq d a b e t) := by
  intro w _ e
  have hk : w &&& 0xFC000600#32 = 0xA0000200#32 := by
    rw [← Option.some.inj e]
    simp [and_or_l, place_mask]
  have hd : decode w = decodeLdvs w := by
    rw [decode, major_of hk (by decide)]
    rfl
  rw [hd, decodeLdvs, skip_row hk (by decide), if_pos hk, ← Option.some.inj e]
  simp [fieldOf, BitVec.extractLsb'_or, place_disj, place_same]

theorem Encoding.stvs (d : BitVec 5) (a : BitVec 5) (b : BitVec 5) (t : BitVec 4) : Encoding.Statement (.stvs d a b t) := by
  intro w _ e
  have hk : w &&& 0xFC0007F0#32 = 0xA0000400#32 := by
    rw [← Option.some.inj e]
    simp [and_or_l, place_mask]
  have hd : decode w = decodeLdvs w := by
    rw [decode, major_of hk (by decide)]
    rfl
  rw [hd, decodeLdvs, skip_row hk (by decide), skip_row hk (by decide), if_pos hk, ← Option.some.inj e]
  simp [fieldOf, BitVec.extractLsb'_or, place_disj, place_same]

theorem Encoding.stvsRel (d : BitVec 5) (a : BitVec 5) (b : BitVec 5) (e : BitVec 5) (t : BitVec 4) : Encoding.Statement (.stvsRel d a b e t) := by
  intro w _ e
  have hk : w &&& 0xFC000600#32 = 0xA0000600#32 := by
    rw [← Option.some.inj e]
    simp [and_or_l, place_mask]
  have hd : decode w = decodeLdvs w := by
    rw [decode, major_of hk (by decide)]
    rfl
  rw [hd, decodeLdvs, skip_row hk (by decide), skip_row hk (by decide), skip_row hk (by decide), if_pos hk, ← Option.some.inj e]
  simp [fieldOf, BitVec.extractLsb'_or, place_disj, place_same]

theorem Encoding.gath (d : BitVec 5) (b : BitVec 5) (x : BitVec 5) (k : BitVec 3) (i : BitVec 2) (g : BitVec 1) (c : BitVec 3) (z : BitVec 2) : Encoding.Statement (.gath d b x k i g c z) := by
  intro w _ e
  have hk : w &&& 0xFC000000#32 = 0xA4000000#32 := by
    rw [← Option.some.inj e]
    simp [and_or_l, place_mask]
  have hd : decode w = decodeGath w := by
    rw [decode, major_of hk (by decide)]
    rfl
  rw [hd, decodeGath, if_pos hk, ← Option.some.inj e]
  simp [fieldOf, BitVec.extractLsb'_or, place_disj, place_same]

theorem Encoding.scat (d : BitVec 5) (b : BitVec 5) (x : BitVec 5) (k : BitVec 3) (i : BitVec 2) (g : BitVec 1) (c : BitVec 3) (z : BitVec 2) : Encoding.Statement (.scat d b x k i g c z) := by
  intro w _ e
  have hk : w &&& 0xFC000000#32 = 0xA8000000#32 := by
    rw [← Option.some.inj e]
    simp [and_or_l, place_mask]
  have hd : decode w = decodeScat w := by
    rw [decode, major_of hk (by decide)]
    rfl
  rw [hd, decodeScat, if_pos hk, ← Option.some.inj e]
  simp [fieldOf, BitVec.extractLsb'_or, place_disj, place_same]

theorem Encoding.ldfe (d : BitVec 5) (b : BitVec 5) (i : BitVec 13) : Encoding.Statement (.ldfe d b i) := by
  intro w _ e
  have hk : w &&& 0xFC00E000#32 = 0xAC000000#32 := by
    rw [← Option.some.inj e]
    simp [and_or_l, place_mask]
  have hd : decode w = decodeFe w := by
    rw [decode, major_of hk (by decide)]
    rfl
  rw [hd, decodeFe, if_pos hk, ← Option.some.inj e]
  simp [fieldOf, BitVec.extractLsb'_or, place_disj, place_same]

theorem Encoding.ldff (d : BitVec 5) (b : BitVec 5) (i : BitVec 13) : Encoding.Statement (.ldff d b i) := by
  intro w _ e
  have hk : w &&& 0xFC00E000#32 = 0xAC002000#32 := by
    rw [← Option.some.inj e]
    simp [and_or_l, place_mask]
  have hd : decode w = decodeFe w := by
    rw [decode, major_of hk (by decide)]
    rfl
  rw [hd, decodeFe, skip_row hk (by decide), if_pos hk, ← Option.some.inj e]
  simp [fieldOf, BitVec.extractLsb'_or, place_disj, place_same]

theorem Encoding.ste (d : BitVec 5) (b : BitVec 5) (i : BitVec 13) : Encoding.Statement (.ste d b i) := by
  intro w _ e
  have hk : w &&& 0xFC00E000#32 = 0xAC004000#32 := by
    rw [← Option.some.inj e]
    simp [and_or_l, place_mask]
  have hd : decode w = decodeFe w := by
    rw [decode, major_of hk (by decide)]
    rfl
  rw [hd, decodeFe, skip_row hk (by decide), skip_row hk (by decide), if_pos hk, ← Option.some.inj e]
  simp [fieldOf, BitVec.extractLsb'_or, place_disj, place_same]

theorem Encoding.stf (d : BitVec 5) (b : BitVec 5) (i : BitVec 13) : Encoding.Statement (.stf d b i) := by
  intro w _ e
  have hk : w &&& 0xFC00E000#32 = 0xAC006000#32 := by
    rw [← Option.some.inj e]
    simp [and_or_l, place_mask]
  have hd : decode w = decodeFe w := by
    rw [decode, major_of hk (by decide)]
    rfl
  rw [hd, decodeFe, skip_row hk (by decide), skip_row hk (by decide), skip_row hk (by decide), if_pos hk, ← Option.some.inj e]
  simp [fieldOf, BitVec.extractLsb'_or, place_disj, place_same]

theorem Encoding.feget (d : BitVec 5) (b : BitVec 5) (i : BitVec 13) : Encoding.Statement (.feget d b i) := by
  intro w _ e
  have hk : w &&& 0xFC00E000#32 = 0xAC008000#32 := by
    rw [← Option.some.inj e]
    simp [and_or_l, place_mask]
  have hd : decode w = decodeFe w := by
    rw [decode, major_of hk (by decide)]
    rfl
  rw [hd, decodeFe, skip_row hk (by decide), skip_row hk (by decide), skip_row hk (by decide), skip_row hk (by decide), if_pos hk, ← Option.some.inj e]
  simp [fieldOf, BitVec.extractLsb'_or, place_disj, place_same]

theorem Encoding.feset (d : BitVec 5) (b : BitVec 5) (i : BitVec 13) : Encoding.Statement (.feset d b i) := by
  intro w _ e
  have hk : w &&& 0xFC00E000#32 = 0xAC00A000#32 := by
    rw [← Option.some.inj e]
    simp [and_or_l, place_mask]
  have hd : decode w = decodeFe w := by
    rw [decode, major_of hk (by decide)]
    rfl
  rw [hd, decodeFe, skip_row hk (by decide), skip_row hk (by decide), skip_row hk (by decide), skip_row hk (by decide), skip_row hk (by decide), if_pos hk, ← Option.some.inj e]
  simp [fieldOf, BitVec.extractLsb'_or, place_disj, place_same]

theorem Encoding.amoAdd (d : BitVec 5) (a : BitVec 5) (b : BitVec 5) (r : BitVec 2) (e : BitVec 5) (w : BitVec 1) : Encoding.Statement (.amoAdd d a b r e w) := by
  intro w _ e
  have hk : w &&& 0xFC00000E#32 = 0xB0000000#32 := by
    rw [← Option.some.inj e]
    simp [and_or_l, place_mask]
  have hd : decode w = decodeAmo w := by
    rw [decode, major_of hk (by decide)]
    rfl
  rw [hd, decodeAmo, if_pos hk, ← Option.some.inj e]
  simp [fieldOf, BitVec.extractLsb'_or, place_disj, place_same]

theorem Encoding.amoMin (d : BitVec 5) (a : BitVec 5) (b : BitVec 5) (r : BitVec 2) (e : BitVec 5) (w : BitVec 1) : Encoding.Statement (.amoMin d a b r e w) := by
  intro w _ e
  have hk : w &&& 0xFC00000E#32 = 0xB0000002#32 := by
    rw [← Option.some.inj e]
    simp [and_or_l, place_mask]
  have hd : decode w = decodeAmo w := by
    rw [decode, major_of hk (by decide)]
    rfl
  rw [hd, decodeAmo, skip_row hk (by decide), if_pos hk, ← Option.some.inj e]
  simp [fieldOf, BitVec.extractLsb'_or, place_disj, place_same]

theorem Encoding.amoMax (d : BitVec 5) (a : BitVec 5) (b : BitVec 5) (r : BitVec 2) (e : BitVec 5) (w : BitVec 1) : Encoding.Statement (.amoMax d a b r e w) := by
  intro w _ e
  have hk : w &&& 0xFC00000E#32 = 0xB0000004#32 := by
    rw [← Option.some.inj e]
    simp [and_or_l, place_mask]
  have hd : decode w = decodeAmo w := by
    rw [decode, major_of hk (by decide)]
    rfl
  rw [hd, decodeAmo, skip_row hk (by decide), skip_row hk (by decide), if_pos hk, ← Option.some.inj e]
  simp [fieldOf, BitVec.extractLsb'_or, place_disj, place_same]

theorem Encoding.amoAnd (d : BitVec 5) (a : BitVec 5) (b : BitVec 5) (r : BitVec 2) (e : BitVec 5) (w : BitVec 1) : Encoding.Statement (.amoAnd d a b r e w) := by
  intro w _ e
  have hk : w &&& 0xFC00000E#32 = 0xB0000006#32 := by
    rw [← Option.some.inj e]
    simp [and_or_l, place_mask]
  have hd : decode w = decodeAmo w := by
    rw [decode, major_of hk (by decide)]
    rfl
  rw [hd, decodeAmo, skip_row hk (by decide), skip_row hk (by decide), skip_row hk (by decide), if_pos hk, ← Option.some.inj e]
  simp [fieldOf, BitVec.extractLsb'_or, place_disj, place_same]

theorem Encoding.amoOr (d : BitVec 5) (a : BitVec 5) (b : BitVec 5) (r : BitVec 2) (e : BitVec 5) (w : BitVec 1) : Encoding.Statement (.amoOr d a b r e w) := by
  intro w _ e
  have hk : w &&& 0xFC00000E#32 = 0xB0000008#32 := by
    rw [← Option.some.inj e]
    simp [and_or_l, place_mask]
  have hd : decode w = decodeAmo w := by
    rw [decode, major_of hk (by decide)]
    rfl
  rw [hd, decodeAmo, skip_row hk (by decide), skip_row hk (by decide), skip_row hk (by decide), skip_row hk (by decide), if_pos hk, ← Option.some.inj e]
  simp [fieldOf, BitVec.extractLsb'_or, place_disj, place_same]

theorem Encoding.amoXor (d : BitVec 5) (a : BitVec 5) (b : BitVec 5) (r : BitVec 2) (e : BitVec 5) (w : BitVec 1) : Encoding.Statement (.amoXor d a b r e w) := by
  intro w _ e
  have hk : w &&& 0xFC00000E#32 = 0xB000000A#32 := by
    rw [← Option.some.inj e]
    simp [and_or_l, place_mask]
  have hd : decode w = decodeAmo w := by
    rw [decode, major_of hk (by decide)]
    rfl
  rw [hd, decodeAmo, skip_row hk (by decide), skip_row hk (by decide), skip_row hk (by decide), skip_row hk (by decide), skip_row hk (by decide), if_pos hk, ← Option.some.inj e]
  simp [fieldOf, BitVec.extractLsb'_or, place_disj, place_same]

theorem Encoding.amoSwap (d : BitVec 5) (a : BitVec 5) (b : BitVec 5) (r : BitVec 2) (e : BitVec 5) (w : BitVec 1) : Encoding.Statement (.amoSwap d a b r e w) := by
  intro w _ e
  have hk : w &&& 0xFC00000E#32 = 0xB000000C#32 := by
    rw [← Option.some.inj e]
    simp [and_or_l, place_mask]
  have hd : decode w = decodeAmo w := by
    rw [decode, major_of hk (by decide)]
    rfl
  rw [hd, decodeAmo, skip_row hk (by decide), skip_row hk (by decide), skip_row hk (by decide), skip_row hk (by decide), skip_row hk (by decide), skip_row hk (by decide), if_pos hk, ← Option.some.inj e]
  simp [fieldOf, BitVec.extractLsb'_or, place_disj, place_same]

theorem Encoding.amoCas (d : BitVec 5) (a : BitVec 5) (b : BitVec 5) (r : BitVec 2) (e : BitVec 5) (w : BitVec 1) : Encoding.Statement (.amoCas d a b r e w) := by
  intro w _ e
  have hk : w &&& 0xFC00000E#32 = 0xB000000E#32 := by
    rw [← Option.some.inj e]
    simp [and_or_l, place_mask]
  have hd : decode w = decodeAmo w := by
    rw [decode, major_of hk (by decide)]
    rfl
  rw [hd, decodeAmo, skip_row hk (by decide), skip_row hk (by decide), skip_row hk (by decide), skip_row hk (by decide), skip_row hk (by decide), skip_row hk (by decide), skip_row hk (by decide), if_pos hk, ← Option.some.inj e]
  simp [fieldOf, BitVec.extractLsb'_or, place_disj, place_same]

theorem Encoding.fence (k : BitVec 2) (e : BitVec 5) : Encoding.Statement (.fence k e) := by
  intro w _ e
  have hk : w &&& 0xFFFFFF20#32 = 0xB4000000#32 := by
    rw [← Option.some.inj e]
    simp [and_or_l, place_mask]
  have hd : decode w = decodeFence w := by
    rw [decode, major_of hk (by decide)]
    rfl
  rw [hd, decodeFence, if_pos hk, ← Option.some.inj e]
  simp [fieldOf, BitVec.extractLsb'_or, place_disj, place_same]

theorem Encoding.seal (a : BitVec 5) (b : BitVec 5) : Encoding.Statement (.seal a b) := by
  intro w _ e
  have hk : w &&& 0xFFE007FF#32 = 0xB4000100#32 := by
    rw [← Option.some.inj e]
    simp [and_or_l, place_mask]
  have hd : decode w = decodeFence w := by
    rw [decode, major_of hk (by decide)]
    rfl
  rw [hd, decodeFence, skip_row hk (by decide), if_pos hk, ← Option.some.inj e]
  simp [fieldOf, BitVec.extractLsb'_or, place_disj, place_same]

theorem Encoding.unseal (a : BitVec 5) (b : BitVec 5) : Encoding.Statement (.unseal a b) := by
  intro w _ e
  have hk : w &&& 0xFFE007FF#32 = 0xB4000200#32 := by
    rw [← Option.some.inj e]
    simp [and_or_l, place_mask]
  have hd : decode w = decodeFence w := by
    rw [decode, major_of hk (by decide)]
    rfl
  rw [hd, decodeFence, skip_row hk (by decide), skip_row hk (by decide), if_pos hk, ← Option.some.inj e]
  simp [fieldOf, BitVec.extractLsb'_or, place_disj, place_same]

theorem Encoding.arrive (d : BitVec 5) (e : BitVec 5) : Encoding.Statement (.arrive d e) := by
  intro w _ e
  have hk : w &&& 0xFC1FFFE0#32 = 0xB8000000#32 := by
    rw [← Option.some.inj e]
    simp [and_or_l, place_mask]
  have hd : decode w = decodeGroup w := by
    rw [decode, major_of hk (by decide)]
    rfl
  rw [hd, decodeGroup, if_pos hk, ← Option.some.inj e]
  simp [fieldOf, BitVec.extractLsb'_or, place_disj, place_same]

theorem Encoding.waitb (a : BitVec 5) : Encoding.Statement (.waitb a) := by
  intro w _ e
  have hk : w &&& 0xFFE0FFFF#32 = 0xB8000100#32 := by
    rw [← Option.some.inj e]
    simp [and_or_l, place_mask]
  have hd : decode w = decodeGroup w := by
    rw [decode, major_of hk (by decide)]
    rfl
  rw [hd, decodeGroup, skip_row hk (by decide), if_pos hk, ← Option.some.inj e]
  simp [fieldOf, BitVec.extractLsb'_or, place_disj, place_same]

theorem Encoding.testb (d : BitVec 5) (a : BitVec 5) : Encoding.Statement (.testb d a) := by
  intro w _ e
  have hk : w &&& 0xFC00FFFF#32 = 0xB8000200#32 := by
    rw [← Option.some.inj e]
    simp [and_or_l, place_mask]
  have hd : decode w = decodeGroup w := by
    rw [decode, major_of hk (by decide)]
    rfl
  rw [hd, decodeGroup, skip_row hk (by decide), skip_row hk (by decide), if_pos hk, ← Option.some.inj e]
  simp [fieldOf, BitVec.extractLsb'_or, place_disj, place_same]

theorem Encoding.join (d : BitVec 5) (a : BitVec 5) : Encoding.Statement (.join d a) := by
  intro w _ e
  have hk : w &&& 0xFC00FFFF#32 = 0xB8000300#32 := by
    rw [← Option.some.inj e]
    simp [and_or_l, place_mask]
  have hd : decode w = decodeGroup w := by
    rw [decode, major_of hk (by decide)]
    rfl
  rw [hd, decodeGroup, skip_row hk (by decide), skip_row hk (by decide), skip_row hk (by decide), if_pos hk, ← Option.some.inj e]
  simp [fieldOf, BitVec.extractLsb'_or, place_disj, place_same]

theorem Encoding.leave (d : BitVec 5) (a : BitVec 5) : Encoding.Statement (.leave d a) := by
  intro w _ e
  have hk : w &&& 0xFC00FFFF#32 = 0xB8000400#32 := by
    rw [← Option.some.inj e]
    simp [and_or_l, place_mask]
  have hd : decode w = decodeGroup w := by
    rw [decode, major_of hk (by decide)]
    rfl
  rw [hd, decodeGroup, skip_row hk (by decide), skip_row hk (by decide), skip_row hk (by decide), skip_row hk (by decide), if_pos hk, ← Option.some.inj e]
  simp [fieldOf, BitVec.extractLsb'_or, place_disj, place_same]

theorem Encoding.scopeset (a : BitVec 5) (e : BitVec 5) : Encoding.Statement (.scopeset a e) := by
  intro w _ e
  have hk : w &&& 0xFFE0FFE0#32 = 0xB8000500#32 := by
    rw [← Option.some.inj e]
    simp [and_or_l, place_mask]
  have hd : decode w = decodeGroup w := by
    rw [decode, major_of hk (by decide)]
    rfl
  rw [hd, decodeGroup, skip_row hk (by decide), skip_row hk (by decide), skip_row hk (by decide), skip_row hk (by decide), skip_row hk (by decide), if_pos hk, ← Option.some.inj e]
  simp [fieldOf, BitVec.extractLsb'_or, place_disj, place_same]

theorem Encoding.enq (d : BitVec 5) (a : BitVec 5) (b : BitVec 5) (tr : BitVec 1) : Encoding.Statement (.enq d a b tr) := by
  intro w _ e
  have hk : w &&& 0xFC00077F#32 = 0xBC000000#32 := by
    rw [← Option.some.inj e]
    simp [and_or_l, place_mask]
  have hd : decode w = decodeQueue w := by
    rw [decode, major_of hk (by decide)]
    rfl
  rw [hd, decodeQueue, if_pos hk, ← Option.some.inj e]
  simp [fieldOf, BitVec.extractLsb'_or, place_disj, place_same]

theorem Encoding.deq (d : BitVec 5) (a : BitVec 5) (b : BitVec 5) (tr : BitVec 1) : Encoding.Statement (.deq d a b tr) := by
  intro w _ e
  have hk : w &&& 0xFC00077F#32 = 0xBC000100#32 := by
    rw [← Option.some.inj e]
    simp [and_or_l, place_mask]
  have hd : decode w = decodeQueue w := by
    rw [decode, major_of hk (by decide)]
    rfl
  rw [hd, decodeQueue, skip_row hk (by decide), if_pos hk, ← Option.some.inj e]
  simp [fieldOf, BitVec.extractLsb'_or, place_disj, place_same]

theorem Encoding.inboxr (d : BitVec 5) (b : BitVec 5) (tr : BitVec 1) : Encoding.Statement (.inboxr d b tr) := by
  intro w _ e
  have hk : w &&& 0xFC1F077F#32 = 0xBC000200#32 := by
    rw [← Option.some.inj e]
    simp [and_or_l, place_mask]
  have hd : decode w = decodeQueue w := by
    rw [decode, major_of hk (by decide)]
    rfl
  rw [hd, decodeQueue, skip_row hk (by decide), skip_row hk (by decide), if_pos hk, ← Option.some.inj e]
  simp [fieldOf, BitVec.extractLsb'_or, place_disj, place_same]

theorem Encoding.inboxp (d : BitVec 5) (b : BitVec 5) : Encoding.Statement (.inboxp d b) := by
  intro w _ e
  have hk : w &&& 0xFC1F07FF#32 = 0xBC000300#32 := by
    rw [← Option.some.inj e]
    simp [and_or_l, place_mask]
  have hd : decode w = decodeQueue w := by
    rw [decode, major_of hk (by decide)]
    rfl
  rw [hd, decodeQueue, skip_row hk (by decide), skip_row hk (by decide), skip_row hk (by decide), if_pos hk, ← Option.some.inj e]
  simp [fieldOf, BitVec.extractLsb'_or, place_disj, place_same]

theorem Encoding.ssb (a : BitVec 5) (b : BitVec 5) (r : BitVec 3) : Encoding.Statement (.ssb a b r) := by
  intro w _ e
  have hk : w &&& 0xFFE007F8#32 = 0xC0000000#32 := by
    rw [← Option.some.inj e]
    simp [and_or_l, place_mask]
  have hd : decode w = decodeSstep w := by
    rw [decode, major_of hk (by decide)]
    rfl
  rw [hd, decodeSstep, if_pos hk, ← Option.some.inj e]
  simp [fieldOf, BitVec.extractLsb'_or, place_disj, place_same]

theorem Encoding.ssvote (a : BitVec 5) : Encoding.Statement (.ssvote a) := by
  intro w _ e
  have hk : w &&& 0xFFE0FFFF#32 = 0xC0000100#32 := by
    rw [← Option.some.inj e]
    simp [and_or_l, place_mask]
  have hd : decode w = decodeSstep w := by
    rw [decode, major_of hk (by decide)]
    rfl
  rw [hd, decodeSstep, skip_row hk (by decide), if_pos hk, ← Option.some.inj e]
  simp [fieldOf, BitVec.extractLsb'_or, place_disj, place_same]

theorem Encoding.pfl (d : BitVec 5) (a : BitVec 5) : Encoding.Statement (.pfl d a) := by
  intro w _ e
  have hk : w &&& 0xFC00FFFF#32 = 0xC0000200#32 := by
    rw [← Option.some.inj e]
    simp [and_or_l, place_mask]
  have hd : decode w = decodeSstep w := by
    rw [decode, major_of hk (by decide)]
    rfl
  rw [hd, decodeSstep, skip_row hk (by decide), skip_row hk (by decide), if_pos hk, ← Option.some.inj e]
  simp [fieldOf, BitVec.extractLsb'_or, place_disj, place_same]

theorem Encoding.cont (a : BitVec 5) (b : BitVec 5) : Encoding.Statement (.cont a b) := by
  intro w _ e
  have hk : w &&& 0xFFE007FF#32 = 0xC4000000#32 := by
    rw [← Option.some.inj e]
    simp [and_or_l, place_mask]
  have hd : decode w = decodeTask w := by
    rw [decode, major_of hk (by decide)]
    rfl
  rw [hd, decodeTask, if_pos hk, ← Option.some.inj e]
  simp [fieldOf, BitVec.extractLsb'_or, place_disj, place_same]

theorem Encoding.waitp (d : BitVec 5) (a : BitVec 5) : Encoding.Statement (.waitp d a) := by
  intro w _ e
  have hk : w &&& 0xFC00FFFF#32 = 0xC4000200#32 := by
    rw [← Option.some.inj e]
    simp [and_or_l, place_mask]
  have hd : decode w = decodeTask w := by
    rw [decode, major_of hk (by decide)]
    rfl
  rw [hd, decodeTask, skip_row hk (by decide), skip_row hk (by decide), if_pos hk, ← Option.some.inj e]
  simp [fieldOf, BitVec.extractLsb'_or, place_disj, place_same]

theorem Encoding.mma (s : BitVec 3) (a : BitVec 5) (b : BitVec 5) (t : BitVec 4) (u : BitVec 4) (c : BitVec 2) (m : BitVec 3) : Encoding.Statement (.mma s a b t u c m) := by
  intro w _ e
  have hk : w &&& 0xFC000000#32 = 0xC8000000#32 := by
    rw [← Option.some.inj e]
    simp [and_or_l, place_mask]
  have hd : decode w = decodeMma w := by
    rw [decode, major_of hk (by decide)]
    rfl
  rw [hd, decodeMma, if_pos hk, ← Option.some.inj e]
  simp [fieldOf, BitVec.extractLsb'_or, place_disj, place_same]

theorem Encoding.mwait (s : BitVec 3) : Encoding.Statement (.mwait s) := by
  intro w _ e
  have hk : w &&& 0xFFFFFF1F#32 = 0xCC000000#32 := by
    rw [← Option.some.inj e]
    simp [and_or_l, place_mask]
  have hd : decode w = decodeAcc w := by
    rw [decode, major_of hk (by decide)]
    rfl
  rw [hd, decodeAcc, if_pos hk, ← Option.some.inj e]
  simp [fieldOf, BitVec.extractLsb'_or, place_disj, place_same]

theorem Encoding.accrd (d : BitVec 5) (s : BitVec 3) (r : BitVec 4) : Encoding.Statement (.accrd d s r) := by
  intro w _ e
  have hk : w &&& 0xFC1FFF10#32 = 0xCC000200#32 := by
    rw [← Option.some.inj e]
    simp [and_or_l, place_mask]
  have hd : decode w = decodeAcc w := by
    rw [decode, major_of hk (by decide)]
    rfl
  rw [hd, decodeAcc, skip_row hk (by decide), skip_row hk (by decide), if_pos hk, ← Option.some.inj e]
  simp [fieldOf, BitVec.extractLsb'_or, place_disj, place_same]

theorem Encoding.accwr (a : BitVec 5) (s : BitVec 3) (r : BitVec 4) : Encoding.Statement (.accwr a s r) := by
  intro w _ e
  have hk : w &&& 0xFFE0FF10#32 = 0xCC000300#32 := by
    rw [← Option.some.inj e]
    simp [and_or_l, place_mask]
  have hd : decode w = decodeAcc w := by
    rw [decode, major_of hk (by decide)]
    rfl
  rw [hd, decodeAcc, skip_row hk (by decide), skip_row hk (by decide), skip_row hk (by decide), if_pos hk, ← Option.some.inj e]
  simp [fieldOf, BitVec.extractLsb'_or, place_disj, place_same]

theorem Encoding.mzero (s : BitVec 3) : Encoding.Statement (.mzero s) := by
  intro w _ e
  have hk : w &&& 0xFFFFFF1F#32 = 0xCC000400#32 := by
    rw [← Option.some.inj e]
    simp [and_or_l, place_mask]
  have hd : decode w = decodeAcc w := by
    rw [decode, major_of hk (by decide)]
    rfl
  rw [hd, decodeAcc, skip_row hk (by decide), skip_row hk (by decide), skip_row hk (by decide), skip_row hk (by decide), if_pos hk, ← Option.some.inj e]
  simp [fieldOf, BitVec.extractLsb'_or, place_disj, place_same]

theorem Encoding.epcfg (a : BitVec 5) (c : BitVec 2) : Encoding.Statement (.epcfg a c) := by
  intro w _ e
  have hk : w &&& 0xFFE0FFFC#32 = 0xD0000000#32 := by
    rw [← Option.some.inj e]
    simp [and_or_l, place_mask]
  have hd : decode w = decodeEpi w := by
    rw [decode, major_of hk (by decide)]
    rfl
  rw [hd, decodeEpi, if_pos hk, ← Option.some.inj e]
  simp [fieldOf, BitVec.extractLsb'_or, place_disj, place_same]

theorem Encoding.epi (a : BitVec 5) (b : BitVec 5) (w : BitVec 3) (c : BitVec 2) : Encoding.Statement (.epi a b w c) := by
  intro w _ e
  have hk : w &&& 0xFFE0071C#32 = 0xD0000100#32 := by
    rw [← Option.some.inj e]
    simp [and_or_l, place_mask]
  have hd : decode w = decodeEpi w := by
    rw [decode, major_of hk (by decide)]
    rfl
  rw [hd, decodeEpi, skip_row hk (by decide), if_pos hk, ← Option.some.inj e]
  simp [fieldOf, BitVec.extractLsb'_or, place_disj, place_same]

theorem Encoding.copy (d : BitVec 5) (a : BitVec 5) (b : BitVec 5) (w : BitVec 3) (s : BitVec 1) : Encoding.Statement (.copy d a b w s) := by
  intro w _ e
  have hk : w &&& 0xFC00070F#32 = 0xD4000000#32 := by
    rw [← Option.some.inj e]
    simp [and_or_l, place_mask]
  have hd : decode w = decodeCopy w := by
    rw [decode, major_of hk (by decide)]
    rfl
  rw [hd, decodeCopy, if_pos hk, ← Option.some.inj e]
  simp [fieldOf, BitVec.extractLsb'_or, place_disj, place_same]

theorem Encoding.copy2d (d : BitVec 5) (a : BitVec 5) (w : BitVec 3) (s : BitVec 1) : Encoding.Statement (.copy2d d a w s) := by
  intro w _ e
  have hk : w &&& 0xFC00FF0F#32 = 0xD4000100#32 := by
    rw [← Option.some.inj e]
    simp [and_or_l, place_mask]
  have hd : decode w = decodeCopy w := by
    rw [decode, major_of hk (by decide)]
    rfl
  rw [hd, decodeCopy, skip_row hk (by decide), if_pos hk, ← Option.some.inj e]
  simp [fieldOf, BitVec.extractLsb'_or, place_disj, place_same]

theorem Encoding.copyg (a : BitVec 5) (b : BitVec 5) (w : BitVec 3) : Encoding.Statement (.copyg a b w) := by
  intro w _ e
  have hk : w &&& 0xFFE0071F#32 = 0xD4000200#32 := by
    rw [← Option.some.inj e]
    simp [and_or_l, place_mask]
  have hd : decode w = decodeCopy w := by
    rw [decode, major_of hk (by decide)]
    rfl
  rw [hd, decodeCopy, skip_row hk (by decide), skip_row hk (by decide), if_pos hk, ← Option.some.inj e]
  simp [fieldOf, BitVec.extractLsb'_or, place_disj, place_same]

theorem Encoding.copyr (d : BitVec 5) (a : BitVec 5) (b : BitVec 5) (w : BitVec 3) (o : BitVec 2) (y : BitVec 3) : Encoding.Statement (.copyr d a b w o y) := by
  intro w _ e
  have hk : w &&& 0xFC000700#32 = 0xD4000300#32 := by
    rw [← Option.some.inj e]
    simp [and_or_l, place_mask]
  have hd : decode w = decodeCopy w := by
    rw [decode, major_of hk (by decide)]
    rfl
  rw [hd, decodeCopy, skip_row hk (by decide), skip_row hk (by decide), skip_row hk (by decide), if_pos hk, ← Option.some.inj e]
  simp [fieldOf, BitVec.extractLsb'_or, place_disj, place_same]

theorem Encoding.waitt (m : BitVec 8) : Encoding.Statement (.waitt m) := by
  intro w _ e
  have hk : w &&& 0xFFFFFF00#32 = 0xD4000400#32 := by
    rw [← Option.some.inj e]
    simp [and_or_l, place_mask]
  have hd : decode w = decodeCopy w := by
    rw [decode, major_of hk (by decide)]
    rfl
  rw [hd, decodeCopy, skip_row hk (by decide), skip_row hk (by decide), skip_row hk (by decide), skip_row hk (by decide), if_pos hk, ← Option.some.inj e]
  simp [fieldOf, BitVec.extractLsb'_or, place_disj, place_same]

theorem Encoding.start (d : BitVec 5) (a : BitVec 5) (b : BitVec 5) (h : BitVec 4) : Encoding.Statement (.start d a b h) := by
  intro w _ e
  have hk : w &&& 0xFC00070F#32 = 0xD8000000#32 := by
    rw [← Option.some.inj e]
    simp [and_or_l, place_mask]
  have hd : decode w = decodeHelper w := by
    rw [decode, major_of hk (by decide)]
    rfl
  rw [hd, decodeHelper, if_pos hk, ← Option.some.inj e]
  simp [fieldOf, BitVec.extractLsb'_or, place_disj, place_same]

theorem Encoding.startB (d : BitVec 5) (a : BitVec 5) (b : BitVec 5) (h : BitVec 4) (n : BitVec 4) : Encoding.Statement (.startB d a b h n) := by
  intro w _ e
  have hk : w &&& 0xFC000700#32 = 0xD8000100#32 := by
    rw [← Option.some.inj e]
    simp [and_or_l, place_mask]
  have hd : decode w = decodeHelper w := by
    rw [decode, major_of hk (by decide)]
    rfl
  rw [hd, decodeHelper, skip_row hk (by decide), if_pos hk, ← Option.some.inj e]
  simp [fieldOf, BitVec.extractLsb'_or, place_disj, place_same]

theorem Encoding.hwait (d : BitVec 5) (a : BitVec 5) : Encoding.Statement (.hwait d a) := by
  intro w _ e
  have hk : w &&& 0xFC00FFFF#32 = 0xD8000200#32 := by
    rw [← Option.some.inj e]
    simp [and_or_l, place_mask]
  have hd : decode w = decodeHelper w := by
    rw [decode, major_of hk (by decide)]
    rfl
  rw [hd, decodeHelper, skip_row hk (by decide), skip_row hk (by decide), if_pos hk, ← Option.some.inj e]
  simp [fieldOf, BitVec.extractLsb'_or, place_disj, place_same]

theorem Encoding.book (d : BitVec 5) (a : BitVec 5) (b : BitVec 5) : Encoding.Statement (.book d a b) := by
  intro w _ e
  have hk : w &&& 0xFC0007FF#32 = 0xDC000000#32 := by
    rw [← Option.some.inj e]
    simp [and_or_l, place_mask]
  have hd : decode w = decodeBook w := by
    rw [decode, major_of hk (by decide)]
    rfl
  rw [hd, decodeBook, if_pos hk, ← Option.some.inj e]
  simp [fieldOf, BitVec.extractLsb'_or, place_disj, place_same]

theorem Encoding.bookq (d : BitVec 5) (a : BitVec 5) (b : BitVec 5) : Encoding.Statement (.bookq d a b) := by
  intro w _ e
  have hk : w &&& 0xFC0007FF#32 = 0xDC000100#32 := by
    rw [← Option.some.inj e]
    simp [and_or_l, place_mask]
  have hd : decode w = decodeBook w := by
    rw [decode, major_of hk (by decide)]
    rfl
  rw [hd, decodeBook, skip_row hk (by decide), if_pos hk, ← Option.some.inj e]
  simp [fieldOf, BitVec.extractLsb'_or, place_disj, place_same]

theorem Encoding.unbook (d : BitVec 5) (a : BitVec 5) : Encoding.Statement (.unbook d a) := by
  intro w _ e
  have hk : w &&& 0xFC00FFFF#32 = 0xDC000200#32 := by
    rw [← Option.some.inj e]
    simp [and_or_l, place_mask]
  have hd : decode w = decodeBook w := by
    rw [decode, major_of hk (by decide)]
    rfl
  rw [hd, decodeBook, skip_row hk (by decide), skip_row hk (by decide), if_pos hk, ← Option.some.inj e]
  simp [fieldOf, BitVec.extractLsb'_or, place_disj, place_same]

theorem Encoding.calq (d : BitVec 5) (a : BitVec 5) : Encoding.Statement (.calq d a) := by
  intro w _ e
  have hk : w &&& 0xFC00FFFF#32 = 0xDC000300#32 := by
    rw [← Option.some.inj e]
    simp [and_or_l, place_mask]
  have hd : decode w = decodeBook w := by
    rw [decode, major_of hk (by decide)]
    rfl
  rw [hd, decodeBook, skip_row hk (by decide), skip_row hk (by decide), skip_row hk (by decide), if_pos hk, ← Option.some.inj e]
  simp [fieldOf, BitVec.extractLsb'_or, place_disj, place_same]

theorem Encoding.put (d : BitVec 5) (a : BitVec 5) (b : BitVec 5) (w : BitVec 3) : Encoding.Statement (.put d a b w) := by
  intro w _ e
  have hk : w &&& 0xFC00071F#32 = 0xE0000000#32 := by
    rw [← Option.some.inj e]
    simp [and_or_l, place_mask]
  have hd : decode w = decodeNet w := by
    rw [decode, major_of hk (by decide)]
    rfl
  rw [hd, decodeNet, if_pos hk, ← Option.some.inj e]
  simp [fieldOf, BitVec.extractLsb'_or, place_disj, place_same]

theorem Encoding.get (d : BitVec 5) (a : BitVec 5) (b : BitVec 5) (w : BitVec 3) : Encoding.Statement (.get d a b w) := by
  intro w _ e
  have hk : w &&& 0xFC00071F#32 = 0xE0000100#32 := by
    rw [← Option.some.inj e]
    simp [and_or_l, place_mask]
  have hd : decode w = decodeNet w := by
    rw [decode, major_of hk (by decide)]
    rfl
  rw [hd, decodeNet, skip_row hk (by decide), if_pos hk, ← Option.some.inj e]
  simp [fieldOf, BitVec.extractLsb'_or, place_disj, place_same]

theorem Encoding.coll (a : BitVec 5) (w : BitVec 3) : Encoding.Statement (.coll a w) := by
  intro w _ e
  have hk : w &&& 0xFFE0FF1F#32 = 0xE0000200#32 := by
    rw [← Option.some.inj e]
    simp [and_or_l, place_mask]
  have hd : decode w = decodeNet w := by
    rw [decode, major_of hk (by decide)]
    rfl
  rw [hd, decodeNet, skip_row hk (by decide), skip_row hk (by decide), if_pos hk, ← Option.some.inj e]
  simp [fieldOf, BitVec.extractLsb'_or, place_disj, place_same]

theorem Encoding.msg (d : BitVec 5) (a : BitVec 5) (b : BitVec 5) : Encoding.Statement (.msg d a b) := by
  intro w _ e
  have hk : w &&& 0xFC0007FF#32 = 0xE0000300#32 := by
    rw [← Option.some.inj e]
    simp [and_or_l, place_mask]
  have hd : decode w = decodeNet w := by
    rw [decode, major_of hk (by decide)]
    rfl
  rw [hd, decodeNet, skip_row hk (by decide), skip_row hk (by decide), skip_row hk (by decide), if_pos hk, ← Option.some.inj e]
  simp [fieldOf, BitVec.extractLsb'_or, place_disj, place_same]

theorem Encoding.pubv (d : BitVec 5) : Encoding.Statement (.pubv d) := by
  intro w _ e
  have hk : w &&& 0xFC1FFFFF#32 = 0xE4000000#32 := by
    rw [← Option.some.inj e]
    simp [and_or_l, place_mask]
  have hd : decode w = decodePolicy w := by
    rw [decode, major_of hk (by decide)]
    rfl
  rw [hd, decodePolicy, if_pos hk, ← Option.some.inj e]
  simp [fieldOf, BitVec.extractLsb'_or, place_disj, place_same]

theorem Encoding.vsw (d : BitVec 5) (a : BitVec 5) : Encoding.Statement (.vsw d a) := by
  intro w _ e
  have hk : w &&& 0xFC00FFFF#32 = 0xE4000100#32 := by
    rw [← Option.some.inj e]
    simp [and_or_l, place_mask]
  have hd : decode w = decodePolicy w := by
    rw [decode, major_of hk (by decide)]
    rfl
  rw [hd, decodePolicy, skip_row hk (by decide), if_pos hk, ← Option.some.inj e]
  simp [fieldOf, BitVec.extractLsb'_or, place_disj, place_same]

theorem Encoding.tkrec (a : BitVec 5) (b : BitVec 5) : Encoding.Statement (.tkrec a b) := by
  intro w _ e
  have hk : w &&& 0xFFE007FF#32 = 0xE4000200#32 := by
    rw [← Option.some.inj e]
    simp [and_or_l, place_mask]
  have hd : decode w = decodePolicy w := by
    rw [decode, major_of hk (by decide)]
    rfl
  rw [hd, decodePolicy, skip_row hk (by decide), skip_row hk (by decide), if_pos hk, ← Option.some.inj e]
  simp [fieldOf, BitVec.extractLsb'_or, place_disj, place_same]

theorem Encoding.streamWake (die tile ctx : Nat) : Encoding.Statement (.streamWake die tile ctx) := by
  intro w _ h
  simp [encode] at h

theorem Encoding.gatherElementReplay (die tile ctx elem : Nat) : Encoding.Statement (.gatherElementReplay die tile ctx elem) := by
  intro w _ h
  simp [encode] at h

theorem Encoding.feWaiterWake (key : Nat) : Encoding.Statement (.feWaiterWake key) := by
  intro w _ h
  simp [encode] at h

theorem Encoding.groupWaitWake (die tile ctx : Nat) : Encoding.Statement (.groupWaitWake die tile ctx) := by
  intro w _ h
  simp [encode] at h

theorem Encoding.qcWaiterServe (block : Nat) : Encoding.Statement (.qcWaiterServe block) := by
  intro w _ h
  simp [encode] at h

theorem Encoding.inboxWaitWake (die tile ctx : Nat) : Encoding.Statement (.inboxWaitWake die tile ctx) := by
  intro w _ h
  simp [encode] at h

theorem Encoding.inboxHeldDeliver (die tile : Nat) : Encoding.Statement (.inboxHeldDeliver die tile) := by
  intro w _ h
  simp [encode] at h

theorem Encoding.ssbArrive (die tile : Nat) : Encoding.Statement (.ssbArrive die tile) := by
  intro w _ h
  simp [encode] at h

theorem Encoding.waitpComplete (die tile ctx : Nat) : Encoding.Statement (.waitpComplete die tile ctx) := by
  intro w _ h
  simp [encode] at h

theorem Encoding.mmaComplete (die tile : Nat) : Encoding.Statement (.mmaComplete die tile) := by
  intro w _ h
  simp [encode] at h

theorem Encoding.epiDrainStart (die tile : Nat) : Encoding.Statement (.epiDrainStart die tile) := by
  intro w _ h
  simp [encode] at h

theorem Encoding.epiDrainEnd (die tile : Nat) : Encoding.Statement (.epiDrainEnd die tile) := by
  intro w _ h
  simp [encode] at h

theorem Encoding.tokenWaitWake (die tile ctx : Nat) : Encoding.Statement (.tokenWaitWake die tile ctx) := by
  intro w _ h
  simp [encode] at h

theorem Encoding.copyComplete (die tile op : Nat) : Encoding.Statement (.copyComplete die tile op) := by
  intro w _ h
  simp [encode] at h

theorem Encoding.copygComplete (die tile op : Nat) : Encoding.Statement (.copygComplete die tile op) := by
  intro w _ h
  simp [encode] at h

theorem Encoding.gatherRowArrive (die tile op row : Nat) : Encoding.Statement (.gatherRowArrive die tile op row) := by
  intro w _ h
  simp [encode] at h

theorem Encoding.engineFault (die tile op : Nat) (cause : BitVec 8) (off : BitVec 40) : Encoding.Statement (.engineFault die tile op cause off) := by
  intro w _ h
  simp [encode] at h

theorem Encoding.hwaitComplete (die tile ctx : Nat) : Encoding.Statement (.hwaitComplete die tile ctx) := by
  intro w _ h
  simp [encode] at h

theorem Encoding.queueWake (die tile ctx : Nat) : Encoding.Statement (.queueWake die tile ctx) := by
  intro w _ h
  simp [encode] at h

theorem Encoding.workUnitStart (die tile : Nat) : Encoding.Statement (.workUnitStart die tile) := by
  intro w _ h
  simp [encode] at h

theorem Encoding.conLaunchStart (launch : Nat) : Encoding.Statement (.conLaunchStart launch) := by
  intro w _ h
  simp [encode] at h

theorem Encoding.unitPlace (launch : Nat) : Encoding.Statement (.unitPlace launch) := by
  intro w _ h
  simp [encode] at h

theorem Encoding.dispatchCheck (launch : Nat) : Encoding.Statement (.dispatchCheck launch) := by
  intro w _ h
  simp [encode] at h

theorem Encoding.continuationReady (part : Nat) (rec : BitVec 64) : Encoding.Statement (.continuationReady part rec) := by
  intro w _ h
  simp [encode] at h

theorem Encoding.continuationResume (part : Nat) : Encoding.Statement (.continuationResume part) := by
  intro w _ h
  simp [encode] at h

theorem Encoding.barrierRecord (part level node child : Nat) (rec : BitVec 128) : Encoding.Statement (.barrierRecord part level node child rec) := by
  intro w _ h
  simp [encode] at h

theorem Encoding.commit (die tile : Nat) : Encoding.Statement (.commit die tile) := by
  intro w _ h
  simp [encode] at h

theorem Encoding.abort (die tile : Nat) : Encoding.Statement (.abort die tile) := by
  intro w _ h
  simp [encode] at h

theorem Encoding.controllerCommit (part die : Nat) : Encoding.Statement (.controllerCommit part die) := by
  intro w _ h
  simp [encode] at h

theorem Encoding.controllerAbort (part die : Nat) : Encoding.Statement (.controllerAbort part die) := by
  intro w _ h
  simp [encode] at h

theorem Encoding.reportDone (part who : Nat) : Encoding.Statement (.reportDone part who) := by
  intro w _ h
  simp [encode] at h

theorem Encoding.resumeBroadcast (die tile : Nat) : Encoding.Statement (.resumeBroadcast die tile) := by
  intro w _ h
  simp [encode] at h

theorem Encoding.remoteKeptWrite (die tile : Nat) (vault : Bool) (off : Nat) (bytes : List (BitVec 8)) : Encoding.Statement (.remoteKeptWrite die tile vault off bytes) := by
  intro w _ h
  simp [encode] at h

theorem Encoding.stagingEntryComplete (die tile entry : Nat) : Encoding.Statement (.stagingEntryComplete die tile entry) := by
  intro w _ h
  simp [encode] at h

theorem Encoding.requestAppendResume (die : Nat) : Encoding.Statement (.requestAppendResume die) := by
  intro w _ h
  simp [encode] at h

theorem Encoding.tinvComplete (die : Nat) : Encoding.Statement (.tinvComplete die) := by
  intro w _ h
  simp [encode] at h

theorem Encoding.ringScanResume (modl fn ring : Nat) : Encoding.Statement (.ringScanResume modl fn ring) := by
  intro w _ h
  simp [encode] at h

theorem Encoding.restore (modl ptr : Nat) : Encoding.Statement (.restore modl ptr) := by
  intro w _ h
  simp [encode] at h

theorem Encoding.checkpointPhase2Done (job modl : Nat) : Encoding.Statement (.checkpointPhase2Done job modl) := by
  intro w _ h
  simp [encode] at h

theorem Encoding.checkpointPhase3Done (job modl : Nat) : Encoding.Statement (.checkpointPhase3Done job modl) := by
  intro w _ h
  simp [encode] at h

theorem Encoding.switchQuiet (job : Nat) : Encoding.Statement (.switchQuiet job) := by
  intro w _ h
  simp [encode] at h

theorem Encoding.switchEscalate (job : Nat) : Encoding.Statement (.switchEscalate job) := by
  intro w _ h
  simp [encode] at h

theorem Encoding.markArrive (sw port job : Nat) : Encoding.Statement (.markArrive sw port job) := by
  intro w _ h
  simp [encode] at h

theorem Encoding.sweepPacketArrive (sw port : Nat) (pkt : Packet) : Encoding.Statement (.sweepPacketArrive sw port pkt) := by
  intro w _ h
  simp [encode] at h

theorem Encoding.throttleApply (part : Nat) : Encoding.Statement (.throttleApply part) := by
  intro w _ h
  simp [encode] at h

theorem Encoding.packetRoute (sw port vc : Nat) : Encoding.Statement (.packetRoute sw port vc) := by
  intro w _ h
  simp [encode] at h

theorem Encoding.collHop (sw port : Nat) : Encoding.Statement (.collHop sw port) := by
  intro w _ h
  simp [encode] at h

theorem Encoding.collEndpointArrival (die : Nat) (pkt : Packet) : Encoding.Statement (.collEndpointArrival die pkt) := by
  intro w _ h
  simp [encode] at h

theorem Encoding.collComplete (die tile op : Nat) : Encoding.Statement (.collComplete die tile op) := by
  intro w _ h
  simp [encode] at h

theorem Encoding.mcastBranchSend (sw port entry : Nat) : Encoding.Statement (.mcastBranchSend sw port entry) := by
  intro w _ h
  simp [encode] at h

theorem Encoding.linkFlitReceive (sw port : Nat) (seq : BitVec 16) (good : Bool) (pkt : Option Packet) : Encoding.Statement (.linkFlitReceive sw port seq good pkt) := by
  intro w _ h
  simp [encode] at h

theorem Encoding.pairCompare (die tile : Nat) : Encoding.Statement (.pairCompare die tile) := by
  intro w _ h
  simp [encode] at h

theorem Encoding.testKernelPlace (die tile : Nat) : Encoding.Statement (.testKernelPlace die tile) := by
  intro w _ h
  simp [encode] at h

theorem Encoding.meshDrained (die job : Nat) : Encoding.Statement (.meshDrained die job) := by
  intro w _ h
  simp [encode] at h

theorem Encoding.serviced (die parked : Nat) : Encoding.Statement (.serviced die parked) := by
  intro w _ h
  simp [encode] at h

theorem Encoding.linkReplay (sw port : Nat) (seq : BitVec 16) : Encoding.Statement (.linkReplay sw port seq) := by
  intro w _ h
  simp [encode] at h

theorem Encoding.deqLongWait (die tile ctx : Nat) : Encoding.Statement (.deqLongWait die tile ctx) := by
  intro w _ h
  simp [encode] at h

theorem Encoding.moduleLoss (modl : Nat) : Encoding.Statement (.moduleLoss modl) := by
  intro w _ h
  simp [encode] at h

theorem Encoding.boot (modl : Nat) : Encoding.Statement (.boot modl) := by
  intro w _ h
  simp [encode] at h

theorem Encoding.slotBoundary (die tile : Nat) : Encoding.Statement (.slotBoundary die tile) := by
  intro w _ h
  simp [encode] at h

theorem Encoding.overrunLatency (die tile ctx : Nat) : Encoding.Statement (.overrunLatency die tile ctx) := by
  intro w _ h
  simp [encode] at h

theorem Encoding.forcedEvent (die tile : Nat) (code : BitVec 8) : Encoding.Statement (.forcedEvent die tile code) := by
  intro w _ h
  simp [encode] at h

theorem Encoding.parityError (die tile : Nat) (place : ParityPlace) : Encoding.Statement (.parityError die tile place) := by
  intro w _ h
  simp [encode] at h

theorem Encoding.tctxWrite (die off : Nat) (value : BitVec 64) : Encoding.Statement (.tctxWrite die off value) := by
  intro w _ h
  simp [encode] at h

theorem Encoding.tinv (die : Nat) (value : BitVec 64) : Encoding.Statement (.tinv die value) := by
  intro w _ h
  simp [encode] at h

theorem Encoding.prespRetry (die : Nat) (value : BitVec 64) : Encoding.Statement (.prespRetry die value) := by
  intro w _ h
  simp [encode] at h

theorem Encoding.prespRefuse (die : Nat) (value : BitVec 64) : Encoding.Statement (.prespRefuse die value) := by
  intro w _ h
  simp [encode] at h

theorem Encoding.dirtyBitmapRead (die controller word : Nat) : Encoding.Statement (.dirtyBitmapRead die controller word) := by
  intro w _ h
  simp [encode] at h

theorem Encoding.polgrpWrite (die group : Nat) (value : BitVec 64) : Encoding.Statement (.polgrpWrite die group value) := by
  intro w _ h
  simp [encode] at h

theorem Encoding.tailrWrite (modl fn ring : Nat) (value : BitVec 64) : Encoding.Statement (.tailrWrite modl fn ring value) := by
  intro w _ h
  simp [encode] at h

theorem Encoding.ringbaseWrite (modl fn ring : Nat) (value : BitVec 64) : Encoding.Statement (.ringbaseWrite modl fn ring value) := by
  intro w _ h
  simp [encode] at h

theorem Encoding.merrcWrite (modl fn : Nat) (value : BitVec 64) : Encoding.Statement (.merrcWrite modl fn value) := by
  intro w _ h
  simp [encode] at h

theorem Encoding.registerWrite (modl fn bar off : Nat) (value : BitVec 64) : Encoding.Statement (.registerWrite modl fn bar off value) := by
  intro w _ h
  simp [encode] at h

theorem Encoding.hostRead (modl : Nat) (fn addr : Nat × Nat) (size : Nat) : Encoding.Statement (.hostRead modl fn addr size) := by
  intro w _ h
  simp [encode] at h

theorem Encoding.hostWrite (modl : Nat) (fn addr : Nat × Nat) (bytes : Bool × Bool × List (BitVec 8)) : Encoding.Statement (.hostWrite modl fn addr bytes) := by
  intro w _ h
  simp [encode] at h

theorem Encoding.hostAtomicFetchadd (modl : Nat) (fn : Nat × Nat) (addr size : Nat) (value : Nat × BitVec 64) : Encoding.Statement (.hostAtomicFetchadd modl fn addr size value) := by
  intro w _ h
  simp [encode] at h

theorem Encoding.cloveSwitchDrain (modl ptr : Nat) : Encoding.Statement (.cloveSwitchDrain modl ptr) := by
  intro w _ h
  simp [encode] at h

theorem Encoding.cloveAbortSwitch (modl ptr : Nat) : Encoding.Statement (.cloveAbortSwitch modl ptr) := by
  intro w _ h
  simp [encode] at h

theorem Encoding.cloveSwitchForced (modl ptr : Nat) : Encoding.Statement (.cloveSwitchForced modl ptr) := by
  intro w _ h
  simp [encode] at h

theorem Encoding.cloveResume (modl ptr : Nat) : Encoding.Statement (.cloveResume modl ptr) := by
  intro w _ h
  simp [encode] at h

theorem Encoding.checkpoint (modl ptr : Nat) : Encoding.Statement (.checkpoint modl ptr) := by
  intro w _ h
  simp [encode] at h

theorem Encoding.containRelease (modl ptr : Nat) : Encoding.Statement (.containRelease modl ptr) := by
  intro w _ h
  simp [encode] at h

theorem Encoding.containExclude (modl ptr : Nat) : Encoding.Statement (.containExclude modl ptr) := by
  intro w _ h
  simp [encode] at h

theorem Encoding.containKill (modl ptr : Nat) : Encoding.Statement (.containKill modl ptr) := by
  intro w _ h
  simp [encode] at h

theorem Encoding.readctx (modl ptr : Nat) : Encoding.Statement (.readctx modl ptr) := by
  intro w _ h
  simp [encode] at h

theorem Encoding.throttle (modl ptr : Nat) : Encoding.Statement (.throttle modl ptr) := by
  intro w _ h
  simp [encode] at h

theorem Encoding.kill (modl ptr : Nat) : Encoding.Statement (.kill modl ptr) := by
  intro w _ h
  simp [encode] at h

theorem Encoding.image (modl ptr : Nat) : Encoding.Statement (.image modl ptr) := by
  intro w _ h
  simp [encode] at h

theorem Encoding.attest (modl ptr : Nat) : Encoding.Statement (.attest modl ptr) := by
  intro w _ h
  simp [encode] at h

theorem Encoding.keywrap (modl ptr : Nat) : Encoding.Statement (.keywrap modl ptr) := by
  intro w _ h
  simp [encode] at h

theorem Encoding.swcfg (modl ptr : Nat) : Encoding.Statement (.swcfg modl ptr) := by
  intro w _ h
  simp [encode] at h

theorem Encoding.powerLimitStep (modl : Nat) : Encoding.Statement (.powerLimitStep modl) := by
  intro w _ h
  simp [encode] at h

theorem Encoding.powerRestoreStep (modl : Nat) : Encoding.Statement (.powerRestoreStep modl) := by
  intro w _ h
  simp [encode] at h

theorem Encoding.thermalCutoff (modl : Nat) : Encoding.Statement (.thermalCutoff modl) := by
  intro w _ h
  simp [encode] at h

theorem Encoding.testKernelEnd (die tile : Nat) (agrees : Bool) : Encoding.Statement (.testKernelEnd die tile agrees) := by
  intro w _ h
  simp [encode] at h

theorem Encoding.collSlotTimeout (sw slot : Nat) : Encoding.Statement (.collSlotTimeout sw slot) := by
  intro w _ h
  simp [encode] at h

theorem Encoding.linkDown (sw port : Nat) : Encoding.Statement (.linkDown sw port) := by
  intro w _ h
  simp [encode] at h

theorem Encoding.linkRetrain (sw port : Nat) : Encoding.Statement (.linkRetrain sw port) := by
  intro w _ h
  simp [encode] at h

theorem Encoding.keepwait (die parked : Nat) : Encoding.Statement (.keepwait die parked) := by
  intro w _ h
  simp [encode] at h

theorem Encoding.withdrawn (die parked : Nat) : Encoding.Statement (.withdrawn die parked) := by
  intro w _ h
  simp [encode] at h

theorem Encoding.begun (die parked : Nat) : Encoding.Statement (.begun die parked) := by
  intro w _ h
  simp [encode] at h

theorem Encoding.remoteto (die tile ctx : Nat) : Encoding.Statement (.remoteto die tile ctx) := by
  intro w _ h
  simp [encode] at h

theorem Encoding.pairTimeout (die tile : Nat) : Encoding.Statement (.pairTimeout die tile) := by
  intro w _ h
  simp [encode] at h

theorem Encoding.migrationCopy (modl src dst : Nat) : Encoding.Statement (.migrationCopy modl src dst) := by
  intro w _ h
  simp [encode] at h

theorem Encoding.functionReset (modl fn : Nat) : Encoding.Statement (.functionReset modl fn) := by
  intro w _ h
  simp [encode] at h

theorem Encoding.jobStart (job : Nat) (box : List Nat) (entries : List (BitVec 64)) : Encoding.Statement (.jobStart job box entries) := by
  intro w _ h
  simp [encode] at h

theorem Encoding.gangAllot (part : Nat) (tiles : List (Nat × Nat)) : Encoding.Statement (.gangAllot part tiles) := by
  intro w _ h
  simp [encode] at h

theorem Encoding.quarantineClear (modl die tile : Nat) : Encoding.Statement (.quarantineClear modl die tile) := by
  intro w _ h
  simp [encode] at h

theorem Encoding.modulePowerLoss (modl : Nat) : Encoding.Statement (.modulePowerLoss modl) := by
  intro w _ h
  simp [encode] at h

theorem Encoding.badop (modl : Nat) (value : BitVec 64) : Encoding.Statement (.badop modl value) := by
  intro w _ h
  simp [encode] at h

theorem Encoding.moduleRelease (job modl : Nat) : Encoding.Statement (.moduleRelease job modl) := by
  intro w _ h
  simp [encode] at h

theorem Encoding.nop : Encoding.Statement (.nop) := by
  intro w _ e
  have hk : w &&& 0xFFFFFFFF#32 = 0x44000000#32 := by
    rw [← Option.some.inj e]
    rfl
  have hd : decode w = decodeSys w := by
    rw [decode, major_of hk (by decide)]
    rfl
  rw [hd, decodeSys, if_pos hk]

theorem Encoding.tret : Encoding.Statement (.tret) := by
  intro w _ e
  have hk : w &&& 0xFFFFFFFF#32 = 0x44000200#32 := by
    rw [← Option.some.inj e]
    rfl
  have hd : decode w = decodeSys w := by
    rw [decode, major_of hk (by decide)]
    rfl
  rw [hd, decodeSys, skip_row hk (by decide), skip_row hk (by decide), if_pos hk]

theorem Encoding.halt : Encoding.Statement (.halt) := by
  intro w _ e
  have hk : w &&& 0xFFFFFFFF#32 = 0x44000300#32 := by
    rw [← Option.some.inj e]
    rfl
  have hd : decode w = decodeSys w := by
    rw [decode, major_of hk (by decide)]
    rfl
  rw [hd, decodeSys, skip_row hk (by decide), skip_row hk (by decide), skip_row hk (by decide), if_pos hk]

theorem Encoding.bkpt : Encoding.Statement (.bkpt) := by
  intro w _ e
  have hk : w &&& 0xFFFFFFFF#32 = 0x44000400#32 := by
    rw [← Option.some.inj e]
    rfl
  have hd : decode w = decodeSys w := by
    rw [decode, major_of hk (by decide)]
    rfl
  rw [hd, decodeSys, skip_row hk (by decide), skip_row hk (by decide), skip_row hk (by decide), skip_row hk (by decide), if_pos hk]

theorem Encoding.trig : Encoding.Statement (.trig) := by
  intro w _ e
  have hk : w &&& 0xFFFFFFFF#32 = 0xC4000100#32 := by
    rw [← Option.some.inj e]
    rfl
  have hd : decode w = decodeTask w := by
    rw [decode, major_of hk (by decide)]
    rfl
  rw [hd, decodeTask, skip_row hk (by decide), if_pos hk]

theorem Encoding.mnext : Encoding.Statement (.mnext) := by
  intro w _ e
  have hk : w &&& 0xFFFFFFFF#32 = 0xCC000100#32 := by
    rw [← Option.some.inj e]
    rfl
  have hd : decode w = decodeAcc w := by
    rw [decode, major_of hk (by decide)]
    rfl
  rw [hd, decodeAcc, skip_row hk (by decide), if_pos hk]

end Sys2Proof.Laws
end

