-- ==== Sys2Proof/Laws/State.lean ====
section
/-! SUPPORT. One lemma for each field and each update of the state: what an update leaves, and what it sets. -/

namespace Sys2Proof.Machine

/-! ### State.setTile -/

@[simp] theorem State.setTile_dies (s : State) (k : Nat) (x : Tile) : (s.setTile k x).dies = s.dies := rfl
@[simp] theorem State.setTile_modls (s : State) (k : Nat) (x : Tile) : (s.setTile k x).modls = s.modls := rfl
@[simp] theorem State.setTile_jobs (s : State) (k : Nat) (x : Tile) : (s.setTile k x).jobs = s.jobs := rfl
@[simp] theorem State.setTile_parts (s : State) (k : Nat) (x : Tile) : (s.setTile k x).parts = s.parts := rfl
@[simp] theorem State.setTile_launches (s : State) (k : Nat) (x : Tile) : (s.setTile k x).launches = s.launches := rfl
@[simp] theorem State.setTile_mem (s : State) (k : Nat) (x : Tile) : (s.setTile k x).mem = s.mem := rfl
@[simp] theorem State.setTile_hostMem (s : State) (k : Nat) (x : Tile) : (s.setTile k x).hostMem = s.hostMem := rfl
@[simp] theorem State.setTile_hostMuted (s : State) (k : Nat) (x : Tile) : (s.setTile k x).hostMuted = s.hostMuted := rfl
@[simp] theorem State.setTile_full (s : State) (k : Nat) (x : Tile) : (s.setTile k x).full = s.full := rfl
@[simp] theorem State.setTile_saves (s : State) (k : Nat) (x : Tile) : (s.setTile k x).saves = s.saves := rfl
@[simp] theorem State.setTile_completions (s : State) (k : Nat) (x : Tile) : (s.setTile k x).completions = s.completions := rfl
@[simp] theorem State.setTile_hostWaits (s : State) (k : Nat) (x : Tile) : (s.setTile k x).hostWaits = s.hostWaits := rfl
@[simp] theorem State.setTile_hwWaits (s : State) (k : Nat) (x : Tile) : (s.setTile k x).hwWaits = s.hwWaits := rfl
@[simp] theorem State.setTile_hwRefused (s : State) (k : Nat) (x : Tile) : (s.setTile k x).hwRefused = s.hwRefused := rfl
@[simp] theorem State.setTile_pending (s : State) (k : Nat) (x : Tile) : (s.setTile k x).pending = s.pending := rfl
@[simp] theorem State.setTile_sched (s : State) (k : Nat) (x : Tile) : (s.setTile k x).sched = s.sched := rfl
@[simp] theorem State.setTile_keeps (s : State) (k : Nat) (x : Tile) : (s.setTile k x).keeps = s.keeps := rfl
@[simp] theorem State.setTile_free (s : State) (k : Nat) (x : Tile) : (s.setTile k x).free = s.free := rfl
@[simp] theorem State.setTile_cur (s : State) (k : Nat) (x : Tile) : (s.setTile k x).cur = s.cur := rfl

/-! ### State.setDie -/

@[simp] theorem State.setDie_tiles (s : State) (k : Nat) (x : Die) : (s.setDie k x).tiles = s.tiles := rfl
@[simp] theorem State.setDie_modls (s : State) (k : Nat) (x : Die) : (s.setDie k x).modls = s.modls := rfl
@[simp] theorem State.setDie_jobs (s : State) (k : Nat) (x : Die) : (s.setDie k x).jobs = s.jobs := rfl
@[simp] theorem State.setDie_parts (s : State) (k : Nat) (x : Die) : (s.setDie k x).parts = s.parts := rfl
@[simp] theorem State.setDie_launches (s : State) (k : Nat) (x : Die) : (s.setDie k x).launches = s.launches := rfl
@[simp] theorem State.setDie_mem (s : State) (k : Nat) (x : Die) : (s.setDie k x).mem = s.mem := rfl
@[simp] theorem State.setDie_hostMem (s : State) (k : Nat) (x : Die) : (s.setDie k x).hostMem = s.hostMem := rfl
@[simp] theorem State.setDie_hostMuted (s : State) (k : Nat) (x : Die) : (s.setDie k x).hostMuted = s.hostMuted := rfl
@[simp] theorem State.setDie_full (s : State) (k : Nat) (x : Die) : (s.setDie k x).full = s.full := rfl
@[simp] theorem State.setDie_saves (s : State) (k : Nat) (x : Die) : (s.setDie k x).saves = s.saves := rfl
@[simp] theorem State.setDie_completions (s : State) (k : Nat) (x : Die) : (s.setDie k x).completions = s.completions := rfl
@[simp] theorem State.setDie_hostWaits (s : State) (k : Nat) (x : Die) : (s.setDie k x).hostWaits = s.hostWaits := rfl
@[simp] theorem State.setDie_hwWaits (s : State) (k : Nat) (x : Die) : (s.setDie k x).hwWaits = s.hwWaits := rfl
@[simp] theorem State.setDie_hwRefused (s : State) (k : Nat) (x : Die) : (s.setDie k x).hwRefused = s.hwRefused := rfl
@[simp] theorem State.setDie_pending (s : State) (k : Nat) (x : Die) : (s.setDie k x).pending = s.pending := rfl
@[simp] theorem State.setDie_sched (s : State) (k : Nat) (x : Die) : (s.setDie k x).sched = s.sched := rfl
@[simp] theorem State.setDie_keeps (s : State) (k : Nat) (x : Die) : (s.setDie k x).keeps = s.keeps := rfl
@[simp] theorem State.setDie_free (s : State) (k : Nat) (x : Die) : (s.setDie k x).free = s.free := rfl
@[simp] theorem State.setDie_cur (s : State) (k : Nat) (x : Die) : (s.setDie k x).cur = s.cur := rfl

/-! ### State.setModl -/

@[simp] theorem State.setModl_tiles (s : State) (k : Nat) (x : Modl) : (s.setModl k x).tiles = s.tiles := rfl
@[simp] theorem State.setModl_dies (s : State) (k : Nat) (x : Modl) : (s.setModl k x).dies = s.dies := rfl
@[simp] theorem State.setModl_jobs (s : State) (k : Nat) (x : Modl) : (s.setModl k x).jobs = s.jobs := rfl
@[simp] theorem State.setModl_parts (s : State) (k : Nat) (x : Modl) : (s.setModl k x).parts = s.parts := rfl
@[simp] theorem State.setModl_launches (s : State) (k : Nat) (x : Modl) : (s.setModl k x).launches = s.launches := rfl
@[simp] theorem State.setModl_mem (s : State) (k : Nat) (x : Modl) : (s.setModl k x).mem = s.mem := rfl
@[simp] theorem State.setModl_hostMem (s : State) (k : Nat) (x : Modl) : (s.setModl k x).hostMem = s.hostMem := rfl
@[simp] theorem State.setModl_hostMuted (s : State) (k : Nat) (x : Modl) : (s.setModl k x).hostMuted = s.hostMuted := rfl
@[simp] theorem State.setModl_full (s : State) (k : Nat) (x : Modl) : (s.setModl k x).full = s.full := rfl
@[simp] theorem State.setModl_saves (s : State) (k : Nat) (x : Modl) : (s.setModl k x).saves = s.saves := rfl
@[simp] theorem State.setModl_completions (s : State) (k : Nat) (x : Modl) : (s.setModl k x).completions = s.completions := rfl
@[simp] theorem State.setModl_hostWaits (s : State) (k : Nat) (x : Modl) : (s.setModl k x).hostWaits = s.hostWaits := rfl
@[simp] theorem State.setModl_hwWaits (s : State) (k : Nat) (x : Modl) : (s.setModl k x).hwWaits = s.hwWaits := rfl
@[simp] theorem State.setModl_hwRefused (s : State) (k : Nat) (x : Modl) : (s.setModl k x).hwRefused = s.hwRefused := rfl
@[simp] theorem State.setModl_pending (s : State) (k : Nat) (x : Modl) : (s.setModl k x).pending = s.pending := rfl
@[simp] theorem State.setModl_sched (s : State) (k : Nat) (x : Modl) : (s.setModl k x).sched = s.sched := rfl
@[simp] theorem State.setModl_keeps (s : State) (k : Nat) (x : Modl) : (s.setModl k x).keeps = s.keeps := rfl
@[simp] theorem State.setModl_free (s : State) (k : Nat) (x : Modl) : (s.setModl k x).free = s.free := rfl
@[simp] theorem State.setModl_cur (s : State) (k : Nat) (x : Modl) : (s.setModl k x).cur = s.cur := rfl

/-! ### State.setJob -/

@[simp] theorem State.setJob_tiles (s : State) (k : Nat) (x : Job) : (s.setJob k x).tiles = s.tiles := rfl
@[simp] theorem State.setJob_dies (s : State) (k : Nat) (x : Job) : (s.setJob k x).dies = s.dies := rfl
@[simp] theorem State.setJob_modls (s : State) (k : Nat) (x : Job) : (s.setJob k x).modls = s.modls := rfl
@[simp] theorem State.setJob_parts (s : State) (k : Nat) (x : Job) : (s.setJob k x).parts = s.parts := rfl
@[simp] theorem State.setJob_launches (s : State) (k : Nat) (x : Job) : (s.setJob k x).launches = s.launches := rfl
@[simp] theorem State.setJob_mem (s : State) (k : Nat) (x : Job) : (s.setJob k x).mem = s.mem := rfl
@[simp] theorem State.setJob_hostMem (s : State) (k : Nat) (x : Job) : (s.setJob k x).hostMem = s.hostMem := rfl
@[simp] theorem State.setJob_hostMuted (s : State) (k : Nat) (x : Job) : (s.setJob k x).hostMuted = s.hostMuted := rfl
@[simp] theorem State.setJob_full (s : State) (k : Nat) (x : Job) : (s.setJob k x).full = s.full := rfl
@[simp] theorem State.setJob_saves (s : State) (k : Nat) (x : Job) : (s.setJob k x).saves = s.saves := rfl
@[simp] theorem State.setJob_completions (s : State) (k : Nat) (x : Job) : (s.setJob k x).completions = s.completions := rfl
@[simp] theorem State.setJob_hostWaits (s : State) (k : Nat) (x : Job) : (s.setJob k x).hostWaits = s.hostWaits := rfl
@[simp] theorem State.setJob_hwWaits (s : State) (k : Nat) (x : Job) : (s.setJob k x).hwWaits = s.hwWaits := rfl
@[simp] theorem State.setJob_hwRefused (s : State) (k : Nat) (x : Job) : (s.setJob k x).hwRefused = s.hwRefused := rfl
@[simp] theorem State.setJob_pending (s : State) (k : Nat) (x : Job) : (s.setJob k x).pending = s.pending := rfl
@[simp] theorem State.setJob_sched (s : State) (k : Nat) (x : Job) : (s.setJob k x).sched = s.sched := rfl
@[simp] theorem State.setJob_keeps (s : State) (k : Nat) (x : Job) : (s.setJob k x).keeps = s.keeps := rfl
@[simp] theorem State.setJob_free (s : State) (k : Nat) (x : Job) : (s.setJob k x).free = s.free := rfl
@[simp] theorem State.setJob_cur (s : State) (k : Nat) (x : Job) : (s.setJob k x).cur = s.cur := rfl

/-! ### State.setPart -/

@[simp] theorem State.setPart_tiles (s : State) (k : Nat) (x : Partition) : (s.setPart k x).tiles = s.tiles := rfl
@[simp] theorem State.setPart_dies (s : State) (k : Nat) (x : Partition) : (s.setPart k x).dies = s.dies := rfl
@[simp] theorem State.setPart_modls (s : State) (k : Nat) (x : Partition) : (s.setPart k x).modls = s.modls := rfl
@[simp] theorem State.setPart_jobs (s : State) (k : Nat) (x : Partition) : (s.setPart k x).jobs = s.jobs := rfl
@[simp] theorem State.setPart_launches (s : State) (k : Nat) (x : Partition) : (s.setPart k x).launches = s.launches := rfl
@[simp] theorem State.setPart_mem (s : State) (k : Nat) (x : Partition) : (s.setPart k x).mem = s.mem := rfl
@[simp] theorem State.setPart_hostMem (s : State) (k : Nat) (x : Partition) : (s.setPart k x).hostMem = s.hostMem := rfl
@[simp] theorem State.setPart_hostMuted (s : State) (k : Nat) (x : Partition) : (s.setPart k x).hostMuted = s.hostMuted := rfl
@[simp] theorem State.setPart_full (s : State) (k : Nat) (x : Partition) : (s.setPart k x).full = s.full := rfl
@[simp] theorem State.setPart_saves (s : State) (k : Nat) (x : Partition) : (s.setPart k x).saves = s.saves := rfl
@[simp] theorem State.setPart_completions (s : State) (k : Nat) (x : Partition) : (s.setPart k x).completions = s.completions := rfl
@[simp] theorem State.setPart_hostWaits (s : State) (k : Nat) (x : Partition) : (s.setPart k x).hostWaits = s.hostWaits := rfl
@[simp] theorem State.setPart_hwWaits (s : State) (k : Nat) (x : Partition) : (s.setPart k x).hwWaits = s.hwWaits := rfl
@[simp] theorem State.setPart_hwRefused (s : State) (k : Nat) (x : Partition) : (s.setPart k x).hwRefused = s.hwRefused := rfl
@[simp] theorem State.setPart_pending (s : State) (k : Nat) (x : Partition) : (s.setPart k x).pending = s.pending := rfl
@[simp] theorem State.setPart_sched (s : State) (k : Nat) (x : Partition) : (s.setPart k x).sched = s.sched := rfl
@[simp] theorem State.setPart_keeps (s : State) (k : Nat) (x : Partition) : (s.setPart k x).keeps = s.keeps := rfl
@[simp] theorem State.setPart_free (s : State) (k : Nat) (x : Partition) : (s.setPart k x).free = s.free := rfl
@[simp] theorem State.setPart_cur (s : State) (k : Nat) (x : Partition) : (s.setPart k x).cur = s.cur := rfl

/-! ### State.setLaunch -/

@[simp] theorem State.setLaunch_tiles (s : State) (k : Nat) (x : Launch) : (s.setLaunch k x).tiles = s.tiles := rfl
@[simp] theorem State.setLaunch_dies (s : State) (k : Nat) (x : Launch) : (s.setLaunch k x).dies = s.dies := rfl
@[simp] theorem State.setLaunch_modls (s : State) (k : Nat) (x : Launch) : (s.setLaunch k x).modls = s.modls := rfl
@[simp] theorem State.setLaunch_jobs (s : State) (k : Nat) (x : Launch) : (s.setLaunch k x).jobs = s.jobs := rfl
@[simp] theorem State.setLaunch_parts (s : State) (k : Nat) (x : Launch) : (s.setLaunch k x).parts = s.parts := rfl
@[simp] theorem State.setLaunch_mem (s : State) (k : Nat) (x : Launch) : (s.setLaunch k x).mem = s.mem := rfl
@[simp] theorem State.setLaunch_hostMem (s : State) (k : Nat) (x : Launch) : (s.setLaunch k x).hostMem = s.hostMem := rfl
@[simp] theorem State.setLaunch_hostMuted (s : State) (k : Nat) (x : Launch) : (s.setLaunch k x).hostMuted = s.hostMuted := rfl
@[simp] theorem State.setLaunch_full (s : State) (k : Nat) (x : Launch) : (s.setLaunch k x).full = s.full := rfl
@[simp] theorem State.setLaunch_saves (s : State) (k : Nat) (x : Launch) : (s.setLaunch k x).saves = s.saves := rfl
@[simp] theorem State.setLaunch_completions (s : State) (k : Nat) (x : Launch) : (s.setLaunch k x).completions = s.completions := rfl
@[simp] theorem State.setLaunch_hostWaits (s : State) (k : Nat) (x : Launch) : (s.setLaunch k x).hostWaits = s.hostWaits := rfl
@[simp] theorem State.setLaunch_hwWaits (s : State) (k : Nat) (x : Launch) : (s.setLaunch k x).hwWaits = s.hwWaits := rfl
@[simp] theorem State.setLaunch_hwRefused (s : State) (k : Nat) (x : Launch) : (s.setLaunch k x).hwRefused = s.hwRefused := rfl
@[simp] theorem State.setLaunch_pending (s : State) (k : Nat) (x : Launch) : (s.setLaunch k x).pending = s.pending := rfl
@[simp] theorem State.setLaunch_sched (s : State) (k : Nat) (x : Launch) : (s.setLaunch k x).sched = s.sched := rfl
@[simp] theorem State.setLaunch_keeps (s : State) (k : Nat) (x : Launch) : (s.setLaunch k x).keeps = s.keeps := rfl
@[simp] theorem State.setLaunch_free (s : State) (k : Nat) (x : Launch) : (s.setLaunch k x).free = s.free := rfl
@[simp] theorem State.setLaunch_cur (s : State) (k : Nat) (x : Launch) : (s.setLaunch k x).cur = s.cur := rfl

/-! ### State.post -/

@[simp] theorem State.post_tiles (s : State) (e : Instr) : (s.post e).tiles = s.tiles := rfl
@[simp] theorem State.post_dies (s : State) (e : Instr) : (s.post e).dies = s.dies := rfl
@[simp] theorem State.post_modls (s : State) (e : Instr) : (s.post e).modls = s.modls := rfl
@[simp] theorem State.post_jobs (s : State) (e : Instr) : (s.post e).jobs = s.jobs := rfl
@[simp] theorem State.post_parts (s : State) (e : Instr) : (s.post e).parts = s.parts := rfl
@[simp] theorem State.post_launches (s : State) (e : Instr) : (s.post e).launches = s.launches := rfl
@[simp] theorem State.post_mem (s : State) (e : Instr) : (s.post e).mem = s.mem := rfl
@[simp] theorem State.post_hostMem (s : State) (e : Instr) : (s.post e).hostMem = s.hostMem := rfl
@[simp] theorem State.post_hostMuted (s : State) (e : Instr) : (s.post e).hostMuted = s.hostMuted := rfl
@[simp] theorem State.post_full (s : State) (e : Instr) : (s.post e).full = s.full := rfl
@[simp] theorem State.post_saves (s : State) (e : Instr) : (s.post e).saves = s.saves := rfl
@[simp] theorem State.post_completions (s : State) (e : Instr) : (s.post e).completions = s.completions := rfl
@[simp] theorem State.post_hostWaits (s : State) (e : Instr) : (s.post e).hostWaits = s.hostWaits := rfl
@[simp] theorem State.post_hwWaits (s : State) (e : Instr) : (s.post e).hwWaits = s.hwWaits := rfl
@[simp] theorem State.post_hwRefused (s : State) (e : Instr) : (s.post e).hwRefused = s.hwRefused := rfl
@[simp] theorem State.post_sched (s : State) (e : Instr) : (s.post e).sched = s.sched := rfl
@[simp] theorem State.post_keeps (s : State) (e : Instr) : (s.post e).keeps = s.keeps := rfl
@[simp] theorem State.post_free (s : State) (e : Instr) : (s.post e).free = s.free := rfl
@[simp] theorem State.post_cur (s : State) (e : Instr) : (s.post e).cur = s.cur := rfl

/-! ### State.modTile -/

@[simp] theorem State.modTile_dies (s : State) (k : Nat) (f : Tile → Tile) : (s.modTile k f).dies = s.dies := rfl
@[simp] theorem State.modTile_modls (s : State) (k : Nat) (f : Tile → Tile) : (s.modTile k f).modls = s.modls := rfl
@[simp] theorem State.modTile_jobs (s : State) (k : Nat) (f : Tile → Tile) : (s.modTile k f).jobs = s.jobs := rfl
@[simp] theorem State.modTile_parts (s : State) (k : Nat) (f : Tile → Tile) : (s.modTile k f).parts = s.parts := rfl
@[simp] theorem State.modTile_launches (s : State) (k : Nat) (f : Tile → Tile) : (s.modTile k f).launches = s.launches := rfl
@[simp] theorem State.modTile_mem (s : State) (k : Nat) (f : Tile → Tile) : (s.modTile k f).mem = s.mem := rfl
@[simp] theorem State.modTile_hostMem (s : State) (k : Nat) (f : Tile → Tile) : (s.modTile k f).hostMem = s.hostMem := rfl
@[simp] theorem State.modTile_hostMuted (s : State) (k : Nat) (f : Tile → Tile) : (s.modTile k f).hostMuted = s.hostMuted := rfl
@[simp] theorem State.modTile_full (s : State) (k : Nat) (f : Tile → Tile) : (s.modTile k f).full = s.full := rfl
@[simp] theorem State.modTile_saves (s : State) (k : Nat) (f : Tile → Tile) : (s.modTile k f).saves = s.saves := rfl
@[simp] theorem State.modTile_completions (s : State) (k : Nat) (f : Tile → Tile) : (s.modTile k f).completions = s.completions := rfl
@[simp] theorem State.modTile_hostWaits (s : State) (k : Nat) (f : Tile → Tile) : (s.modTile k f).hostWaits = s.hostWaits := rfl
@[simp] theorem State.modTile_hwWaits (s : State) (k : Nat) (f : Tile → Tile) : (s.modTile k f).hwWaits = s.hwWaits := rfl
@[simp] theorem State.modTile_hwRefused (s : State) (k : Nat) (f : Tile → Tile) : (s.modTile k f).hwRefused = s.hwRefused := rfl
@[simp] theorem State.modTile_pending (s : State) (k : Nat) (f : Tile → Tile) : (s.modTile k f).pending = s.pending := rfl
@[simp] theorem State.modTile_sched (s : State) (k : Nat) (f : Tile → Tile) : (s.modTile k f).sched = s.sched := rfl
@[simp] theorem State.modTile_keeps (s : State) (k : Nat) (f : Tile → Tile) : (s.modTile k f).keeps = s.keeps := rfl
@[simp] theorem State.modTile_free (s : State) (k : Nat) (f : Tile → Tile) : (s.modTile k f).free = s.free := rfl
@[simp] theorem State.modTile_cur (s : State) (k : Nat) (f : Tile → Tile) : (s.modTile k f).cur = s.cur := rfl

/-! ### State.setCtx -/

@[simp] theorem State.setCtx_dies (s : State) (k c : Nat) (x : Ctx) : (s.setCtx k c x).dies = s.dies := rfl
@[simp] theorem State.setCtx_modls (s : State) (k c : Nat) (x : Ctx) : (s.setCtx k c x).modls = s.modls := rfl
@[simp] theorem State.setCtx_jobs (s : State) (k c : Nat) (x : Ctx) : (s.setCtx k c x).jobs = s.jobs := rfl
@[simp] theorem State.setCtx_parts (s : State) (k c : Nat) (x : Ctx) : (s.setCtx k c x).parts = s.parts := rfl
@[simp] theorem State.setCtx_launches (s : State) (k c : Nat) (x : Ctx) : (s.setCtx k c x).launches = s.launches := rfl
@[simp] theorem State.setCtx_mem (s : State) (k c : Nat) (x : Ctx) : (s.setCtx k c x).mem = s.mem := rfl
@[simp] theorem State.setCtx_hostMem (s : State) (k c : Nat) (x : Ctx) : (s.setCtx k c x).hostMem = s.hostMem := rfl
@[simp] theorem State.setCtx_hostMuted (s : State) (k c : Nat) (x : Ctx) : (s.setCtx k c x).hostMuted = s.hostMuted := rfl
@[simp] theorem State.setCtx_full (s : State) (k c : Nat) (x : Ctx) : (s.setCtx k c x).full = s.full := rfl
@[simp] theorem State.setCtx_saves (s : State) (k c : Nat) (x : Ctx) : (s.setCtx k c x).saves = s.saves := rfl
@[simp] theorem State.setCtx_completions (s : State) (k c : Nat) (x : Ctx) : (s.setCtx k c x).completions = s.completions := rfl
@[simp] theorem State.setCtx_hostWaits (s : State) (k c : Nat) (x : Ctx) : (s.setCtx k c x).hostWaits = s.hostWaits := rfl
@[simp] theorem State.setCtx_hwWaits (s : State) (k c : Nat) (x : Ctx) : (s.setCtx k c x).hwWaits = s.hwWaits := rfl
@[simp] theorem State.setCtx_hwRefused (s : State) (k c : Nat) (x : Ctx) : (s.setCtx k c x).hwRefused = s.hwRefused := rfl
@[simp] theorem State.setCtx_pending (s : State) (k c : Nat) (x : Ctx) : (s.setCtx k c x).pending = s.pending := rfl
@[simp] theorem State.setCtx_sched (s : State) (k c : Nat) (x : Ctx) : (s.setCtx k c x).sched = s.sched := rfl
@[simp] theorem State.setCtx_keeps (s : State) (k c : Nat) (x : Ctx) : (s.setCtx k c x).keeps = s.keeps := rfl
@[simp] theorem State.setCtx_free (s : State) (k c : Nat) (x : Ctx) : (s.setCtx k c x).free = s.free := rfl
@[simp] theorem State.setCtx_cur (s : State) (k c : Nat) (x : Ctx) : (s.setCtx k c x).cur = s.cur := rfl

/-! ### State.modCtx -/

@[simp] theorem State.modCtx_dies (s : State) (k c : Nat) (f : Ctx → Ctx) : (s.modCtx k c f).dies = s.dies := rfl
@[simp] theorem State.modCtx_modls (s : State) (k c : Nat) (f : Ctx → Ctx) : (s.modCtx k c f).modls = s.modls := rfl
@[simp] theorem State.modCtx_jobs (s : State) (k c : Nat) (f : Ctx → Ctx) : (s.modCtx k c f).jobs = s.jobs := rfl
@[simp] theorem State.modCtx_parts (s : State) (k c : Nat) (f : Ctx → Ctx) : (s.modCtx k c f).parts = s.parts := rfl
@[simp] theorem State.modCtx_launches (s : State) (k c : Nat) (f : Ctx → Ctx) : (s.modCtx k c f).launches = s.launches := rfl
@[simp] theorem State.modCtx_mem (s : State) (k c : Nat) (f : Ctx → Ctx) : (s.modCtx k c f).mem = s.mem := rfl
@[simp] theorem State.modCtx_hostMem (s : State) (k c : Nat) (f : Ctx → Ctx) : (s.modCtx k c f).hostMem = s.hostMem := rfl
@[simp] theorem State.modCtx_hostMuted (s : State) (k c : Nat) (f : Ctx → Ctx) : (s.modCtx k c f).hostMuted = s.hostMuted := rfl
@[simp] theorem State.modCtx_full (s : State) (k c : Nat) (f : Ctx → Ctx) : (s.modCtx k c f).full = s.full := rfl
@[simp] theorem State.modCtx_saves (s : State) (k c : Nat) (f : Ctx → Ctx) : (s.modCtx k c f).saves = s.saves := rfl
@[simp] theorem State.modCtx_completions (s : State) (k c : Nat) (f : Ctx → Ctx) : (s.modCtx k c f).completions = s.completions := rfl
@[simp] theorem State.modCtx_hostWaits (s : State) (k c : Nat) (f : Ctx → Ctx) : (s.modCtx k c f).hostWaits = s.hostWaits := rfl
@[simp] theorem State.modCtx_hwWaits (s : State) (k c : Nat) (f : Ctx → Ctx) : (s.modCtx k c f).hwWaits = s.hwWaits := rfl
@[simp] theorem State.modCtx_hwRefused (s : State) (k c : Nat) (f : Ctx → Ctx) : (s.modCtx k c f).hwRefused = s.hwRefused := rfl
@[simp] theorem State.modCtx_pending (s : State) (k c : Nat) (f : Ctx → Ctx) : (s.modCtx k c f).pending = s.pending := rfl
@[simp] theorem State.modCtx_sched (s : State) (k c : Nat) (f : Ctx → Ctx) : (s.modCtx k c f).sched = s.sched := rfl
@[simp] theorem State.modCtx_keeps (s : State) (k c : Nat) (f : Ctx → Ctx) : (s.modCtx k c f).keeps = s.keeps := rfl
@[simp] theorem State.modCtx_free (s : State) (k c : Nat) (f : Ctx → Ctx) : (s.modCtx k c f).free = s.free := rfl
@[simp] theorem State.modCtx_cur (s : State) (k c : Nat) (f : Ctx → Ctx) : (s.modCtx k c f).cur = s.cur := rfl

/-! ### State.modCur -/

@[simp] theorem State.modCur_dies (s : State) (f : Ctx → Ctx) : (s.modCur f).dies = s.dies := rfl
@[simp] theorem State.modCur_modls (s : State) (f : Ctx → Ctx) : (s.modCur f).modls = s.modls := rfl
@[simp] theorem State.modCur_jobs (s : State) (f : Ctx → Ctx) : (s.modCur f).jobs = s.jobs := rfl
@[simp] theorem State.modCur_parts (s : State) (f : Ctx → Ctx) : (s.modCur f).parts = s.parts := rfl
@[simp] theorem State.modCur_launches (s : State) (f : Ctx → Ctx) : (s.modCur f).launches = s.launches := rfl
@[simp] theorem State.modCur_mem (s : State) (f : Ctx → Ctx) : (s.modCur f).mem = s.mem := rfl
@[simp] theorem State.modCur_hostMem (s : State) (f : Ctx → Ctx) : (s.modCur f).hostMem = s.hostMem := rfl
@[simp] theorem State.modCur_hostMuted (s : State) (f : Ctx → Ctx) : (s.modCur f).hostMuted = s.hostMuted := rfl
@[simp] theorem State.modCur_full (s : State) (f : Ctx → Ctx) : (s.modCur f).full = s.full := rfl
@[simp] theorem State.modCur_saves (s : State) (f : Ctx → Ctx) : (s.modCur f).saves = s.saves := rfl
@[simp] theorem State.modCur_completions (s : State) (f : Ctx → Ctx) : (s.modCur f).completions = s.completions := rfl
@[simp] theorem State.modCur_hostWaits (s : State) (f : Ctx → Ctx) : (s.modCur f).hostWaits = s.hostWaits := rfl
@[simp] theorem State.modCur_hwWaits (s : State) (f : Ctx → Ctx) : (s.modCur f).hwWaits = s.hwWaits := rfl
@[simp] theorem State.modCur_hwRefused (s : State) (f : Ctx → Ctx) : (s.modCur f).hwRefused = s.hwRefused := rfl
@[simp] theorem State.modCur_pending (s : State) (f : Ctx → Ctx) : (s.modCur f).pending = s.pending := rfl
@[simp] theorem State.modCur_sched (s : State) (f : Ctx → Ctx) : (s.modCur f).sched = s.sched := rfl
@[simp] theorem State.modCur_keeps (s : State) (f : Ctx → Ctx) : (s.modCur f).keeps = s.keeps := rfl
@[simp] theorem State.modCur_free (s : State) (f : Ctx → Ctx) : (s.modCur f).free = s.free := rfl
@[simp] theorem State.modCur_cur (s : State) (f : Ctx → Ctx) : (s.modCur f).cur = s.cur := rfl

/-! ### State.modDie -/

@[simp] theorem State.modDie_tiles (s : State) (k : Nat) (f : Die → Die) : (s.modDie k f).tiles = s.tiles := rfl
@[simp] theorem State.modDie_modls (s : State) (k : Nat) (f : Die → Die) : (s.modDie k f).modls = s.modls := rfl
@[simp] theorem State.modDie_jobs (s : State) (k : Nat) (f : Die → Die) : (s.modDie k f).jobs = s.jobs := rfl
@[simp] theorem State.modDie_parts (s : State) (k : Nat) (f : Die → Die) : (s.modDie k f).parts = s.parts := rfl
@[simp] theorem State.modDie_launches (s : State) (k : Nat) (f : Die → Die) : (s.modDie k f).launches = s.launches := rfl
@[simp] theorem State.modDie_mem (s : State) (k : Nat) (f : Die → Die) : (s.modDie k f).mem = s.mem := rfl
@[simp] theorem State.modDie_hostMem (s : State) (k : Nat) (f : Die → Die) : (s.modDie k f).hostMem = s.hostMem := rfl
@[simp] theorem State.modDie_hostMuted (s : State) (k : Nat) (f : Die → Die) : (s.modDie k f).hostMuted = s.hostMuted := rfl
@[simp] theorem State.modDie_full (s : State) (k : Nat) (f : Die → Die) : (s.modDie k f).full = s.full := rfl
@[simp] theorem State.modDie_saves (s : State) (k : Nat) (f : Die → Die) : (s.modDie k f).saves = s.saves := rfl
@[simp] theorem State.modDie_completions (s : State) (k : Nat) (f : Die → Die) : (s.modDie k f).completions = s.completions := rfl
@[simp] theorem State.modDie_hostWaits (s : State) (k : Nat) (f : Die → Die) : (s.modDie k f).hostWaits = s.hostWaits := rfl
@[simp] theorem State.modDie_hwWaits (s : State) (k : Nat) (f : Die → Die) : (s.modDie k f).hwWaits = s.hwWaits := rfl
@[simp] theorem State.modDie_hwRefused (s : State) (k : Nat) (f : Die → Die) : (s.modDie k f).hwRefused = s.hwRefused := rfl
@[simp] theorem State.modDie_pending (s : State) (k : Nat) (f : Die → Die) : (s.modDie k f).pending = s.pending := rfl
@[simp] theorem State.modDie_sched (s : State) (k : Nat) (f : Die → Die) : (s.modDie k f).sched = s.sched := rfl
@[simp] theorem State.modDie_keeps (s : State) (k : Nat) (f : Die → Die) : (s.modDie k f).keeps = s.keeps := rfl
@[simp] theorem State.modDie_free (s : State) (k : Nat) (f : Die → Die) : (s.modDie k f).free = s.free := rfl
@[simp] theorem State.modDie_cur (s : State) (k : Nat) (f : Die → Die) : (s.modDie k f).cur = s.cur := rfl

/-! ### State.modPart -/

@[simp] theorem State.modPart_tiles (s : State) (k : Nat) (f : Partition → Partition) : (s.modPart k f).tiles = s.tiles := rfl
@[simp] theorem State.modPart_dies (s : State) (k : Nat) (f : Partition → Partition) : (s.modPart k f).dies = s.dies := rfl
@[simp] theorem State.modPart_modls (s : State) (k : Nat) (f : Partition → Partition) : (s.modPart k f).modls = s.modls := rfl
@[simp] theorem State.modPart_jobs (s : State) (k : Nat) (f : Partition → Partition) : (s.modPart k f).jobs = s.jobs := rfl
@[simp] theorem State.modPart_launches (s : State) (k : Nat) (f : Partition → Partition) : (s.modPart k f).launches = s.launches := rfl
@[simp] theorem State.modPart_mem (s : State) (k : Nat) (f : Partition → Partition) : (s.modPart k f).mem = s.mem := rfl
@[simp] theorem State.modPart_hostMem (s : State) (k : Nat) (f : Partition → Partition) : (s.modPart k f).hostMem = s.hostMem := rfl
@[simp] theorem State.modPart_hostMuted (s : State) (k : Nat) (f : Partition → Partition) : (s.modPart k f).hostMuted = s.hostMuted := rfl
@[simp] theorem State.modPart_full (s : State) (k : Nat) (f : Partition → Partition) : (s.modPart k f).full = s.full := rfl
@[simp] theorem State.modPart_saves (s : State) (k : Nat) (f : Partition → Partition) : (s.modPart k f).saves = s.saves := rfl
@[simp] theorem State.modPart_completions (s : State) (k : Nat) (f : Partition → Partition) : (s.modPart k f).completions = s.completions := rfl
@[simp] theorem State.modPart_hostWaits (s : State) (k : Nat) (f : Partition → Partition) : (s.modPart k f).hostWaits = s.hostWaits := rfl
@[simp] theorem State.modPart_hwWaits (s : State) (k : Nat) (f : Partition → Partition) : (s.modPart k f).hwWaits = s.hwWaits := rfl
@[simp] theorem State.modPart_hwRefused (s : State) (k : Nat) (f : Partition → Partition) : (s.modPart k f).hwRefused = s.hwRefused := rfl
@[simp] theorem State.modPart_pending (s : State) (k : Nat) (f : Partition → Partition) : (s.modPart k f).pending = s.pending := rfl
@[simp] theorem State.modPart_sched (s : State) (k : Nat) (f : Partition → Partition) : (s.modPart k f).sched = s.sched := rfl
@[simp] theorem State.modPart_keeps (s : State) (k : Nat) (f : Partition → Partition) : (s.modPart k f).keeps = s.keeps := rfl
@[simp] theorem State.modPart_free (s : State) (k : Nat) (f : Partition → Partition) : (s.modPart k f).free = s.free := rfl
@[simp] theorem State.modPart_cur (s : State) (k : Nat) (f : Partition → Partition) : (s.modPart k f).cur = s.cur := rfl

/-! ### State.modIo -/

@[simp] theorem State.modIo_dies (s : State) (k : Nat) (f : TileIo → TileIo) : (s.modIo k f).dies = s.dies := rfl
@[simp] theorem State.modIo_modls (s : State) (k : Nat) (f : TileIo → TileIo) : (s.modIo k f).modls = s.modls := rfl
@[simp] theorem State.modIo_jobs (s : State) (k : Nat) (f : TileIo → TileIo) : (s.modIo k f).jobs = s.jobs := rfl
@[simp] theorem State.modIo_parts (s : State) (k : Nat) (f : TileIo → TileIo) : (s.modIo k f).parts = s.parts := rfl
@[simp] theorem State.modIo_launches (s : State) (k : Nat) (f : TileIo → TileIo) : (s.modIo k f).launches = s.launches := rfl
@[simp] theorem State.modIo_mem (s : State) (k : Nat) (f : TileIo → TileIo) : (s.modIo k f).mem = s.mem := rfl
@[simp] theorem State.modIo_hostMem (s : State) (k : Nat) (f : TileIo → TileIo) : (s.modIo k f).hostMem = s.hostMem := rfl
@[simp] theorem State.modIo_hostMuted (s : State) (k : Nat) (f : TileIo → TileIo) : (s.modIo k f).hostMuted = s.hostMuted := rfl
@[simp] theorem State.modIo_full (s : State) (k : Nat) (f : TileIo → TileIo) : (s.modIo k f).full = s.full := rfl
@[simp] theorem State.modIo_saves (s : State) (k : Nat) (f : TileIo → TileIo) : (s.modIo k f).saves = s.saves := rfl
@[simp] theorem State.modIo_completions (s : State) (k : Nat) (f : TileIo → TileIo) : (s.modIo k f).completions = s.completions := rfl
@[simp] theorem State.modIo_hostWaits (s : State) (k : Nat) (f : TileIo → TileIo) : (s.modIo k f).hostWaits = s.hostWaits := rfl
@[simp] theorem State.modIo_hwWaits (s : State) (k : Nat) (f : TileIo → TileIo) : (s.modIo k f).hwWaits = s.hwWaits := rfl
@[simp] theorem State.modIo_hwRefused (s : State) (k : Nat) (f : TileIo → TileIo) : (s.modIo k f).hwRefused = s.hwRefused := rfl
@[simp] theorem State.modIo_pending (s : State) (k : Nat) (f : TileIo → TileIo) : (s.modIo k f).pending = s.pending := rfl
@[simp] theorem State.modIo_sched (s : State) (k : Nat) (f : TileIo → TileIo) : (s.modIo k f).sched = s.sched := rfl
@[simp] theorem State.modIo_keeps (s : State) (k : Nat) (f : TileIo → TileIo) : (s.modIo k f).keeps = s.keeps := rfl
@[simp] theorem State.modIo_free (s : State) (k : Nat) (f : TileIo → TileIo) : (s.modIo k f).free = s.free := rfl
@[simp] theorem State.modIo_cur (s : State) (k : Nat) (f : TileIo → TileIo) : (s.modIo k f).cur = s.cur := rfl

/-! ### State.modStep -/

@[simp] theorem State.modStep_dies (s : State) (k : Nat) (f : Step → Step) : (s.modStep k f).dies = s.dies := rfl
@[simp] theorem State.modStep_modls (s : State) (k : Nat) (f : Step → Step) : (s.modStep k f).modls = s.modls := rfl
@[simp] theorem State.modStep_jobs (s : State) (k : Nat) (f : Step → Step) : (s.modStep k f).jobs = s.jobs := rfl
@[simp] theorem State.modStep_parts (s : State) (k : Nat) (f : Step → Step) : (s.modStep k f).parts = s.parts := rfl
@[simp] theorem State.modStep_launches (s : State) (k : Nat) (f : Step → Step) : (s.modStep k f).launches = s.launches := rfl
@[simp] theorem State.modStep_mem (s : State) (k : Nat) (f : Step → Step) : (s.modStep k f).mem = s.mem := rfl
@[simp] theorem State.modStep_hostMem (s : State) (k : Nat) (f : Step → Step) : (s.modStep k f).hostMem = s.hostMem := rfl
@[simp] theorem State.modStep_hostMuted (s : State) (k : Nat) (f : Step → Step) : (s.modStep k f).hostMuted = s.hostMuted := rfl
@[simp] theorem State.modStep_full (s : State) (k : Nat) (f : Step → Step) : (s.modStep k f).full = s.full := rfl
@[simp] theorem State.modStep_saves (s : State) (k : Nat) (f : Step → Step) : (s.modStep k f).saves = s.saves := rfl
@[simp] theorem State.modStep_completions (s : State) (k : Nat) (f : Step → Step) : (s.modStep k f).completions = s.completions := rfl
@[simp] theorem State.modStep_hostWaits (s : State) (k : Nat) (f : Step → Step) : (s.modStep k f).hostWaits = s.hostWaits := rfl
@[simp] theorem State.modStep_hwWaits (s : State) (k : Nat) (f : Step → Step) : (s.modStep k f).hwWaits = s.hwWaits := rfl
@[simp] theorem State.modStep_hwRefused (s : State) (k : Nat) (f : Step → Step) : (s.modStep k f).hwRefused = s.hwRefused := rfl
@[simp] theorem State.modStep_pending (s : State) (k : Nat) (f : Step → Step) : (s.modStep k f).pending = s.pending := rfl
@[simp] theorem State.modStep_sched (s : State) (k : Nat) (f : Step → Step) : (s.modStep k f).sched = s.sched := rfl
@[simp] theorem State.modStep_keeps (s : State) (k : Nat) (f : Step → Step) : (s.modStep k f).keeps = s.keeps := rfl
@[simp] theorem State.modStep_free (s : State) (k : Nat) (f : Step → Step) : (s.modStep k f).free = s.free := rfl
@[simp] theorem State.modStep_cur (s : State) (k : Nat) (f : Step → Step) : (s.modStep k f).cur = s.cur := rfl

/-! ### State.modCsr -/

@[simp] theorem State.modCsr_dies (s : State) (k : Nat) (f : TileCsr → TileCsr) : (s.modCsr k f).dies = s.dies := rfl
@[simp] theorem State.modCsr_modls (s : State) (k : Nat) (f : TileCsr → TileCsr) : (s.modCsr k f).modls = s.modls := rfl
@[simp] theorem State.modCsr_jobs (s : State) (k : Nat) (f : TileCsr → TileCsr) : (s.modCsr k f).jobs = s.jobs := rfl
@[simp] theorem State.modCsr_parts (s : State) (k : Nat) (f : TileCsr → TileCsr) : (s.modCsr k f).parts = s.parts := rfl
@[simp] theorem State.modCsr_launches (s : State) (k : Nat) (f : TileCsr → TileCsr) : (s.modCsr k f).launches = s.launches := rfl
@[simp] theorem State.modCsr_mem (s : State) (k : Nat) (f : TileCsr → TileCsr) : (s.modCsr k f).mem = s.mem := rfl
@[simp] theorem State.modCsr_hostMem (s : State) (k : Nat) (f : TileCsr → TileCsr) : (s.modCsr k f).hostMem = s.hostMem := rfl
@[simp] theorem State.modCsr_hostMuted (s : State) (k : Nat) (f : TileCsr → TileCsr) : (s.modCsr k f).hostMuted = s.hostMuted := rfl
@[simp] theorem State.modCsr_full (s : State) (k : Nat) (f : TileCsr → TileCsr) : (s.modCsr k f).full = s.full := rfl
@[simp] theorem State.modCsr_saves (s : State) (k : Nat) (f : TileCsr → TileCsr) : (s.modCsr k f).saves = s.saves := rfl
@[simp] theorem State.modCsr_completions (s : State) (k : Nat) (f : TileCsr → TileCsr) : (s.modCsr k f).completions = s.completions := rfl
@[simp] theorem State.modCsr_hostWaits (s : State) (k : Nat) (f : TileCsr → TileCsr) : (s.modCsr k f).hostWaits = s.hostWaits := rfl
@[simp] theorem State.modCsr_hwWaits (s : State) (k : Nat) (f : TileCsr → TileCsr) : (s.modCsr k f).hwWaits = s.hwWaits := rfl
@[simp] theorem State.modCsr_hwRefused (s : State) (k : Nat) (f : TileCsr → TileCsr) : (s.modCsr k f).hwRefused = s.hwRefused := rfl
@[simp] theorem State.modCsr_pending (s : State) (k : Nat) (f : TileCsr → TileCsr) : (s.modCsr k f).pending = s.pending := rfl
@[simp] theorem State.modCsr_sched (s : State) (k : Nat) (f : TileCsr → TileCsr) : (s.modCsr k f).sched = s.sched := rfl
@[simp] theorem State.modCsr_keeps (s : State) (k : Nat) (f : TileCsr → TileCsr) : (s.modCsr k f).keeps = s.keeps := rfl
@[simp] theorem State.modCsr_free (s : State) (k : Nat) (f : TileCsr → TileCsr) : (s.modCsr k f).free = s.free := rfl
@[simp] theorem State.modCsr_cur (s : State) (k : Nat) (f : TileCsr → TileCsr) : (s.modCsr k f).cur = s.cur := rfl

/-! ### State.modEng -/

@[simp] theorem State.modEng_dies (s : State) (k : Nat) (f : Engines → Engines) : (s.modEng k f).dies = s.dies := rfl
@[simp] theorem State.modEng_modls (s : State) (k : Nat) (f : Engines → Engines) : (s.modEng k f).modls = s.modls := rfl
@[simp] theorem State.modEng_jobs (s : State) (k : Nat) (f : Engines → Engines) : (s.modEng k f).jobs = s.jobs := rfl
@[simp] theorem State.modEng_parts (s : State) (k : Nat) (f : Engines → Engines) : (s.modEng k f).parts = s.parts := rfl
@[simp] theorem State.modEng_launches (s : State) (k : Nat) (f : Engines → Engines) : (s.modEng k f).launches = s.launches := rfl
@[simp] theorem State.modEng_mem (s : State) (k : Nat) (f : Engines → Engines) : (s.modEng k f).mem = s.mem := rfl
@[simp] theorem State.modEng_hostMem (s : State) (k : Nat) (f : Engines → Engines) : (s.modEng k f).hostMem = s.hostMem := rfl
@[simp] theorem State.modEng_hostMuted (s : State) (k : Nat) (f : Engines → Engines) : (s.modEng k f).hostMuted = s.hostMuted := rfl
@[simp] theorem State.modEng_full (s : State) (k : Nat) (f : Engines → Engines) : (s.modEng k f).full = s.full := rfl
@[simp] theorem State.modEng_saves (s : State) (k : Nat) (f : Engines → Engines) : (s.modEng k f).saves = s.saves := rfl
@[simp] theorem State.modEng_completions (s : State) (k : Nat) (f : Engines → Engines) : (s.modEng k f).completions = s.completions := rfl
@[simp] theorem State.modEng_hostWaits (s : State) (k : Nat) (f : Engines → Engines) : (s.modEng k f).hostWaits = s.hostWaits := rfl
@[simp] theorem State.modEng_hwWaits (s : State) (k : Nat) (f : Engines → Engines) : (s.modEng k f).hwWaits = s.hwWaits := rfl
@[simp] theorem State.modEng_hwRefused (s : State) (k : Nat) (f : Engines → Engines) : (s.modEng k f).hwRefused = s.hwRefused := rfl
@[simp] theorem State.modEng_pending (s : State) (k : Nat) (f : Engines → Engines) : (s.modEng k f).pending = s.pending := rfl
@[simp] theorem State.modEng_sched (s : State) (k : Nat) (f : Engines → Engines) : (s.modEng k f).sched = s.sched := rfl
@[simp] theorem State.modEng_keeps (s : State) (k : Nat) (f : Engines → Engines) : (s.modEng k f).keeps = s.keeps := rfl
@[simp] theorem State.modEng_free (s : State) (k : Nat) (f : Engines → Engines) : (s.modEng k f).free = s.free := rfl
@[simp] theorem State.modEng_cur (s : State) (k : Nat) (f : Engines → Engines) : (s.modEng k f).cur = s.cur := rfl

/-! ### State.modModl -/

@[simp] theorem State.modModl_tiles (s : State) (k : Nat) (f : Modl → Modl) : (s.modModl k f).tiles = s.tiles := rfl
@[simp] theorem State.modModl_dies (s : State) (k : Nat) (f : Modl → Modl) : (s.modModl k f).dies = s.dies := rfl
@[simp] theorem State.modModl_jobs (s : State) (k : Nat) (f : Modl → Modl) : (s.modModl k f).jobs = s.jobs := rfl
@[simp] theorem State.modModl_parts (s : State) (k : Nat) (f : Modl → Modl) : (s.modModl k f).parts = s.parts := rfl
@[simp] theorem State.modModl_launches (s : State) (k : Nat) (f : Modl → Modl) : (s.modModl k f).launches = s.launches := rfl
@[simp] theorem State.modModl_mem (s : State) (k : Nat) (f : Modl → Modl) : (s.modModl k f).mem = s.mem := rfl
@[simp] theorem State.modModl_hostMem (s : State) (k : Nat) (f : Modl → Modl) : (s.modModl k f).hostMem = s.hostMem := rfl
@[simp] theorem State.modModl_hostMuted (s : State) (k : Nat) (f : Modl → Modl) : (s.modModl k f).hostMuted = s.hostMuted := rfl
@[simp] theorem State.modModl_full (s : State) (k : Nat) (f : Modl → Modl) : (s.modModl k f).full = s.full := rfl
@[simp] theorem State.modModl_saves (s : State) (k : Nat) (f : Modl → Modl) : (s.modModl k f).saves = s.saves := rfl
@[simp] theorem State.modModl_completions (s : State) (k : Nat) (f : Modl → Modl) : (s.modModl k f).completions = s.completions := rfl
@[simp] theorem State.modModl_hostWaits (s : State) (k : Nat) (f : Modl → Modl) : (s.modModl k f).hostWaits = s.hostWaits := rfl
@[simp] theorem State.modModl_hwWaits (s : State) (k : Nat) (f : Modl → Modl) : (s.modModl k f).hwWaits = s.hwWaits := rfl
@[simp] theorem State.modModl_hwRefused (s : State) (k : Nat) (f : Modl → Modl) : (s.modModl k f).hwRefused = s.hwRefused := rfl
@[simp] theorem State.modModl_pending (s : State) (k : Nat) (f : Modl → Modl) : (s.modModl k f).pending = s.pending := rfl
@[simp] theorem State.modModl_sched (s : State) (k : Nat) (f : Modl → Modl) : (s.modModl k f).sched = s.sched := rfl
@[simp] theorem State.modModl_keeps (s : State) (k : Nat) (f : Modl → Modl) : (s.modModl k f).keeps = s.keeps := rfl
@[simp] theorem State.modModl_free (s : State) (k : Nat) (f : Modl → Modl) : (s.modModl k f).free = s.free := rfl
@[simp] theorem State.modModl_cur (s : State) (k : Nat) (f : Modl → Modl) : (s.modModl k f).cur = s.cur := rfl

/-! ### State.modJob -/

@[simp] theorem State.modJob_tiles (s : State) (k : Nat) (f : Job → Job) : (s.modJob k f).tiles = s.tiles := rfl
@[simp] theorem State.modJob_dies (s : State) (k : Nat) (f : Job → Job) : (s.modJob k f).dies = s.dies := rfl
@[simp] theorem State.modJob_modls (s : State) (k : Nat) (f : Job → Job) : (s.modJob k f).modls = s.modls := rfl
@[simp] theorem State.modJob_parts (s : State) (k : Nat) (f : Job → Job) : (s.modJob k f).parts = s.parts := rfl
@[simp] theorem State.modJob_launches (s : State) (k : Nat) (f : Job → Job) : (s.modJob k f).launches = s.launches := rfl
@[simp] theorem State.modJob_mem (s : State) (k : Nat) (f : Job → Job) : (s.modJob k f).mem = s.mem := rfl
@[simp] theorem State.modJob_hostMem (s : State) (k : Nat) (f : Job → Job) : (s.modJob k f).hostMem = s.hostMem := rfl
@[simp] theorem State.modJob_hostMuted (s : State) (k : Nat) (f : Job → Job) : (s.modJob k f).hostMuted = s.hostMuted := rfl
@[simp] theorem State.modJob_full (s : State) (k : Nat) (f : Job → Job) : (s.modJob k f).full = s.full := rfl
@[simp] theorem State.modJob_saves (s : State) (k : Nat) (f : Job → Job) : (s.modJob k f).saves = s.saves := rfl
@[simp] theorem State.modJob_completions (s : State) (k : Nat) (f : Job → Job) : (s.modJob k f).completions = s.completions := rfl
@[simp] theorem State.modJob_hostWaits (s : State) (k : Nat) (f : Job → Job) : (s.modJob k f).hostWaits = s.hostWaits := rfl
@[simp] theorem State.modJob_hwWaits (s : State) (k : Nat) (f : Job → Job) : (s.modJob k f).hwWaits = s.hwWaits := rfl
@[simp] theorem State.modJob_hwRefused (s : State) (k : Nat) (f : Job → Job) : (s.modJob k f).hwRefused = s.hwRefused := rfl
@[simp] theorem State.modJob_pending (s : State) (k : Nat) (f : Job → Job) : (s.modJob k f).pending = s.pending := rfl
@[simp] theorem State.modJob_sched (s : State) (k : Nat) (f : Job → Job) : (s.modJob k f).sched = s.sched := rfl
@[simp] theorem State.modJob_keeps (s : State) (k : Nat) (f : Job → Job) : (s.modJob k f).keeps = s.keeps := rfl
@[simp] theorem State.modJob_free (s : State) (k : Nat) (f : Job → Job) : (s.modJob k f).free = s.free := rfl
@[simp] theorem State.modJob_cur (s : State) (k : Nat) (f : Job → Job) : (s.modJob k f).cur = s.cur := rfl

/-! ### What an update sets -/

@[simp] theorem State.tile_setTile (s : State) (k : Nat) (t : Tile) : (s.setTile k t).tile k = t := by
  simp [State.tile, State.setTile]

theorem State.tile_setTile_other (s : State) (k j : Nat) (t : Tile) (h : j ≠ k) : (s.setTile k t).tile j = s.tile j := by
  simp [State.tile, State.setTile, Map.getD_set_other _ _ _ _ _ h]

@[simp] theorem State.die_setDie (s : State) (k : Nat) (x : Die) : (s.setDie k x).die k = x := by simp [State.die, State.setDie]
@[simp] theorem State.modl_setModl (s : State) (k : Nat) (x : Modl) : (s.setModl k x).modl k = x := by
  simp [State.modl, State.setModl]
@[simp] theorem State.job_setJob (s : State) (k : Nat) (x : Job) : (s.setJob k x).job k = x := by simp [State.job, State.setJob]
@[simp] theorem State.part_setPart (s : State) (k : Nat) (x : Partition) : (s.setPart k x).part k = x := by
  simp [State.part, State.setPart]

theorem State.die_setDie_other (s : State) (k j : Nat) (x : Die) (h : j ≠ k) : (s.setDie k x).die j = s.die j := by
  simp [State.die, State.setDie, Map.getD_set_other _ _ _ _ _ h]
theorem State.part_setPart_other (s : State) (k j : Nat) (x : Partition) (h : j ≠ k) : (s.setPart k x).part j = s.part j := by
  simp [State.part, State.setPart, Map.getD_set_other _ _ _ _ _ h]
theorem State.modl_setModl_other (s : State) (k j : Nat) (x : Modl) (h : j ≠ k) : (s.setModl k x).modl j = s.modl j := by
  simp [State.modl, State.setModl, Map.getD_set_other _ _ _ _ _ h]
theorem State.job_setJob_other (s : State) (k j : Nat) (x : Job) (h : j ≠ k) : (s.setJob k x).job j = s.job j := by
  simp [State.job, State.setJob, Map.getD_set_other _ _ _ _ _ h]

@[simp] theorem State.die_setTile (s : State) (k d : Nat) (t : Tile) : (s.setTile k t).die d = s.die d := rfl
@[simp] theorem State.part_setTile (s : State) (k p : Nat) (t : Tile) : (s.setTile k t).part p = s.part p := rfl
@[simp] theorem State.job_setTile (s : State) (k j : Nat) (t : Tile) : (s.setTile k t).job j = s.job j := rfl
@[simp] theorem State.modl_setTile (s : State) (k m : Nat) (t : Tile) : (s.setTile k t).modl m = s.modl m := rfl
@[simp] theorem State.tile_setDie (s : State) (d k : Nat) (x : Die) : (s.setDie d x).tile k = s.tile k := rfl
@[simp] theorem State.tile_setPart (s : State) (p k : Nat) (x : Partition) : (s.setPart p x).tile k = s.tile k := rfl
@[simp] theorem State.tile_setModl (s : State) (p k : Nat) (x : Modl) : (s.setModl p x).tile k = s.tile k := rfl
@[simp] theorem State.tile_setJob (s : State) (p k : Nat) (x : Job) : (s.setJob p x).tile k = s.tile k := rfl
@[simp] theorem State.tile_post (s : State) (e : Instr) (k : Nat) : (s.post e).tile k = s.tile k := rfl
@[simp] theorem State.post_pending (s : State) (e : Instr) : (s.post e).pending = s.pending ++ [e] := rfl

@[simp] theorem State.curKey_setTile (s : State) (k : Nat) (t : Tile) : (s.setTile k t).curKey = s.curKey := rfl

/-! ### Contexts -/

@[simp] theorem Tile.ctx_setCtx (t : Tile) (c : Nat) (x : Ctx) (h : c < 11) : (t.setCtx c x).ctx c = x := by
  simp [Tile.ctx, Tile.setCtx, h]

theorem Tile.ctx_setCtx_other (t : Tile) (c d : Nat) (x : Ctx) (h : d ≠ c) : (t.setCtx c x).ctx d = t.ctx d := by
  simp only [Tile.ctx, Tile.setCtx]
  by_cases hd : d < 11
  · simp [hd, Ne.symm h]
  · simp [hd]

@[simp] theorem State.ctx_setCtx (s : State) (k c : Nat) (x : Ctx) (h : c < 11) : (s.setCtx k c x).ctx k c = x := by
  simp [State.ctx, State.setCtx, h]

theorem State.ctx_setCtx_other (s : State) (k c d : Nat) (x : Ctx) (h : d ≠ c) : (s.setCtx k c x).ctx k d = s.ctx k d := by
  simp [State.ctx, State.setCtx, Tile.ctx_setCtx_other _ _ _ _ h]

@[simp] theorem State.curCtx_modCur (s : State) (f : Ctx → Ctx) (h : s.cur.ctx < 11) :
    (s.modCur f).curCtx = f s.curCtx := by
  show (s.setCtx s.curKey s.cur.ctx (f s.curCtx)).ctx s.curKey s.cur.ctx = f s.curCtx
  exact State.ctx_setCtx s _ _ _ h

/-! ### Registers (R16) -/

theorem Ctx.sreg_zero (x : Ctx) : x.sreg 0 = 0 := by simp [Ctx.sreg]
theorem Ctx.kreg_zero (x : Ctx) : x.kreg 0 = 0xFFFF := by simp [Ctx.kreg]
theorem Ctx.setS_zero (x : Ctx) (v : Word) : x.setS 0 v = x := by simp [Ctx.setS]
theorem Ctx.setK_zero (x : Ctx) (v : BitVec 16) : x.setK 0 v = x := by simp [Ctx.setK]

theorem Ctx.sreg_setS (x : Ctx) (n m : BitVec 5) (v : Word) :
    (x.setS n v).sreg m = if m = n ∧ n ≠ 0 then v else x.sreg m := by
  have hm : m.toNat < 32 := m.isLt
  by_cases hn : n = 0
  · rw [Ctx.setS, if_pos hn, if_neg (fun h => h.2 hn)]
  · rw [Ctx.setS, if_neg hn, Ctx.sreg, Ctx.sreg]
    by_cases h0 : m = 0
    · rw [if_pos h0, if_pos h0, if_neg (fun h => hn (h.1.symm.trans h0))]
    · rw [if_neg h0, if_neg h0]
      by_cases he : m = n
      · rw [if_pos ⟨he, hn⟩]
        simp [he, n.isLt]
      · have h3 : n.toNat ≠ m.toNat := fun h => he (BitVec.eq_of_toNat_eq h.symm)
        rw [if_neg (fun h => he h.1)]
        simp [hm, h3]

theorem Ctx.vreg_setV (x : Ctx) (n m : BitVec 5) (v : Vec) : (x.setV n v).vreg m = if m = n then v else x.vreg m := by
  have hm : m.toNat < 32 := m.isLt
  by_cases he : m = n
  · simp [Ctx.vreg, Ctx.setV, he, n.isLt]
  · have h3 : n.toNat ≠ m.toNat := fun h => he (BitVec.eq_of_toNat_eq h.symm)
    simp [Ctx.vreg, Ctx.setV, he, hm, h3]

theorem Ctx.kreg_setK (x : Ctx) (n m : BitVec 3) (v : BitVec 16) :
    (x.setK n v).kreg m = if m = n ∧ n ≠ 0 then v else x.kreg m := by
  have hm : m.toNat < 8 := m.isLt
  by_cases hn : n = 0
  · rw [Ctx.setK, if_pos hn, if_neg (fun h => h.2 hn)]
  · rw [Ctx.setK, if_neg hn, Ctx.kreg, Ctx.kreg]
    by_cases h0 : m = 0
    · rw [if_pos h0, if_pos h0, if_neg (fun h => hn (h.1.symm.trans h0))]
    · rw [if_neg h0, if_neg h0]
      by_cases he : m = n
      · rw [if_pos ⟨he, hn⟩]
        simp [he, n.isLt]
      · have h3 : n.toNat ≠ m.toNat := fun h => he (BitVec.eq_of_toNat_eq h.symm)
        rw [if_neg (fun h => he h.1)]
        simp [hm, h3]

/-- A register write leaves the rest of the context. -/
theorem Ctx.setS_frame (x : Ctx) (n : BitVec 5) (v : Word) : x.setS n v = { x with s := (x.setS n v).s } := by
  unfold Ctx.setS; split <;> rfl
theorem Ctx.setK_frame (x : Ctx) (n : BitVec 3) (v : BitVec 16) : x.setK n v = { x with k := (x.setK n v).k } := by
  unfold Ctx.setK; split <;> rfl

end Sys2Proof.Machine
end

