-- ==== Sys2Proof/Laws/Run.lean ====
section
/-! SUPPORT. How an instruction runs to its end: it completes, traps, waits or is referred; no outcome is a fault or a
refusal. -/

namespace Sys2Proof.Machine

/-- An instruction that takes no slot of a ring needs no line of the delta pool for one. -/
theorem shortLine_none {w : Work} (h : w.slots true = []) : w.shortLine = none := by simp [Work.shortLine, h]

/-- What stops is not looked at for room. -/
theorem withRoom_error {m : M Unit} {w0 w : Work} {e : Stop} (h : m w0 = .error e w) : withRoom m w0 = .error e w := by
  simp only [withRoom, h]

/-- What ends well with room for its lines is attempted once. -/
theorem attempt_ok {m : M Unit} {w0 w : Work} (h : m w0 = .ok () w) (hl : w.shortLine = none) : attempt m w0 = .ok () w := by
  simp only [attempt, withRoom, h, hl]

/-- What would end well without a line for a slot that it takes traps DELTAOVF (R34, R270). -/
theorem attempt_short {m : M Unit} {w0 w : Work} {l : Nat} (h : m w0 = .ok () w) (hl : w.shortLine = some l) :
    attempt m w0 = .error (.trap .deltaovf (BitVec.ofNat 64 (l * 64))) { w0 with s := undone w0.s w.s } := by
  simp only [attempt, withRoom, h, hl]

/-- A cause that comes before OVERRUN ends the attempt (R34). -/
theorem attempt_trap {m : M Unit} {w0 w : Work} {c : Cause} {v : Word} (h : m w0 = .error (.trap c v) w) (hc : c ≠ .overrun) :
    attempt m w0 = .error (.trap c v) w := by
  cases c <;> first | exact absurd rfl hc | simp only [attempt, withRoom_error h]

/-- What waits ends the attempt. -/
theorem attempt_wait {m : M Unit} {w0 w : Work} {x : Wait} (h : m w0 = .error (.wait x) w) : attempt m w0 = .error (.wait x) w := by
  simp only [attempt, withRoom_error h]

theorem attempt_retry {m : M Unit} {w0 w : Work} (h : m w0 = .error .retry w) : attempt m w0 = .error .retry w := by
  simp only [attempt, withRoom_error h]

theorem attempt_refer {m : M Unit} {w0 w : Work} {ws : List PageWait} {d : BitVec 64} {p : Vec} (h : m w0 = .error (.refer ws d p) w) :
    attempt m w0 = .error (.refer ws d p) w := by
  simp only [attempt, withRoom_error h]

/-- A meaning that ends well completes. -/
theorem runM_ok {m : M Unit} {s : State} {w : Work} (h : m (started s) = .ok () w) (hl : w.shortLine = none) : runM m s = .next (completed w) := by
  simp only [runM]
  rw [show ({ s := rewindTwin s s.curKey } : Work) = started s from rfl, attempt_ok h hl]
  rfl

/-- A meaning that would end well without a line for a slot that it takes traps DELTAOVF, with nothing done (R34, R270). -/
theorem runM_short {m : M Unit} {s : State} {w : Work} {l : Nat} (h : m (started s) = .ok () w) (hl : w.shortLine = some l) :
    runM m s = .next (takeTrap (settled (undone (started s).s w.s)) .deltaovf (BitVec.ofNat 64 (l * 64))) := by
  simp only [runM]
  rw [show ({ s := rewindTwin s s.curKey } : Work) = started s from rfl, attempt_short h hl]
  rfl

/-- A meaning that traps takes its trap at the issuing context (R32); OVERRUN gives way to every other cause of the instruction (R34). -/
theorem runM_trap {m : M Unit} {s : State} {w : Work} {c : Cause} {v : Word} (h : m (started s) = .error (.trap c v) w)
    (hc : c ≠ .overrun) : runM m s = .next (takeTrap (settled w.s) c v) := by
  simp only [runM]
  rw [show ({ s := rewindTwin s s.curKey } : Work) = started s from rfl, attempt_trap h hc]
  rfl

/-- A meaning that waits leaves its context waiting. -/
theorem runM_wait {m : M Unit} {s : State} {w : Work} {x : Wait} (h : m (started s) = .error (.wait x) w) :
    runM m s = .next (enterWait w.s x) := by
  simp only [runM]
  rw [show ({ s := rewindTwin s s.curKey } : Work) = started s from rfl, attempt_wait h]

/-- A meaning that cannot issue yet leaves its context waiting at issue. -/
theorem runM_retry {m : M Unit} {s : State} {w : Work} (h : m (started s) = .error .retry w) :
    runM m s = .next (enterWait (keepSlots w) .issue) := by
  simp only [runM]
  rw [show ({ s := rewindTwin s s.curKey } : Work) = started s from rfl, attempt_retry h]

/-- A meaning whose accesses wait leaves its context waiting for them, or makes it a continuation (R167, R314). -/
theorem runM_refer {m : M Unit} {s : State} {w : Work} {ws : List PageWait} {d : BitVec 64} {p : Vec}
    (h : m (started s) = .error (.refer ws d p) w) : runM m s = .next (enterRefer (keepSlots w) ws d p) := by
  simp only [runM]
  rw [show ({ s := rewindTwin s s.curKey } : Work) = started s from rfl, attempt_refer h]

/-- An instruction that has read no slot of a ring keeps none. -/
theorem keepSlots_none {w : Work} (h : w.slots false = []) : keepSlots w = w.s := by simp [keepSlots, h]

/-- Whatever a meaning does, the machine goes on. -/
theorem runM_next (m : M Unit) (s : State) : isNext (runM m s) := by
  unfold runM isNext
  simp only
  split <;> exact ⟨_, rfl⟩

/-- A step of the part goes on. -/
theorem runE_next (f : State → State) (s : State) : isNext (runE f s) := ⟨_, rfl⟩

/-! ### The twin of a tile leaves everything else -/

theorem modTwin_none {s : State} {k : Nat} (f : Twin → Twin) (h : (s.tile k).twin = none) : modTwin s k f = s := by
  simp [modTwin, h]

theorem settled_none {s : State} (h : s.curTile.twin = none) : settled s = s := modTwin_none _ h

theorem started_none {s : State} (h : s.curTile.twin = none) : started s = { s := s } := by
  rw [started, rewindTwin, modTwin_none _ h]

@[simp] theorem modTwin_mem (s : State) (k : Nat) (f : Twin → Twin) : (modTwin s k f).mem = s.mem := by
  unfold modTwin; split <;> rfl
@[simp] theorem modTwin_hostMem (s : State) (k : Nat) (f : Twin → Twin) : (modTwin s k f).hostMem = s.hostMem := by
  unfold modTwin; split <;> rfl
@[simp] theorem modTwin_full (s : State) (k : Nat) (f : Twin → Twin) : (modTwin s k f).full = s.full := by
  unfold modTwin; split <;> rfl
@[simp] theorem modTwin_cur (s : State) (k : Nat) (f : Twin → Twin) : (modTwin s k f).cur = s.cur := by
  unfold modTwin; split <;> rfl
@[simp] theorem modTwin_curKey (s : State) (k : Nat) (f : Twin → Twin) : (modTwin s k f).curKey = s.curKey := by
  simp [State.curKey]
@[simp] theorem modTwin_parts (s : State) (k : Nat) (f : Twin → Twin) : (modTwin s k f).parts = s.parts := by
  unfold modTwin; split <;> rfl
@[simp] theorem modTwin_dies (s : State) (k : Nat) (f : Twin → Twin) : (modTwin s k f).dies = s.dies := by
  unfold modTwin; split <;> rfl
@[simp] theorem modTwin_jobs (s : State) (k : Nat) (f : Twin → Twin) : (modTwin s k f).jobs = s.jobs := by
  unfold modTwin; split <;> rfl

/-- Contexts, engines, streams, superstep state and CSRs of every tile stay. -/
theorem modTwin_tile (s : State) (k j : Nat) (f : Twin → Twin) :
    (modTwin s k f).tile j = { s.tile j with twin := ((modTwin s k f).tile j).twin } := by
  unfold modTwin
  split
  · by_cases h : j = k
    · subst h
      simp [State.modTile]
    · simp [State.modTile, State.tile_setTile_other _ _ _ _ h]
  · rfl

@[simp] theorem modTwin_ctx (s : State) (k j c : Nat) (f : Twin → Twin) : (modTwin s k f).ctx j c = s.ctx j c := by
  rw [State.ctx, modTwin_tile]
  rfl

@[simp] theorem started_s (s : State) : (started s).s = rewindTwin s s.curKey := rfl
@[simp] theorem started_pops (s : State) : (started s).pops = [] := rfl
@[simp] theorem rewindTwin_curCtx (s : State) (k : Nat) : (rewindTwin s k).curCtx = s.curCtx := by
  simp [rewindTwin, State.curCtx]
@[simp] theorem rewindTwin_cur (s : State) (k : Nat) : (rewindTwin s k).cur = s.cur := by simp [rewindTwin]
@[simp] theorem rewindTwin_curKey (s : State) (k : Nat) : (rewindTwin s k).curKey = s.curKey := by simp [rewindTwin]
@[simp] theorem settled_curCtx (s : State) : (settled s).curCtx = s.curCtx := by simp [settled, forgetInstr, State.curCtx]
@[simp] theorem settled_cur (s : State) : (settled s).cur = s.cur := by simp [settled, forgetInstr]
@[simp] theorem settled_mem (s : State) : (settled s).mem = s.mem := by simp [settled, forgetInstr]
@[simp] theorem settled_hostMem (s : State) : (settled s).hostMem = s.hostMem := by simp [settled, forgetInstr]

/-! ### The monad of a meaning -/

@[simp] theorem M_bind {α β : Type} (x : M α) (f : α → M β) (w : Work) :
    (x >>= f) w = match x w with
      | .ok a w => f a w
      | .error e w => .error e w := by
  show EStateM.bind x f w = _
  unfold EStateM.bind
  cases x w <;> rfl
@[simp] theorem M_map {α β : Type} (f : α → β) (x : M α) (w : Work) :
    (f <$> x) w = match x w with
      | .ok a w => .ok (f a) w
      | .error e w => .error e w := by
  show EStateM.map f x w = _
  unfold EStateM.map
  cases x w <;> rfl
@[simp] theorem M_pure {α : Type} (a : α) (w : Work) : (pure a : M α) w = .ok a w := rfl
@[simp] theorem M_throw {α : Type} (e : Stop) (w : Work) : (throw e : M α) w = .error e w := rfl
@[simp] theorem M_get (w : Work) : (get : M Work) w = .ok w w := rfl
@[simp] theorem M_set (v w : Work) : (set v : M PUnit) w = .ok ⟨⟩ v := rfl
@[simp] theorem M_modify (f : Work → Work) (w : Work) : (modify f : M PUnit) w = .ok ⟨⟩ (f w) := rfl
@[simp] theorem getS_run (w : Work) : getS w = .ok w.s w := rfl
@[simp] theorem modS_run (f : State → State) (w : Work) : modS f w = .ok () { w with s := f w.s } := rfl
@[simp] theorem trapM_run {α : Type} (c : Cause) (v : Word) (w : Work) : (trapM c v : M α) w = .error (.trap c v) w := rfl
@[simp] theorem waitM_run {α : Type} (x : Wait) (w : Work) : (waitM x : M α) w = .error (.wait x) w := rfl
theorem require_true (iw : Word32) (w : Work) : require true iw w = .ok () w := rfl
theorem require_false (iw : Word32) (w : Work) : require false iw w = .error (.trap .illegal (iw.setWidth 64)) w := rfl
theorem supported_true (mask : BitVec 32) (iw : Word32) (w : Work) : supported true mask iw w = .ok () w := rfl
theorem supported_false (mask : BitVec 32) (iw : Word32) (w : Work) :
    supported false mask iw w = .error (.trap .unimpl (mask ++ iw)) w := rfl
@[simp] theorem regS_run (f : BitVec 5) (w : Work) : regS f w = .ok (w.s.curCtx.sreg f) w := rfl
@[simp] theorem setRegS_run (d : BitVec 5) (v : Word) (w : Work) :
    setRegS d v w = .ok () { w with s := w.s.modCur (fun x => x.setS d v) } := rfl
@[simp] theorem pred_run (k : BitVec 3) (w : Work) : pred k w = .ok (w.s.curCtx.kreg k) w := rfl
@[simp] theorem requester_run (w : Work) : requester w = .ok (self w.s) w := rfl
theorem liftA_ok {α : Type} {x : A α} {w : Work} {a : α} {s : State} (h : x w.s = .ok a s) :
    liftA x w = .ok a { w with s := s } := by simp [liftA, h]
theorem liftA_error {α : Type} {x : A α} {w : Work} {e : AccErr} {s : State} (h : x w.s = .error e s) :
    liftA x w = .error e.stop { w with s := s } := by simp [liftA, h]

/-- S[f] of a register that no queue maps. -/
theorem srcS_reg {f : BitVec 5} {w : Work} (h : queueOf w.s.curCtx f = none) : srcS f w = .ok (w.s.curCtx.sreg f) w := by
  simp [srcS, h]

/-- S[f] of a mapped queue that holds an entry for it. -/
theorem srcS_queue {f : BitVec 5} {w : Work} {q : Nat} {v : Word} (h : queueOf w.s.curCtx f = some q)
    (hv : (w.s.curTile.queue q)[popsOf w.pops q]? = some v) :
    srcS f w = .ok v { w with pops := w.pops ++ [Pop.queue q] } := by simp [srcS, h, hv]

/-- S[f] of a mapped queue that is empty. -/
theorem srcS_empty {f : BitVec 5} {w : Work} {q : Nat} (h : queueOf w.s.curCtx f = some q)
    (hv : (w.s.curTile.queue q)[popsOf w.pops q]? = none) : srcS f w = .error (.wait .queue) w := by simp [srcS, h, hv]

/-- S[d] of a register that no queue maps. -/
theorem dstS_reg {d : BitVec 5} {v : Word} {w : Work} (h : queueOf w.s.curCtx d = none) :
    dstS d v w = .ok () { w with s := w.s.modCur (fun x => x.setS d v) } := by simp [dstS, roomS, h]

/-- S[d] of a mapped queue that has room. -/
theorem dstS_queue {d : BitVec 5} {v : Word} {w : Work} {q : Nat} (h : queueOf w.s.curCtx d = some q)
    (hr : (w.s.curTile.queue q).length < queueDepth q + popsOf w.pops q) :
    dstS d v w = .ok () { w with pushes := w.pushes ++ [(q, v)] } := by simp [dstS, roomS, h, hr]

end Sys2Proof.Machine
end

