-- ==== Sys2Proof/Tests/Slice0.lean ====
section
/-! SUPPORT. Tests of single decodings and single steps, and witnesses that the premises of the statements can be met. Every expected value is
taken from the spec's tables and worked examples, or worked out by hand from its rules. -/

set_option Elab.async false

namespace Sys2Proof.Tests

open Sys2Proof Sys2Proof.Machine Sys2Proof.Claims

/-! ### Small states -/

/-- Tile 0 of die 0 holds a unit of class `cls` (0 WP, 1 PAR, 2 CON) with two kept lines and four transit lines of each memory and three helpers;
its control context stands at the first kept line. -/
def unit (cls : Nat) : State :=
  let u : WorkUnit := { bareUnit with cls := cls, helpers := 3, skl := 2, stl := 4, vkl := 2, vtl := 4, spool := 8, vpool := 8 }
  let c : Ctx := { st := .resident, pc := 0x00FFFF9000000000#64 }
  let l : Launch := { block := 0, modl := 0, fn := 0, ring := 0, job := 0, phase := .running }
  let t : Tile := { work := some u }
  { State.reset with tiles := [(0, t.setCtx 0 c)], launches := [(0, l)], parts := [(0, { launch := some 0, members := [0] })] }

/-- A state with scalar registers of the issuing context set. -/
def regs (l : List (BitVec 5 × Word)) (s : State) : State := s.modCur (fun x => l.foldl (fun x e => x.setS e.1 e.2) x)

/-- A pointer into the own scratchpad, which begins at 0x90_0000_0000 of the requester's die. -/
def own (off : Nat) : Word := BitVec.ofNat 64 (0x00FFFF9000000000 + off)

/-- What a next state shows. -/
def after {α : Type} (o : Host.Outcome State Fault Refusal) (f : State → α) : Option α :=
  match o with
  | .next s => some (f s)
  | _ => none

/-- What a computation that succeeds yields. -/
def okVal {ε σ α : Type} (r : EStateM.Result ε σ α) : Option α :=
  match r with
  | .ok a _ => some a
  | .error _ _ => none

theorem ok_of {ε σ α : Type} {r : EStateM.Result ε σ α} {a : α} (h : okVal r = some a) : ∃ t, r = .ok a t := by
  cases r with
  | ok b t => simp only [okVal, Option.some.injEq] at h; exact ⟨t, h ▸ rfl⟩
  | error e t => simp [okVal] at h

/-! ### Encoding and steps -/

theorem test_wf_half : (Instr.lih 4 0 0xFF00).wf = false ∧ (Instr.lih 4 1 0xFF00).wf = true := by decide
theorem test_wf_condition : (Instr.vcmp 1 2 3 0 8 0).wf = false ∧ (Instr.vcmp 1 2 3 0 5 0).wf = true := by decide
theorem test_wf_tile : (Instr.mmaComplete 0 1024).wf = false ∧ (Instr.mmaComplete 0 1023).wf = true := by decide
theorem test_wf_context : (Instr.queueWake 0 0 11).wf = false ∧ (Instr.queueWake 0 0 10).wf = true := by decide
theorem test_wf_port : (Instr.collHop 0 16).wf = false ∧ (Instr.collHop 0 15).wf = true := by decide

theorem witness_EncodedInstructionsDecode : (Instr.addi 1 1 5).wf = true ∧ encode (.addi 1 1 5) = some 0x08210005#32 := by decide
theorem witness_DecodedWordsEncodeBack : decode 0xA4E4114A#32 = .ok (.gath 7 4 2 1 1 0 2 2) := by decide

/-- The state of a word that is to be executed next. -/
def atWord (w : Nat) : State := State.reset.withFetchWord 32 w

theorem witness_StepRunsDecodedInstruction : pick (atWord 0x08210005) = some (.ctx 0 0) ∧ decode 0x08210005#32 = .ok (.addi 1 1 5) ∧
    ∃ f, nextWord { s := (asCtx { atWord 0x08210005 with sched := (atWord 0x08210005).sched.drop 1 } 0 0).modCtx 0 0 (fun x => { x with wait := none }) } =
      .ok 0x08210005#32 f :=
  ⟨by decide +kernel, by decide, ok_of (by decide +kernel)⟩
theorem witness_UndecodedWordTakesIllegal : pick (atWord 0xFFFFFFFF) = some (.ctx 0 0) ∧ (∃ e, decode 0xFFFFFFFF#32 = .error e) ∧
    ∃ f, nextWord { s := (asCtx { atWord 0xFFFFFFFF with sched := (atWord 0xFFFFFFFF).sched.drop 1 } 0 0).modCtx 0 0 (fun x => { x with wait := none }) } =
      .ok 0xFFFFFFFF#32 f :=
  ⟨by decide +kernel, ⟨_, rfl⟩, ok_of (by decide +kernel)⟩
theorem witness_StepRunsChosenEvent : pick { unit 0 with pending := [.badop 0 0], sched := [0] } = some (.event 0 (.badop 0 0)) := by decide +kernel
theorem witness_EveryStepKeepsMemoryCanonical : Canonical (atWord 0x08210005) ∧ ∃ t, step (atWord 0x08210005) = .next t :=
  ⟨⟨by decide +kernel, by decide +kernel⟩, by
    have h : (after (step (atWord 0x08210005)) (fun s => s.curCtx.sreg 1)) = some 5 := by decide +kernel
    cases e : step (atWord 0x08210005) with
    | next t => exact ⟨t, rfl⟩
    | _ => rw [e] at h; simp [after] at h⟩

theorem test_decode_control : decode 0x44024134#32 = .ok (.trap 2 8 0x34) ∧ decode 0x284C0FFD#32 = .ok (.br 1 6 0 0xFFD) ∧
    decode 0x38C00A00#32 = .ok (.loop 6 1 1) ∧ decode 0x3C421100#32 = .ok (.rpt 1 2 1 1 0) ∧ decode 0x4009C012#32 = .ok (.csrc 0 9 0x012) := by decide
theorem test_decode_vector : decode 0x611E8800#32 = .ok (.vaddFlt 8 30 17 0 0) ∧ decode 0x6BC28780#32 = .ok (.vfma 30 2 16 30 0 0) ∧
    decode 0x70C58830#32 = .ok (.vcvt 6 5 1 0 1 0 3 0) ∧ decode 0x7C833820#32 = .ok (.vqdq 4 3 7 0 0) ∧ decode 0x80221800#32 = .ok (.kand 1 2 3) ∧
    decode 0x870A5A00#32 = .ok (.sbindIn 24 10 11 2) := by decide
theorem test_decode_memory : decode 0x90A6C002#32 = .ok (.ld 5 6 6 2) ∧ decode 0x90A67003#32 = .ok (.ldAcq 5 6 3 3) ∧
    decode 0xA4E4114A#32 = .ok (.gath 7 4 2 1 1 0 2 2) ∧ decode 0xB0095001#32 = .ok (.amoAdd 0 9 10 0 0 1) ∧
    decode 0xC0001800#32 = .ok (.ssb 0 3 0) := by decide
theorem test_decode_engines : decode 0xC810C440#32 = .ok (.mma 0 4 6 2 2 0 0) ∧ decode 0xCC200200#32 = .ok (.accrd 1 0 0) ∧
    decode 0xD54B6020#32 = .ok (.copy 10 11 12 1 0) ∧ decode 0xD4000402#32 = .ok (.waitt 2) ∧ decode 0xD9095100#32 = .ok (.startB 8 9 10 0 0) ∧
    decode 0xDCA63800#32 = .ok (.book 5 6 7) ∧ decode 0xE0A63B00#32 = .ok (.msg 5 6 7) ∧ decode 0xE4042A00#32 = .ok (.tkrec 4 5) := by decide


/-- A state in which helper 1 of the tile of a CON unit issues. -/
def helper : State := asCtx ((unit 2).setCtx 0 1 { st := .live, pc := own 0 }) 0 1

/-- A state whose tile has a trap handler. -/
def handled : State := (unit 2).modCsr 0 (fun r => { r with tvec := own 64 })

/-! ### Traps, operands, completion -/

theorem witness_TrapEntry : (0 < 11 ∧ (handled.tile 0).csr.tvec ≠ 0 ∧ (handled.ctx 0 0).tstat.getLsbD 0 = false ∧ Cause.trap ≠ .overrun) ∧
    (0 < 1 ∧ 1 < 11 ∧ (helper.tile 0).step.bound = false ∧ (helper.tile 0).csr.tvec = 0) ∧
    ((handled.tile 0).step.bound = false ∧ Cause.overrun = .overrun) := by decide +kernel
theorem test_trap_entry : after (exec (.trap 2 8 0x34) handled)
    (fun s => (s.curCtx.pc, s.curCtx.tpc, s.curCtx.tcause, s.curCtx.tval, s.curCtx.tstat.getLsbD 0)) = some (own 64, own 4, Cause.trap.code, 0x1234, true) := by
  decide +kernel

/-- Register s24 names queue 0, which holds two entries. -/
def queued : State := ((unit 0).modCur (fun x => { x with qmap := 1 })).modIo 0 (fun io => { io with queues := io.queues.setIfInBounds 0 [7, 8] })

theorem witness_ScalarOperandForms : queueOf (unit 0).curCtx 1 = none ∧ queueOf queued.curCtx 24 = some 0 ∧ queueOf queued.curCtx 25 = none ∧
    queueOf (queued.modCur (fun x => { x with qmap := 0x80 })).curCtx 31 = some 7 := by decide +kernel
theorem test_queue_order : after (exec (.sub 1 24 24 3) queued) (fun s => (s.curCtx.sreg 1, s.curTile.queue 0)) = some (BitVec.ofInt 64 (-1), []) := by
  decide +kernel
theorem witness_CompletionFrame : (unit 0).cur.ctx < 11 ∧ ({ s := unit 0 } : Work).groups = [] ∧ (∀ p ∈ ({ s := unit 0 } : Work).pops, ∃ q, p = Pop.queue q) ∧
    ({ s := unit 0 } : Work).gone = false := ⟨by decide, rfl, by simp, rfl⟩

/-- One loop level of one word, which is the word that executes. -/
def looping (n : BitVec 32) : State :=
  (unit 0).modCur (fun x => { x with depth := 1, loops := x.loops.setIfInBounds 0 { count := n, start := 0, len := 1 } })

theorem witness_CompletionAdvancesPc : ((unit 0).curCtx.frame = none ∧ (unit 0).curCtx.depth = 0) ∧
    ((looping 2).curCtx.frame = none ∧ (looping 2).curCtx.level.last (imageOf (looping 2) 0) = ptrOff (looping 2).curCtx.pc ∧ (looping 2).curCtx.level.count ≠ 1) ∧
    ((looping 1).curCtx.level.last (imageOf (looping 1) 0) = ptrOff (looping 1).curCtx.pc ∧ (looping 1).curCtx.level.count = 1 ∧ (looping 1).curCtx.depth = 1) := by
  decide +kernel
theorem test_loop_end : after (exec .nop (looping 1)) (fun s => (s.curCtx.pc, s.curCtx.depth)) = some (own 4, 0) ∧
    after (exec .nop (looping 2)) (fun s => (s.curCtx.pc, s.curCtx.depth, s.curCtx.level.count)) = some (own 0, 1, 1) := by decide +kernel

/-! ### Integer, immediate and pointer instructions, branches and loops -/

theorem witness_IntegerResults : intClass 6 ∈ [1] ∧ intClass 11 ∈ [2] ∧ intClass 0 ∈ [0, 1, 2] ∧ ∃ x y w1 w2 w3, srcS 6 (started (unit 0)) = .ok x w1 ∧
    srcS 7 w1 = .ok y w2 ∧ dstS 5 (x - y) w2 = .ok () w3 :=
  ⟨by decide, by decide, by decide, _, _, _, _, _, srcS_reg rfl, srcS_reg rfl, dstS_reg rfl⟩
theorem test_addi_wraps : after (exec (.addi 2 1 1) (regs [(1, 0xFFFFFFFFFFFFFFFF)] (unit 0))) (fun s => (s.curCtx.sreg 2, s.curCtx.pc))
    = some (0, own 4) := by decide +kernel
theorem test_div_i32 : after (exec (.div 5 6 7 6) (regs [(6, 0x1234567880000000), (7, 0xFFFFFFFF)] (unit 0))) (fun s => s.curCtx.sreg 5)
    = some 0xFFFFFFFF80000000 := by decide +kernel
theorem test_rem_by_zero : after (exec (.rem 5 6 7 6) (regs [(6, 0x1234567880000000)] (unit 0))) (fun s => s.curCtx.sreg 5)
    = some 0xFFFFFFFF80000000 := by decide +kernel
theorem test_shift_by_width : after (exec (.shl 5 6 7 2) (regs [(6, 1), (7, 32)] (unit 0))) (fun s => s.curCtx.sreg 5) = some 0 ∧
    after (exec (.sra 5 6 7 6) (regs [(6, 0x80000000), (7, 0xFFFFFFFFFFFFFFFF)] (unit 0))) (fun s => s.curCtx.sreg 5) = some 0xFFFFFFFFFFFFFFFF := by
  decide +kernel
theorem test_write_s0 : after (exec (.addi 0 0 5) (unit 0)) (fun s => (s.curCtx.sreg 0, s.curCtx.pc)) = some (0, own 4) := by decide +kernel
theorem witness_ImmediateResults : (∃ x w1 w2, srcS 1 (started (unit 0)) = .ok x w1 ∧ dstS 0 x w1 = .ok () w2) ∧ queueOf (unit 0).curCtx 4 = none ∧
    1 ≤ (3#5).toNat ∧ (3#5).toNat ≤ 3 ∧ 4 ≤ (4#5).toNat ∧ queueOf queued.curCtx 24 ≠ none :=
  ⟨⟨_, _, _, srcS_reg rfl, dstS_reg rfl⟩, by decide +kernel, by decide, by decide, by decide, by decide +kernel⟩
theorem test_lil_lih : after (exec (.lih 4 2 0xFF00) (regs [(4, 0x1000)] (unit 0))) (fun s => s.curCtx.sreg 4) = some 0x0000FF0000001000 ∧
    after (exec (.lil 4 0x8000) (unit 0)) (fun s => s.curCtx.sreg 4) = some 0xFFFFFFFFFFFF8000 := by decide +kernel
theorem witness_PointerResults : ∃ p n w1 w2 w3, srcS 1 (started (regs [(1, own 8), (2, 0xFFFFFFFFFFFFFFF8)] (unit 0))) = .ok p w1 ∧ srcS 2 w1 = .ok n w2 ∧
    ((p.extractLsb' 0 40).toNat + n.toInt = (0x9000000000#40).toNat) ∧ dstS 3 (own 0) w2 = .ok () w3 ∧ (0x1F#64).toNat < 2 ^ 5 ∧ 2 ^ 5 ≤ (0x20#64).toNat ∧
    2 ^ 40 ≤ (0x10000000000#64).toNat ∧ (p.extractLsb' 0 40).toNat + (-0x9000000009 : Int) < 0 :=
  ⟨_, _, _, _, _, srcS_reg rfl, srcS_reg rfl, by decide +kernel, dstS_reg rfl, by decide, by decide, by decide, by decide +kernel⟩
theorem test_padd_overflow : after (exec (.padd 3 1 2) (regs [(1, 0x00FFFFFFFFFFFFFF), (2, 1)] handled)) (fun s => (s.curCtx.tcause, s.curCtx.tval, s.curCtx.sreg 3))
    = some (Cause.ptrovf.code, 0x00FFFFFFFFFFFFFF, 0) := by decide +kernel
theorem witness_BranchesAndJumps : (∃ x y w1 w2, srcS 6 (started (unit 0)) = .ok x w1 ∧ srcS 0 w1 = .ok y w2 ∧ condHolds 1 x y = false ∧ condHolds 0 x y = true) ∧
    6 ≤ (6#4).toNat ∧ jumpTarget (own 12) (-3) = some (own 0) ∧ jumpTarget 0x00FFFF0000000000 (-1) = none ∧ ptrFmt 0x0800000000000000 ≠ 0 ∧
    ptrFmt (own 2) = 0 ∧ ptrBlk (own 2) = 0 ∧ jumpTarget (own 2) 0 = some (own 2) ∧ ptrOff (own 2) % 4 ≠ 0 :=
  ⟨⟨_, _, _, _, srcS_reg rfl, srcS_reg rfl, by decide +kernel, by decide +kernel⟩, by decide +kernel⟩
theorem test_branch_back : after (exec (.br 1 6 0 0xFFD) ((regs [(6, 1)] (unit 0)).modCur (fun x => { x with pc := own 12 }))) (fun s => s.curCtx.pc) = some (own 0) := by
  decide +kernel
theorem test_jal_link : after (exec (.jal 2) (unit 0)) (fun s => (s.curCtx.pc, s.curCtx.sreg 31)) = some (own 8, own 4) := by decide +kernel
theorem witness_LoopResults : (∃ n w, srcS 5 (started (regs [(5, 3)] (unit 0))) = .ok n w ∧ n.extractLsb' 0 32 ≠ 0) ∧ (0#2).toNat = (unit 0).curCtx.depth ∧
    ptrOff (imageOf (unit 0) 0) ≤ ptrOff (unit 0).curCtx.pc + 4 ∧ ptrOff (unit 0).curCtx.pc + 4 - ptrOff (imageOf (unit 0) 0) < 2 ^ 24 ∧ (1#2).toNat ≠ (unit 0).curCtx.depth :=
  ⟨⟨_, _, srcS_reg rfl, by decide +kernel⟩, by decide +kernel⟩
theorem test_zero_trip : after (exec (.loopi 0 3 0 0) (unit 0)) (fun s => (s.curCtx.pc, s.curCtx.depth)) = some (own 16, 0) := by decide +kernel

/-- A repeat frame of the word at the PC and one that follows, at the next kept words. -/
def framed : State := { (unit 0).modCur (fun x => { x with frame := some { base := own 0, rpt := 0x3C421100, words := [0x44000000, 0x44000000], i := 1, j := 1 } }) with free := 0 }

theorem witness_RepeatFrames : (∃ ws, ∃ w : Work, captureFrame (unit 0).curCtx.pc (wordOf (.rpt 1 2 1 1 0))
      (started { unit 0 with mem := Memory.writeN [] (spadKey 0 0) (bytesOfNat 4 0x3C421100 ++ bytesOfNat 4 0x611E8800 ++ bytesOfNat 4 0x611E8800) }) = .ok ws w) ∧
    framed.curCtx.frame = some { base := own 0, rpt := 0x3C421100, words := [0x44000000, 0x44000000], i := 1, j := 1 } ∧ 1 ≤ bits (0x3C421100#32).toNat 16 6 := by
  refine ⟨?_, by decide +kernel⟩
  have h : (okVal (captureFrame (unit 0).curCtx.pc (wordOf (.rpt 1 2 1 1 0))
      (started { unit 0 with mem := Memory.writeN [] (spadKey 0 0) (bytesOfNat 4 0x3C421100 ++ bytesOfNat 4 0x611E8800 ++ bytesOfNat 4 0x611E8800) })))
      = some [0x611E8800#32, 0x611E8800#32] := by decide +kernel
  exact ⟨_, ok_of h⟩

/-! ### CSRs, system instructions, predicates -/

theorem witness_CsrReadsAndWrites : (∃ v, csrRead (started (unit 0)).s 0x010 = some v) ∧ csrRead (started (unit 0)).s 0x004 = none ∧ csrKind 0x030 = none ∧
    (∃ r f, csrKind 0x042 = some (false, r, f)) ∧ (∃ r f, csrKind 0x055 = some (true, r, f)) ∧ helper.cur.ctx ≠ 0 ∧
    (∃ x w1 w2, srcS 1 (started (unit 0)) = .ok x w1 ∧ dstS 2 x w1 = .ok () w2 ∧ x &&& 7 = 0) :=
  ⟨⟨_, rfl⟩, by decide +kernel, by decide +kernel, ⟨_, _, rfl⟩, ⟨_, _, rfl⟩, by decide +kernel, _, _, _, srcS_reg rfl, dstS_reg rfl, by decide +kernel⟩
/-- The control context has an MMA in flight. -/
def flying : State := handled.modEng 0 (fun e => { e with mmas := [{ ctx := 0, seq := 1, slot := 0, ta := 2, tb := 2, overwrite := true, row0 := 0, row1 := 16, a := [], b := [] }] })
theorem witness_CsrWaits : (unit 2).curTile.eng.outOf (unit 2).cur.ctx = false ∧ flying.curTile.eng.outOf flying.cur.ctx = true ∧ (0x010#12) ≠ 0x030 ∧ queueOf (unit 2).curCtx 1 = none ∧
    (∃ x w1 old w2, srcS 1 (started (regs [(1, 3)] (unit 2))) = .ok x w1 ∧ csrRead w1.s 0x042 = some old ∧ (x &&& 0xFFFFFFFFFFFFFF00#64) = 0 ∧ (x &&& 7).toNat ≤ 4 ∧
      dstS 2 old w1 = .ok () w2) ∧ (8 &&& 0xFFFFFFFFFFFFFF00#64 : Word) = 0 ∧ (0x100 &&& 0xFFFFFFFFFFFFFF00#64 : Word) ≠ 0 :=
  ⟨by decide +kernel, by decide +kernel, by decide, by decide +kernel, ⟨_, _, _, _, srcS_reg rfl, rfl, by decide +kernel, by decide +kernel, dstS_reg rfl⟩,
    by decide, by decide⟩
theorem witness_CsrFormsComplete : let s := regs [(1, 3)] (unit 2)
    s.curTile.eng.outOf s.cur.ctx = false ∧ queueOf s.curCtx 1 = none ∧ queueOf s.curCtx 2 = none ∧ s.cur.ctx < 11 ∧ csrKind 0x042 = some (false, 0xFFFFFFFFFFFFFF00, 0) ∧
    (s.curCtx.sreg 1 &&& 0xFFFFFFFFFFFFFF00#64) = 0 ∧ (s.curCtx.sreg 1 &&& 7).toNat ≤ 4 := by decide +kernel
theorem test_csr_waits : after (exec (.csrr 2 0x042) flying) (fun s => (s.curCtx.wait, s.curCtx.pc)) = some (some .issue, own 0) ∧
    after (exec (.csrr 2 0x010) (unit 2)) (fun s => (s.curCtx.wait, s.curCtx.pc)) = some (none, own 4) := by decide +kernel
theorem test_frm_mode_five : after (exec (.csrw 0 1 0x042) ((regs [(1, 5)] (unit 2)).modCsr 0 (fun r => { r with tvec := own 64 }))) (fun s => (s.curCtx.tcause, s.curCtx.frm))
    = some (Cause.illegal.code, 0) := by decide +kernel
theorem test_tvec_in_helper : after (exec (.csrw 0 1 0x055) (helper.modCsr 0 (fun r => { r with tvec := own 64 }))) (fun s => s.curCtx.tcause) = some Cause.ctxpriv.code := by
  decide +kernel
theorem witness_CsrWriteReadsBack : (unit 0).cur.ctx < 11 ∧ csrKind 0x041 ≠ none ∧ (0#64).getLsbD 0 = false ∧ (1#64).getLsbD 0 = true := by decide +kernel
theorem witness_SystemInstructions : (handled.modCur (fun x => { x with tstat := 1 })).curCtx.tstat.getLsbD 0 = true ∧ handled.curCtx.tstat.getLsbD 0 = false ∧
    (handled.modCur (fun x => { x with tstat := 1 })).curCtx.tstat.getLsbD 1 = false := by decide +kernel
/-- The control context returns from a handler to a frame of one word at its image's first words, from item 0. -/
def returning : State := { handled.modCur (fun x => { x with tstat := 3, tpc := own 0 }) with
  mem := Memory.writeN [] (spadKey 0 0) (bytesOfNat 4 0x3C421100 ++ bytesOfNat 4 0x611E8800 ++ bytesOfNat 4 0x611E8800) }
theorem witness_ReturnToFrame : (returning.curCtx.tstat.getLsbD 0 = true ∧ returning.curTile.eng.outOf returning.cur.ctx = false ∧ returning.curCtx.tstat.getLsbD 1 = true) ∧
    (∃ w1, fetchM returning.curCtx.tpc (started returning) = .ok 0x3C421100#32 w1 ∧
      ∃ w2, captureFrame returning.curCtx.tpc 0x3C421100#32 w1 = .ok [0x611E8800#32, 0x611E8800#32] w2) ∧
    bits (0x3C421100#32).toNat 26 6 = 0x0F ∧ bits (0x3C421100#32).toNat 0 4 = 0 ∧ returning.curCtx.rptidx.toNat / 2 ^ 8 ≤ bits (0x3C421100#32).toNat 16 6 ∧
    flying.curTile.eng.outOf flying.cur.ctx = true ∧ (flying.modCur (fun x => { x with tstat := 1 })).curCtx.tstat.getLsbD 0 = true := by
  refine ⟨by decide +kernel, ?_, by decide, by decide, by decide +kernel, by decide +kernel, by decide +kernel⟩
  have h : (match fetchM returning.curCtx.tpc (started returning) with
    | .ok r w1 => if r = 0x3C421100#32 then okVal (captureFrame returning.curCtx.tpc 0x3C421100#32 w1) else none
    | .error _ _ => none) = some [0x611E8800#32, 0x611E8800#32] := by decide +kernel
  cases e : fetchM returning.curCtx.tpc (started returning) with
  | error x y => rw [e] at h; cases h
  | ok r w1 =>
    rw [e] at h
    simp only at h
    split at h
    · next hr => exact ⟨w1, by rw [hr], ok_of h⟩
    · cases h
theorem test_tret : after (exec .tret (handled.modCur (fun x => { x with tstat := 1, tpc := own 32 }))) (fun s => (s.curCtx.pc, s.curCtx.tstat)) = some (own 32, 0) := by
  decide +kernel
theorem witness_PredicateResults : (7#5).toNat < 8 ∧ 8 ≤ (8#5).toNat := by decide
theorem test_kand : after (exec (.kand 1 2 3) ((unit 0).modCur (fun x => (x.setK 2 0xFF0F).setK 3 0x0FFF))) (fun s => s.curCtx.kreg 1) = some 0x0F0F ∧
    after (exec (.kfirst 4 1) (unit 0)) (fun s => s.curCtx.sreg 4) = some 16 := by decide +kernel

/-! ### Vectors -/

/-- Register v24 is bound to descriptor 0, a copy port that holds one group. -/
def ported : State :=
  ((unit 0).modIo 0 (fun io => { io with
    descs := io.descs.setIfInBounds 0 { inUse := true, copy := true, slots := 1 }, ports := io.ports.setIfInBounds 0 { groups := [5], delivered := 1 } })).modCur
    (fun c => { c with binds := c.binds.setIfInBounds 0 8#4 })

/-- Register v24 is bound to descriptor 0, a ring of one slot that begins at transit line 2. -/
def ringed (out full : Bool) : State :=
  let s := ((unit 0).modIo 0 (fun io => { io with
    descs := io.descs.setIfInBounds 0 { base := own 128, inUse := true, out := out, slots := 1 } })).modCur (fun c => { c with binds := c.binds.setIfInBounds 0 8#4 })
  { s with full := if full then (List.range 16).map (fun i => spadKey 0 (128 + 4 * i)) else [] }

theorem witness_VectorOperandForms : (unit 0).curCtx.handle = none ∧ boundTo (unit 0).curCtx 24 = none ∧ boundTo ported.curCtx 24 = some 0 ∧
    (ported.curTile.desc 0).copy = true ∧ exhausted ported.curTile (ported.curTile.desc 0) 0 = false ∧ exhausted ported.curTile (ported.curTile.desc 0) 1 = true ∧
    slotAll (ringed false true) (((ringed false true).curTile.desc 0).slotOff 0) true = true ∧
    slotAll (ringed true false) (((ringed true false).curTile.desc 0).slotOff 0) false = true ∧
    regionOf (ringed false true) 0 false (((ringed false true).curTile.desc 0).slotOff 0) ≠ .kept := by decide +kernel

theorem lanes_of {w : Nat} {p : BitVec 16} {old v : Vec} {r : Nat → Nat}
    (h : ((List.range (512 / w)).all (fun j => elemOf v w j == if activeElem p w j then r j % 2 ^ w else elemOf old w j)) = true) : lanes w p old v r := by
  intro j hj
  simpa using List.all_eq_true.mp h j (List.mem_range.mpr hj)

/-- Vector registers 1 to 3 hold given values. -/
def vecs (x y z : Vec) : State := (unit 0).modCur (fun c => ((c.setV 1 x).setV 2 y).setV 3 z)

/-- The vector whose lowest 32-bit element is `x`, and whose others are zero. -/
def low (x : Nat) : Vec := BitVec.ofNat 512 x

theorem srcV_reg {f : BitVec 5} {iw : Word32} {w : Work} (h : boundTo w.s.curCtx f = none) : srcV f iw w = .ok (w.s.curCtx.vreg f) w := by
  simp [srcV, h]
theorem oldV_reg {f : BitVec 5} {w : Work} (h : boundTo w.s.curCtx f = none) : oldV f w = .ok (w.s.curCtx.vreg f) w := by
  simp [oldV, h]
theorem dstV_reg {f : BitVec 5} {v : Vec} {w : Work} (h : boundTo w.s.curCtx f = none) :
    dstV f v w = .ok () { w with s := w.s.modCur (fun x => x.setV f v) } := by
  simp [dstV, roomV, h]

theorem witness_VectorArithmeticResults :
    (∃ x y old v w1 w2 w3, checkDirs [1, 2] [3] (wordOf (.vaddFlt 3 1 2 0 0)) (started (unit 0)) = .ok () (started (unit 0)) ∧
      srcV 1 (wordOf (.vaddFlt 3 1 2 0 0)) (started (unit 0)) = .ok x w1 ∧ srcV 2 (wordOf (.vaddFlt 3 1 2 0 0)) w1 = .ok y w2 ∧ oldV 3 w2 = .ok old w2 ∧
      lanes 32 ((unit 0).curCtx.kreg 0) old v (fun j => (addFp .f32 0 0 (decodeFp .f32 (elemOf x 32 j)) (decodeFp .f32 (elemOf y 32 j))).val) ∧
      dstV 3 v w2 = .ok () w3) ∧
    (∃ x y old v w1 w2 w3, srcV 1 (wordOf (.vaddInt 3 1 2 0 7)) (started (unit 0)) = .ok x w1 ∧ srcV 2 (wordOf (.vaddInt 3 1 2 0 7)) w1 = .ok y w2 ∧ oldV 3 w2 = .ok old w2 ∧
      lanes 32 ((unit 0).curCtx.kreg 0) old v (fun j => (BitVec.ofNat 32 (elemOf x 32 j) + BitVec.ofNat 32 (elemOf y 32 j)).toNat) ∧ dstV 3 v w2 = .ok () w3) :=
  ⟨⟨_, _, _, 0, _, _, _, rfl, srcV_reg rfl, srcV_reg rfl, oldV_reg rfl, lanes_of (by decide +kernel), dstV_reg rfl⟩,
   _, _, _, 0, _, _, _, srcV_reg rfl, srcV_reg rfl, oldV_reg rfl, lanes_of (by decide +kernel), dstV_reg rfl⟩
theorem test_vadd_f32 : after (exec (.vaddFlt 3 1 2 0 0) (vecs (low 0x3F800000) (low 0x40000000) 0)) (fun s => (s.curCtx.vreg 3, s.curCtx.frm)) =
    some (low 0x40400000, 0) := by decide +kernel
theorem test_vmin_signed : after (exec (.vminInt 3 1 2 0 7) (vecs (low 0xFFFFFFFF) (low 1) 0)) (fun s => s.curCtx.vreg 3) = some (low 0xFFFFFFFF) ∧
    after (exec (.vminInt 3 1 2 0 11) (vecs (low 0xFFFFFFFF) (low 1) 0)) (fun s => s.curCtx.vreg 3) = some (low 1) := by decide +kernel
theorem test_vfma_rounds_once : after (exec (.vfma 3 1 1 3 0 0) (vecs (low 0x3F800001) 0 (low 0xBF800002))) (fun s => s.curCtx.vreg 3) = some (low 0x28800000) := by
  decide +kernel
theorem witness_TypeTraps : 12 ≤ (12#4).toNat ∧ (3#4).toNat < 4 ∧ 8 ≤ (8#4).toNat ∧ (7#4).toNat < 8 ∧
    checkDirs [1, 2] [3] (wordOf (.vaddFlt 3 1 2 0 3)) (started (unit 0)) = .ok () (started (unit 0)) := by and_intros <;> first | decide +kernel | rfl
theorem test_unimpl_type : after (exec (.mulh 1 2 3 2) handled) (fun s => (s.curCtx.tcause, s.curCtx.tval.extractLsb' 32 32)) = some (Cause.unimpl.code, 0x7FF#32) := by
  decide +kernel
theorem witness_CompareAndSelectResults : ∃ x y v w1 w2 w3, srcV 1 (wordOf (.vcmp 1 1 2 0 0 7)) (started (unit 0)) = .ok x w1 ∧ srcV 2 (wordOf (.vcmp 1 1 2 0 0 7)) w1 = .ok y w2 ∧
    checkDirs [1, 2] [] (wordOf (.vcmp 1 1 2 0 0 7)) (started (unit 0)) = .ok () (started (unit 0)) ∧
    (∀ i < 16, (0xFFFF#16).getLsbD i = (governed 32 i).all (fun j => activeElem ((unit 0).curCtx.kreg 0) 32 j && intCond 0 (readInt true 32 (elemOf x 32 j)) (readInt true 32 (elemOf y 32 j)))) ∧
    checkDirs [1, 2] [3] (wordOf (.vsel 3 1 2 0 7)) (started (unit 0)) = .ok () (started (unit 0)) ∧
    lanes 32 ((unit 0).curCtx.kreg 0) y v (fun j => elemOf x 32 j) ∧ dstV 3 v w2 = .ok () w3 :=
  ⟨_, _, 0, _, _, _, srcV_reg rfl, srcV_reg rfl, rfl, by decide +kernel, rfl, lanes_of (by decide +kernel), dstV_reg rfl⟩
theorem test_vcmp_nan : after (exec (.vcmp 1 1 2 0 0 0) (vecs (low 0x7FC00000) (low 0x7FC00000) 0)) (fun s => s.curCtx.kreg 1) = some 0xFFFE := by decide +kernel
theorem test_vsel : after (exec (.vsel 3 1 2 1 7) ((vecs (low 5) (low 7) 0).modCur (fun c => c.setK 1 0xFFFE))) (fun s => s.curCtx.vreg 3) = some (low 7) := by decide +kernel
theorem witness_VectorMoveResults : ∃ x old v w1 w2, srcV 1 (wordOf (.vmovs 4 1 2 7)) (started (unit 0)) = .ok x w1 ∧ oldV 3 (started (unit 0)) = .ok old (started (unit 0)) ∧
    checkDirs [1] [] (wordOf (.vmovs 4 1 2 7)) (started (unit 0)) = .ok () (started (unit 0)) ∧ checkDirs [1] [3] (wordOf (.vunpk 3 1 0)) (started (unit 0)) = .ok () (started (unit 0)) ∧
    lanes 32 ((unit 0).curCtx.kreg 0) old v (fun j => j) ∧ dstV 3 v w1 = .ok () w2 :=
  ⟨_, _, BitVec.ofNat 512 (((List.range 16).map (fun j => j * 2 ^ (32 * j))).sum), _, _, srcV_reg rfl, oldV_reg rfl, rfl, rfl, lanes_of (by decide +kernel), dstV_reg rfl⟩
theorem test_vmovs_sign : after (exec (.vmovs 4 1 2 5) (vecs (low 0x80) 0 0)) (fun s => s.curCtx.sreg 4) = some 0xFFFFFFFFFFFFFF80 ∧
    after (exec (.vmovs 4 1 2 9) (vecs (low 0x80) 0 0)) (fun s => s.curCtx.sreg 4) = some 0x80 := by decide +kernel
theorem test_vperm_wraps : after (exec (.vperm 3 1 2 0 7) (vecs (low (9 + 4 * 2 ^ 32)) (low 17) 0)) (fun s => elemOf (s.curCtx.vreg 3) 32 0) = some 4 := by decide +kernel
theorem witness_ConversionAndReductionResults : elemTy 0 = some (.flt .f32) ∧ elemTy 3 = some (.flt .e4) ∧
    checkDirs [5] [6] (wordOf (.vcvt 6 5 1 0 1 0 3 0)) (started (unit 0)) = .ok () (started (unit 0)) ∧
    checkDirs [1] [3] (wordOf (.vreduce 3 1 0 0 7)) (started (unit 0)) = .ok () (started (unit 0)) ∧
    (∀ j < 512 / 8, elemOf (0 : Vec) 8 j = if 16 ≤ j then 0 else (convert (.flt .f32) (.flt .e4) 0 true 0 (elemOf (0 : Vec) 32 j)).val % 2 ^ 8) :=
  ⟨by decide, by decide, rfl, rfl, by decide +kernel⟩
/-- The example of VCVT: 300 and 500 become E4 0x79 and 0x7E. -/
theorem test_vcvt_e4 : after (exec (.vcvt 6 5 1 0 1 0 3 0) ((unit 0).modCur (fun c => c.setV 5 (low (0x43960000 + 0x43FA0000 * 2 ^ 32)))))
    (fun s => (elemOf (s.curCtx.vreg 6) 8 0, elemOf (s.curCtx.vreg 6) 8 1, elemOf (s.curCtx.vreg 6) 8 16)) = some (0x79, 0x7E, 0) := by decide +kernel
theorem test_vreduce_wraps : after (exec (.vreduce 3 1 0 0 7) (vecs (low (0x7FFFFFFF + 2 ^ 32)) 0 0)) (fun s => s.curCtx.vreg 3) = some (low 0x80000000) := by decide +kernel
/-- The accesses of a list all read what `f` says. -/
def readable (read : Nat → A (List Byte)) (f : Nat → List Byte) : List Nat → State → Bool
  | [], _ => true
  | j :: l, s => match read j s with
    | .ok bs u => decide (bs = f j) && readable read f l u
    | .error _ _ => false
theorem readsAll_of {read : Nat → A (List Byte)} {f : Nat → List Byte} :
    ∀ {l : List Nat} {s : State}, readable read f l s = true → ∃ t, readsAll read f l s t
  | [], s, _ => ⟨s, rfl⟩
  | j :: l, s, h => by
    cases e : read j s with
    | error x y => simp [readable, e] at h
    | ok bs u =>
      simp only [readable, e, Bool.and_eq_true, decide_eq_true_eq] at h
      obtain ⟨t, ht⟩ := readsAll_of h.2
      exact ⟨t, u, h.1 ▸ e, ht⟩
/-- The accesses of a list all write. -/
def writable (write : Nat → A Unit) : List Nat → State → Bool
  | [], _ => true
  | j :: l, s => match write j s with
    | .ok _ u => writable write l u
    | .error _ _ => false
theorem writesAll_of {write : Nat → A Unit} : ∀ {l : List Nat} {s : State}, writable write l s = true → ∃ t, writesAll write l s t
  | [], s, _ => ⟨s, rfl⟩
  | j :: l, s, h => by
    cases e : write j s with
    | error x y => simp [writable, e] at h
    | ok v u =>
      simp only [writable, e] at h
      obtain ⟨t, ht⟩ := writesAll_of h
      exact ⟨t, u, e, ht⟩

/-- Bytes of the own scratchpad at its table: a header of one segment, with x0 = 0, e = 0 and both modes CLAMP, and the segment whose polynomial is 2. -/
def tabled (header : Nat) (s : State) : State :=
  { regs [(1, own 128)] s with mem := Memory.writeN (Memory.writeN s.mem (spadKey 0 128) (bytesOfNat 32 header)) (spadKey 0 160) (bytesOfNat 16 0x40000000) }
/-- The header of one segment, and a header of none. -/
def oneSeg : Nat := 2 ^ 64
theorem ok2_of {ε σ α β : Type} {m : EStateM ε σ α} {f : α → EStateM ε σ β} {s : σ} {a : α} {b : β}
    (h : okVal ((do let x ← m; let y ← f x; pure (x, y) : EStateM ε σ (α × β)) s) = some (a, b)) : ∃ t, m s = .ok a t ∧ ∃ u, f a t = .ok b u := by
  simp only [bind, EStateM.bind] at h
  cases e : m s with
  | error x y => simp [e, okVal] at h
  | ok v t =>
    simp only [e] at h
    cases e2 : f v t with
    | error x y => simp [e2, okVal] at h
    | ok w u =>
      simp only [e2, pure, EStateM.pure, okVal, Option.some.injEq, Prod.mk.injEq] at h
      exact ⟨t, by rw [h.1], u, by rw [← h.1, e2, h.2]⟩

theorem witness_TableLoads : headerFollows oneSeg ∧ ¬ headerFollows 0 ∧ (0#5).toNat < 4 ∧ (unit 0).curCtx.handle = none ∧
    (∃ s1, readAcc (self (tabled oneSeg (unit 0))) { accAt (own 128) 0 32 16 .load with declared := some 1 }
        ((started (tabled oneSeg (unit 0))).s.modCur (fun x => { x with tload := some 0 })) = .ok (bytesOfNat 32 oneSeg) s1 ∧
      checkForm (accAt (own 128) 32 16 16 .load) s1 = .ok () s1 ∧
      ∃ s2, readsAll (fun i => readAcc (self (tabled oneSeg (unit 0))) (accAt (own 128) (32 + 16 * i) 16 16 .load)) (fun _ => bytesOfNat 16 0x40000000) (List.range 1) s1 s2) ∧
    (∃ s1, readAcc (self (tabled 0 (unit 0))) { accAt (own 128) 0 32 16 .load with declared := some 1 }
        ((started (tabled 0 (unit 0))).s.modCur (fun x => { x with tload := some 0 })) = .ok (bytesOfNat 32 0) s1) ∧
    natOfBytes (bytesOfNat 32 oneSeg) = oneSeg ∧ bits oneSeg 64 16 = 1 ∧ (BitVec.ofNat 128 (natOfBytes (bytesOfNat 16 0x40000000))).extractLsb' 96 32 = 0 ∧
    (BitVec.ofNat 128 (natOfBytes (bytesOfNat 16 (2 ^ 96)))).extractLsb' 96 32 ≠ 0 := by
  refine ⟨by unfold headerFollows; decide +kernel, by unfold headerFollows; decide +kernel, by decide, by decide +kernel, ?_, ok_of (by decide +kernel), by decide +kernel,
    by decide +kernel, by decide +kernel, by decide +kernel⟩
  obtain ⟨s1, h1, u, h2⟩ := ok2_of (m := readAcc (self (tabled oneSeg (unit 0))) { accAt (own 128) 0 32 16 .load with declared := some 1 })
    (f := fun _ s => .ok ((match checkForm (accAt (own 128) 32 16 16 .load) s with
        | .ok _ t => decide (t = s)
        | .error _ _ => false) && readable (fun i => readAcc (self (tabled oneSeg (unit 0))) (accAt (own 128) (32 + 16 * i) 16 16 .load))
          (fun _ => bytesOfNat 16 0x40000000) (List.range 1) s) s)
    (s := (started (tabled oneSeg (unit 0))).s.modCur (fun x => { x with tload := some 0 })) (a := bytesOfNat 32 oneSeg) (b := true) (by decide +kernel)
  simp only [EStateM.Result.ok.injEq, Bool.and_eq_true] at h2
  refine ⟨s1, h1, ?_, readsAll_of h2.1.2⟩
  have h3 := h2.1.1
  split at h3
  · next e => rw [e, of_decide_eq_true h3]
  · cases h3
/-- Slot 0 holds the table of the constant 2. -/
def loaded : TableSlot := { valid := true, ssn := 0, header := BitVec.ofNat 256 oneSeg, segs := [0x40000000] }
theorem witness_Interpolation : 1 ≤ loaded.count ∧ loaded.below ≤ 3 ∧ loaded.above ≤ 3 ∧ ratOf (decodeFp .f32 loaded.x0) = some 0 ∧
    ratOf (decodeFp .f32 0x3F000000) = some (1 / 2) ∧ ratOf (decodeFp .f32 0xBF800000) = some (-1) ∧ ratOf (decodeFp .f32 0x3F800000) = some 1 ∧
    decodeFp .f32 0x7F800000 = .inf false ∧ ratOf (loaded.coef 0 0) = some 2 ∧ ratOf (loaded.coef 0 1) = some 0 ∧ ratOf (loaded.coef 0 2) = some 0 := by decide +kernel
theorem test_tload_tinterp : after (exec (.tload 0 1) (tabled oneSeg (unit 0))) (fun s => ((s.curTile.table 0).valid,
    after (exec (.tinterp 3 2 0 0 0) s) (fun t => elemOf (t.curCtx.vreg 3) 32 0))) = some (true, some 0x40000000) ∧
    after (exec (.tload 0 1) (tabled 0 handled)) (fun s => s.curCtx.tcause) = some Cause.illfmt.code := by decide +kernel
theorem witness_TableInterpolation : ∃ x old v w1 w2, let s := (unit 0).modEng 0 (fun e => { e with tables := e.tables.setIfInBounds 0 loaded })
    let i := Instr.tinterp 3 2 0 0 0
    (0#5).toNat < 4 ∧ (0#4).toNat < 3 ∧ s.curCtx.handle = none ∧ checkDirs [2] [3] (wordOf i) (started s) = .ok () (started s) ∧ loading s 0 = [] ∧
    (s.curTile.table 0).valid = true ∧ ((unit 0).curTile.table 0).valid = false ∧ srcV 2 (wordOf i) (started s) = .ok x w1 ∧ oldV 3 w1 = .ok old w1 ∧
    lanes 32 (s.curCtx.kreg 0) old v (fun j => (interp (s.curTile.table 0) .f32 s.curCtx.rm (drawsOf s s.curKey s.cur.ctx j) (elemOf x 32 j)).val) ∧ dstV 3 v w1 = .ok () w2 ∧
    loading (helper.modCtx 0 0 (fun x => { x with tload := some 0 })) 0 ≠ [] :=
  ⟨_, _, BitVec.ofNat 512 (((List.range 16).map (fun j => 0x40000000 * 2 ^ (32 * j))).sum), _, _, by decide, by decide, by decide +kernel, rfl, by decide +kernel,
    by decide +kernel, by decide +kernel, srcV_reg rfl, oldV_reg rfl, lanes_of (by decide +kernel), dstV_reg rfl, by decide +kernel⟩
theorem witness_TableFormsComplete : let s := (unit 0).modEng 0 (fun e => { e with tables := e.tables.setIfInBounds 0 loaded })
    boundTo s.curCtx 2 = none ∧ boundTo s.curCtx 3 = none ∧ badScale (((regs [(0, 0x3F800000)] s).curCtx.sreg 0).setWidth 32) = true ∧
    badScale (((regs [(1, 0x3F800000)] s).curCtx.sreg 1).setWidth 32) = false ∧ (0#5).toNat < 4 ∧ s.curCtx.handle = none ∧ loading s 0 = [] ∧
    (s.curTile.table 0).valid = true := by decide +kernel
theorem witness_TableResults : (0#5).toNat < 4 ∧ (unit 0).curTile.eng.epiq.any (fun j => epTable j.cfg == some 0) = false ∧
    (∃ h s1, readAcc (self (regs [(1, own 128)] (unit 0))) { accAt (own 128) 0 32 16 .load with declared := some 1 } (started (regs [(1, own 128)] (unit 0))).s = .ok h s1) ∧
    badScale 0x3F800000 = false ∧ badScale 0 = true ∧ checkDirs [1] [3] (wordOf (.vqdq 3 1 2 0 0)) (started (unit 0)) = .ok () (started (unit 0)) ∧
    decodeFp .f32 0x7FC00000 = .nan false := by
  refine ⟨by decide, by decide +kernel, ⟨_, ok_of (a := List.replicate 32 0) (by decide +kernel)⟩, by decide +kernel, by decide +kernel, rfl, by decide +kernel⟩
theorem witness_StreamBinding : 24 ≤ (24#5).toNat ∧ boundTo (unit 0).curCtx 24 = none ∧ ((unit 0).curTile.desc 0).inUse = false ∧ fmtOk (own 128) = true ∧
    resolveDie (started (unit 0)).s 0 (own 128) = some 0 ∧ spotFor (started (unit 0)).s 0 0 (ptrOff (own 128)) = .spad 0 128 ∧ ptrOff (own 128) % 64 = 0 ∧
    (∀ i < 4, regionOf (started (unit 0)).s 0 false (128 + 64 * i) = .transit) ∧ boundTo ported.curCtx 24 = some 0 ∧ ported.cur.ctx < 11 := by decide +kernel
theorem test_sbind_copy_twice : after (exec (.sbindCopy 25 1) ported) (fun s => (boundTo s.curCtx 25, (s.curTile.desc 1).port)) = some (some 1, 1) := by decide +kernel

/-! ### Memory -/

/-- Register s1 points at transit line 2 and s2 at kept line 0 of the own scratchpad; s3 holds 8, s5 a value. -/
def mems : State := regs [(1, own 128), (2, own 0), (3, 8), (5, 0x0102030405060788)] (unit 0)

theorem witness_LoadAndStoreResults :
    (∃ t, readAcc (self mems) (accAt (mems.curCtx.sreg 1) (8 * (0x00F#12).toInt) 8 8 .load) (started mems).s = .ok (List.replicate 8 0) t) ∧
    (∃ t, readAcc (self mems) (accAt (mems.curCtx.sreg 1) 0 1 1 .load) (started mems).s = .ok [0] t) ∧ scopeOk mems mems.curKey mems.cur.ctx 0 = true ∧
    (∃ t w, readAcc (self mems) (accAt (mems.curCtx.sreg 1) (64 * (3#12).toInt) 64 4 .load) (started mems).s = .ok (List.replicate 64 0) t ∧
      roomV 2 (started mems) = .ok () (started mems) ∧ checkDirs [] [2] (wordOf (.ldv 2 1 0 3)) (started mems) = .ok () (started mems) ∧
      checkDirs [] [2] (wordOf (.ldvAcq 2 1 0 0)) (started mems) = .ok () (started mems) ∧
      (∀ j < 64, (0 : Vec).extractLsb' (8 * j) 8 = (List.replicate 64 (0 : Byte)).getD j 0) ∧ dstV 2 0 { s := t } = .ok () w) ∧
    (∃ t, writeAcc (self mems) (accAt (mems.curCtx.sreg 1) (8 * (0xFFF#12).toInt) 8 8 .store) (bytesLE 8 (mems.curCtx.sreg 5)) (started mems).s = .ok () t) ∧
    (∃ v w t, checkDirs [2] [] (wordOf (.stv 2 1 0 0)) (started mems) = .ok () (started mems) ∧
      checkDirs [2] [] (wordOf (.stvRel 2 1 0 4)) (started mems) = .ok () (started mems) ∧ scopeOk mems mems.curKey mems.cur.ctx 4 = true ∧
      srcV 2 (wordOf (.stv 2 1 0 0)) (started mems) = .ok v w ∧ writeAcc (self mems) (accAt (mems.curCtx.sreg 1) 0 64 4 .store) (bytesLE 64 v) w.s = .ok () t) := by
  refine ⟨ok_of (by decide +kernel), ok_of (by decide +kernel), by decide +kernel, ?_, ok_of (by decide +kernel), ?_⟩
  · obtain ⟨t, h⟩ := ok_of (r := readAcc (self mems) (accAt (mems.curCtx.sreg 1) (64 * (3#12).toInt) 64 4 .load) (started mems).s) (a := List.replicate 64 0)
      (by decide +kernel)
    exact ⟨t, _, h, rfl, rfl, rfl, by decide +kernel, dstV_reg rfl⟩
  · obtain ⟨t, h⟩ := ok_of (r := writeAcc (self mems) (accAt (mems.curCtx.sreg 1) 0 64 4 .store) (bytesLE 64 (mems.curCtx.vreg 2)) (started mems).s) (a := ())
      (by decide +kernel)
    exact ⟨_, _, t, rfl, rfl, by decide +kernel, srcV_reg rfl, h⟩
theorem test_store_load : after (exec (.st 5 1 0 3 0) mems) (fun s => after (exec (.ld 6 1 4 0) s) (fun t => (t.curCtx.sreg 6, t.curCtx.pc))) =
    some (some (0xFFFFFFFFFFFFFF88, own 8)) := by decide +kernel
theorem test_store_kept : after (exec (.st 5 2 0 2 15) mems) (fun s => (tileByte s 0 0 false 60, tileByte s 0 0 false 63, Memory.read s.mem (spadKey 0 60))) =
    some (0x88, 0x05, Memory.read mems.mem (spadKey 0 60)) := by decide +kernel

theorem witness_StridedAndIndexedResults : (8, ElemTy.int true 64) ∈ typeCodes ∧ boundTo mems.curCtx 4 = none ∧ mems.curCtx.replay = none ∧
    (∀ j < 512 / 64, (List.replicate 8 (0 : Byte)).length = 64 / 8 ∧ elemOf (0 : Vec) 64 j = natOfBytes (List.replicate 8 0)) ∧
    (∃ t, readsAll (elemRead mems (fun j => { accAt (mems.curCtx.sreg 1) (j * (mems.curCtx.sreg 3).toInt) (64 / 8) (64 / 8) .load with
        contig := false, elem := j, solo := false, data := BitVec.ofNat 64 (elemOf (0 : Vec) 64 j) }))
      (fun _ => List.replicate 8 0) (List.range (512 / 64)) (started mems).s t) ∧
    (∃ t, writesAll (elemWrite mems (fun j => { accAt (mems.curCtx.sreg 1) (j * (mems.curCtx.sreg 3).toInt) (64 / 8) (64 / 8) .store with
        contig := false, elem := j, solo := false, data := BitVec.ofNat 64 (elemOf (mems.curCtx.vreg 4) 64 j) })
      (fun j => bytesLE (64 / 8) ((mems.curCtx.vreg 4).extractLsb' (64 * j) 64))) (List.range (512 / 64)) (started mems).s t) ∧
    ((1#5) ≠ 0 ∨ ((0#2) = 3 ∧ (0#1) = 0 ∧ (2#3) = 0)) ∧ checkDirs [4] [5] (wordOf (.gath 5 1 4 0 2 0 2 2)) (started mems) = .ok () (started mems) ∧
    checkDirs [5, 4] [] (wordOf (.scat 5 1 4 0 2 0 2 2)) (started mems) = .ok () (started mems) :=
  ⟨by decide, by decide +kernel, by decide +kernel, by decide +kernel,
   readsAll_of (by decide +kernel), writesAll_of (by decide +kernel), by decide, rfl, rfl⟩
/-- Register v4 holds the 32-bit indexes 1, 0, 0, …, and v5 the data. -/
def indexed : State := mems.modCur (fun c => (c.setV 4 1).setV 5 (low 0xAABBCCDD))
theorem witness_indexed_accesses : ∃ idx old v w1 w2, srcV 4 (wordOf (.gath 5 1 4 0 2 0 2 2)) (started indexed) = .ok idx w1 ∧ roomV 5 w1 = .ok () w1 ∧
    oldV 5 w1 = .ok old w1 ∧ (∃ t w3, readsAll (elemRead indexed (fun j => { accAt (indexed.curCtx.sreg 1) (elemOf idx 32 j * 2 ^ 2) 4 4 .load with
        contig := false, elem := j, solo := false, data := BitVec.ofNat 64 (elemOf (0 : Vec) 32 j) })) (fun _ => List.replicate 4 0) (List.range 16) w1.s t ∧
      dstV 5 0 { w1 with s := t } = .ok () w3) ∧ srcV 5 (wordOf (.scat 5 1 4 0 2 0 2 2)) (started indexed) = .ok v w1 ∧
    srcV 4 (wordOf (.scat 5 1 4 0 2 0 2 2)) w1 = .ok idx w2 ∧
    ∃ t, writesAll (elemWrite indexed (fun j => { accAt (indexed.curCtx.sreg 1) (elemOf idx 32 j * 2 ^ 2) 4 4 .store with
        contig := false, elem := j, solo := false, data := BitVec.ofNat 64 (elemOf v 32 j) }) (fun j => bytesLE 4 (v.extractLsb' (32 * j) 32))) (List.range 16) w2.s t := by
  refine ⟨_, _, _, _, _, srcV_reg rfl, rfl, oldV_reg rfl, ?_, srcV_reg rfl, srcV_reg rfl, writesAll_of (by decide +kernel)⟩
  obtain ⟨t, h⟩ := readsAll_of (read := elemRead indexed (fun j => { accAt (indexed.curCtx.sreg 1) (elemOf (indexed.curCtx.vreg 4) 32 j * 2 ^ 2) 4 4 .load with
        contig := false, elem := j, solo := false, data := BitVec.ofNat 64 (elemOf (0 : Vec) 32 j) })) (f := fun _ => List.replicate 4 0) (l := List.range 16) (s := indexed)
        (by decide +kernel)
  exact ⟨t, _, h, dstV_reg rfl⟩
theorem test_scatter_order : after (exec (.scat 5 1 4 0 2 0 2 2) indexed) (fun s => (tileByte s 0 0 false 132, tileByte s 0 0 false 128, s.curCtx.pc)) =
    some (0xDD, 0, own 4) := by decide +kernel
theorem test_strided_order : after (exec (.stvs 4 1 0 7) (mems.modCur (fun c => c.setV 4 (BitVec.ofNat 512 (7 + 9 * 2 ^ (32 * 15)))))) (fun s =>
    tileByte s 0 0 false 128) = some 9 := by decide +kernel

/-- A pointer word in the control region, one past each boundary. -/
theorem witness_AccessTraps : ptrFmt (BitVec.ofNat 64 (11 * 2 ^ 59)) > 10 ∧ (ptrFmt (BitVec.ofNat 64 (8 * 2 ^ 59)) = 8 ∧ ptrBlk (BitVec.ofNat 64 (8 * 2 ^ 59)) ≠ 4) ∧
    (ptrFmt (BitVec.ofNat 64 (2 ^ 56)) ≠ 8 ∧ ptrBlk (BitVec.ofNat 64 (2 ^ 56)) ≠ 0) ∧
    (fmtOk 0 = true ∧ ((ptrOff 0 : Int) + 4 * (0xFFF#12).toInt < 0)) ∧ (fmtOk 0xFFFFFFFFFF = true ∧ (2 : Int) ^ 40 ≤ ptrOff 0xFFFFFFFFFF + 1 * (1#12).toInt) ∧
    (fmtOk (own 1) = true ∧ ((ptrOff (own 1) : Int) + 4 * (0#12).toInt) % 4 ≠ 0) ∧
    (fmtOk 0x00FFFF4000000000 = true ∧ ptrDie 0x00FFFF4000000000 = 0xFFFF ∧ ptrOff 0x00FFFF4000000000 = 0x4000000000) := by decide +kernel
theorem test_misalign : after (exec (.ld 6 1 2 0) (regs [(1, own 129)] handled)) (fun s => (s.curCtx.tcause, s.curCtx.tval)) = some (Cause.misalign.code, own 129) := by
  decide +kernel
theorem witness_OwnMemoryReadsBack : mems.mem.wf = true ∧ (mems.tile 0).twin = none ∧ (∀ i < 4, regionOf mems 0 false (60 + i) = .kept) ∧
    (∃ t, writeTile 0 0 false 60 [1, 2, 3, 4] mems = .ok () t) ∧
    (∀ i < 4, regionOf mems 0 false (128 + i) = .transit ∧ Map.get? (mems.tile 0).step.locals (lineOf false (128 + i)) = none) ∧
    (∃ t, writeTile 0 0 false 128 [1, 2, 3, 4] mems = .ok () t) :=
  ⟨by decide +kernel, by decide +kernel, by decide +kernel, ok_of (by decide +kernel), by decide +kernel, ok_of (by decide +kernel)⟩
theorem witness_AccessFrames : mems.curTile.twin = none ∧ boundTo mems.curCtx 5 = none ∧
    okVal (resolve (self mems) (accAt (mems.curCtx.sreg 1) (8 * (0#12).toInt) 8 8 .store) mems) = some [.tile 0 false 128 8] ∧ notPolicy (.tile 0 false 128 8) ∧
    (after (exec (.st 5 1 0 3 0) mems) (fun _ => ())).isSome = true ∧ AccKind.load.writes = false ∧
    (∃ t, readAcc (self mems) (accAt (mems.curCtx.sreg 1) 0 8 8 .load) mems = .ok (List.replicate 8 0) t) :=
  ⟨by decide +kernel, by decide +kernel, by decide +kernel, trivial, by decide +kernel, rfl, ok_of (by decide +kernel)⟩
theorem witness_SynchronisingAccessResults :
    (∃ t, resolve (self mems) (accAt (mems.curCtx.sreg 1) (4 * (0#13).toInt) 4 4 .fe) mems = .ok [.tile 0 false 128 4] t ∧ (t.tile 0).twin = none ∧
      feReady t (spadKey 0 128) = none ∧ regionOf t 0 false 128 ≠ .kept ∧ feBit t 0 0 128 = false) ∧
    (∃ t, resolve (self mems) (accAt (mems.curCtx.sreg 2) (4 * (0#13).toInt) 4 4 .fe) mems = .ok [.tile 0 false 0 4] t ∧ feReady t (spadKey 0 0) = none) ∧
    regionOf mems 0 false 0 = .kept ∧
    0 < (mems.tile 0).poolFree false ∧ feBit { mems with full := [spadKey 0 128] } 0 0 128 = true ∧ (∃ t, writeTile 0 0 false 128 [1, 2, 3, 4] mems = .ok () t) ∧
    (∃ t1, resolve (self mems) (accAt (mems.curCtx.sreg 1) 0 8 8 .amo) mems = .ok [.tile 0 false 128 8] t1 ∧
      ∃ t2, readPieces (self mems) [.tile 0 false 128 8] t1 = .ok (List.replicate 8 0) t2 ∧
        ∃ t3, writePieces (self mems) [.tile 0 false 128 8] (bytesLE 8 (5 : Word)) t2 = .ok () t3) := by
  refine ⟨⟨_, rfl, by decide +kernel, by decide +kernel, by decide +kernel, by decide +kernel⟩, ⟨_, rfl, by decide +kernel⟩, by decide +kernel, by decide +kernel,
    by decide +kernel, ok_of (by decide +kernel), _, rfl, _, rfl, ok_of (by decide +kernel)⟩
theorem test_amo_cas : after (exec (.amoCas 6 1 5 0 0 1) mems) (fun s => (s.curCtx.sreg 6, tileByte s 0 0 false 128)) = some (0, 0x88) ∧
    after (exec (.amoCas 6 1 5 0 0 1) (regs [(6, 1)] mems)) (fun s => (s.curCtx.sreg 6, tileByte s 0 0 false 128)) = some (0, 0) := by decide +kernel
theorem test_stf_ldfe : after (exec (.stf 5 1 0) mems) (fun s => (feBit s 0 0 128, after (exec (.ldfe 6 1 0) s) (fun t => (t.curCtx.sreg 6, feBit t 0 0 128)))) =
    some (true, some (0x05060788, false)) := by decide +kernel
theorem test_ldff_waits : after (exec (.ldff 6 1 0) mems) (fun s => s.curCtx.wait) = some (some (.fe (spadKey 0 128) 1 6 0)) := by decide +kernel

/-! ### Fences, groups, rings, inbox -/

/-- Function 0 of die 0 maps the first 2 MiB of the HBM window to the second frame of the die: the root table lies at 0x10000, the next at
0x20000; the page is readable and writable, and its tag is `tag`. -/
def mapped (tag : Nat) (s : State) : State :=
  { s with
    mem := Memory.writeN (Memory.writeN s.mem 0x10000 (bytesOfNat 8 0x20001)) 0x20000 (bytesOfNat 8 (0x200007 + tag * 256))
    dies := [(0, { tctx := (Vector.replicate 32 0#512).setIfInBounds 0 (BitVec.ofNat 512 (0x10000 + 2 ^ (8 * 41 + 3))) })] }

/-- Register s1 holds the HBM window's first address of the own die, and s2 the length of a page. -/
def windowed : State := mapped 0 (regs [(1, 0x00FFFF0000000000), (2, 0x200000)] (unit 0))

/-- The granules of a range are `g i`, each translated in order and none of a policy page. -/
def granular (r : Requester) (d off : Nat) (g : Nat → Nat) : List Nat → State → Bool
  | [], _ => true
  | i :: l, s => match translate s { trReqOf s r d (off + 65536 * i) .load with sub := false } (off + 65536 * i) with
    | (u, .ok leaf) => decide (leaf.policy = false) && decide ((match leaf.home with
        | .hbm hpa => hpa / 65536
        | .host port addr => hostGranule port addr) = g i) && granular r d off g l u
    | (_, .error _) => false
theorem granules_of {r : Requester} {d off : Nat} {g : Nat → Nat} :
    ∀ {l : List Nat} {s : State}, granular r d off g l s = true → ∃ t, granulesAre r d off g l s t
  | [], s, _ => ⟨s, rfl⟩
  | i :: l, s, h => by
    rcases e : translate s { trReqOf s r d (off + 65536 * i) .load with sub := false } (off + 65536 * i) with ⟨u, x | leaf⟩
    · simp [granular, e] at h
    · simp only [granular, e, Bool.and_eq_true, decide_eq_true_eq] at h
      obtain ⟨t, ht⟩ := granules_of h.2
      exact ⟨t, u, leaf, e, h.1.1, h.1.2, ht⟩

theorem witness_FencesAndSeals : scopeOk windowed windowed.curKey windowed.cur.ctx 4 = true ∧
    scopeOk windowed windowed.curKey windowed.cur.ctx 5 = false ∧ (windowed.curCtx.sreg 2).toNat ≠ 0 ∧ fmtOk (windowed.curCtx.sreg 1) = true ∧
    ptrOff (windowed.curCtx.sreg 1) % 2 ^ 21 = 0 ∧ (windowed.curCtx.sreg 2).toNat % 2 ^ 21 = 0 ∧
    resolveDie (started windowed).s windowed.curKey (windowed.curCtx.sreg 1) = some 0 ∧ ptrOff (windowed.curCtx.sreg 1) + (windowed.curCtx.sreg 2).toNat ≤ 0x4000000000 ∧
    (∃ wu, windowed.curTile.work = some wu) ∧
    (∃ v, granulesAre (self windowed) 0 (ptrOff (windowed.curCtx.sreg 1)) (fun i => 32 + i) (List.range ((windowed.curCtx.sreg 2).toNat / 65536)) (started windowed).s v) ∧
    (ptrOff (own 1) % 2 ^ 21 ≠ 0 ∧ windowed.curCtx.sreg 3 = 0) :=
  ⟨by decide +kernel, by decide +kernel, by decide +kernel, by decide +kernel, by decide +kernel, by decide +kernel, by decide +kernel, by decide +kernel,
    ⟨_, rfl⟩, granules_of (by decide +kernel), by decide +kernel⟩
theorem test_seal : after (exec (.seal 1 2) windowed) (fun s => ((s.die 0).seals.contains 32, (s.die 0).seals.contains 63, (s.die 0).seals.contains 64)) =
    some (true, true, false) := by decide +kernel
theorem test_window_load : after (exec (.st 2 1 0 3 1) windowed) (fun s => Memory.readN s.mem 0x200008 8) = some (bytesOfNat 8 0x200000) := by decide +kernel

/-- The context has entry 5 for key 9, whose group holds it and, where `two`, another context. -/
def grouped (two joining : Bool) : State :=
  let s := (unit 0).modCur (fun x => { x with scopes := x.scopes.setIfInBounds 5 0x10000009#32 })
  s.modPart 0 (fun x => { x with groups := [(9, {
    phase := 4, members := if joining then [] else if two then [0, 1] else [0], joining := if joining then [0] else [] })] })

theorem witness_GroupResults : (∃ g, Map.get? ((grouped true false).part 0).groups 9 = some g ∧ g.members.contains (groupMember 0 0) = true ∧
      g.joining.contains (groupMember 0 0) = false ∧ g.arrived.contains (groupMember 0 0) = false ∧ scopeOk (grouped true false) 0 0 5 = true ∧
      (((grouped true false).curCtx.scopes[5]?).getD 0).toNat % 2 ^ 24 = 9) ∧
    (∃ wu, (grouped true false).curTile.work = some wu ∧ wu.part = 0) ∧
    (∃ g : Group, Map.get? ((grouped false false).part 0).groups 9 = some g ∧ g.leave 0 = none) ∧ (∃ g r : Group, Map.get? ((grouped true false).part 0).groups 9 = some g ∧ g.leave 0 = some r) ∧
    Map.get? ((grouped true false).part 0).groups 10 = none ∧ ((grouped true false).part 0).groups.length < 1024 ∧
    (0x0000000900000004 : Word).extractLsb' 56 8 = 0 ∧ (0x0000000900000004 : Word).extractLsb' 32 24 = 9#24 ∧ (5#5).toNat = 5 ∧ (0xFFFFFF : Word).toNat < 2 ^ 24 ∧
    2 ^ 24 ≤ (0x1000000 : Word).toNat ∧ (4#5).toNat < 5 :=
  ⟨⟨_, rfl, by decide +kernel⟩, ⟨_, rfl, rfl⟩, ⟨_, rfl, by decide +kernel⟩, ⟨_, _, rfl, rfl⟩, by decide +kernel⟩
theorem test_arrive : after (exec (.arrive 6 5) (grouped true false)) (fun s => (s.curCtx.sreg 6, (s.part 0).groups.map (fun g => (g.2.phase, g.2.arrived)))) =
      some (0x0000000900000004, [(4, [0])]) ∧
    after (exec (.arrive 6 5) (grouped false false)) (fun s => (s.curCtx.sreg 6, (s.part 0).groups.map (fun g => (g.2.phase, g.2.arrived)))) =
      some (0x0000000900000004, [(5, [])]) := by decide +kernel
theorem test_waitb_left : after (exec (.waitb 6) (regs [(6, 0x0000000900000003)] (grouped true false))) (fun s => (s.curCtx.wait, s.curCtx.pc)) = some (none, own 4) ∧
    after (exec (.waitb 6) (regs [(6, 0x0000000900000004)] (grouped true false))) (fun s => (s.curCtx.wait, s.curCtx.pc)) = some (some .group, own 0) := by decide +kernel

/-- A ring of four entries that holds `n`: its control block is at the window's first address, which s1 holds, and its entries 64 bytes on. -/
def ring (n : Nat) : State :=
  let s := mapped 0 (regs [(1, 0x00FFFF0000000000), (5, 0x0102030405060788)] (unit 0))
  let m := Memory.writeN (Memory.writeN s.mem 0x200000 (bytesOfNat 8 0x00FFFF0000000040)) 0x200008 (bytesOfNat 8 4)
  { s with mem := Memory.writeN m 0x200018 (bytesOfNat 8 n) }
theorem witness_RingAndInboxResults : ∀ n ∈ [0, 1, 4], (match openRing (self (ring n)) ((ring n).curCtx.sreg 1) (ring n) with
      | .ok (die, block, x) s1 => decide (die = 0) && decide (x.count = n) && decide (x.size = 4) && decide (ringReady s1 block = none) &&
          (okVal (writeRaw (self (ring n)) (accAt x.base (8 * (x.tail % x.size)) 8 8 .amo) (bytesLE 8 (7 : Word)) s1)).isSome &&
          (okVal (writeRaw (self (ring n)) (accAt ((ring n).curCtx.sreg 1) 24 8 8 .amo) (bytesLE 8 (7 : Word)) s1)).isSome &&
          (okVal (readRaw (self (ring n)) (accAt x.base (8 * (x.head % x.size)) 8 8 .load) s1)).isSome &&
          (okVal (writeRaw (self (ring n)) (accAt ((ring n).curCtx.sreg 1) 16 8 8 .amo) (bytesLE 8 (7 : Word)) s1)).isSome
      | .error _ _ => false) = true ∧ (ring n).curTile.twin = none := by decide +kernel
theorem witness_InboxResults : (unit 0).curTile.io.inbox = [] ∧ ((unit 0).modIo 0 (fun io => { io with inbox := [5, 6] })).curTile.io.inbox = [5, 6] ∧
    ((0#5) ≠ 1 ∨ (0#5) = 0) ∧ (1#5) ≠ 0 := by decide +kernel
theorem test_ring : after (exec (.enq 6 1 5 0) (ring 0)) (fun s => after (exec (.deq 7 1 8 1) s) (fun t => (t.curCtx.sreg 6, t.curCtx.sreg 7, t.curCtx.sreg 8))) =
    some (some (0, 0x0102030405060788, 0)) ∧ after (exec (.enq 6 1 5 1) (ring 4)) (fun s => s.curCtx.sreg 6) = some 1 := by decide +kernel
theorem test_inboxr : after (exec (.inboxr 6 7 0) ((unit 0).modIo 0 (fun io => { io with inbox := [2 ^ 64 + 5] }))) (fun s =>
    (s.curCtx.sreg 6, s.curCtx.sreg 7, s.curTile.io.inbox)) = some (5, 1, []) := by decide +kernel

/-! ### Supersteps, tasks, matrix unit, copies, network, helpers, bookings, policy -/

/-- A computation that succeeds and leaves the work of an instruction that begins as it was. -/
def stays {α : Type} (r : EStateM.Result Stop Work α) (s : State) : Option α :=
  match r with
  | .ok a t => if t.s = s ∧ t.pops.length = 0 ∧ t.pushes = [] ∧ t.groups = [] ∧ t.target = none ∧ t.gone = false ∧ t.resume = none then some a else none
  | .error _ _ => none
theorem stays_of {α : Type} {r : EStateM.Result Stop Work α} {s : State} {a : α} (h : stays r s = some a) : r = .ok a { s := s } := by
  cases r with
  | ok b t =>
    obtain ⟨_, pops, pushes, groups, target, gone, resume⟩ := t
    simp only [stays] at h
    split at h
    · simp_all
    · cases h
  | error e t => simp [stays] at h

/-- Bytes of the own scratchpad. -/
def filled (l : List (Nat × Nat × Nat)) (s : State) : State :=
  { s with mem := l.foldl (fun m e => Memory.writeN m (spadKey 0 e.1) (bytesOfNat e.2.1 e.2.2)) s.mem }

/-- Token 0 counts one operation. -/
def busy (cls : Nat) : State := (unit cls).modEng 0 (fun e => { e with tok := e.tok.setIfInBounds 0 1 })

/-- Register s1 names a descriptor of a page fetch of one line from the window into transit line 3. -/
def fetching : State := filled [(128, 8, 0x00FFFF0000000000), (136, 8, 0x00FFFF90000000C0), (144, 4, 64)] mems

/-- The entry of a descriptor without a gather. -/
def entryOf (bs : List Byte) : StagingEntry := {
  id := 0, src := descPtr bs 0, dst := descPtr bs 8, len := descField bs 16 4, rowb := descField bs 20 2, gather := false, idx := descPtr bs 24, st := 0
  pc := 0, waits := [] }

theorem witness_SuperstepAndFetchWords : ((unit 2).cur.ctx = 0 ∧ (∃ u, (unit 2).curTile.work = some u ∧ u.cls = 2) ∧ (unit 2).curTile.twin = none ∧
      (4#3).toNat < 5 ∧ queueOf (unit 2).curCtx 3 = none ∧ tileQuiet (unit 2) 0 = true ∧ tileQuiet (busy 2) 0 = false) ∧
    (∃ x w, srcS 3 (started (unit 2)) = .ok x w) ∧ (0 < helper.cur.ctx ∧ helper.cur.ctx < 11 ∧ (∀ o ∈ helper.curTile.eng.mmas, o.ctx ≠ helper.cur.ctx)) ∧
    ((unit 0).cur.ctx = 0 ∧ (∃ u, (unit 0).curTile.work = some u ∧ u.cls ≠ 2) ∧ (unit 0).curTile.step.pend = false ∧ tileQuiet (unit 0) (unit 0).curKey = true) ∧
    (∃ p w1 bs w2, srcS 1 (started fetching) = .ok p w1 ∧ roomS 6 w1 = .ok () w1 ∧ ownDesc p 32 w1 = .ok bs w1 ∧ bs.length = 32 ∧ dstS 6 (BitVec.ofNat 64 0) w1 = .ok () w2 ∧
      pflStatus fetching 0 bs (entryOf bs) = 0 ∧
      pflStatus fetching 0 bs { entryOf bs with len := 0 } = 2) := by
  refine ⟨⟨by decide +kernel, ⟨_, rfl, rfl⟩, by decide +kernel⟩, ⟨_, _, srcS_reg rfl⟩, by decide +kernel, ⟨by decide +kernel, ⟨_, rfl, by decide⟩, by decide +kernel⟩,
    _, _, bytesOfNat 32 (0x00FFFF0000000000 + 0x00FFFF90000000C0 * 2 ^ 64 + 64 * 2 ^ 128), _, srcS_reg rfl, rfl, stays_of (by decide +kernel), by decide +kernel, dstS_reg rfl, by decide +kernel⟩
theorem test_ssb : after (exec (.ssb 3 5 4) (regs [(3, 1), (5, 7)] (unit 2))) (fun s => (s.curTile.step.arrived, s.pending)) =
    some (true, [.barrierRecord 0 0 0 0 ((7 : BitVec 64) ++ 0#32 ++ 1#26 ++ 4#3 ++ 0#1 ++ 1#2)]) := by decide +kernel
theorem test_halt_wp : after (exec .halt (unit 0)) (fun s => s.curTile.work) = some none := by decide +kernel
theorem test_pfl : after (exec (.pfl 6 1) fetching) (fun s => (s.curCtx.sreg 6, s.curTile.step.fetchList.length, s.pending)) =
    some (0, 1, [.stagingEntryComplete 0 0 0]) := by decide +kernel

/-- Helper 1 of the tile has its record's place, transit line 2, in s1 and a live mask of s1 alone in s2. -/
def continuing : State := { regs [(1, own 128), (2, 2)] helper with jobs := [(0, { box := [0], dieMap := [BitVec.ofNat 64 (2 ^ 62)] })] }

/-- A unit of launch 0, whose first producer is launch 7 in the phase `p`. -/
def consuming (p : Phase) : State :=
  let b : BitVec 1024 := BitVec.ofNat 1024 ((2 ^ 32 + 7) * 2 ^ (8 * 48) + 1 * 2 ^ (8 * 12))
  { regs [(1, 1)] (unit 0) with launches := [(0, { block := b, modl := 0, fn := 0, ring := 0, job := 0, phase := .running }),
    (7, { block := b, modl := 0, fn := 0, ring := 0, job := 0, phase := p, status := 3 })] }

theorem witness_TaskWords : (0 < continuing.cur.ctx ∧ continuing.cur.ctx < 11 ∧ continuing.curCtx.handle = none ∧ continuing.curCtx.holdsBinding = false ∧
      inGroup continuing 0 1 = false ∧ maskCount 2 ≤ 16 ∧ fmtOk (own 128) = true ∧ ptrOff (own 128) % 64 = 0 ∧ contPlace continuing 0 (own 128) = true ∧
      (∀ o ∈ continuing.curTile.eng.mmas, o.ctx ≠ 1) ∧ (readyRecords (continuing.part 0)).length < 4096) ∧
    (∃ p w1 mask w2 s3, srcS 1 (started continuing) = .ok p w1 ∧ srcS 2 w1 = .ok mask w2 ∧ writeAcc (self continuing) (accAt p 0 (recordLen mask) 64 .store)
      (recordBytes (goOn continuing).curCtx (goOn continuing).curCtx.pc mask false 0 (tileId 0) (continuing.dieId 0)) w2.s = .ok () s3) ∧
    (∃ u, (unit 2).curTile.work = some u ∧ u.cls = 2) ∧ (∃ u, (unit 0).curTile.work = some u ∧ u.cls ≠ 2 ∧ u.triggered = false) ∧
    (∃ u, (consuming .running).curTile.work = some u ∧ producer (consuming .running) u 0 = some 7 ∧ producer (consuming .running) u 1 = none) ∧
    launchDone (consuming .consumed) 7 = false ∧ launchDone (consuming .ended) 7 = true ∧ launchFailed (consuming .ended) 7 = true ∧
    (∃ v w1 w2, srcS 1 (started (consuming .ended)) = .ok v w1 ∧ roomS 6 w1 = .ok () w1 ∧ v.toNat < 16 ∧ dstS 6 1 w1 = .ok () w2) := by
  refine ⟨by decide +kernel, ?_, ⟨_, rfl, rfl⟩, ⟨_, rfl, by decide, rfl⟩, ⟨_, rfl, by decide +kernel, by decide +kernel⟩, by decide +kernel, by decide +kernel,
    by decide +kernel, _, _, _, srcS_reg rfl, rfl, by decide +kernel, dstS_reg rfl⟩
  obtain ⟨s3, h⟩ := ok_of (r := writeAcc (self continuing) (accAt (own 128) 0 (recordLen 2) 64 .store)
      (recordBytes (goOn continuing).curCtx (goOn continuing).curCtx.pc 2 false 0 (tileId 0) (continuing.dieId 0)) continuing) (a := ()) (by decide +kernel)
  exact ⟨_, _, _, _, s3, srcS_reg rfl, srcS_reg rfl, h⟩
theorem test_waitp : after (exec (.waitp 6 1) (consuming .ended)) (fun s => (s.curCtx.sreg 6, s.curCtx.wait)) = some (1, none) ∧
    after (exec (.waitp 6 1) (consuming .running)) (fun s => s.curCtx.wait) = some (some .producers) := by decide +kernel
theorem test_cont : after (exec (.cont 1 2) continuing) (fun s => (s.curCtx.st, s.pending, (s.part 0).records.length, Memory.readN s.mem (spadKey 0 128) 8)) =
    some (.idle, [.continuationResume 0], 1, bytesOfNat 8 (own 4).toNat) := by decide +kernel

/-- Pointers to the operands of an MMA in s2 and s4, with strides of 0 in s3 and s5; every row of both is transit line 2. -/
def multiplying : State := regs [(2, own 128), (3, 0), (4, own 128), (5, 0)] (unit 0)
/-- An MMA to slot 0 that is in flight, of BF16 operands, k = 32. -/
def mmaOne : MmaOp := { ctx := 0, seq := 1, slot := 0, ta := 2, tb := 2, overwrite := true, row0 := 0, row1 := 16, a := [], b := [] }
/-- Slot 0 in state `st`, with the MMA in flight where `m`. -/
def slotted (st : SlotState) (m : Bool) : State := (unit 0).modEng 0 (fun e => { e.setSlot 0 { st := st } with mmas := if m then [mmaOne] else [] })

theorem witness_MatrixWords : mmaPair 2 2 = some (32, false) ∧ mmaPair 6 7 = some (64, true) ∧ multiplying.curCtx.handle = none ∧
    (multiplying.curTile.eng.slot 0).handed = false ∧ fmtOk (own 128) = true ∧ ptrFmt (own 128) = 0 ∧
    (∀ o ∈ multiplying.curTile.eng.mmas, o.ctx = multiplying.cur.ctx → o.fetched = true) ∧ (∀ o ∈ multiplying.curTile.eng.mmas, o.fetched = true) ∧
    (∃ o ∈ ((unit 0).modEng 0 (fun e => { e with mmas := [{ mmaOne with ctx := 1, fetched := false }] })).curTile.eng.mmas, o.fetched = false) ∧
    (∃ w2, fetchB (own 128) 0 2 32 false { s := setWaiting (fun o => { o with a := [], b := [], row1 := 0 }) (multiplying.modEng 0 (fun e =>
          { e.setSlot 0 { e.slot 0 with st := .mma } with mseq := 1, mmas := e.mmas ++ [{ mmaOne with fetched := false }] })) } =
        .ok (List.replicate 16 (List.replicate 32 0)) w2 ∧
      ∃ w3, fetchA (own 128) 0 2 32 0 false w2 = .ok (List.replicate 16 (List.replicate 32 0), none) w3) ∧
    (∀ o ∈ (slotted .free false).curTile.eng.mmas, o.slot ≠ 0) ∧ (∃ o ∈ (slotted .mma true).curTile.eng.mmas, o.slot = 0) ∧
    ((slotted .free false).curTile.eng.slot 0).handed = false ∧ ((slotted .epiq false).curTile.eng.slot 0).handed = true ∧
    (slotted .epiq false).curTile.eng.head = 0 ∧
    (∃ s1, readAcc (self mems) (accAt (own 128) 0 64 64 .load) (started mems).s = .ok (List.replicate 64 0) s1) ∧
    epCfgOk (BitVec.ofNat 512 (natOfBytes (List.replicate 64 0))) = true ∧ epCfgOk 0x10 = false := by
  refine ⟨by decide, by decide, by decide +kernel, by decide +kernel, by decide +kernel, by decide +kernel, by decide +kernel, by decide +kernel, by decide +kernel, ?_, by decide +kernel,
    by decide +kernel, by decide +kernel, by decide +kernel, by decide +kernel, ok_of (by decide +kernel), by decide +kernel, by decide +kernel⟩
  exact ok2_of (m := fetchB (own 128) 0 2 32 false) (f := fun _ => fetchA (own 128) 0 2 32 0 false) (by decide +kernel)
/-- Configuration 0 is the one of zeros: OUT is f32, no table. -/
def configured : State := (regs [(1, own 128), (2, 0)] (unit 0)).modEng 0 (fun e => { e with epcfg := e.epcfg.setIfInBounds 0 (some 0) })
theorem witness_EpilogueIssue : (configured.curTile.eng.epcfg[0]?).getD none = some 0 ∧ (configured.curTile.eng.epcfg[1]?).getD none = none ∧ epTable 0 = none ∧
    (∀ m < 16, (match checkForm (epiRow (own 128) 0 (epOut 0) m .store) configured with
      | .ok _ t => decide (t = configured)
      | .error _ _ => false) = true) ∧ configured.curTile.eng.count 0 ≠ 63 ∧ (configured.curTile.eng.slot configured.curTile.eng.head.toNat).handed = false := by
  decide +kernel
theorem test_mma_slot : after (exec (.mma 3 2 4 2 2 1 0) multiplying) (fun s => ((s.curTile.eng.slot 3).st, s.curTile.eng.mseq, s.curTile.eng.mmas.length, s.pending)) =
    some (.mma, 1, 1, [.mmaComplete 0 0]) := by decide +kernel
theorem test_accwr : after (exec (.accwr 1 2 15) (vecs (low 5) 0 0)) (fun s => ((s.curTile.eng.slot 2).elem 15 0, (s.curTile.eng.slot 2).elem 14 0)) = some (5, 0) := by
  decide +kernel
theorem test_epi : after (exec (.epi 1 2 1 0) configured) (fun s => (s.curTile.eng.head, s.curTile.eng.count 1, s.curTile.eng.epiq.length)) = some (1, 1, 1) := by
  decide +kernel

/-- Register s1 is the source, s2 the destination, and s3 the length of a copy. -/
def copying : State := regs [(1, own 128), (2, own 192), (3, 64)] (unit 0)
/-- Register s1 names a descriptor of COPY2D at transit line 2: from line 3 to line 4, one row of 16 bytes. -/
def copying2 : State := filled [(128, 8, (own 192).toNat), (136, 8, (own 256).toNat), (144, 4, 1), (148, 4, 16)] (regs [(1, own 128)] (unit 0))
/-- Register s1 names a descriptor of COPYG: from the window, one row of 4 bytes, to line 4, by 32-bit indexes at line 3. -/
def copyingG : State :=
  filled [(128, 8, 0x00FFFF0000000000), (136, 8, (own 256).toNat), (144, 8, (own 192).toNat), (152, 2, 4), (156, 4, 1)] (regs [(1, own 128)] (unit 0))
/-- Entry 1 is a copy binding that nothing has fed. -/
def unfed : State := (regs [(1, own 128), (2, 1), (3, 64)] (unit 0)).modIo 0 (fun io => { io with descs := io.descs.setIfInBounds 1 { inUse := true, copy := true } })

theorem witness_CopyIssue : copying.cur.ctx = 0 ∧ copying.curTile.eng.ops.length < 32 ∧ copying.curTile.eng.count 0 ≠ 63 ∧ copying.curTile.eng.count 7 = 0 ∧
    (fmtOk (own 192) = true ∧ ptrFmt (own 192) = 0 ∧ ptrOff (own 192) + 64 ≤ 2 ^ 40) ∧ (copying.curCtx.sreg 0).toNat = 0 ∧ (copying.curCtx.sreg 3).toNat = 64 ∧
    ((unfed.curTile.desc 1).inUse = true ∧ (unfed.curTile.desc 1).copy = true ∧ (unfed.curTile.desc 1).slots = 0) ∧
    (∃ bs, ownDesc (own 128) 32 (started copying2) = .ok bs (started copying2) ∧ descField bs 16 4 = 1 ∧ descField bs 20 4 = 16 ∧
      rowsForm (descPtr bs 0) 1 16 (descInt bs 24) (started copying2) = .ok () (started copying2) ∧
      rowsForm (descPtr bs 8) 1 16 (descInt bs 28) (started copying2) = .ok () (started copying2)) ∧
    (∃ bs, ownDesc (own 128) 32 (started copyingG) = .ok bs (started copyingG) ∧ bs.length = 32 ∧ descField bs 24 2 = 4 ∧ descField bs 28 4 = 1 ∧ descField bs 26 2 < 2 ∧
      (BitVec.ofNat 512 (natOfBytes bs)).getLsbD 208 = false ∧ descPtr bs 8 = own 256 ∧ descPtr bs 16 = own 192 ∧ fmtOk (descPtr bs 0) = true) ∧
    (∃ die o, resolveDie copyingG 0 (own 192) = some die ∧ spotFor copyingG die 0 (ptrOff (own 192)) = .spad 0 o) ∧
    ((4 : BitVec 3).toNat, 10, 8) ∈ [(0, 1, 4), (1, 2, 2), (2, 3, 2), (3, 9, 4), (4, 10, 8)] ∧ (busy 0).curTile.eng.count 0 ≠ 0 := by
  refine ⟨by decide +kernel, by decide +kernel, by decide +kernel, by decide +kernel, by decide +kernel, by decide +kernel, by decide +kernel, by decide +kernel,
    ⟨bytesOfNat 32 ((own 192).toNat + (own 256).toNat * 2 ^ 64 + 2 ^ 128 + 16 * 2 ^ 160), stays_of (by decide +kernel), by decide +kernel, by decide +kernel,
      stays_of (by decide +kernel), stays_of (by decide +kernel)⟩,
    ⟨bytesOfNat 32 (0x00FFFF0000000000 + (own 256).toNat * 2 ^ 64 + (own 192).toNat * 2 ^ 128 + 4 * 2 ^ 192 + 2 ^ 224), stays_of (by decide +kernel), by decide +kernel⟩,
    ⟨0, 192, by decide +kernel, by decide +kernel⟩, by decide, by decide +kernel⟩
theorem test_copy : after (exec (.copy 2 1 3 7 0) copying) (fun s => (s.curTile.eng.count 7, s.curTile.eng.ops.length, s.pending)) =
      some (1, 1, [.copyComplete 0 0 0]) ∧ after (exec (.copy 2 1 0 7 0) copying) (fun s => (s.curTile.eng.count 7, s.pending)) = some (0, []) := by decide +kernel
theorem test_waitt : after (exec (.waitt 1) (busy 0)) (fun s => s.curCtx.wait) = some (some (.tokens 1 false)) ∧
    after (exec (.waitt 2) (busy 0)) (fun s => s.curCtx.pc) = some (own 4) := by decide +kernel

/-- Register s1 names a descriptor of COLL at transit line 2: one F32 of line 4 to line 5, copied to tile 0 by a DELIVER alone. -/
def colling : State := filled [(128, 8, (own 256).toNat), (136, 8, (own 320).toNat), (144, 4, 1), (149, 1, 3), (151, 1, 1), (160, 4, 3 * 2 ^ 28)]
  (regs [(1, own 128)] (unit 0))
theorem witness_NetworkWords : copying.curCtx.handle = none ∧ (∃ die o, resolveDie (started copying).s 0 (own 128) = some die ∧
      spotFor (started copying).s die 0 (ptrOff (own 128)) = .spad 0 o) ∧ (1 ≤ (copying.curCtx.sreg 3).toNat ∧ (copying.curCtx.sreg 3).toNat ≤ 1024) ∧
    (∃ bs, ownDesc (own 128) 64 (started colling) = .ok bs (started colling) ∧ collOk colling 0 bs = true ∧
      (match readRaw { self colling with engine := true } (accAt (descPtr bs 0) 0 (descField bs 16 4 * collSize (descField bs 20 1)) 1 .load) colling with
        | .ok data s1 => decide (data = [0, 0, 0, 0] ∧ s1.curTile = colling.curTile ∧ s1.cur = colling.cur)
        | .error _ _ => false) = true) ∧
    (resolveDie mems 0 (own 0) = some 0 ∧ msgTarget mems 0 (own 0) 0 = some 0 ∧ mems.curTile.io.msgs.length < 64) := by
  refine ⟨by decide +kernel, ⟨0, 128, by decide +kernel, by decide +kernel⟩, by decide +kernel,
    ⟨bytesOfNat 64 ((own 256).toNat + (own 320).toNat * 2 ^ 64 + 2 ^ 128 + 3 * 2 ^ 168 + 2 ^ 184 + 3 * 2 ^ 28 * 2 ^ 256), stays_of (by decide +kernel), by decide +kernel, by decide +kernel⟩,
    by decide +kernel⟩
theorem test_msg_held : after (exec (.msg 1 2 3) (regs [(1, own 0), (2, 9), (3, 7)] (unit 0))) (fun s => s.curTile.io.msgs) = some [{ src := 0, tile := 0, tag := 7, payload := 9 }] := by
  decide +kernel
theorem test_coll : after (exec (.coll 1 0) colling) (fun s => (s.curTile.eng.count 0, s.pending.length)) = some (1, 1) := by decide +kernel

/-- A CON unit with one FREE handle, number 0. -/
def oneHandle : State := (unit 2).modCsr 0 (fun r => { r with books := Vector.ofFn (fun i => if i.val = 0 then {} else { stat := .lapsed }) })
/-- Register s1 is a target, s2 a mask, s4 and s5 arguments; booking 3 is in the state `b`. -/
def starting (b : BkStat) : State :=
  (regs [(1, own 64), (2, 2), (4, 40), (5, 50)] (unit 2)).modCsr 0 (fun r => { r with books := r.books.setIfInBounds 3 { stat := b, start := 5 } })
theorem witness_HelperAndBookingWords : (starting .free).cur.ctx = 0 ∧ (∃ u, (starting .free).curTile.work = some u ∧ (3#4).toNat ≤ u.helpers) ∧ (4#5).getLsbD 0 = false ∧
    queueOf (starting .free).curCtx 2 = none ∧ queueOf (starting .free).curCtx 4 = none ∧ queueOf (starting .free).curCtx 5 = none ∧
    maskCount ((starting .free).curCtx.sreg 2) ≤ 16 ∧ (own 64).extractLsb' 56 8 = 0 ∧ (∃ p w, srcS 1 (started (starting .free)) = .ok p w) ∧
    ((starting .free).curTile.ctx 1).st = .idle ∧ (∀ k ∈ (starting .free).curTile.csr.books.toList, k.tied ≠ some 1) ∧ ((starting .booked).curTile.book 3).stat = .booked ∧
    (starting .booked).curTile.csr.slot < ((starting .booked).curTile.book 3).start ∧ ((starting .lapsed).curTile.book 3).stat = .lapsed ∧
    ((starting .running).curTile.book 3).stat = .running ∧ (∃ m w1 w2, srcS 2 (started (starting .free)) = .ok m w1 ∧ roomS 6 w1 = .ok () w1 ∧ m &&& ~~~0x7FE#64 = 0 ∧
      dstS 6 0 w1 = .ok () w2) ∧ ((unit 2).setCtx 0 1 { st := .live }).curTile.ctx 1 = { st := .live } ∧
    bookSearch oneHandle 0 1 1 = .ok (0, 1) ∧ bookSearch (unit 2) 0 0 1 = .error 3 ∧
    (∃ a b w1 w2 w3, srcS 1 (started (starting .free)) = .ok a w1 ∧ srcS 2 w1 = .ok b w2 ∧ roomS 6 w2 = .ok () w2 ∧ dstS 6 (BitVec.ofNat 64 3) w2 = .ok () w3) ∧
    (∃ v w1 w2, srcS 2 (started (starting .free)) = .ok v w1 ∧ v.toNat < 16 ∧ roomS 6 w1 = .ok () w1 ∧ dstS 6 0 { w1 with s := setBook w1.s 0 v.toNat {} } = .ok () w2) ∧
    (linkSum (bookedIn (unit 2).curTile none 63) < 2 ^ 24 ∧ quarters (bookedIn (unit 2).curTile none 63) ≤ 4) := by
  refine ⟨by decide +kernel, ⟨_, rfl, by decide⟩, by decide, by decide +kernel, by decide +kernel, by decide +kernel, by decide +kernel, by decide +kernel,
    ⟨_, _, srcS_reg rfl⟩, by decide +kernel, by decide +kernel, by decide +kernel, by decide +kernel, by decide +kernel, by decide +kernel,
    ⟨_, _, _, srcS_reg rfl, rfl, by decide +kernel, dstS_reg rfl⟩, by decide +kernel, ?_, ?_, ⟨_, _, _, _, _, srcS_reg rfl, srcS_reg rfl, rfl, dstS_reg rfl⟩,
    ⟨_, _, _, srcS_reg rfl, by decide +kernel, rfl, dstS_reg rfl⟩, by decide +kernel⟩
  · have h : (match bookSearch oneHandle 0 1 1 with | .ok e => decide (e = (0, 1)) | .error _ => false) = true := by decide +kernel
    revert h; cases bookSearch oneHandle 0 1 1 <;> intro h <;> simp_all
  · have h : (match bookSearch (unit 2) 0 0 1 with | .ok _ => false | .error e => decide (e = 3)) = true := by decide +kernel
    revert h; cases bookSearch (unit 2) 0 0 1 <;> intro h <;> simp_all
theorem test_start : after (exec (.start 2 1 4 0) (starting .free)) (fun s => (s.curCtx.sreg 2, (s.ctx 0 1).st, (s.ctx 0 1).sreg 1, (s.ctx 0 1).sreg 2, (s.ctx 0 1).pc)) =
    some (1, .live, 40, 50, own 64) := by decide +kernel
theorem test_book : after (exec (.book 6 1 2) (regs [(1, 1), (2, 1)] oneHandle)) (fun s => (s.curCtx.sreg 6, (s.curTile.book 0).stat)) =
    some (2 ^ 18 + 2 ^ 12, .booked) := by decide +kernel

/-- Job 0 has module 0, and group 0 of die 0 has its descriptor at 0x300000: learner `l`, versions 5 and back to 5. -/
def grouping (l : Nat) : State :=
  let s := windowed.modDie 0 (fun x => { x with polgrp := [(0, 0x300000)] })
  let m := Memory.writeN (Memory.writeN s.mem 0x300000 (bytesOfNat 8 l)) 0x300028 (bytesOfNat 8 0x00050005)
  { s with jobs := [(0, { box := [0], dieMap := [BitVec.ofNat 64 (2 ^ 62)] })], mem := m }
/-- Register s1 names a ring of one record at kept line 1, described at kept line 0. -/
def recording : State := filled [(0, 8, (own 64).toNat), (8, 4, 1)] (regs [(1, own 0), (2, 5)] (unit 0))
theorem witness_PolicyWords : (∃ u, (grouping 0).curTile.work = some u ∧ u.policy ≠ 255 ∧ u.part % 256 = 0 ∧ ((grouping 0).part u.barKey).publish = false) ∧ groupDies (grouping 0) 0 0 = [(0, 0x300000)] ∧
    groupDies windowed 0 0 = [] ∧ groupLearner (grouping 0) 0 0x300000 = 0 ∧ groupLearner (grouping 1) 0 0x300000 = 1 ∧
    resident (grouping 0) 0 0 5 = true ∧ resident (grouping 0) 0 0 4 = false ∧ groupPages (grouping 0) 0 0 = [] ∧
    (fmtOk (own 0) = true ∧ ptrOff (own 0) % 64 = 0 ∧ inKept recording 0 (own 0) 64 = true) ∧
    (∃ bs s1, readAcc (self recording) (accAt (own 0) 0 64 64 .load) recording = .ok bs s1 ∧
      descPtr bs 0 = own 64 ∧ descField bs 8 4 = 1 ∧ descField bs 16 48 = 0 ∧ inKept recording 0 (own 64) 16 = true ∧
      ∃ s2, writeAcc (self recording) (accAt (own 64) 0 16 16 .store) (bytesOfNat 16 5) s1 = .ok () s2 ∧
        ∃ s3, writeAcc (self recording) (accAt (own 0) 12 4 4 .store) (bytesLE 4 (BitVec.ofNat 32 1)) s2 = .ok () s3) := by
  refine ⟨⟨_, rfl, by decide, by decide, by decide +kernel⟩, by decide +kernel, by decide +kernel, by decide +kernel, by decide +kernel, by decide +kernel, by decide +kernel,
    by decide +kernel, by decide +kernel, ?_⟩
  obtain ⟨s1, h1, x, h2⟩ := ok2_of (m := readAcc (self recording) (accAt (own 0) 0 64 64 .load))
    (f := fun _ => do writeAcc (self recording) (accAt (own 64) 0 16 16 .store) (bytesOfNat 16 5); writeAcc (self recording) (accAt (own 0) 12 4 4 .store) (bytesLE 4 (BitVec.ofNat 32 1)))
    (s := recording) (a := bytesOfNat 64 ((own 64).toNat + 2 ^ 64)) (b := ()) (by decide +kernel)
  refine ⟨_, s1, h1, by decide +kernel, by decide +kernel, by decide +kernel, by decide +kernel, ?_⟩
  simp only [bind, EStateM.bind] at h2
  split at h2
  · next e => exact ⟨_, e, _, h2⟩
  · cases h2
theorem test_pubv : after (exec (.pubv 6) (grouping 0)) (fun s => (s.curCtx.sreg 6, s.parts.any (fun p => p.2.publish))) = some (0x60000, true) ∧
    after (exec (.pubv 6) (grouping 1)) (fun s => s.curCtx.sreg 6) = some 2 := by decide +kernel
theorem test_tkrec : after (exec (.tkrec 2 1) recording) (fun s => (tileByte s 0 0 false 64, tileByte s 0 0 false 12)) = some (5, 1) := by decide +kernel

/-- As `grouping 0`, with a policy page whose four slots hold versions 5, 4, 3 and 2, each in use. -/
def crowded : State :=
  let s := grouping 0
  let slots := [5, 4, 3, 2].foldl (fun (e : Memory × Nat) v => (Memory.writeN e.1 (0x400008 + 8 * e.2) (bytesOfNat 8 (v * 2 ^ 48 + 0x600001)), e.2 + 1)) (s.mem, 0)
  let user (v : Nat) : Tile := { work := some bareUnit, csr := { pvCur := BitVec.ofNat 16 v } }
  { s with mem := Memory.writeN slots.1 0x20008 (bytesOfNat 8 0x400011), tiles := s.tiles ++ [(1, user 4), (2, user 3), (3, user 2)] }
theorem witness_publication_full : after (exec (.pubv 6) crowded) (fun s => s.curCtx.sreg 6) = some 1 := by decide +kernel

/-! ### Waits that end -/

/-- The state that an instruction or an event leads to. -/
def go (i : Instr) (s : State) : State :=
  match exec i s with
  | .next t => t
  | _ => s

/-- LDFE of transit line 2 waits; its word has become full. -/
def woken : State := { go (.ldfe 6 1 0) mems with full := [spadKey 0 128] }
/-- A gathered element of 4 bytes at transit line 2 waits on a page service. -/
def gathering (write : Bool) : State :=
  let w : PageWait := { elem := 1, die := 0, fn := 0, stage := 1, tag := 0, addr := own 128, write := write, size := 4, data := 7, parked := none, solo := false }
  mems.modCur (fun x => { x with wait := some (.pages [w] 1 0) })
/-- Its access. -/
def replayed (kind : AccKind) : Acc :=
  { base := own 128, p := own 128, ovf := false, size := 4, align := 1, kind := kind, contig := false, elem := 1, solo := false, data := 7 }
/-- DEQ of s6 waits at an empty ring, in which one entry then stands. -/
def served : State :=
  let s := go (.deq 6 1 0 0) (ring 0)
  { s with mem := Memory.writeN s.mem 0x200018 (bytesOfNat 8 1) }
/-- ENQ of s5 waits at a full ring, which then has three entries. -/
def enqueued : State :=
  let s := go (.enq 6 1 5 0) (ring 4)
  { s with mem := Memory.writeN s.mem 0x200018 (bytesOfNat 8 3) }
/-- Helper 1, of live mask 2, waits long at an empty ring; the continuation area of its launch is the second page of the window's frame. -/
def longing : State :=
  let b : BitVec 1024 := BitVec.ofNat 1024 (0x00FFFF0000010000 * 2 ^ (8 * 80) + 2 ^ (8 * 88))
  let l : Launch := { block := b, modl := 0, fn := 0, ring := 0, job := 0, phase := .running }
  let s := { ring 0 with launches := [(0, l)] }
  go (.deq 6 1 0 0) (regs [(1, 0x00FFFF0000000000)] (asCtx (s.setCtx 0 1 { st := .live, pc := own 0, liveMask := 2 }) 0 1))
/-- SSB waits for token 0 of a CON unit, which then counts no operation. -/
def arriving : State := (go (.ssb 3 5 4) (busy 2)).modEng 0 (fun e => { e with tok := e.tok.setIfInBounds 0 0 })

theorem witness_WaitsEnd : (∃ e l, (((unit 0).modIo 0 (fun io => { io with heldIn := [9] })).tile 0).io.heldIn = e :: l) ∧ ((unit 0).tile 0).io.inbox.length < 32 ∧
    (feReady woken (spadKey 0 128) = some (0, 0) ∧ (woken.ctx 0 0).wait = some (.fe (spadKey 0 128) 0 6 0) ∧ tileKey (spadKey 0 128 / 2 ^ 40) (bits (spadKey 0 128) 20 10) = 0 ∧
      spadKey 0 128 % 2 ^ 20 = 128 ∧ regionOf woken 0 false 128 ≠ .kept) ∧
    (∃ ws w, ((gathering false).ctx 0 0).wait = some (.pages ws 1 0) ∧ ws.find? (fun x => decide (x.elem = 1)) = some w ∧ w.write = false ∧ w.addr = own 128) ∧
    (∃ t, readAcc { tile := 0, ctx := 0, engine := false } (replayed .load) (rewindTwin (gathering false) 0) = .ok [0, 0, 0, 0] t) ∧
    (∃ t, writeAcc { tile := 0, ctx := 0, engine := false } (replayed .store) (bytesLE 4 (7 : Word)) (rewindTwin (gathering true) 0) = .ok () t) ∧
    (∃ w, ringReady served 0x200000 = some w ∧ w.enq = false) ∧ (∃ w, ringReady enqueued 0x200000 = some w ∧ w.enq = true) ∧
    (∃ x t, openRing { tile := 0, ctx := 0, engine := false } 0x00FFFF0000000000 (asCtx served 0 0) = .ok x t) ∧
    ((longing.ctx 0 1).wait = some (.ring 0x200000) ∧ (∃ w, (longing.die 0).waiters.find? (fun w => decide (w.tile = 0) && decide (w.ctx = 1)) = some w ∧ w.enq = false) ∧
      becomesCont longing 0 1 = true ∧ (makeCont longing 0 1 [] true).2 = none ∧ becomesCont served 0 0 = false) ∧
    ((arriving.ctx 0 0).wait = some (.ssb 3 5 4) ∧ (∃ u, (arriving.tile 0).work = some u ∧ u.cls = 2) ∧ (arriving.tile 0).twin = none) := by
  refine ⟨⟨9, [], by decide +kernel⟩, by decide +kernel, by decide +kernel, ⟨_, _, rfl, rfl, rfl, rfl⟩, ok_of (by decide +kernel), ok_of (by decide +kernel), ?_, ?_, ?_,
    ⟨by decide +kernel, ?_, by decide +kernel, by decide +kernel, by decide +kernel⟩, ⟨by decide +kernel, ?_, by decide +kernel⟩⟩
  · have h : (ringReady served 0x200000).map (fun w => w.enq) = some false := by decide +kernel
    simpa [Option.map_eq_some_iff] using h
  · have h : (ringReady enqueued 0x200000).map (fun w => w.enq) = some true := by decide +kernel
    simpa [Option.map_eq_some_iff] using h
  · have h : (okVal (openRing { tile := 0, ctx := 0, engine := false } 0x00FFFF0000000000 (asCtx served 0 0))).isSome = true := by decide +kernel
    obtain ⟨x, h⟩ := Option.isSome_iff_exists.mp h
    exact ⟨x, ok_of h⟩
  · have h : ((longing.die 0).waiters.find? (fun w => decide (w.tile = 0) && decide (w.ctx = 1))).map (fun w => w.enq) = some false := by decide +kernel
    simpa [Option.map_eq_some_iff] using h
  · have h : (arriving.tile 0).work.map (fun u => u.cls) = some 2 := by decide +kernel
    simpa [Option.map_eq_some_iff] using h
theorem test_fe_wake : after (exec (.feWaiterWake (spadKey 0 128)) woken) (fun s => (s.curCtx.wait, s.curCtx.pc, s.full)) = some (none, own 4, []) := by decide +kernel
theorem test_ring_wake : after (exec (.qcWaiterServe 0x200000) enqueued) (fun s => (s.curCtx.pc, Memory.readN s.mem 0x200018 1)) = some (own 4, [4]) := by decide +kernel
theorem test_deq_long : after (exec (.deqLongWait 0 0 1) longing) (fun s => ((s.ctx 0 1).st, (s.die 0).waiters.length, (s.part 0).records.length)) = some (.idle, 0, 1) := by
  decide +kernel
theorem test_ssb_arrives : after (exec (.ssbArrive 0 0) arriving) (fun s => ((s.ctx 0 0).wait, s.pending.length)) = some (some .barrier, 2) := by decide +kernel

/-! ### Boundaries -/

/-- A record of superstep 0: value, count, rop and vote. -/
def record (v : Word) (count : BitVec 26) (op : BitVec 3) (vote : BitVec 2) : BitVec 128 := v ++ 0#32 ++ count ++ op ++ 0#1 ++ vote

/-- Tile 0 of a CON unit whose barrier tree has one die of the tiles `l`, as children of die 0. -/
def treed (l : List Nat) : State := (unit 2).modPart 0 (fun p => { p with
  nodes := [(0, { children := l }), (2 ^ 40, { children := [0] }), (2 ^ 41, { children := [2 ^ 40] })] })
/-- The same, whose module node has sent its whole record. -/
def rooted (l : List Nat) : State := (unit 2).modPart 0 (fun p => { p with
  nodes := [(0, { children := [0] }), (2 ^ 40, { children := [0], full := true }), (2 ^ 41, { children := l })] })

theorem witness_BarrierTree : ((treed [0]).part 0).bar = .running ∧ (record 5 1 0 0).extractLsb' 32 32 = ((treed [0]).part 0).ssn ∧
    (∃ n, Map.get? ((treed [0, 1]).part 0).nodes 0 = some n ∧ n.children = [0, 1]) ∧
    (∃ n, Map.get? ((rooted [2 ^ 40]).part 0).nodes (2 ^ 41) = some n ∧ Map.get? n.recs (2 ^ 40) = none ∧ n.sent = 0 ∧ n.full = false) ∧
    (∃ c, Map.get? ((rooted [2 ^ 40]).part 0).nodes (2 ^ 40) = some c ∧ c.full = true) ∧ (rooted [2 ^ 40]).pending = [] ∧
    (∀ v : BitVec 2, (mergeRecs 0 [record 5 1 0 v]).extractLsb' 0 2 = v) ∧ (rooted [2 ^ 40]).isIrrevocable 0 = false ∧
    ((rooted [2 ^ 40]).modDie 0 (fun x => { x with irrevocable := [(0, 0)] })).isIrrevocable 0 = true ∧
    mixedOps ((rooted [2 ^ 40]).part 0) = false ∧
    mixedOps (((rooted [2 ^ 40]).modPart 0 (fun p => { p with nodes := Map.set p.nodes 0 { children := [0, 1], recs := [(0, record 5 1 2 0), (1, record 5 1 3 0)] } })).part 0) = true ∧
    ((record 5 1 4 0).extractLsb' 6 26 ≠ 0 ∧ (record 5 1 4 0).extractLsb' 3 3 = (record 6 2 4 1).extractLsb' 3 3 ∧ ((record 5 1 4 0).extractLsb' 3 3).toNat < 5) :=
  ⟨by decide +kernel, by decide +kernel, ⟨_, rfl, rfl⟩, ⟨_, rfl, by decide, by decide, by decide⟩, ⟨_, rfl, rfl⟩, by decide +kernel, by decide +kernel, by decide +kernel,
   by decide +kernel, by decide +kernel, by decide +kernel, by decide⟩
theorem test_die_node : after (exec (.barrierRecord 0 0 0 0 (record 5 1 0 0)) (treed [0])) (fun s => s.pending) =
      some [.barrierRecord 0 1 (2 ^ 40) 0 (record 5 1 0 0)] ∧
    after (exec (.barrierRecord 0 0 0 0 (record 5 1 0 0)) (treed [0, 1])) (fun s => s.pending) = some [] := by decide +kernel
theorem test_root_votes : after (exec (.barrierRecord 0 2 (2 ^ 41) (2 ^ 40) (record 5 1 0 0)) (rooted [2 ^ 40])) (fun s => (s.part 0).bar) = some .committing ∧
    after (exec (.barrierRecord 0 2 (2 ^ 41) (2 ^ 40) (record 5 1 0 1)) (rooted [2 ^ 40])) (fun s => (s.part 0).bar) = some .aborting := by decide +kernel

/-- A CON tile whose kept line 0 holds a local delta, and a remote delta of byte 1 that came later. -/
def deltas : State := (unit 2).modStep 0 (fun st => { st with locals := [(0, { data := 0x2211, fe := 1 })]
                                                              remotes := [(0, { data := 0x9900, mask := 2, last := 2 })], ssbReg := some 7 })
theorem witness_TileBoundaries : (∃ u, (deltas.tile 0).work = some u ∧ u.cls = 2) ∧ (deltas.tile 0).step.halting = false ∧ Canonical deltas ∧
    (∀ c < 11, (deltas.ctx 0 c).st ≠ .frozen) ∧ (deltas.part 0).switchAbort = false ∧ (deltas.ctx 0 0).frame = none ∧ (deltas.ctx 0 0).depth = 0 ∧
    (∃ u, ((unit 0).tile 0).work = some u ∧ u.cls ≠ 2) := ⟨⟨_, rfl, rfl⟩, by decide +kernel, ⟨by decide +kernel, by decide +kernel⟩, by decide +kernel, by decide +kernel,
      by decide +kernel, by decide +kernel, ⟨_, rfl, by decide⟩⟩
theorem test_commit_deltas : after (exec (.commit 0 0) (deltas.modPart 0 (fun p => { p with result := record 0xAB 1 0 0 }))) (fun s =>
    (Memory.readN s.mem (spadKey 0 0) 2, (s.tile 0).step.ssn, (s.ctx 0 0).sreg 7, s.full)) =
    some ([0x11, 0x99], 1, 0xAB, [spadKey 0 0]) := by decide +kernel
theorem test_abort_deltas : after (exec (.abort 0 0) deltas) (fun s => (Memory.readN s.mem (spadKey 0 0) 2, (s.tile 0).step.ssn, (s.tile 0).step.retry)) =
    some ([0, 0], 0, 1) := by decide +kernel

/-- Die 0 has recorded line 3 of superstep 0 of partition 0, and that granule 5 was not sealed. -/
def recorded : State := (unit 2).modDie 0 (fun x => { x with undo := [{ part := 0, controller := 0, line := 3, tags := 0x21, data := 0x77, poisoned := false }]
                                                             seals := [5], sealLog := [(0, 5, false)] })
theorem witness_ControllerBoundaries : (∀ r ∈ (recorded.die 0).irrevocable, r.1 ≠ 0) ∧ Canonical recorded ∧ (recorded.die 0).undo.length = 1 ∧
    (recorded.die 0).sealLog.length = 1 ∧ (∃ r ∈ (((rooted []).modDie 0 (fun x => { x with irrevocable := [(0, 0)] })).die 0).irrevocable, r.1 = 0) :=
  by and_intros <;> decide +kernel
theorem test_undo : after (exec (.controllerAbort 0 0) recorded) (fun s => (Memory.readN s.mem 192 1, (s.die 0).tagOf 6, (s.die 0).tagOf 7, (s.die 0).seals)) =
    some ([0x77], 1, 2, []) := by decide +kernel

/-- Partition 0 waits for the reports of `l` at a boundary that is `b`. -/
def reporting (b : BarrierState) (l : List Nat) : State := (unit 2).modPart 0 (fun p => { p with bar := b, undone := l })
theorem witness_SuperstepEvents : ((reporting .committing [0, 1]).part 0).undone.filter (fun w => w != 0) ≠ [] ∧
    ((reporting .committing [0]).part 0).undone.filter (fun w => w != 0) = [] ∧ ((reporting .aborting [0]).part 0).switchAbort = false ∧
    ((reporting .committing [0]).part 0).launch = some 0 ∧ (Map.get? (reporting .committing [0]).launches 0).isSome = true ∧
    (linkStuck (unit 2) 0 = false ∧ ((unit 2).tile 0).step.deferred = [] ∧
      (((unit 2).modStep 0 (fun st => { st with deferred := [(0x23, 0)] })).tile 0).step.deferred = [(0x23, 0)]) ∧
    ([1, 2] ≠ ([] : List Byte) ∧ 62 % 64 + [1, 2].length ≤ 64 ∧ 0 < ((unit 2).tile 0).poolFree false ∧ Map.get? ((unit 2).tile 0).step.remotes (lineOf false 62) = none ∧
      ((unit 2).modTile 0 (fun t => { t with work := t.work.map (fun u => { u with spool := 0 }) }) |>.tile 0).poolFree false = 0) ∧
    (∃ u, ((unit 2).tile 0).work = some u ∧ u.cls = 2 ∧ ((unit 2).tile 0).step.bound = false) ∧
    (∃ u, ((unit 0).tile 0).work = some u ∧ u.cls ≠ 2 ∧ ((unit 0).part u.barKey).bar = .running ∧ (unit 0).isIrrevocable u.barKey = false ∧
      Map.get? (unit 0).launches u.launch ≠ none) :=
  ⟨by decide +kernel, by decide +kernel, by decide +kernel, by decide +kernel, by decide +kernel, by decide +kernel, by decide +kernel,
   ⟨_, rfl, by decide, by decide +kernel⟩, ⟨_, rfl, by decide, by decide +kernel, by decide +kernel, by decide +kernel⟩⟩
/-- The page fetch of `fetching` is under way; the window is mapped. -/
def staging : State := go (.pfl 6 1) { mapped 0 fetching with mem := (mapped 0 fetching).mem }
/-- A die on which an unmapped page of function 0 is referred to the page service, and an entry whose one row lies in such a page. -/
def referred : State := { unit 0 with
  mem := Memory.writeN (Memory.writeN [] 0x50000 (bytesOfNat 8 0x60000)) 0x50008 (bytesOfNat 4 16)
  dies := [(0, { tctx := (Vector.replicate 32 0#512).setIfInBounds 0 (BitVec.ofNat 512 (0x10000 + 0x50000 * 2 ^ (8 * 24) + 2 ^ (8 * 41 + 3))) })] }
def rowEntry : StagingEntry := { id := 0, src := 0x00FFFF0000000000, dst := own 192, len := 64, rowb := 0, gather := false, idx := 0, st := 0, pc := own 0, waits := [] }
theorem witness_StagedFetches : (∃ e, (staging.tile 0).step.entries.find? (fun x => decide (x.id = 0)) = some e ∧ (e.gather = false ∧ e.st = 0 ∧ e.rows = [] ∧ e.waits = []) ∧
      transitRange staging 0 e.dst e.len = some (false, 192) ∧ e.src = 0x00FFFF0000000000 ∧ e.len = 64) ∧ (staging.tile 0).twin = none ∧
    (∃ t, readAcc { tile := 0, ctx := 0, engine := true, unit := stageKey 0 0, subreg := some (staging.tile 0).csr.subreg } (accAt 0x00FFFF0000000000 0 64 1 .load) staging =
      .ok (List.replicate 64 0) t) ∧
    (∃ e e1 s1 s2 w, e.rows.contains 0 = false ∧ e.waits = [] ∧ twinStep 0 (stageKey e.id 0) (readIndices (e.self 0 0) e 0) referred = .ok e1 s1 ∧
      twinStep 0 (stageKey e1.id 0) (stageRow (e1.self 0 0) e1 0) s1 = .error (.refer w) s2 ∧ (s2.tile 0).twin = none) := by
  refine ⟨?_, by decide +kernel, ok_of (by decide +kernel), ?_⟩
  rotate_left
  · have h : (match twinStep 0 (stageKey 0 0) (stageRow (rowEntry.self 0 0) rowEntry 0) referred with
      | .error (.refer _) t => decide ((t.tile 0).twin = none)
      | _ => false) = true := by decide +kernel
    cases e : twinStep 0 (stageKey 0 0) (stageRow (rowEntry.self 0 0) rowEntry 0) referred with
    | ok a t => rw [e] at h; cases h
    | error x t =>
      rw [e] at h
      cases x with
      | refer w => exact ⟨rowEntry, rowEntry, referred, t, w, rfl, rfl, rfl, e, by simpa using h⟩
      | _ => cases h
  have h : ((staging.tile 0).step.entries.find? (fun x => decide (x.id = 0))).any (fun e => (!e.gather && decide (e.st = 0) && decide (e.rows = []) && decide (e.waits = [])) && decide (transitRange staging 0 e.dst e.len = some (false, 192)) &&
    decide (e.src = 0x00FFFF0000000000) && decide (e.len = 64)) = true := by decide +kernel
  cases e : (staging.tile 0).step.entries.find? (fun x => decide (x.id = 0)) with
  | none => rw [e] at h; cases h
  | some x => rw [e] at h; exact ⟨x, rfl, by simpa [and_assoc] using h⟩
theorem test_last_report : after (exec (.reportDone 0 0) (reporting .committing [0])) (fun s => ((s.part 0).ssn, (s.part 0).gen, (s.part 0).bar)) =
    some (1, 0, .running) := by decide +kernel
theorem test_remote_write : after (exec (.remoteKeptWrite 0 0 false 62 [1, 2]) (unit 2)) (fun s => ((Map.get? (s.tile 0).step.remotes 0).map (fun d => (d.mask, vecByte d.data 62, vecByte d.data 63)))) =
    some (some (0xC000000000000000, 1, 2)) := by decide +kernel
theorem test_forced : after (exec (.forcedEvent 0 0 0x24) (unit 2)) (fun s => ((s.tile 0).step.pend, (s.tile 0).step.cause, s.pending)) =
    some (true, 0x24, [.barrierRecord 0 0 0 0 (record 0 0 0 1)]) := by decide +kernel

/-! ### Records, slots, engines, launches, registers, the host -/

theorem some_of {α : Type} {o : Option α} {p : α → Prop} [DecidablePred p] (h : o.any (fun a => decide (p a)) = true) : ∃ a, o = some a ∧ p a := by
  cases o with
  | none => cases h
  | some a => exact ⟨a, rfl, by simpa using h⟩
theorem one_of {α : Type} {l : List α} {p : α → Prop} [DecidablePred p] (h : l.length = 1 ∧ l.all (fun a => decide (p a)) = true) : ∃ a, l = [a] ∧ p a := by
  obtain ⟨a, rfl⟩ := List.length_eq_one_iff.mp h.1
  exact ⟨a, rfl, by simpa using h.2⟩

/-- A unit whose helper has left its continuation record at transit line 2, ready. -/
def resuming : State := go (.cont 1 2) continuing
/-- Helper 1 of booking 0, in slot 2 of its window of `n` slots that began with slot 1; the helper is live where `l`. -/
def booking (b : BkStat) (t : Option Nat) (n start : Nat) : State :=
  let e : Booking := { stat := b, size := BitVec.ofNat 64 n, start := start, tied := t, pc := own 64 }
  ((unit 2).setCtx 0 1 { st := .live, handle := some 0, wait := some .inbox }).modCsr 0 (fun r => { r with books := r.books.setIfInBounds 0 e })
theorem witness_RecordsAndSlots : (∃ r, (readyRecords (resuming.part 0)).head? = some r ∧ r.refused = false ∧ r.frame = none ∧ r.loc = BitVec.ofNat 64 0x8000000080) ∧
    resumePlace resuming 0 = some (0, 1) ∧ (∃ bs s1, readRecord { tile := 0, ctx := 1, engine := true } (BitVec.ofNat 64 0x8000000080) resuming = .ok bs s1 ∧ descField bs 51 1 % 2 = 0) ∧
    (∃ u, ((booking .free none 1 1).tile 0).work = some u) ∧ ((booking .free none 1 1).tile 0).csr.slot = 0 ∧ (∀ j < 16, j ≠ 0 → (((booking .free none 1 1).tile 0).book j).stat = .free) ∧
    (((booking .booked none 1 1).tile 0).book 0).start = 0 + 1 ∧ (((booking .booked (some 1) 1 1).tile 0).book 0).tied = some 1 ∧
    (((booking .running (some 1) 1 0).tile 0).book 0).start + bkDur (((booking .running (some 1) 1 0).tile 0).book 0).size ≤ 0 + 1 ∧
    (((booking .running (some 1) 1 0).ctx 0 1).st = .live ∧ ((booking .running (some 1) 1 0).ctx 0 1).handle = some 0 ∧ ((booking .running (some 1) 1 0).ctx 0 1).wait = some .inbox) ∧
    (((booking .running none 1 0).tile 0).book 0).tied = none := by
  refine ⟨some_of (by decide +kernel), by decide +kernel, ?_, ⟨_, rfl⟩, by decide +kernel, by decide +kernel, by decide +kernel, by decide +kernel,
    by decide +kernel, by decide +kernel, by decide +kernel⟩
  have h : (okVal (readRecord { tile := 0, ctx := 1, engine := true } (BitVec.ofNat 64 0x8000000080) resuming)).any (fun bs => decide (descField bs 51 1 % 2 = 0)) = true := by
    decide +kernel
  cases e : readRecord { tile := 0, ctx := 1, engine := true } (BitVec.ofNat 64 0x8000000080) resuming with
  | ok bs t => rw [e] at h; exact ⟨bs, t, rfl, by simpa [okVal] using h⟩
  | error x y => rw [e] at h; cases h
theorem witness_RecordRoundTrip : ({} : Ctx).depth ≤ 4 ∧ ({ depth := 4 } : Ctx).depth ≤ 4 := by decide
theorem test_resume : after (exec (.continuationResume 0) resuming) (fun s => ((s.ctx 0 1).st, (s.ctx 0 1).pc, (s.ctx 0 1).sreg 1, (s.ctx 0 1).sreg 2, (s.part 0).records)) =
    some (.live, own 4, own 128, 0, []) := by decide +kernel
theorem test_slot_overrun : after (exec (.slotBoundary 0 0) (booking .running (some 1) 1 0)) (fun s => ((s.ctx 0 1).st, (s.ctx 0 1).tcause, ((s.tile 0).book 0).stat)) =
    some (.faulted, 0x12, .free) := by decide +kernel

/-- Job 0 of the epilogue engine, of slot 0: i32 rows to transit line 2, counted by `w`. -/
def draining (w : Option Nat) (st : SlotState) : State := (unit 0).modEng 0 (fun e => { e.setSlot 0 { st := st, elems := [(0, 9)] } with
  epiq := [{ slot := 0, tok := w, cfg := 7 * 2 ^ 16, dst := own 128, stride := 0, ctx := 0, rm := 0, draws := 0, pc := own 0, waits := [] }] })
/-- Operation 0 of the engine: a COPY of 64 bytes from transit line 2 to line 3; a COPYG of one row. -/
def copyingOne : State := go (.copy 2 1 3 0 0) copying
def gatheringOne : State := go (.copyg 1 2 0) (mapped 0 copyingG)
/-- The job of `draining` once `m` rows are written. -/
def drained (m : Nat) : EpiJob := {
  slot := 0, tok := some 0, cfg := 7 * 2 ^ 16, dst := own 128, stride := 0, ctx := 0, rm := 0, draws := 0, pc := own 0, waits := [], reads := some (0, 0), row := m }
/-- An operation that gathers one row of 4 bytes from a page that the page service has not given. -/
def gatherOf (d : Word) : EngineOp := {
  id := 0, kind := .copyg, tok := 0, stream := false, entry := 0, ctx := 0, x := 0, sd := d, sa := 0x00FFFF0000000000, sb := 0
  desc := BitVec.ofNat 512 (4 * 2 ^ 192 + 2 ^ 224), done := 0, rows := [], flags := 0, pc := own 0, waits := [] }
theorem witness_EngineEvents : ((slotted .mma true).tile 0).eng.mmas = [mmaOne] ∧ (mmaOne.fetched = true ∧ { mmaOne with fetched := false }.fetched = false) ∧ mmaOne.slot < 8 ∧ mmaOne.ctx < 11 ∧ ((slotted .mma true).ctx 0 0).wait = none ∧
    (∃ j, ((draining (some 0) .epiq).tile 0).eng.epiq = [j] ∧ j.tok = some 0 ∧ epQS j.cfg = false ∧ epBI j.cfg = false ∧ epSC j.cfg = false ∧ j.slot = 0 ∧ j.behind = []) ∧
    (∃ j, ((draining none .epi).tile 0).eng.epiq = [j] ∧ j.tok = none) ∧ ((draining none .epiq).tile 0).eng.mmaTo 0 = none ∧ (((draining none .epiq).tile 0).eng.slot 0).st = .epiq ∧
    (∃ t, writesAll (fun m => twinStep 0 64 (do
        writeAcc { tile := 0, ctx := 0, engine := true, unit := 64, subreg := some 0 } (epiRow (own 128) 0 7 m .store) (List.replicate 64 0)
        modA (fun s => s.modEng 0 (fun e => { e with epiq := [drained (m + 1)] })))) (List.range 16)
      (draining (some 0) .epi) t) ∧
    (∃ o, (copyingOne.tile 0).eng.op? 0 = some o ∧ o.kind = .copy ∧ o.stream = false ∧ o.sb = 64 ∧ portRoom (copyingOne.tile 0) o = true ∧ o.done = 0) ∧
    (∃ t, readAcc { tile := 0, ctx := 0, engine := true, unit := opKey 0 0 } (accAt (formPtr (own 128) (64 * 0 : Nat)).1 0 64 1 .load) copyingOne = .ok (List.replicate 64 0) t) ∧
    (∃ t, writeAcc { tile := 0, ctx := 0, engine := true, unit := opKey 0 0 } (accAt (formPtr (own 192) (64 * 0 : Nat)).1 0 64 1 .store) (List.replicate 64 0) copyingOne = .ok () t) ∧
    (∃ o, (gatheringOne.tile 0).eng.op? 0 = some o ∧ o.rows = [] ∧ gRows o.desc = 1 ∧ gRowb o.desc = 4 ∧ gPtrs o.desc = false ∧ o.tok = 0) ∧
    (gatheringOne.tile 0).io.inbox.length < 32 ∧ (gatheringOne.tile 0).io.heldIn = [] ∧ (gatheringOne.tile 0).step.bound = false ∧
    (2 ^ 32 - 1 < 2 ^ 32 ∧ (0 : Nat) < 2 ^ 32) := by
  refine ⟨by decide +kernel, by decide, by decide, by decide, by decide +kernel, one_of (by decide +kernel), one_of (by decide +kernel), by decide +kernel, by decide +kernel,
    writesAll_of (by decide +kernel), some_of (by decide +kernel), ok_of (by decide +kernel), ok_of (by decide +kernel), some_of (by decide +kernel), by decide +kernel,
    by decide +kernel, by decide +kernel, by decide⟩
/-- The operation of a gather of one row, whose index and row are read, and its row written; of one whose operation has failed the row is not written. -/
theorem witness_GatherSteps : ((gatheringOne.tile 0).eng.op? 0).any (fun o => decide (o.kind = .copyg ∧ o.rows.contains 0 = false ∧ o.batch = [] ∧ o.got = [] ∧ o.failed = none) &&
      (match twinStep 0 (opKey o.id 1) (readBatches (o.self 0 0) (own 192) 4 1 0 []) gatheringOne with
      | .ok l s1 =>
        let o1 : EngineOp := { o with batch := l }
        let x := batchIndex l 0
        decide (l = [(0, 0)]) && (match gatherRow 0 o1 0 x (setOp s1 0 o1) with
          | .ok _ s2 => decide ((opNow s2 0 o1).failed = none)
          | .error _ _ => false) && (match twinStep 0 (opKey o.id 1) (readAcc (o.self 0 0) (accAt o.sa 0 4 1 .load)) (setOp s1 0 o1) with
          | .ok bs _ => decide (bs.length = gRowb o.desc)
          | .error _ _ => false) && (match gatherRow 0 { o1 with failed := some (0, 9, 0) } 0 x (setOp s1 0 { o1 with failed := some (0, 9, 0) }) with
          | .ok _ s2 => decide ((opNow s2 0 o1).failed = some (0, 9, 0))
          | .error _ _ => false) && (match gatherRow 0 { o1 with sa := 0 } 0 x (setOp s1 0 o1) with
          | .error (.trap _ _) s2 => decide ((opNow s2 0 o1).failed = none)
          | _ => false) && (match gatherRow 0 { o1 with sa := 0 } 0 x (setOp s1 0 { o1 with failed := some (0, 9, 0) }) with
          | .error (.trap _ _) s2 => decide ((opNow s2 0 o1).failed = some (0, 9, 0))
          | _ => false)
      | .error _ _ => false)) = true ∧
    (match gatherRow 0 (gatherOf (own 192)) 0 0 (setOp referred 0 (gatherOf (own 192))) with
      | .error (.refer _) _ => true
      | _ => false) = true ∧
    ([(0, 5)] : List (Nat × Nat)).length = min 1 (0 / 64 * 64 + 64) := by decide +kernel
theorem test_mma_complete : after (exec (.mmaComplete 0 0) (slotted .mma true)) (fun s => (s.curTile.eng.mmas.length, (s.curTile.eng.slot 0).elem 3 3)) = some (0, 0) := by
  decide +kernel
theorem test_drain : after (exec (.epiDrainEnd 0 0) (draining (some 0) .epi)) (fun s => (tileByte s 0 0 false 128, (s.curTile.eng.slot 0).st)) = some (0, .free) := by
  decide +kernel
theorem test_copy_step : after (exec (.copyComplete 0 0 0) { copyingOne with mem := Memory.writeN copyingOne.mem (spadKey 0 128) [1, 2, 3] }) (fun s =>
    (tileByte s 0 0 false 194, s.curTile.eng.ops.length, s.curTile.eng.count 0)) = some (3, 0, 0) := by decide +kernel
theorem test_gather_row : after (exec (.gatherRowArrive 0 0 0 0) gatheringOne) (fun s => s.pending.length) = some 2 := by decide +kernel
theorem test_engine_fault : after (exec (.engineFault 0 0 0 9 5) copyingOne) (fun s => (s.curTile.io.inbox, s.curTile.step.pend)) =
    some ([(0x0000000000050902#64 ++ 0#32 ++ 0x0000#16 ++ 0x0001#16)], true) := by decide +kernel

/-- Module 0 is ready; job 0 of function 0 has its die 0, and partition 0 the tiles 0 and 1. The ring 0 of the function lies at 0x40 of the window:
two slots at 0x80 and 0x100, HEAD 0. Slot 0 holds a block with the fields of `b` and SEQ 1. -/
def ringed0 (tail : Nat) (b : List (Nat × Nat × Nat)) : State :=
  let s := mapped 0 State.reset
  let l : List (Nat × Nat × Nat) := [(0x200040, 8, 0x80), (0x200048, 4, 2), (0x2000F8, 8, 1)] ++ b.map (fun e => (0x200080 + e.1, e.2))
  let x : Modl := { bootState := 4, rings := [(0, { base := 0x40, tail := BitVec.ofNat 64 tail, enabled := true })] }
  { s with
    mem := l.foldl (fun m e => Memory.writeN m e.1 (bytesOfNat e.2.1 e.2.2)) s.mem
    jobs := [(0, { box := [0], dieMap := [BitVec.ofNat 64 (2 ^ 62)], parts := [0] })], modls := [(0, x)], parts := [(0, { gang := [0, 1] })] }
/-- A launch block of `units` units of class `cls`: image at 0, budget 2, no policy group, one scratchpad and vault pool unit, a link of 1, COMPL at 0x1000. -/
def block (units cls budget : Nat) : List (Nat × Nat × Nat) :=
  [(12, 4, units), (16, 4, budget), (20, 1, cls), (22, 1, 255), (24, 1, 1), (26, 1, 1), (40, 8, 0x1000)]
/-- The first launch of the ring, which is held. -/
def heldLaunch (units cls budget : Nat) : State := go (.ringScanResume 0 0 0) (ringed0 1 (block units cls budget))
/-- The same, with both tiles of the gang taken. -/
def heldBusy (units cls budget : Nat) : State :=
  let u : WorkUnit := { bareUnit with launch := 1 }
  ((heldLaunch units cls budget).modTile 0 (fun t => { t with work := some u })).modTile 1 (fun t => { t with work := some u })
/-- The first launch, after its checks. -/
def running (units cls budget : Nat) : State := go (.dispatchCheck 0) (heldLaunch units cls budget)

/-- Missing pages are referred to the page service, whose ring's descriptor lies at 0x50000. -/
def refers (s : State) : State :=
  { s with mem := Memory.writeN (Memory.writeN s.mem 0x50000 (bytesOfNat 8 0x60000)) 0x50008 (bytesOfNat 4 16) }.modDie 0 (fun x =>
    { x with tctx := x.tctx.setIfInBounds 0 (BitVec.ofNat 512 (0x10000 + 0x50000 * 2 ^ (8 * 24) + 2 ^ (8 * 41 + 3))) })
/-- An access that traps, and one that waits. -/
def trapped {α : Type} (r : EStateM.Result AccErr State α) : Bool :=
  match r with
  | .error (.trap _ _) _ => true
  | _ => false
def waiting {α : Type} (r : EStateM.Result AccErr State α) : Bool :=
  match r with
  | .error (.refer _) _ => true
  | _ => false
/-- A block that passes its check, and one that does not. -/
def soundBlock (r : EStateM.Result AccErr State (Option InitBytes)) : Bool :=
  match r with
  | .ok (some _) _ => true
  | _ => false
def badly (r : EStateM.Result AccErr State (Option InitBytes)) : Bool :=
  match r with
  | .ok none _ => true
  | _ => false

theorem witness_LaunchEvents : (fnAnswers (ringed0 0 []) 0 0 = true ∧ fnAnswers (ringed0 0 []) 0 1 = false ∧ (ringed0 0 []).modls.length = 1) ∧
    (∃ x, Map.get? ((ringed0 1 []).modl 0).rings 0 = some x ∧ x.enabled = true ∧ (0 : Nat) < x.tail.toNat) ∧
    (((ringed0 1 []).modl 0).bootState = 4 ∧ ((ringed0 1 []).modl 0).frozenFns = [] ∧ (heldOf (ringed0 1 []) 0 0 0).length < 4 ∧ fnJob (ringed0 1 []) 0 0 = some 0) ∧
    okVal (readControl 0 0 0x40 (ringed0 1 [])) = some (0x80, 2, 0) ∧ trapped (readControl 0 0 0x140 (ringed0 1 [])) = true ∧
    waiting (readControl 0 0 0x200040 (refers (ringed0 1 []))) = true ∧ waiting (fnRead 0 0 (ptrAdd 0x200080 120) 8 (refers (ringed0 1 []))) = true ∧
    okVal (fnRead 0 0 (ptrAdd 0x80 120) 8 (ringed0 1 [])) = some (bytesOfNat 8 1) ∧ okVal (fnRead 0 0 (ptrAdd 0x100 120) 8 (ringed0 1 [])) = some (bytesOfNat 8 0) ∧
    (okVal (hwWrite (ringFor (ringed0 1 []) 0 0) (ptrAdd 0x40 24) (bytesLE 8 (BitVec.ofNat 64 1)) (ringed0 1 []))).isSome = true ∧
    (ringed0 1 []).hwRefused = [] ∧ (∃ x, Map.get? ((ringed0 1 []).modl 0).rings 0 = some x ∧ x.asked = none) ∧
    (∃ l, Map.get? (heldLaunch 1 0 2).launches 0 = some l ∧ l.phase = .held ∧ soundBlock (readBlock 0 l (heldLaunch 1 0 2)) = true ∧
      granted (heldLaunch 1 0 2) l = true ∧ gangHolds (heldLaunch 1 0 2) l = true ∧ blockField l.block 12 4 = 1) ∧
    (∃ l, Map.get? (heldLaunch 2 2 2).launches 0 = some l ∧ conTiles (heldLaunch 2 2 2) l = some [[0], [1]]) ∧
    (∃ l, Map.get? (heldLaunch 3 2 2).launches 0 = some l ∧ conTiles (heldLaunch 3 2 2) l = none) ∧
    (∃ l, Map.get? (heldLaunch 1 3 2).launches 0 = some l ∧ badly (readBlock 0 l (heldLaunch 1 3 2)) = true) ∧
    (∃ l, Map.get? (heldBusy 1 0 2).launches 0 = some l ∧ l.phase = .held ∧ soundBlock (readBlock 0 l (heldBusy 1 0 2)) = true ∧
      granted (heldBusy 1 0 2) l = true ∧ gangHolds (heldBusy 1 0 2) l = true ∧
      unitSpot (((heldBusy 1 0 2).setLaunch 0 { l with phase := .running }).setPart (2 ^ 80) { launch := some 0 }) 0 = none) ∧
    (∃ l, Map.get? (heldLaunch 1 0 2).launches 0 = some l ∧
      unitSpot (((heldLaunch 1 0 2).setLaunch 0 { l with phase := .running }).setPart (2 ^ 80) { launch := some 0 }) 0 = some [0]) ∧
    (∃ l, Map.get? (heldLaunch 1 0 2).launches 0 = some l ∧ waiting (readBlock 0 { l with block := l.block + BitVec.ofNat 1024 (0x200000 * 2 ^ (8 * 32)) } (refers (heldLaunch 1 0 2))) = true) ∧
    (∃ l, Map.get? (running 2 0 2).launches 0 = some l ∧ l.phase ≠ .ended ∧ unitSpot (running 2 0 2) 0 = some [1] ∧ (okVal (readInit (l.hwFor (running 2 0 2) 0) l.block (running 2 0 2))).isSome = true) ∧
    (((go (.unitPlace 0) (running 2 0 2)).tile 1).work ≠ none ∧ ((go (.unitPlace 0) (running 2 0 2)).ctx 1 0).st = .idle) ∧
    (∃ l, Map.get? (running 2 2 2).launches 0 = some l ∧ ((running 2 2 2).part l.part).members = [0, 1]) := by
  and_intros <;> decide +kernel
theorem test_doorbell : after (exec (.tailrWrite 0 0 0 1) (ringed0 0 (block 1 0 2))) (fun s => (s.launches.length, Memory.readN s.mem 0x200058 1, s.pending)) =
    some (1, [1], [.dispatchCheck 0]) := by decide +kernel
theorem test_empty_launch : after (exec (.dispatchCheck 0) (heldLaunch 0 0 2)) (fun s => (Map.get? s.launches 0).map (fun l => (l.phase, l.status))) = some (some (.ended, 1)) := by
  decide +kernel
theorem test_unit_start : after (exec (.unitPlace 0) (running 2 0 2)) (fun s => ((s.ctx 1 0).sreg 1, (s.ctx 1 0).sreg 2, (s.tile 1).work.map (fun u => u.cls))) =
    some (1, 0x1040, some 0) := by decide +kernel

/-- Die 0 keeps a request of function 0, stage 1 and tag 5; a context waits on it. A parked access of number 7 waits at the same die. -/
def asking : State :=
  let w : PageWait := { elem := 0, die := 0, fn := 0, stage := 1, tag := 5, addr := 0x40, write := false, size := 8, data := 0, parked := none, solo := true }
  let s := { unit 0 with modls := [(0, {})] }
  (s.modDie 0 (fun x => { x with reqs := [{ fn := 0, stage := 1, tag := 5, granule := 0, sub := false }] })).modCtx 0 0 (fun x => { x with wait := some (.pages [w] 0 0) })
def parking (begun : Bool) : State :=
  let p : Parked := { id := 7, tile := 0, ctx := 0, engine := none, fn := 0, stage := 1, tag := 5, addr := 0x40, noticed := false, silent := 0, begun := begun }
  let w : PageWait := { elem := 0, die := 0, fn := 0, stage := 1, tag := 5, addr := 0x40, write := false, size := 8, data := 0, parked := some 7, solo := true }
  ((unit 0).modDie 0 (fun x => { x with parked := [p] })).modCtx 0 0 (fun x => { x with wait := some (.pages [w] 0 0) })
/-- The parked access has begun, and its requester has given it up. -/
def givenUp : State := remoteTo (tileKey 0 0) 0 (parking true)
/-- A miss is held; the request ring of stage 1 has its descriptor at HPA 0x50000: sixteen slots, empty. -/
def missing : State :=
  let s := mapped 0 State.reset
  let h : HeldMiss := { id := 4096, fn := 0, stage := 1, granule := 0, sub := false, bytes := List.replicate 64 1 }
  let t : BitVec 512 := BitVec.ofNat 512 (0x10000 + 0x50000 * 2 ^ (8 * 24) + 2 ^ (8 * 41 + 3))
  ({ s with mem := Memory.writeN (Memory.writeN s.mem 0x50000 (bytesOfNat 8 0x60000)) 0x50008 (bytesOfNat 4 16) }).modDie 0 (fun x =>
    { x with heldMisses := [h], tctx := x.tctx.setIfInBounds 0 t })

theorem witness_TranslationEvents : (barsAnswer State.reset 0 0 = true ∧ fnAnswers State.reset 0 0 = true ∧ barsAnswer State.reset 0 1 = false) ∧
    (tctxReserved 0 0x10000 = false ∧ fnResident State.reset 0 0 = false ∧ fnResident (grouping 0) 0 0 = true ∧ tctxReserved 48 1 = true) ∧
    ((0x7 : Word).extractLsb' 2 2 ≠ 3 ∧ (0x7 : Word).extractLsb' 0 2 ≠ 0 ∧ (0x40 : Word).toNat % 64 = 0 ∧ groupResident State.reset 0 0 = false ∧ groupResident (grouping 0) 0 0 = true) ∧
    (0xFFFFFF : Word).toNat < 2 ^ 24 ∧ (0xFFFFFFFF : Word).toNat < 2 ^ 32 ∧ (State.reset.die 0).dirty.Nodup ∧ (3 < 4 ∧ 0x3FFF < 0x4000) ∧
    ((0x5 : Word).extractLsb' 12 2 = 0 ∧ (0x1005 : Word).extractLsb' 12 2 = 1 ∧ (0x5 : Word).extractLsb' 21 43 = 0 ∧ (0x5 : Word).extractLsb' 15 1 = 0 ∧
      (asking.die 0).reqs.any (fun r => decide (r.fn = 0 ∧ r.stage = 1 ∧ r.tag = 5)) = true ∧ asking.hostWaits = [] ∧ Map.get? asking.tiles 0 ≠ none ∧ (asking.ctx 0 0).st ≠ .frozen) ∧
    (∃ h, heldReady missing 0 = some h ∧ ringDescOk missing 0 (ringDescAt missing 0 h.fn h.stage) = true ∧ (freeTag (missing.die 0) h.fn h.stage h.granule h.sub missing.free).isSome = true) ∧
    (∃ p, ((parking true).die 0).parked.find? (fun p => decide (p.id = 7)) = some p ∧ p.begun = true ∧ p.left = none) ∧
    (∃ p, (((parking true).die 0).parked.take 256).find? (fun p => decide (p.id = 7)) = some p ∧ p.left = none) ∧
    (((parking true).die 0).parked.take 256).find? (fun p => decide (p.id = 8)) = none ∧
    (∃ p, (((givenUp).die 0).parked.find? (fun p => decide (p.id = 7))) = some p ∧ p.left = some ((parking true).tile 0)) ∧
    (∃ p, ((parking false).die 0).parked.find? (fun p => decide (p.id = 7)) = some p ∧ p.begun = false ∧ becomesCont (parking false) p.tile p.ctx = false) ∧
    ((parking false).ctx 0 0).wait.isSome = true := by
  and_intros <;> decide +kernel
/-- Operation 0 of the copy engine waits on a parked access. -/
def parkedOp : State :=
  let w : PageWait := { elem := 0, die := 0, fn := 0, stage := 1, tag := 5, addr := 0x40, write := false, size := 8, data := 0, parked := some 7, solo := true }
  let p : Parked := { id := 7, tile := 0, ctx := 0, engine := some 0, fn := 0, stage := 1, tag := 5, addr := 0x40, noticed := false, silent := 0, begun := false }
  (copyingOne.modDie 0 (fun x => { x with parked := [p] })).modEng 0 (fun e => { e with ops := e.ops.map (fun o => { o with waits := [w] }) })
theorem witness_parked_operation : ∃ o, (parkedOp.tile 0).eng.op? 0 = some o ∧ ∃ w, firstParked parkedOp o.waits = some w ∧ w.addr = 0x40 := by
  have h : ((parkedOp.tile 0).eng.op? 0).any (fun o => (firstParked parkedOp o.waits).any (fun w => decide (w.addr = 0x40))) = true := by decide +kernel
  cases e : (parkedOp.tile 0).eng.op? 0 with
  | none => rw [e] at h; cases h
  | some o => rw [e] at h; exact ⟨o, rfl, some_of h⟩
theorem witness_read_only_registers : (1 : Word).toNat < 2 ∧ 2 ≤ (2 : Word).toNat ∧ 2 ^ 16 ≤ (0x10000 : Word).toNat ∧ (0x100 : Word).extractLsb' 8 55 ≠ 0 ∧
    tinvDrops 0x7 { fn := 0, level := 0, range := 0, word := 1 } = true := by decide +kernel
theorem test_retry_refuse : after (exec (.prespRetry 0 5) asking) (fun s => ((s.ctx 0 0).wait, (s.ctx 0 0).refused, (s.die 0).reqs.length)) = some (none, [], 0) ∧
    after (exec (.prespRefuse 0 0x1005) asking) (fun s => ((s.ctx 0 0).wait, (s.ctx 0 0).refused)) = some (none, [0x40]) := by decide +kernel
theorem test_given_up : (givenUp.ctx 0 0).tcause = Cause.remoteto.code ∧ (givenUp.die 0).parked.length = 1 := by decide +kernel
theorem test_request_record : after (exec (.requestAppendResume 0) missing) (fun s => ((s.die 0).reqs.length, (s.die 0).heldMisses.length)) =
    some (1, 0) := by decide +kernel
theorem test_tctx_write : after (exec (.tctxWrite 0 0 0x10000) State.reset) (fun s => (s.tctx 0 0).toNat) = some 0x10000 := by decide +kernel

theorem witness_HostAccesses : (fnHere (unit 0) 0 0 0 = true ∧ fnHere (unit 0) 0 0 1 = false ∧ barsAnswer (unit 0) 0 0 = true) ∧ spotOf 0 (tileKey 1 0) 0x8000000080 = .spad 0 128 ∧
    spotOf 0 (tileKey 1 0) (0x8000000080 + 8 - 1) = .spad 0 135 ∧ (∃ u, ((unit 0).tile 0).work = some u ∧ u.fn = 0) ∧ ((unit 0).modl 0).quarantine = [] ∧
    (∀ i < 8, regionOf (unit 0) 0 false (128 + i) = .transit) ∧ spotOf 0 (tileKey 1 0) 0x40 = .hbm 0x40 ∧ (0x40 + 8 ≤ 2 ^ 40 ∧ 0x40 % 8 = 0 ∧ 0x40 < 2 ^ 43) ∧
    (∃ s1, hostGives windowed 0 0 0 .read 0x40 8 [] s1 (.done (List.replicate 8 0))) := by
  refine ⟨by decide +kernel, by decide +kernel, by decide +kernel, ⟨_, rfl, rfl⟩, by decide +kernel, by decide +kernel, by decide +kernel, by decide, ?_⟩
  have h : (match hostPieces 0 0 0 false (cutHbm (8 / 1024 + 2) 0x40 8) windowed with
    | (s1, .ok ps) =>
      let s2 := ps.foldl (fun (s : State) p => match p with
        | .hbm die hpa m leaf => recordErrors s die (sectorsRead .load hpa m) leaf.tag
        | .tile _ _ _ _ | .host _ _ _ | .shard _ => s) s1
      !ps.any (Piece.broken s2 .load) && !ps.any (Piece.mistagged s2 .load) && decide ((hostMake 0 .read ps [] s2).2 = List.replicate 8 0)
    | (_, .error _) => false) = true := by decide +kernel
  rcases e : hostPieces 0 0 0 false (cutHbm (8 / 1024 + 2) 0x40 8) windowed with ⟨s1, x | ps⟩
  · rw [e] at h; cases h
  · rw [e] at h
    simp only [Bool.and_eq_true, Bool.not_eq_true', decide_eq_true_eq] at h
    exact ⟨_, Or.inr ⟨ps, s1, e, Or.inr (Or.inr (Or.inr ⟨rfl, h.1.1, h.1.2, List.replicate 8 0, Prod.ext rfl h.2, rfl⟩))⟩⟩
theorem test_fetchadd : after (exec (.hostAtomicFetchadd 0 (0, 0) 0x8000000080 4 (0, 0xFFFFFFFF)) (filled [(128, 4, 2)] (unit 0))) (fun s =>
    (tileByte s 0 0 false 128, tileByte s 0 0 false 131, s.completions.map (fun c => (c.data, c.status)))) = some (1, 0, [([2, 0, 0, 0], 0)]) := by decide +kernel
theorem witness_HostRegisters : let s := State.reset.modModl 0 (fun x => { x with bootState := 4, na := 1 })
    fnHere s 0 0 0 = true ∧ fnHere s 0 0 1 = true ∧ barsAnswer s 0 0 = true ∧ (bytesOfNat 8 9).length = 8 ∧
    (BitVec.ofNat 64 (natOfBytes (bytesOfNat 8 0x309)) : Word).toNat % 256 = 9 := by decide +kernel
theorem test_host_write : after (exec (.hostWrite 0 (0, 0) (4, 0x40) (false, false, [7, 8])) windowed) (fun s => (Memory.readN s.mem 0x200040 2, s.completions.length)) = some ([7, 8], 0) := by
  decide +kernel

/-! ### The fabric -/

/-- Two dies of module 0 and one of module 1, in a box of two modules along X. -/
def meshed : State := { State.reset with jobs := [(0, { box := [0, 1], extents := [2, 1, 1, 1], dieMap := [BitVec.ofNat 64 (2 ^ 62), BitVec.ofNat 64 (2 ^ 62 + 1), BitVec.ofNat 64 (2 ^ 62 + 8)], parts := [0] })] }
/-- A packet of kind `kind` for the die of index `die`, with the entries `ops`. -/
def packet (kind : BitVec 3) (die : Nat) (ops : List (BitVec 32)) : Packet :=
  { kind := kind, vc := 0, ord := false, ovf := false, det := false, nhop := ops.length, part := 0, job := 0, gen := 0, ingress := 0, srcDie := 0, srcTile := 0
    tag := 0, count := 1, leaves := 1, total := 2, contrib := 0, ctype := 2, red := 0, dst := 0, path := 0, ops := ops, elems := [5]
    target := BitVec.ofNat 64 (die * 2 ^ 40), op := 0, depth := 0, issuers := [], body := [] }
/-- The packet has arrived at port `port` of switch `sw`. -/
def arrived (sw port : Nat) (p : Packet) : State := meshed.modSw sw (fun x => { x with inq := [(port, [p])] })
/-- An entry of an op list. -/
def opEntry (op arg sel : Nat) : BitVec 32 := BitVec.ofNat 32 (op * 2 ^ 28 + arg * 2 ^ 16 + sel)

theorem witness_FabricEvents : ((takeIn (arrived 0 0 (packet 0 1 [])) 0 0 (fun x => decide (x.kind ≠ 2 ∧ x.vc.toNat = 0))).any (fun e =>
      !pktOld e.2 e.1 && decide ((((e.2.job e.1.job).entry? (ptrDie e.1.target)).bind entryDie) = some 1)) = true) ∧
    (takeIn (arrived (fabricSw 0) 8 (packet 0 2 [])) (fabricSw 0) 8 (fun x => decide (x.kind ≠ 2 ∧ x.vc.toNat = 0))).isSome = true ∧
    ((meshed.job 0).box.findIdx? (fun x => decide (x = 0)) = some 0 ∧ (meshed.job 0).box.findIdx? (fun x => decide (x = 1)) = some 1 ∧
      0 / (meshed.job 0).pitch 0 % (meshed.job 0).extent 0 ≠ 1 / (meshed.job 0).pitch 0 % (meshed.job 0).extent 0) ∧
    (takeIn (arrived 0 0 { packet 0 1 [] with gen := 1 }) 0 0 (fun x => decide (x.kind ≠ 2 ∧ x.vc.toNat = 0))).any (fun e => pktOld e.2 e.1) = true ∧
    (∀ op ∈ [0, 1, 2, 3], (takeIn (arrived 0 0 (packet 2 1 [opEntry op 2 2])) 0 0 (fun x => decide (x.kind = 2))).any (fun e => !pktOld e.2 e.1 && decide (e.1.ops = [opEntry op 2 2])) = true) ∧
    (badPort meshed (packet 2 1 []) 0 1 = false ∧ badPort meshed (packet 2 1 []) 0 0 = true) ∧
    (∀ i ∈ (List.range 16).filter (fun i => (opEntry 1 0 2).getLsbD i), badPort meshed (packet 2 1 []) 0 i = false) ∧
    ((meshed.sw 0).collto ≠ 0 ∧ ((meshed.modSw 0 (fun x => { x with collto := 0 })).sw 0).collto = 0) ∧
    (linkPeer 0 1 = some (1, 0) ∧ (meshed.link 0 1).up = true ∧ (meshed.link 0 1).replays < 8 ∧ (meshed.link 0 1).rxSeq = 0) := by decide +kernel
/-- A stored packet that owes a branch to port 1, a slot, an endpoint context, an ordered context and a sweep at die 0. -/
def storing (late : Bool) : State :=
  let s := meshed.modSw 0 (fun x => { x with
    store := [{ id := 4, ingress := 0, pkt := packet 2 1 [], ports := [1, 2] }], slots := [{ key := 9, pkt := packet 2 1 [opEntry 0 0 1], expect := 2, late := late }] })
  s.modDie 0 (fun y => { y with endpoints := [{ key := endKey (packet 2 0 []), pkt := packet 2 0 [], expect := 2, late := late }]
                                ordered := [{ key := endKey (packet 2 0 []), leaves := [], total := 2 }] })
def sweeping (closed : Bool) (marked : List Nat) : State := meshed.modSw 0 (fun x => { x with
  sweep := some { job := 0, begun := true, closed := closed, marked := marked, main := [], late := [], overflow := [], lost := false } })
/-- A fabric switch that has the MARKs of its first die ports, but for the last `n - 7` of eight. -/
def fabricSweep (n : Nat) : State := meshed.modSw (fabricSw 0) (fun x => { x with
  sweep := some { job := 0, begun := false, closed := false, marked := (List.range (15 - n)).map (fun i => 8 + i), main := [], late := [], overflow := [], lost := false } })
theorem witness_stored_packets : (∃ e, ((storing false).sw 0).store.find? (fun x => decide (x.id = 4) && x.ports.contains 1) = some e ∧ pktOld (storing false) e.pkt = false) ∧
    (∃ r, ((storing false).sw 0).slots.find? (fun x => decide (x.key = 9)) = some r ∧ r.late = false ∧ r.pkt.ops = [opEntry 0 0 1]) ∧
    (∃ r, ((storing false).die 0).endpoints.find? (fun r => decide (r.key = endKey (packet 2 0 []))) = some r ∧ r.late = false ∧ (mergePkt r.pkt (packet 2 0 [])).leaves = 2) ∧
    (∃ o, ((storing false).die 0).ordered.find? (fun o => decide (o.key = endKey (packet 2 0 []))) = some o ∧ o.leaves.length + 1 < o.total) ∧
    pktOld (storing false) (packet 2 0 []) = false ∧
    (∃ w, ((sweeping false []).sw 0).sweep = some w ∧ w.closed = false ∧ w.job = 0 ∧ w.begun = true ∧ 1 ∉ w.marked ∧ ∃ n ∈ connected (sweeping false []) 0 0, n ∉ insertNat w.marked 1) ∧
    (∃ w, ((sweeping true [1]).sw 0).sweep = some w ∧ w.closed = true ∧ 1 ∈ w.marked) ∧
    segBytes (addSwept [] ((nextPorts 9 (sweeping true [1]) 0 1 (packet 2 1 [opEntry 0 0 1])).map (fun e => (1, e)))) ≤ Config.overflowBytes :=
  by and_intros <;> decide +kernel
theorem witness_sweep_begins : (∃ w, ((startSweep 0 0 meshed).sw 0).sweep = some w ∧ ∃ n ∈ connected (startSweep 0 0 meshed) 0 0, n ∉ insertNat w.marked 0) ∧
    (∃ w, ((sweeping false (connected meshed 0 0)).sw 0).sweep = some w ∧ ∀ n ∈ connected (sweeping false []) 0 0, n ∈ insertNat w.marked 1) ∧
    (∃ w, ((fabricSweep 9).sw (fabricSw 0)).sweep = some w ∧ w.begun = false ∧ ∃ n < 8, 8 + n ∉ insertNat w.marked 15) ∧
    (∃ w, ((fabricSweep 8).sw (fabricSw 0)).sweep = some w ∧ w.begun = false ∧ (∀ n < 8, 8 + n ∈ insertNat w.marked 15) ∧
      ∃ n ∈ connected (startSweep 0 (fabricSw 0) (fabricSweep 8)) 0 (fabricSw 0), n ∉ insertNat w.marked 15) :=
  ⟨some_of (by decide +kernel), some_of (by decide +kernel), some_of (by decide +kernel), some_of (by decide +kernel)⟩
/-- Port 0 of die 1 expects flit 3 of a link that has a detour, and holds flit 4; the link is down where `down`. -/
def early (down : Bool) : State :=
  let s := meshed.modLink 1 0 (fun l => { l with rxSeq := 3, early := [(4, none)] })
  if down then s.modLink 0 1 (fun l => { l with up := false }) else s
theorem witness_LinkFlits : linkPeer 1 0 = some (0, 1) ∧ ((early true).link 0 1).up = false ∧ ((early false).link 0 1).up = true ∧
    ((2 : BitVec 16) - ((early true).link 1 0).rxSeq).getLsbD 15 = true ∧ (∃ e ∈ ((early true).link 1 0).early, e.1 = 4) ∧
    ¬ (((6 : BitVec 16) - ((early true).link 1 0).rxSeq).getLsbD 15 = true ∨ ∃ e ∈ ((early true).link 1 0).early, e.1 = 6) ∧
    ((meshed.modLink 0 1 (fun l => { l with replays := 8 })).link 0 1).replays = 8 ∧ (meshed.link 0 1).replays < 8 := by decide +kernel
theorem test_early_flits : after (exec (.linkFlitReceive 1 0 3 true none) (early true)) (fun s => ((s.link 1 0).rxSeq, (s.link 1 0).early)) = some (5, []) ∧
    after (exec (.linkFlitReceive 1 0 6 true none) (early true)) (fun s => ((s.link 1 0).rxSeq, (s.link 1 0).early)) = some (3, [(4, none), (6, none)]) := by decide +kernel
/-- Tiles 0 and 66 are a pair whose copies have come; whether two hashes differ depends on the hash, which is a free value. -/
def paired (a b : List Byte) : State :=
  let twin (p : Nat) (l : List Byte) : Twin := { partner := p, primary := decide (p = 66), sent := if l = [] then [] else [(0, l)] }
  ((unit 0).modTile 0 (fun t => { t with twin := some (twin 66 a) })).modTile 66 (fun t => { t with twin := some (twin 0 b) })
theorem witness_PairComparisons : (∃ w, ((paired [1] [1]).tile 0).twin = some w ∧ w.partner = 66 ∧ w.sent = [(0, [1])]) ∧
    (∃ x, ((paired [1] [1]).tile 66).twin = some x ∧ x.sent = [(0, [1])]) ∧ Config.packetHash [1] = Config.packetHash [1] ∧
    (∃ w, ((paired [] [1]).tile 0).twin = some w ∧ w.sent = []) ∧ (∃ w, ((paired [] []).tile 66).twin = some w ∧ w.sent = []) ∧
    (((paired [1] []).modTile 66 (fun t => { t with twin := none })).tile 66).twin = none ∧
    (∃ w, (((paired [1] []).modTile 66 (fun t => { t with twin := none })).tile 0).twin = some w ∧ w.sent ≠ []) :=
  ⟨some_of (by decide +kernel), some_of (by decide +kernel), rfl, some_of (by decide +kernel), some_of (by decide +kernel), by decide +kernel, some_of (by decide +kernel)⟩
theorem test_pair_both : after (exec (.pairTimeout 0 0) (paired [1] [1])) (fun s => ((s.tile 0).twin.map (fun w => w.mismatches), (s.tile 0).step.pend)) = some (some 0, false) ∧
    after (exec (.pairTimeout 0 0) ((paired [1] []).modTile 66 (fun t => { t with twin := none }))) (fun s => ((s.tile 0).twin.map (fun w => w.sent.length), (s.tile 0).step.pend)) =
      some (some 0, true) := by decide +kernel
theorem test_route_x : after (exec (.packetRoute (fabricSw 0) 8 0) (arrived (fabricSw 0) 8 (packet 0 2 []))) (fun s => ((s.modl 0).fabric.inq.length, s.pending.length)) =
    some (0, 2) := by decide +kernel
theorem test_reduce_holds : after (exec (.collHop 0 3) (arrived 0 3 (packet 2 1 [opEntry 2 2 7]))) (fun s => (s.sw 0).slots.map (fun r => (r.expect, r.pkt.contrib, r.pkt.elems))) =
    some [(2, 8, [5])] := by decide +kernel
theorem test_link_down : after (exec (.linkDown 0 1) meshed) (fun s => ((s.link 0 1).up, (s.link 1 0).up)) = some (false, false) := by decide +kernel
theorem test_pair_timeout : after (exec (.pairTimeout 0 0) (paired [] [1])) (fun s => ((s.tile 0).twin.map (fun w => w.mismatches), (s.tile 66).twin.map (fun w => w.sent))) =
    some (some 1, some []) := by decide +kernel

/-! ### The mailbox, and the life of modules -/

/-- Module 0 is ready, with job 0 on its die 0 and a CON unit on tile 0; the host memory holds the fields of a command block at address 0x100, and at 0x1000 a
scatter list of one extent of 1 MiB. -/
def commanded (l : List (Nat × Nat × Nat)) : State :=
  let s := { unit 2 with modls := [(0, { bootState := 4 })], jobs := [(0, { box := [0], dieMap := [BitVec.ofNat 64 (2 ^ 62)], parts := [0] })] }
  let cells : List (Nat × Nat × Nat) := [(0x1000, 8, 1), (0x1008, 8, 0x100000), (0x1010, 8, 0x100000)] ++ l.map (fun e => (0x100 + e.1, e.2))
  let p : Partition := { launch := some 0, members := [0], gang := [0] }
  let s := s.modLaunch 0 (fun l => { l with block := BitVec.ofNat 1024 (2 * 2 ^ (8 * 20)) })
  { s with hostMem := cells.foldl (fun m e => Memory.writeN m e.1 (bytesOfNat e.2.1 e.2.2)) s.hostMem, parts := [(0, p)] }
/-- A switch of job 0 in a mode, with a limit. -/
def switchBlock (mode limit area : Nat) : List (Nat × Nat × Nat) := [(0, 1, 1), (1, 1, mode), (4, 4, limit), (16, 8, area), (24, 8, 0x2000)]
/-- The control context of tile 0 is frozen, and its partition held by containment. -/
def contained (action : Nat) : State :=
  ((commanded [(4, 1, action)]).modCtx 0 0 (fun x => { x with st := .frozen })).modPart 0 (fun p => { p with frozenHold := true, held := true })

/-- A WP launch with IDEM = 1 of whose units one has been placed, and which containment holds without units. -/
def idempotent : State :=
  let s := (commanded (switchBlock 1 0 0x1000)).modLaunch 0 (fun l => { l with block := BitVec.ofNat 1024 (2 * 2 ^ (8 * 27)), next := 1 })
  (s.modJob 0 (fun x => { x with parts := [] })).setPart (2 ^ 80) {}
def held : State := (idempotent.modPart (2 ^ 80) (fun p => { p with frozenHold := true, held := true })).modTile 0 (fun t => { t with work := none })
theorem witness_idempotent : jobBars idempotent 0 = [2 ^ 80] ∧ (idempotent.part (2 ^ 80)).bar = .running ∧ (idempotent.part (2 ^ 80)).held = false ∧ (idempotent.part (2 ^ 80)).stoppedMid = false ∧
    idempotent.isIrrevocable (2 ^ 80) = false ∧ (Map.get? idempotent.launches 0).any (fun l => decide (bits (blockField l.block 27 1) 1 1 = 1 ∧ l.next ≠ 0)) = true ∧
    badCommand idempotent 0 (blockAt idempotent 0x100 64) = false := by decide +kernel
theorem witness_MailboxCommands : (((commanded []).modl 0).powered = true ∧ ((commanded []).modl 0).frozenFns.contains 0 = false ∧ ((commanded []).modl 0).bootState ∈ [4#8, 0x80#8, 0x81#8]) ∧
    (0x80#8 ∈ [4#8, 0x80#8, 0x81#8] ∧ 0#8 ∉ [4#8, 0x80#8, 0x81#8]) ∧ (0 < 2 ^ 32 ∧ mbState (commanded []) 0 = .ready ∧ ((commanded []).modl 0).mbBusy = false ∧ hostMute (commanded []) 0x100 64 = false) ∧
    hostMute { commanded [] with hostMuted := [0x107] } 0x100 8 = true ∧ descField (blockAt (commanded [(7, 1, 1)]) 0x100 8) 4 4 ≠ 0 ∧ descField (blockAt (commanded [(7, 1, 1)]) 0x100 16) 5 3 ≠ 0 ∧
    descField (blockAt (commanded [(40, 1, 1)]) 0x100 64) 40 24 ≠ 0 ∧ (descField (blockAt (commanded (switchBlock 0 0 0x1000)) 0x100 64) 12 4 = 0 ∧ descField (blockAt (commanded (switchBlock 0 0 0x1000)) 0x100 64) 40 24 = 0) ∧ badCommand (commanded (switchBlock 3 0 0x1000)) 0 (blockAt (commanded (switchBlock 3 0 0x1000)) 0x100 64) = true ∧
    (∀ mode ∈ [0, 1, 2], badCommand (commanded (switchBlock mode 0 0x1000)) 0 (blockAt (commanded (switchBlock mode 0 0x1000)) 0x100 64) = false) ∧
    scatterList (commanded [(0, 8, 1), (16, 8, 5)]) 0x100 = none ∧ scatterList (commanded (switchBlock 0 0 0x1000)) 0x1000 = some [(0x100000, 0x100000)] ∧
    saveBytes (commanded []) 0 0 0 false ≤ 0x100000 ∧ 0x100000 < saveBytes (commanded []) 0 0 0 true ∧ ((commanded []).job 0).cmd = none ∧ ((commanded []).job 0).box = [0] ∧ jobBars (commanded []) 0 = [0] ∧
    barSettled (commanded []) 0 = false ∧ ((commanded []).part 0).bar = .running ∧ (commanded []).isIrrevocable 0 = false ∧ Canonical (commanded []) ∧
    (∀ a < 3, namedTile (contained a) 0 (descField (blockAt (contained a) 0x100 8) 0 2) (descField (blockAt (contained a) 0x100 8) 2 2) = some 0) ∧
    (namedTile held 0 0 0 = some 0 ∧ (held.tile 0).work = none ∧ frozenGang held 0 = some (2 ^ 80)) ∧ namedTile (commanded []) 0 0 5 = none ∧ ((contained 0).part 0).frozenHold = true ∧ ((contained 0).part 0).held = true ∧ ((contained 0).ctx 0 0).st = .frozen ∧
    (0 ∈ ((commanded []).job 0).box ∧ ((commanded []).part 0).gang ≠ [] ∧ ((commanded []).part 1).gang = []) ∧
    ((Map.get? (commanded []).launches 0).any (fun l => decide (l.phase ≠ .ended)) = true ∧ Map.get? (commanded []).launches 1 = none) ∧
    checkImage 0 [] = .broken :=
  by and_intros <;> decide +kernel
/-- A switch that has begun and drains; a checkpoint whose shard is written; a job that an UNRECOVERABLE outcome has stopped. What an IMAGE finds sound rests on free values, so
that nothing concrete can show it; the signature and the wrapped key of a save that a RESUME finds sound take the kernel too long to check. -/
def switching (cmd limit : Nat) : State := (commanded []).modJob 0 (fun x => { x with
  cmd := some { cmd := cmd, mode := 0, esc := 1, hbm := 0, limit := limit, accepted := [{ index := 0, modl := 0, area := 0x1000, result := 0x2000, map := 0x3000 }], begun := true } })
def stoppedJob : State := (commanded []).modJob 0 (fun x => { x with stopped := true })
def sharded : State :=
  let s := switching 3 0
  let x : Save := { job := {}, index := 0, modl := 0, parts := [], tiles := [], launches := [], mem := [], full := [], dies := [], fabric := {}, held := [], events := [], hbm := 0, lost := false, late := 0, ck := 0, area := [], keeper := none, buddy := false, host := false }
  { s with saves := [(shardKey 0 0 0, x)] }
/-- The buddy of the shard is module 1, which has no power; a job whose ADOPTED indices become UNMAPPED. -/
def orphaned : State := { sharded.modModl 1 (fun x => { x with powered := false }) with saves := sharded.saves.map (fun (e : Nat × Save) => (e.1, { e.2 with keeper := some 1 })) }
def unmapping : State := (commanded []).modJob 0 (fun x => { x with unmapping := some 0, mapAt := some 0x4000, dieMap := [BitVec.ofNat 64 (2 ^ 62), BitVec.ofNat 64 (2 ^ 63 + 8)], adopted := [(1, some 5)] })
theorem test_unmap : after (exec (.checkpointPhase2Done 0 0) unmapping) (fun s => ((s.job 0).dieMap, (s.job 0).adopted, hostNat s 0x4004 4, hostNat s 0x4048 8)) =
    some ([BitVec.ofNat 64 (2 ^ 62), 0], [(1, none)], 1, 0) := by decide +kernel
theorem test_abandon : after (exec (.checkpointPhase2Done 0 0) orphaned) (fun s => ((s.job 0).cmd.isNone, (s.modl 0).mbBusy)) = some (true, false) := by
  decide +kernel
theorem witness_command_progress : (∃ c, ((switching 1 5).job 0).cmd = some c ∧ c.begun = true ∧ c.sweeping = false ∧ c.limit ≠ 0 ∧ c.cmd ≠ 3) ∧
    (∃ c, ((switching 3 0).job 0).cmd = some c ∧ c.limit = 0) ∧ (∃ c, ((switching 3 5).job 0).cmd = some c ∧ c.cmd = 3 ∧ c.accepted.length = 1) ∧ (∀ m ∈ ((switching 1 5).job 0).box, m < 2 ^ 37) ∧
    (∃ c, (sharded.job 0).cmd = some c ∧ (c.accepted.find? (fun b => decide (b.modl = 0))).isSome = true) ∧ (∃ x, Map.get? sharded.saves (shardKey 0 0 (sharded.job 0).ck) = some x ∧ x.ck = 0) ∧
    Canonical sharded ∧ (stoppedJob.jobs.filter (fun e => decide (e.2.modl = 0) && e.2.stopped)).length = 1 ∧ (stoppedJob.job 0).ck = 0 ∧
    ((stoppedJob.modJob 0 (fun x => { x with ck := 1 })).job 0).ck ≠ 0 ∧ ((contained 0).part 0).bar = .running :=
  by and_intros <;> decide +kernel
theorem witness_CheckpointPhases : (sharded.job 0).unmapping ≠ some 0 ∧ (∃ x, Map.get? sharded.saves (shardKey 0 0 0) = some x ∧ x.keeper = none) ∧
    (∃ x, Map.get? (orphaned.saves) (shardKey 0 0 0) = some x ∧ x.keeper = some 1 ∧ (orphaned.modl 1).powered = false) ∧
    ((unmapping.job 0).unmapping = some 0 ∧ (unmapping.job 0).mapAt = some 0x4000 ∧ (unmapping.job 0).dieMap.length < 2 ^ 32 ∧ Canonical unmapping ∧ (unmapping.job 0).leaving = []) :=
  by and_intros <;> decide +kernel
/-- A restore of job 0, whose checkpoint 1 stands in host storage, with no bytes: the manifest at 0x3000 has its entry. -/
def restoring : State :=
  let s := (commanded [(0, 1, 4), (16, 8, 0x1000), (24, 8, 0x2000), (32, 8, 0x3000)]).modJob 0 (fun x => { x with dieMap := (List.range 8).map (fun i => BitVec.ofNat 64 (2 ^ 62 + i)) })
  let x : Save := { job := s.job 0, index := 0, modl := 0, parts := [], tiles := [], launches := [], mem := [], full := [], dies := [], fabric := {}, held := [], events := [], hbm := 0, lost := false, late := 0, ck := 1, area := [], keeper := none, buddy := false, host := true }
  { s with saves := [(shardKey 0 0 1, x)], hostMem := Memory.writeN s.hostMem 0x3080 (bytesOfNat 4 1 ++ bytesOfNat 2 0 ++ bytesOfNat 1 2 ++ bytesOfNat 9 0 ++ sha384 []) }
theorem witness_Restore : badCommand restoring 0 (blockAt restoring 0x100 64) = false ∧ descField (blockAt restoring 0x100 64) 0 1 = 4 ∧ (restoring.job 0).cmd = none ∧
    (restoreJob 0 0x3000 (fun i => if i = 0 then scatterList restoring 0x1000 else none) restoring).2 = 0 := by decide +kernel
theorem test_restore_mixed : (restoreJob 0 0x4000 (fun _ => none) restoring).2 = 7 := by decide +kernel
theorem witness_settled_switch : (∃ c, (((switching 1 5).modPart 0 (fun p => { p with held := true })).job 0).cmd = some c ∧ c.limit ≠ 0 ∧ c.mode ≠ 2 ∧ c.cmd ≠ 3) ∧
    jobBars ((switching 1 5).modPart 0 (fun p => { p with held := true })) 0 = [0] ∧ barSettled ((switching 1 5).modPart 0 (fun p => { p with held := true })) 0 = true :=
  ⟨some_of (by decide +kernel), by decide +kernel, by decide +kernel⟩
theorem test_throttle : after (exec (.throttle 0 0x100) (commanded [(3, 1, 4)])) (fun s => ((s.part 0).stepSet, (s.modl 0).mbSt, s.pending)) = some (4, 0, [.throttleApply 0]) := by
  decide +kernel
theorem test_switch_holds : after (exec (.cloveSwitchDrain 0 0x100) (commanded (switchBlock 0 0 0x1000))) (fun s => ((s.modl 0).mbBusy, (s.part 0).holding, s.pending)) =
    some (true, true, [.switchQuiet 0]) := by decide +kernel
theorem test_release : after (exec (.containRelease 0 0x100) (contained 0)) (fun s => ((s.ctx 0 0).st, (s.modl 0).mbSt)) = some (.resident, 0) := by decide +kernel
theorem test_kill : after (exec (.kill 0 0x100) (commanded [])) (fun s => ((Map.get? s.launches 0).map (fun l => (l.phase, l.status)), (s.tile 0).work)) =
    some (some (.ended, 8), none) := by decide +kernel

theorem witness_ModuleEvents : (partsOn (commanded []) 0).Nodup ∧ 0 ∈ partsOn (commanded []) 0 ∧ (((commanded []).jobs.map (fun e => e.1)) = [0] ∧ 0 ∈ ((commanded []).job 0).box ∧ ((commanded []).job 0).off = false) ∧
    (((commanded []).modl 0).powered = true ∧ ((commanded []).modl 0).bootState ∉ [0, 1, 2, 3] ∧ (State.reset.modl 0).bootState = 0) ∧
    (∀ n ∈ [1#8, 2#8, 3#8], ((State.reset.modModl 0 (fun x => { x with bootState := n })).modl 0).bootState = n ∧ ((State.reset.modModl 0 (fun x => { x with bootState := n })).modl 0).powered = true) ∧
    (∀ e ∈ (commanded []).jobs, 0 ∈ e.2.box ∧ ∀ n ∈ e.2.box, n = 0 ∨ n = absentModule) ∧ (∃ e ∈ meshed.jobs, 0 ∈ e.2.box ∧ e.2.off = false ∧ ∃ n ∈ e.2.box, ¬ (n = 0 ∨ n = absentModule)) ∧
    (((unit 2).tile 0).testKernel = false ∧ 4 ∈ (State.reset.modl 0).records ∧ ((State.reset.modTile 3 (fun t => { t with kernels := [1] })).tile 3).kernels ≠ [] ∧ (State.reset.tile 3).work = none) ∧ ((commanded []).job 0).box ≠ [] ∧ (State.reset.job 0).box = [] ∧
    ((∃ e ∈ (commanded []).launches, e.2.part = 0 ∧ e.2.phase = .running) ∧ ¬ ∃ e ∈ (commanded []).launches, e.2.part = 1 ∧ e.2.phase = .running) := by decide +kernel
/-- The eight dies of module 0, each the job's own. -/
def ownDies : List Word := [0x4000000000000000#64, 0x4000000000000001#64, 0x4000000000000002#64, 0x4000000000000003#64, 0x4000000000000004#64, 0x4000000000000005#64, 0x4000000000000006#64, 0x4000000000000007#64]
theorem witness_JobsAndGangs : (∀ e ∈ ownDies, e.extractLsb' 62 2 = 1 ∧ e.extractLsb' 35 27 = 0) ∧ (ownDies.map (fun e => (e.extractLsb' 0 35).toNat)).Nodup ∧ ownDies.length = 8 :=
  ⟨by simp [ownDies], by simp [ownDies], rfl⟩
theorem test_job_start : after (exec (.jobStart 3 [1, 1, 1, 1, 2] ownDies) State.reset) (fun s => ((s.job 3).box, (s.job 3).fn, (s.job 3).dies.length)) = some ([0], 2, 8) := by decide +kernel
theorem witness_ModuleLosses : ((commanded []).jobs.filter (fun e => e.2.box.contains 0 && !e.2.off)).map (fun e => e.1) = [0] ∧
    (meshed.aliveBox 0).filter (fun x => decide (x ≠ 1)) = [0] ∧ (meshed.job 0).cmd = none ∧ (meshed.job 0).dieMap.length < 2 ^ 32 ∧ (reach meshed 0 [0] 1 [0]).length = 1 ∧
    (meshed.job 0).box.findIdx? (fun x => decide (x = 1)) = some 1 ∧ meshed.saves = [] := by decide +kernel
theorem witness_module_leaves : (∀ e ∈ (commanded []).jobs, ∀ x ∈ e.2.leaving, x.1 ≠ 0) ∧ (∀ e ∈ (commanded []).jobs, e.2.adopted = []) ∧ (∀ e ∈ meshed.jobs, ∀ x ∈ e.2.leaving, x.1 ≠ 1) ∧
    (meshed.modJob 0 (fun x => { x with leaving := [(1, [0])] })).jobs.filterMap (fun e => (e.2.leaving.find? (fun x => decide (x.1 = 1))).map (fun x => (e.1, x.2))) = [(0, [0])] ∧
    ((meshed.modJob 0 (fun x => { x with leaving := [(1, [0])] })).job 0).box.findIdx? (fun x => decide (x = 1)) = some 1 := by decide +kernel
theorem witness_Migration : mbState (commanded []) 0 = .ready ∧ mbState State.reset 0 ≠ .ready ∧ (((commanded []).modJob 0 (fun x => { x with off := true })).job 0).off = true ∧
    jobTiles (commanded []) 0 = [0] ∧ Canonical (commanded []) :=
  by and_intros <;> decide +kernel
theorem test_power_loss : after (exec (.modulePowerLoss 0) windowed) (fun s => (s.tiles.length, s.mem.length, (s.modl 0).powered)) = some (0, 0, false) := by decide +kernel
theorem test_power_step : after (exec (.powerLimitStep 0) (commanded [])) (fun s => ((s.part 0).stepLow, s.pending)) = some (1, [.throttleApply 0]) := by decide +kernel
theorem test_kernel_fails : after (exec (.testKernelEnd 0 3 false) (State.reset.modTile 3 (fun t => { t with testKernel := true }))) (fun s =>
    ((s.tile 3).testFailed, Map.get? (s.modl 0).merr 0 != none)) = some (true, true) := by decide +kernel
theorem test_power_loss_jobs : after (exec (.modulePowerLoss 0) (commanded [])) (fun s => (s.jobs.length, s.launches.length, s.pending)) = some (0, 0, []) ∧
    after (exec (.modulePowerLoss 0) meshed) (fun s => (s.jobs.length, s.pending)) = some (1, [.moduleLoss 0]) := by decide +kernel
theorem test_boot_stages : after (exec (.boot 0) State.reset) (fun s => ((s.modl 0).bootState, (s.modl 0).boots, s.pending)) = some (1, 1, [.boot 0]) ∧
    after (exec (.boot 0) (State.reset.modModl 0 (fun x => { x with bootState := 1 }))) (fun s => (s.modl 0).bootState) = some 2 ∧
    after (exec (.boot 0) (State.reset.modModl 0 (fun x => { x with bootState := 2, staged := some [] }))) (fun s => (s.modl 0).bootState) = some 0x80 := by decide +kernel
theorem test_kernel_set : after (exec (.slotBoundary 0 3) (State.reset.modModl 0 (fun x => { x with kernels := [7] }))) (fun s => (s.tile 3).kernels) = some [7] := by decide +kernel

/-! ### Further clauses -/

theorem witness_UnhandledControlTrap : ((unit 2).tile 0).work.isSome = true ∧ ((unit 2).tile 0).step.bound = false ∧ ((unit 2).tile 0).csr.tvec = 0 ∧ ((unit 2).tile 0).twin = none ∧
    (Map.get? (unit 2).launches 0).isSome = true ∧ ((unit 0).tile 0).work.map (fun u => u.cls) = some 0 ∧ ((unit 0).part (implicitKey 0)).bar = .running ∧
    (unit 0).isIrrevocable (implicitKey 0) = false ∧ 0 ∈ (unit 0).tilesOf 0 := by decide +kernel
theorem test_unhandled_control : after (exec (.trap 2 8 0x34) (unit 2)) (fun s => ((s.ctx 0 0).st, (s.tile 0).step.pend, (s.tile 0).step.arrived, s.pending)) =
      some (.stopped, true, true, [.barrierRecord 0 0 0 0 (0#64 ++ 0#32 ++ 0#26 ++ 0#3 ++ 0#1 ++ 1#2)]) ∧
    after (exec (.trap 2 8 0x34) (unit 0)) (fun s => ((s.ctx 0 0).st, (s.part (implicitKey 0)).bar, s.pending.contains (.abort 0 0))) = some (.stopped, .aborting, true) := by
  decide +kernel

/-- Two loop levels of one word, which is the word that executes. -/
def nested (n m : BitVec 32) : State := (unit 0).modCur (fun x => { x with
  depth := 2, loops := (x.loops.setIfInBounds 0 { count := n, start := 0, len := 1 }).setIfInBounds 1 { count := m, start := 0, len := 1 } })
theorem test_nested_levels : after (exec .nop (nested 2 1)) (fun s => (s.curCtx.pc, s.curCtx.depth, s.curCtx.level.count)) = some (own 0, 1, 1) ∧
    after (exec .nop (nested 1 1)) (fun s => (s.curCtx.pc, s.curCtx.depth)) = some (own 4, 0) := by decide +kernel
theorem witness_nested_levels : (nested 2 1).curCtx.frame = none ∧ (nested 2 1).curCtx.depth ≤ 4 ∧ (endLevels (imageOf (nested 2 1) 0) (ptrOff (own 0)) (activeLevels (nested 2 1).curCtx)).1.length = 1 := by
  decide +kernel
/-- A body that starts outside the first 16 MiB of the image, below it and beyond. -/
def farBody (below : Bool) : State := handled.modCur (fun x => { x with pc := if below then 0x00FFFF0000000000 else own (2 ^ 24 - 4) })
theorem test_loop_from_register : after (exec (.loop 5 3 0) (unit 0)) (fun s => (s.curCtx.pc, s.curCtx.depth)) = some (own 16, 0) ∧
    after (exec (.loop 5 3 0) (farBody false)) (fun s => s.curCtx.tcause) = some Cause.illegal.code ∧
    after (exec (.loopi 0 3 0 1) (farBody true)) (fun s => s.curCtx.tcause) = some Cause.illegal.code := by decide +kernel
/-- The last replay of a frame, whose last word ends a loop level. -/
def framedLoop (n : BitVec 32) : State := (unit 0).modCur (fun x => { x with
  frame := some { base := own 0, rpt := 0x3C421100, words := [0x44000000, 0x44000000], i := bits 0x3C421100 16 6, j := 1 }
  depth := 1, loops := x.loops.setIfInBounds 0 { count := n, start := 0, len := 3 } })
theorem test_frame_in_loop : after (exec .nop (framedLoop 2)) (fun s => (s.curCtx.pc, s.curCtx.depth, s.curCtx.frame.isNone)) = some (own 0, 1, true) ∧
    after (exec .nop (framedLoop 1)) (fun s => (s.curCtx.pc, s.curCtx.depth)) = some (own 12, 0) := by decide +kernel

theorem test_scan_max : after (exec (.vscan 3 1 0 2 7) (vecs (low (7 + 5 * 2 ^ 32 + 9 * 2 ^ 64)) 0 0)) (fun s => (List.range 4).map (fun j => elemOf (s.curCtx.vreg 3) 32 j)) = some [7, 7, 9, 9] ∧
    after (exec (.vscan 3 1 0 0 0) (vecs (low (0x3F800000 + 0x40000000 * 2 ^ 32)) 0 0)) (fun s => (elemOf (s.curCtx.vreg 3) 32 0, elemOf (s.curCtx.vreg 3) 32 1)) =
      some (0x3F800000, 0x40400000) := by decide +kernel
theorem witness_scans : (7#4, ElemTy.int true 32) ∈ typeCodes ∧ (2#3).toNat < 6 ∧ ((0#4, FloatFmt.f32) ∈ [(0#4, FloatFmt.f32), (1#4, .bf16), (2#4, .f16)]) ∧ (2#3).toNat ≤ 2 ∧
    checkDirs [1] [3] (wordOf (.vscan 3 1 0 2 7)) (started (unit 0)) = .ok () (started (unit 0)) ∧
    checkDirs [1] [3] (wordOf (.vscan 3 1 0 0 0)) (started (unit 0)) = .ok () (started (unit 0)) := ⟨by decide, by decide, by decide, by decide, rfl, rfl⟩

theorem witness_vault_write : (∀ i < 4, regionOf mems 0 true (60 + i) = .kept) ∧ (∃ t, writeTile 0 0 true 60 [1, 2, 3, 4] mems = .ok () t) ∧ 60 + 4 ≤ 0x1A0000 :=
  ⟨by decide +kernel, ok_of (by decide +kernel), by decide⟩
theorem test_vault_write : (match writeTile 0 0 true 60 [1, 2, 3, 4] mems with
    | .ok _ s => (tileByte s 0 0 true 61, tileByte s 0 0 false 61)
    | .error _ _ => (0, 0)) = (2, 0) := by decide +kernel
/-- The digest of "abc", as the standard gives it. -/
theorem test_sha384 : beNat (sha384 [0x61, 0x62, 0x63]) =
    0xCB00753F45A35E8BB5A03D699AC65007272C32AB0EDED1631A8B605A43FF5BED8086072BA1E7CC2358BAECA134C825A7 := by decide +kernel

/-- Index 1 of the job's die map is ADOPTED, and its shard stands on module 0; s1 points into it, and s2 is the length of a page. -/
def adopting : State :=
  let s := sharded.modJob 0 (fun x => { x with dieMap := [BitVec.ofNat 64 (2 ^ 62), BitVec.ofNat 64 (2 ^ 63 + 8)], adopted := [(0, some (shardKey 0 0 0))] })
  let s := { s with saves := s.saves.map (fun (e : Nat × Save) => (e.1, { e.2 with job := { dieMap := [BitVec.ofNat 64 (2 ^ 62), BitVec.ofNat 64 (2 ^ 62 + 8)] } })) }
  (regs [(1, 0x0000010000000000), (2, 0x200000)] s).modCsr 0 (fun r => { r with tvec := own 64 })
theorem witness_seal_of_shard : (resolveDie (started adopting).s 0 (adopting.curCtx.sreg 1)).isSome = true ∧ (shardOf (started adopting).s 0 (adopting.curCtx.sreg 1)).isSome = true ∧
    ptrOff (adopting.curCtx.sreg 1) < 0x4000000000 := by decide +kernel
theorem test_seal_of_shard : after (exec (.seal 1 2) adopting) (fun s => (s.curCtx.tcause, s.curCtx.tval)) = some (Cause.perm.code, 0x0000010000000000) := by decide +kernel

/-- Slot 0, as `slotted` has it, of a tile that has a trap handler. -/
def slottedHandled (st : SlotState) (m : Bool) : State := (slotted st m).modCsr 0 (fun r => { r with tvec := own 64 })
theorem test_accbusy : after (exec (.accrd 1 0 0) (slottedHandled .mma true)) (fun s => (s.curCtx.tcause, s.curCtx.tval)) = some (Cause.accbusy.code, 0x100000000) ∧
    after (exec (.accwr 1 0 0) (slottedHandled .epiq false)) (fun s => s.curCtx.tval) = some 0xFFFFFFFF00000000 ∧
    after (exec (.mzero 0) (slottedHandled .mma true)) (fun s => s.curCtx.tcause) = some Cause.accbusy.code := by decide +kernel
/-- Configuration 0 reads table slot 1, which is not valid; helper 1 has a TLOAD of it under way where `l`. -/
def tabledJob (l : Bool) : State :=
  let s := (configured.modEng 0 (fun e => { e with epcfg := e.epcfg.setIfInBounds 0 (some 0x108) })).modCsr 0 (fun r => { r with tvec := own 64 })
  if l then s.setCtx 0 1 { st := .live, tload := some 1 } else s
theorem test_epi_table : epTable 0x108 = some 1 ∧ after (exec (.epi 1 2 1 0) (tabledJob false)) (fun s => s.curCtx.tcause) = some Cause.illegal.code ∧
    after (exec (.epi 1 2 1 0) (tabledJob true)) (fun s => s.curCtx.wait) = some (some .issue) := by decide +kernel
theorem test_waitt_in_helper : after (exec (.waitt 1) (helper.modEng 0 (fun e => { e with tok := e.tok.setIfInBounds 0 1 }))) (fun s => (s.ctx 0 1).wait) = some (some (.tokens 1 false)) := by
  decide +kernel
/-- No handle is free; and a booking of sixty-four slots leaves no window of its unit. -/
theorem witness_EarliestWindow : bookSearch ((unit 2).modCsr 0 (fun r => { r with books := Vector.ofFn (fun _ => { stat := .lapsed }) })) 0 1 1 = .error 2 ∧
    bookSearch (oneHandle.modCsr 0 (fun r => { r with books := r.books.setIfInBounds 1 { stat := .running, mask := 1, size := 65, start := 0 } })) 0 1 1 = .error 1 ∧
    badRequest 0 1 = true ∧ badRequest 1 1 = false ∧
    bookSearch (oneHandle.modCsr 0 (fun r => { r with books := r.books.setIfInBounds 1 { stat := .booked, mask := 1, size := 2, start := 1 } })) 0 1 3 = .ok (0, 3) := by decide +kernel
/-- As `crowded`, with no version in the third slot of the page. -/
def roomy : State := { crowded with mem := Memory.writeN crowded.mem 0x400018 (bytesOfNat 8 0) }
theorem test_pubv_reserves : after (exec (.pubv 6) roomy) (fun s => (s.curCtx.sreg 6, s.parts.any (fun p => decide (p.2.reserved = [(0, 0x400000, 2)])))) = some (0x60000, true) := by
  decide +kernel

/-- A gathered element at an address of no page. -/
def refusedElement : State :=
  let w : PageWait := { elem := 1, die := 0, fn := 0, stage := 1, tag := 0, addr := 0x00FFFF0000000000, write := false, size := 4, data := 7, parked := none, solo := false }
  mems.modCur (fun x => { x with wait := some (.pages [w] 1 0) })
theorem test_element_refused : after (exec (.gatherElementReplay 0 0 0 1) refusedElement) (fun s => (s.curCtx.wait, s.curCtx.replay)) = some (none, some (1, 0)) := by decide +kernel
/-- As `longing`, with its continuation area in a page that its page service has still to give. -/
def longingFar : State :=
  let b : BitVec 1024 := BitVec.ofNat 1024 (0x00FFFF0000400000 * 2 ^ (8 * 80) + 2 ^ (8 * 88))
  (longing.modLaunch 0 (fun l => { l with block := b })).modDie 0 (fun x => { x with tctx := x.tctx.setIfInBounds 0 (BitVec.ofNat 512 (0x10000 + 0x50000 * 2 ^ (8 * 24) + 2 ^ (8 * 41 + 3))) })
theorem test_deq_long_waits : after (exec (.deqLongWait 0 0 1) { longingFar with
    mem := Memory.writeN (Memory.writeN longingFar.mem 0x50000 (bytesOfNat 8 0x60000)) 0x50008 (bytesOfNat 4 16) }) (fun s => ((s.ctx 0 1).st, (s.die 0).waiters.length, s.hwWaits.length)) =
    some (.live, 1, 1) := by decide +kernel

/-- A barrier tree whose die 0 has reported whole where `f`. -/
def moduled (f : Bool) : State := (unit 2).modPart 0 (fun p => { p with
  nodes := [(0, { children := [0], full := f }), (2 ^ 40, { children := [0] }), (2 ^ 41, { children := [2 ^ 40] })] })
theorem test_module_node : after (exec (.barrierRecord 0 1 (2 ^ 40) 0 (record 5 1 0 0)) (moduled true)) (fun s => s.pending) = some [.barrierRecord 0 2 (2 ^ 41) (2 ^ 40) (record 5 1 0 0)] ∧
    after (exec (.barrierRecord 0 1 (2 ^ 40) 0 (record 5 1 0 0)) (moduled false)) (fun s => s.pending) = some [] ∧
    after (exec (.barrierRecord 0 1 (2 ^ 40) 0 (record 5 1 0 1)) (moduled false)) (fun s => s.pending) = some [.barrierRecord 0 2 (2 ^ 41) (2 ^ 40) (record 5 1 0 1)] := by decide +kernel
/-- A member has sent a forced vote that has not arrived: the root waits. -/
theorem test_root_awaits_vote : after (exec (.barrierRecord 0 2 (2 ^ 41) (2 ^ 40) (record 5 1 0 0)) ((rooted [2 ^ 40]).modStep 0 (fun st => { st with forced := true }))) (fun s => (s.part 0).bar) =
    some .running := by decide +kernel
/-- Between outcome and resume broadcast three events have been raised: a fault's, a forced event's and a parity error's. -/
def deferring (settled : Bool) : State := (unit 2).modStep 0 (fun st => { st with bound := true, settled := settled, deferred := [(0x05, 0), (0x24, 1), (0x20, 3)], badLater := [7] })
theorem test_resume_deferred : after (exec (.resumeBroadcast 0 0) (deferring false)) (fun s => ((s.tile 0).step.pend, (s.tile 0).step.cause, (s.tile 0).step.badLines, s.pending)) =
    some (true, 0x05, [7], [.barrierRecord 0 0 0 0 (record 0 0 0 1), .barrierRecord 0 0 0 0 (record 0 0 0 3)]) := by decide +kernel
theorem test_event_at_boundary : after (exec (.forcedEvent 0 0 0x24) (deferring true)) (fun s => ((s.tile 0).step.pend, (s.tile 0).step.deferred.length)) = some (true, 4) ∧
    after (exec (.parityError 0 0 .retainedKept) (deferring false)) (fun s => ((s.tile 0).step.pend, (s.tile 0).step.deferred.getLast?)) = some (false, some (0x20, 3)) := by decide +kernel
/-- A pair of a CON unit. -/
def pairedCon : State :=
  let twin (p : Nat) : Twin := { partner := p, primary := decide (p = 66), sent := [] }
  ((unit 2).modTile 0 (fun t => { t with twin := some (twin 66) })).modTile 66 (fun t => { t with twin := some (twin 0) })
theorem test_forced_of_pair : after (exec (.forcedEvent 0 0 0x24) pairedCon) (fun s => ((s.tile 0).twin.map (fun w => w.sent), s.pending)) =
    some (some [(33, bytesOfNat 16 1)], [.pairCompare 0 0]) := by decide +kernel

/-- Two bookings of one unit that start in slots 5 and 9; slot 0 is current, so that they move to slots 2 and 3, as compaction has it. -/
def spread : State :=
  let b (n : Nat) : Booking := { stat := .booked, mask := 1, size := 1, start := n }
  (unit 2).modCsr 0 (fun r => { r with books := (r.books.setIfInBounds 0 (b 9)).setIfInBounds 1 (b 5) })
theorem test_compaction : after (exec (.slotBoundary 0 0) spread) (fun s => (((s.tile 0).book 0).start, ((s.tile 0).book 1).start)) = some (3, 2) := by decide +kernel
theorem test_kernels_at_slot : after (exec (.slotBoundary 0 0) { unit 2 with modls := [(0, { kernels := [1, 2] })] }) (fun s => (s.tile 0).kernels) = some [1, 2] := by decide +kernel
theorem test_record_in_frame : (recordCtx (recordBytes { rptidx := 5 } (own 8) 2 true 0 0 0) { tile := 0, ssn := 0 }).tstat = 2 ∧
    (recordCtx (recordBytes { rptidx := 5 } (own 8) 2 true 0 0 0) { tile := 0, ssn := 0 }).rptidx = 5 := by decide +kernel
/-- The job of `draining` goes on at its last row. -/
theorem test_drain_goes_on : after (exec (.epiDrainEnd 0 0) ((draining (some 0) .epi).modEng 0 (fun e => { e with epiq := [drained 15] }))) (fun s => ((s.curTile.eng.slot 0).st, s.curTile.eng.epiq.length)) =
    some (.free, 0) := by decide +kernel
/-- The data of a host write are poisoned; an AtomicOp is no FetchAdd; a host writes its own memory. -/
theorem test_host_kinds : after (exec (.hostWrite 0 (0, 0) (4, 0x8000000080) (false, true, [7])) (unit 0)) (fun s => (tileByte s 0 0 false 128, bits (Map.getD (s.modl 0).merr 0 0).toNat 56 8)) = some (0, 9) ∧
    after (exec (.hostAtomicFetchadd 0 (0, 0) 0x8000000080 4 (1, 5)) (unit 0)) (fun s => s.completions.map (fun c => c.status)) = some [1] ∧
    after (exec (.hostWrite 0 (0, 0) (8, 0x5000) (false, false, [7, 8])) (unit 0)) (fun s => Memory.readN s.hostMem 0x5000 2) = some [7, 8] := by decide +kernel
/-- A COLL whose route names no port delivers nowhere: at the multicast its packet ends, and the operation completes. -/
theorem test_multicast_nowhere : after (exec (.collHop 0 0) (arrived 0 0 (packet 2 1 [opEntry 1 0 0]))) (fun s => ((s.sw 0).inq.all (fun e => e.2.isEmpty), (s.sw 0).store.length)) =
    some (true, 0) := by decide +kernel

end Sys2Proof.Tests
end

section
/-! Steps, the state after reset, scalar operands and predicate operations (R13, R16, R66, R159). -/
namespace Sys2Proof.Proofs
open Sys2Proof Sys2Proof.Machine Sys2Proof.Claims

/-! ### Steps -/

/-- A choice that falls on a context is an issue of that context. -/
theorem step_of_pick_ctx {s : State} {k c : Nat} (h : pick s = some (.ctx k c)) :
    step s = issue k c { s with sched := s.sched.drop 1 } := by
  simp only [step, stepOf, h, carryOut]

/-- A choice that falls on an event carries it out in the state without it. -/
theorem step_of_pick_event {s : State} {n : Nat} {e : Instr} (h : pick s = some (.event n e)) :
    step s = exec e { s with sched := s.sched.drop 1, pending := s.pending.eraseIdx n } := by
  simp only [step, stepOf, h, carryOut]

/-- Without a choice a step changes nothing. -/
theorem step_of_pick_none {s : State} (h : pick s = none) : step s = .next s := by
  simp only [step, stepOf, h]

/-- An element of an indexed list stands at its place, counted from the first number. -/
theorem getElem?_of_mem_indexed {α : Type} {a : α} {i : Nat} : ∀ {l : List α} {o : Nat}, (i, a) ∈ indexed o l →
    o ≤ i ∧ l[i - o]? = some a := by
  intro l
  induction l with
  | nil => intro o h; simp [indexed] at h
  | cons b l ih =>
    intro o h
    simp only [indexed, List.mem_cons, Prod.mk.injEq] at h
    rcases h with ⟨rfl, rfl⟩ | h
    · simp
    · obtain ⟨hle, hget⟩ := ih h
      refine ⟨by omega, ?_⟩
      rw [show i - o = (i - (o + 1)) + 1 by omega, List.getElem?_cons_succ]
      exact hget

/-- An event is chosen only where it stands in flight and its conditions hold. -/
theorem ready_of_pick_event {s : State} {n : Nat} {e : Instr} (h : pick s = some (.event n e)) :
    ready s e = true ∧ s.pending[n]? = some e := by
  have hmem : Choice.event n e ∈ choices s := List.mem_of_getElem? h
  simp only [choices, List.mem_append, List.mem_map, List.mem_filter, List.mem_flatMap] at hmem
  rcases hmem with ⟨⟨i, x⟩, ⟨hin, hready⟩, heq⟩ | ⟨x, -, hctx⟩
  · obtain ⟨rfl, rfl⟩ := Choice.event.inj heq
    exact ⟨hready, by simpa using (getElem?_of_mem_indexed hin).2⟩
  · split at hctx <;> simp at hctx

/-- Settles O4: the choice, the fetch and the decoder leave `exec` of the decoded instruction. -/
theorem stepRunsDecodedInstruction : Obligations.StepRunsDecodedInstruction := by
  intro s k c i w f hp hd hw
  rw [step_of_pick_ctx hp, issue]
  simp only [hw, runWord, hd]

/-- Settles O5. -/
theorem stepRunsChosenEvent : Obligations.StepRunsChosenEvent := by
  intro s n e hp
  exact ⟨step_of_pick_event hp, ready_of_pick_event hp⟩

/-! ### Every step goes on -/

/-- Every arm of `exec` is a meaning that `runM` runs to its end, or a change of state that `runE` makes; either answers a next state. -/
theorem exec_next (i : Instr) (s : State) : isNext (exec i s) := by
  cases i <;> first | exact runM_next _ _ | exact ⟨_, rfl⟩

/-- An issue goes on, whether its word is fetched or not, and whether it decodes or not. -/
theorem issue_next (k c : Nat) (s : State) : isNext (issue k c s) := by
  simp only [issue]
  split
  · simp only [runWord]
    split
    · exact exec_next _ _
    · exact runM_next _ _
  · exact runM_next _ _

/-- Settles O7: whatever is chosen ends in a next state. -/
theorem everyStepAnswersNext : Obligations.EveryStepAnswersNext := by
  intro s
  cases hp : pick s with
  | none => rw [step_of_pick_none hp]; exact ⟨s, rfl⟩
  | some x =>
    cases x with
    | event n e => rw [step_of_pick_event hp]; exact exec_next _ _
    | ctx k c => rw [step_of_pick_ctx hp]; exact issue_next _ _ _

/-! ### The state after reset -/

/-- Nothing can happen after reset. -/
theorem pick_reset : pick State.reset = none := rfl

theorem tile_reset (k : Nat) : State.reset.tile k = {} := rfl

/-- Settles O9: every map of the state after reset is empty, and nothing is in flight. -/
theorem resetState : Obligations.ResetState := by
  refine ⟨⟨rfl, rfl⟩, fun k c => ?_, fun k => rfl, rfl, rfl, fun m => rfl, step_of_pick_none pick_reset⟩
  by_cases hc : c < 11
  · simp [State.ctx, tile_reset, Tile.ctx, hc]
  · simp [State.ctx, tile_reset, Tile.ctx, hc]

/-! ### Scalar operands -/

theorem queueOf_ne_none_iff (x : Ctx) (f : BitVec 5) :
    queueOf x f ≠ none ↔ 24 ≤ f.toNat ∧ x.qmap.getLsbD (f.toNat - 24) = true := by
  simp [queueOf]

/-- S[f] of a mapped queue: its oldest entry that no earlier field has taken, or a wait. -/
theorem srcS_mapped {f : BitVec 5} {w : Work} {q : Nat} (h : queueOf w.s.curCtx f = some q) :
    srcS f w = match (w.s.curTile.queue q)[popsOf w.pops q]? with
      | some x => .ok x { w with pops := w.pops ++ [Pop.queue q] }
      | none => .error (.wait .queue) w := by
  cases hv : (w.s.curTile.queue q)[popsOf w.pops q]? with
  | some x => exact srcS_queue h hv
  | none => exact srcS_empty h hv

/-- S[d] of a mapped queue: a push where there is room, or a wait. -/
theorem dstS_mapped {d : BitVec 5} {v : Word} {w : Work} {q : Nat} (h : queueOf w.s.curCtx d = some q) :
    dstS d v w = if (w.s.curTile.queue q).length < queueDepth q + popsOf w.pops q then .ok () { w with pushes := w.pushes ++ [(q, v)] }
      else .error (.wait .queue) w := by
  split
  next hr => exact dstS_queue h hr
  next hr => simp [dstS, roomS, h, hr]

/-- Settles O11. -/
theorem scalarOperandForms : Obligations.ScalarOperandForms := by
  intro w f v
  exact ⟨srcS_reg, fun q hq => srcS_mapped hq, dstS_reg, fun q hq => dstS_mapped hq, queueOf_ne_none_iff _ f,
    Ctx.sreg_zero _, fun n => Ctx.sreg_setS _ f n v⟩

end Sys2Proof.Proofs
end

section
/-! How a meaning that takes no stream ends, and the predicate operations (R16, R159). -/
namespace Sys2Proof.Proofs
open Sys2Proof Sys2Proof.Machine Sys2Proof.Claims

/-! ### Work that takes no stream -/

/-- An instruction under way has taken nothing from a stream and gives nothing to one (R72, R162). -/
def Plain (w : Work) : Prop := w.groups = [] ∧ ∀ p ∈ w.pops, ∃ q, p = Pop.queue q

theorem plain_started (s : State) : Plain (started s) := ⟨rfl, by simp⟩

/-- Only pops and pushes of streams take slots of rings. -/
theorem Plain.slots {w : Work} (h : Plain w) (b : Bool) : w.slots b = [] := by
  have hpop : ∀ e ∈ indexed 0 w.pops, ∃ q, e.2 = Pop.queue q := fun e he =>
    h.2 e.2 (List.mem_of_getElem? (getElem?_of_mem_indexed (i := e.1) (a := e.2) he).2)
  simp only [Work.slots, h.1, indexed, List.map_nil, ite_self, List.append_nil, List.filterMap_eq_nil_iff]
  intro e he
  obtain ⟨q, hq⟩ := hpop e he
  rw [hq]

/-- A meaning that ends well and takes no stream completes. -/
theorem runM_plain {m : M Unit} {s : State} {w : Work} (h : m (started s) = .ok () w) (hw : Plain w) :
    runM m s = .next (completed w) := runM_ok h (shortLine_none (hw.slots true))

/-- A source field that is read leaves the state, and pops at most a queue. -/
theorem srcS_ok_cases {f : BitVec 5} {w w' : Work} {x : Word} (h : srcS f w = .ok x w') :
    (queueOf w.s.curCtx f = none ∧ x = w.s.curCtx.sreg f ∧ w' = w) ∨ ∃ q, w' = { w with pops := w.pops ++ [Pop.queue q] } := by
  cases hq : queueOf w.s.curCtx f with
  | none =>
    rw [srcS_reg hq] at h
    cases h
    exact .inl ⟨rfl, rfl, rfl⟩
  | some q =>
    rw [srcS_mapped hq] at h
    split at h
    · cases h
      exact .inr ⟨q, rfl⟩
    · cases h

theorem srcS_ok_s {f : BitVec 5} {w w' : Work} {x : Word} (h : srcS f w = .ok x w') : w'.s = w.s := by
  obtain ⟨-, -, rfl⟩ | ⟨q, rfl⟩ := srcS_ok_cases h <;> rfl

theorem Plain.srcS {f : BitVec 5} {w w' : Work} {x : Word} (hw : Plain w) (h : srcS f w = .ok x w') : Plain w' := by
  obtain ⟨-, -, rfl⟩ | ⟨q, rfl⟩ := srcS_ok_cases h
  · exact hw
  · refine ⟨hw.1, fun p hp => ?_⟩
    rcases List.mem_append.mp hp with hp | hp
    · exact hw.2 p hp
    · exact ⟨q, List.mem_singleton.mp hp⟩

/-- A destination field that is written leaves what is popped, and found room where it names a queue. -/
theorem dstS_ok_cases {d : BitVec 5} {v : Word} {w w' : Work} (h : dstS d v w = .ok () w') :
    roomS d w = .ok () w ∧ (w' = { w with s := w.s.modCur (fun x => x.setS d v) } ∨ ∃ q, w' = { w with pushes := w.pushes ++ [(q, v)] }) := by
  cases hq : queueOf w.s.curCtx d with
  | none =>
    rw [dstS_reg hq] at h
    cases h
    exact ⟨by simp [roomS, hq], .inl rfl⟩
  | some q =>
    rw [dstS_mapped hq] at h
    split at h
    next hr =>
      cases h
      exact ⟨by simp [roomS, hq, hr], .inr ⟨q, rfl⟩⟩
    next => cases h

theorem Plain.dstS {d : BitVec 5} {v : Word} {w w' : Work} (hw : Plain w) (h : dstS d v w = .ok () w') : Plain w' := by
  obtain ⟨-, rfl | ⟨q, rfl⟩⟩ := dstS_ok_cases h <;> exact hw

/-! ### Counts of bits -/

theorem bits_one_eq_getLsbD {w : Nat} (x : BitVec w) (i : Nat) : decide (bits x.toNat i 1 = 1) = x.getLsbD i := by
  rw [bits, BitVec.getLsbD, Nat.testBit, Nat.shiftRight_eq_div_pow, Nat.one_and_eq_mod_two, pow_one]
  rcases Nat.mod_two_eq_zero_or_one (x.toNat / 2 ^ i) with h | h <;> simp [h]

/-- The library's count of ones is the length of the list of places that hold one. -/
theorem cpopNatRec_eq_length {w : Nat} (x : BitVec w) (n : Nat) :
    x.cpopNatRec n 0 = ((List.range n).filter (fun i => x.getLsbD i)).length := by
  induction n with
  | zero => rfl
  | succ n ih =>
    rw [BitVec.cpopNatRec_succ, BitVec.cpopNatRec_eq, ih, List.range_succ, List.filter_append, List.length_append, Nat.zero_add]
    cases h : x.getLsbD n <;> simp [h]

theorem intPopc_eq_cpop {w : Nat} (x : BitVec w) : intPopc w x.toNat = x.cpop.toNat := by
  simp only [intPopc, bits_one_eq_getLsbD, BitVec.toNat_cpop, cpopNatRec_eq_length]

/-- The first place that holds one is the library's count of trailing zeros. -/
theorem intCtz_eq_ctz {w : Nat} (x : BitVec w) : intCtz w x.toNat = x.ctz.toNat := by
  simp only [intCtz, bits_one_eq_getLsbD]
  by_cases hx : x = 0#w
  · subst hx
    have hctz : (0#w).ctz = w := by
      rw [BitVec.ctz, BitVec.clz_eq_iff_eq_zero, BitVec.reverse_eq_zero_iff]
    have hnone : (List.range w).find? (fun i => (0#w).getLsbD i) = none := List.find?_eq_none.mpr (by simp)
    rw [hnone, hctz]
    simp
  · have hlt : x.ctz.toNat < w := by
      have := BitVec.ctz_lt_iff_ne_zero.mpr hx
      simpa [BitVec.lt_def] using this
    have hfind : (List.range w).find? (fun i => x.getLsbD i) = some x.ctz.toNat := by
      rw [List.find?_range_eq_some]
      exact ⟨BitVec.getLsbD_true_ctz_of_ne_zero hx, List.mem_range.mpr hlt, fun j hj => by
        simp [BitVec.getLsbD_false_of_lt_ctz hj]⟩
    rw [hfind, Option.getD_some]

/-! ### Predicate operations -/

theorem kField_ok {f : BitVec 5} (iw : Word32) (w : Work) (h : f.toNat < 8) : kField f iw w = .ok (f.setWidth 3) w := by
  simp [kField, h, require_true]

theorem kField_illegal {f : BitVec 5} (iw : Word32) (w : Work) (h : 8 ≤ f.toNat) :
    kField f iw w = .error (.trap .illegal (iw.setWidth 64)) w := by
  simp [kField, Nat.not_lt.mpr h, require_false]

theorem setPred_run (d : BitVec 3) (v : BitVec 16) (w : Work) :
    setPred d v w = .ok () { w with s := w.s.modCur (fun x => x.setK d v) } := rfl

theorem kOp2_ok (f : BitVec 16 → BitVec 16 → BitVec 16) {d a b : BitVec 5} (iw : Word32) (w : Work)
    (hd : d.toNat < 8) (ha : a.toNat < 8) (hb : b.toNat < 8) :
    kOp2 f d a b iw w = .ok () { w with s := w.s.modCur (fun x => x.setK (d.setWidth 3)
      (f (w.s.curCtx.kreg (a.setWidth 3)) (w.s.curCtx.kreg (b.setWidth 3)))) } := by
  simp [kOp2, kField_ok, hd, ha, hb, setPred_run]

theorem kOp2_illegal (f : BitVec 16 → BitVec 16 → BitVec 16) {d a b : BitVec 5} (iw : Word32) (w : Work)
    (h : 8 ≤ d.toNat ∨ 8 ≤ a.toNat ∨ 8 ≤ b.toNat) : kOp2 f d a b iw w = .error (.trap .illegal (iw.setWidth 64)) w := by
  rcases Nat.lt_or_ge d.toNat 8 with hd | hd
  · rcases Nat.lt_or_ge a.toNat 8 with ha | ha
    · simp [kOp2, kField_ok, hd, ha, kField_illegal (f := b) iw w (by omega)]
    · simp [kOp2, kField_ok, hd, kField_illegal iw w ha]
  · simp [kOp2, kField_illegal iw w hd]

/-- An operation whose result is a predicate: it completes with that predicate written. -/
theorem runM_setK {m : M Unit} {s : State} {d : BitVec 3} {v : BitVec 16}
    (h : m (started s) = .ok () { started s with s := (started s).s.modCur (fun x => x.setK d v) }) :
    runM m s = .next (completed { s := (started s).s.modCur (fun x => x.setK d v) }) := runM_plain h (plain_started s)

/-- An operation whose result is a scalar register. -/
theorem runM_setS {m : M Unit} {s : State} {d : BitVec 5} {v : Word}
    (h : m (started s) = .ok () { started s with s := (started s).s.modCur (fun x => x.setS d v) }) :
    runM m s = .next (completed { s := (started s).s.modCur (fun x => x.setS d v) }) := runM_plain h (plain_started s)

/-- An operation that meets ILLEGAL before it has done anything. -/
theorem runM_illegal {m : M Unit} {s : State} {v : Word} (h : m (started s) = .error (.trap .illegal v) (started s)) :
    runM m s = .next (takeTrap (settled (started s).s) .illegal v) := runM_trap h (by decide)

theorem exec_kand (d a b : BitVec 5) (s : State) : exec (.kand d a b) s = runM (kOp2 (· &&& ·) d a b (wordOf (.kand d a b))) s := rfl
theorem exec_kor (d a b : BitVec 5) (s : State) : exec (.kor d a b) s = runM (kOp2 (· ||| ·) d a b (wordOf (.kor d a b))) s := rfl
theorem exec_kxor (d a b : BitVec 5) (s : State) : exec (.kxor d a b) s = runM (kOp2 (· ^^^ ·) d a b (wordOf (.kxor d a b))) s := rfl

theorem exec_knot_ok {d a : BitVec 5} (s : State) (hd : d.toNat < 8) (ha : a.toNat < 8) :
    exec (.knot d a) s = .next (completed { s := (started s).s.modCur (fun x => x.setK (d.setWidth 3) (~~~ s.curCtx.kreg (a.setWidth 3))) }) :=
  runM_setK (by simp [kField_ok, hd, ha, setPred_run])

theorem exec_kpop_ok {d a : BitVec 5} (s : State) (ha : a.toNat < 8) :
    exec (.kpop d a) s = .next (completed { s := (started s).s.modCur (fun x => x.setS d ((s.curCtx.kreg (a.setWidth 3)).cpop.setWidth 64)) }) :=
  runM_setS (by simp [kField_ok, ha, intPopc_eq_cpop])

theorem exec_kfirst_ok {d a : BitVec 5} (s : State) (ha : a.toNat < 8) :
    exec (.kfirst d a) s = .next (completed { s := (started s).s.modCur (fun x => x.setS d ((s.curCtx.kreg (a.setWidth 3)).ctz.setWidth 64)) }) :=
  runM_setS (by simp [kField_ok, ha, intCtz_eq_ctz])

theorem exec_kset_ok {d : BitVec 5} (a : BitVec 5) (s : State) (hd : d.toNat < 8) :
    exec (.kset d a) s = .next (completed { s := (started s).s.modCur (fun x => x.setK (d.setWidth 3) ((s.curCtx.sreg a).setWidth 16)) }) :=
  runM_setK (by simp [kField_ok, hd, setPred_run])

theorem exec_knot_illegal {d a : BitVec 5} (s : State) (h : 8 ≤ d.toNat ∨ 8 ≤ a.toNat) :
    exec (.knot d a) s = .next (takeTrap (settled (started s).s) .illegal ((wordOf (.knot d a)).setWidth 64)) := by
  refine runM_illegal ?_
  rcases Nat.lt_or_ge d.toNat 8 with hd | hd
  · simp [kField_ok, hd, kField_illegal (f := a) _ _ (by omega)]
  · simp [kField_illegal _ _ hd]

theorem exec_kpop_illegal {d a : BitVec 5} (s : State) (h : 8 ≤ a.toNat) :
    exec (.kpop d a) s = .next (takeTrap (settled (started s).s) .illegal ((wordOf (.kpop d a)).setWidth 64)) :=
  runM_illegal (by simp [kField_illegal _ _ h])

theorem exec_kfirst_illegal {d a : BitVec 5} (s : State) (h : 8 ≤ a.toNat) :
    exec (.kfirst d a) s = .next (takeTrap (settled (started s).s) .illegal ((wordOf (.kfirst d a)).setWidth 64)) :=
  runM_illegal (by simp [kField_illegal _ _ h])

theorem exec_kset_illegal {d a : BitVec 5} (s : State) (h : 8 ≤ d.toNat) :
    exec (.kset d a) s = .next (takeTrap (settled (started s).s) .illegal ((wordOf (.kset d a)).setWidth 64)) :=
  runM_illegal (by simp [kField_illegal _ _ h])

/-- A predicate field above 7 is ILLEGAL in every predicate operation (R159). -/
theorem predicate_field_illegal (s : State) (d a b : BitVec 5) (i : Instr)
    (h : (8 ≤ d.toNat ∧ i ∈ [Instr.kand d a b, .kor d a b, .kxor d a b, .knot d a, .kset d a]) ∨
      (8 ≤ a.toNat ∧ i ∈ [Instr.kand d a b, .kor d a b, .kxor d a b, .knot d a, .kpop d a, .kfirst d a]) ∨
      (8 ≤ b.toNat ∧ i ∈ [Instr.kand d a b, .kor d a b, .kxor d a b])) :
    exec i s = .next (takeTrap (settled (started s).s) .illegal ((wordOf i).setWidth 64)) := by
  have two (f : BitVec 16 → BitVec 16 → BitVec 16) (iw : Word32) (hbad : 8 ≤ d.toNat ∨ 8 ≤ a.toNat ∨ 8 ≤ b.toNat) :
      runM (kOp2 f d a b iw) s = .next (takeTrap (settled (started s).s) .illegal (iw.setWidth 64)) :=
    runM_illegal (kOp2_illegal f iw _ hbad)
  simp only [List.mem_cons, List.not_mem_nil, or_false] at h
  rcases h with ⟨hd, rfl | rfl | rfl | rfl | rfl⟩ | ⟨ha, rfl | rfl | rfl | rfl | rfl | rfl⟩ | ⟨hb, rfl | rfl | rfl⟩
  · exact two _ _ (.inl hd)
  · exact two _ _ (.inl hd)
  · exact two _ _ (.inl hd)
  · exact exec_knot_illegal s (.inl hd)
  · exact exec_kset_illegal s hd
  · exact two _ _ (.inr (.inl ha))
  · exact two _ _ (.inr (.inl ha))
  · exact two _ _ (.inr (.inl ha))
  · exact exec_knot_illegal s (.inr ha)
  · exact exec_kpop_illegal s ha
  · exact exec_kfirst_illegal s ha
  · exact two _ _ (.inr (.inr hb))
  · exact two _ _ (.inr (.inr hb))
  · exact two _ _ (.inr (.inr hb))

/-- Settles O22. -/
theorem predicateResults : Obligations.PredicateResults := by
  intro s d a b
  have two (f : BitVec 16 → BitVec 16 → BitVec 16) (iw : Word32) (hd : d.toNat < 8) (ha : a.toNat < 8) (hb : b.toNat < 8) :=
    runM_setK (kOp2_ok f iw (started s) hd ha hb)
  simp only [started_s, rewindTwin_curCtx] at two
  exact ⟨fun hd ha hb => ⟨two _ _ hd ha hb, two _ _ hd ha hb, two _ _ hd ha hb⟩, fun hd ha => exec_knot_ok s hd ha,
    fun ha => ⟨exec_kpop_ok s ha, exec_kfirst_ok s ha⟩, fun hd => exec_kset_ok a s hd, predicate_field_illegal s d a b,
    Ctx.kreg_zero _, fun m n v => Ctx.kreg_setK _ n m v⟩

end Sys2Proof.Proofs
end

section
/-! What an instruction leaves when it completes (R16, R72). -/
namespace Sys2Proof.Proofs
open Sys2Proof Sys2Proof.Machine Sys2Proof.Claims

/-! ### Tiles and contexts under an update -/

@[simp] theorem tile_modTile (s : State) (k : Nat) (f : Tile → Tile) : (s.modTile k f).tile k = f (s.tile k) := State.tile_setTile _ _ _

theorem tile_modTile_other (s : State) {k j : Nat} (f : Tile → Tile) (h : j ≠ k) : (s.modTile k f).tile j = s.tile j :=
  State.tile_setTile_other _ _ _ _ h

@[simp] theorem tile_modIo (s : State) (k : Nat) (f : TileIo → TileIo) :
    (s.modIo k f).tile k = { s.tile k with io := f (s.tile k).io } := tile_modTile _ _ _

theorem tile_modIo_other (s : State) {k j : Nat} (f : TileIo → TileIo) (h : j ≠ k) : (s.modIo k f).tile j = s.tile j :=
  tile_modTile_other _ _ h

@[simp] theorem tile_modCtx (s : State) (k c : Nat) (f : Ctx → Ctx) :
    (s.modCtx k c f).tile k = (s.tile k).setCtx c (f (s.ctx k c)) := State.tile_setTile _ _ _

theorem tile_modCtx_other (s : State) {k j : Nat} (c : Nat) (f : Ctx → Ctx) (h : j ≠ k) : (s.modCtx k c f).tile j = s.tile j :=
  State.tile_setTile_other _ _ _ _ h

@[simp] theorem ctx_modCtx (s : State) (k : Nat) {c : Nat} (f : Ctx → Ctx) (h : c < 11) : (s.modCtx k c f).ctx k c = f (s.ctx k c) :=
  State.ctx_setCtx _ _ _ _ h

theorem ctx_modCtx_other (s : State) (k : Nat) {c d : Nat} (f : Ctx → Ctx) (h : d ≠ c) : (s.modCtx k c f).ctx k d = s.ctx k d :=
  State.ctx_setCtx_other _ _ _ _ _ h

/-! ### The frame of a completion -/

/-- From state s to state t context c of tile k has gone on: t differs in the tile's queues and its place at the comparator, and in the context's PC, loop
state, place in a repeat frame, and what it has kept of the instruction that ends. -/
structure GoesOn (k c : Nat) (s t : State) : Prop where
  rest : t = { s with tiles := t.tiles }
  others : ∀ j, j ≠ k → t.tile j = s.tile j
  tile : t.tile k = { s.tile k with
    ctxs := (t.tile k).ctxs, twin := (t.tile k).twin, io := { (s.tile k).io with queues := (t.tile k).io.queues } }
  ctxs : ∀ d, d ≠ c → t.ctx k d = s.ctx k d
  ctx : t.ctx k c = { s.ctx k c with
    pc := (t.ctx k c).pc, loops := (t.ctx k c).loops, depth := (t.ctx k c).depth, frame := (t.ctx k c).frame
    replay := (t.ctx k c).replay, slotsRead := (t.ctx k c).slotsRead, refused := (t.ctx k c).refused, mmaRow := (t.ctx k c).mmaRow }

theorem GoesOn.refl (k c : Nat) (s : State) : GoesOn k c s s := ⟨rfl, fun _ _ => rfl, rfl, fun _ _ => rfl, rfl⟩

theorem GoesOn.trans {k c : Nat} {s t u : State} (h : GoesOn k c s t) (g : GoesOn k c t u) : GoesOn k c s u where
  rest := g.rest.trans (by rw [h.rest])
  others j hj := (g.others j hj).trans (h.others j hj)
  tile := g.tile.trans (by rw [h.tile])
  ctxs d hd := (g.ctxs d hd).trans (h.ctxs d hd)
  ctx := g.ctx.trans (by rw [h.ctx])

theorem GoesOn.cur {k c : Nat} {s t : State} (h : GoesOn k c s t) : t.cur = s.cur := by rw [h.rest]

theorem GoesOn.curKey {k c : Nat} {s t : State} (h : GoesOn k c s t) : t.curKey = s.curKey := by rw [State.curKey, h.cur, State.curKey]

/-- A change at the comparator of a pair. -/
theorem goesOn_modTwin (s : State) (k c : Nat) (f : Twin → Twin) : GoesOn k c s (modTwin s k f) where
  rest := by unfold modTwin; split <;> rfl
  others j hj := by
    unfold modTwin
    split
    · exact tile_modTile_other _ _ hj
    · rfl
  tile := by rw [modTwin_tile]
  ctxs d _ := modTwin_ctx s k k d f
  ctx := by rw [modTwin_ctx]

/-- A change of the tile's queues. -/
theorem goesOn_queues (s : State) (k c : Nat) (f : TileIo → Vector (List Word) 8) :
    GoesOn k c s (s.modIo k (fun io => { io with queues := f io })) where
  rest := rfl
  others j hj := tile_modIo_other _ _ hj
  tile := by rw [tile_modIo]
  ctxs d _ := by simp only [State.ctx, tile_modIo, Tile.ctx]
  ctx := by simp only [State.ctx, tile_modIo, Tile.ctx]

/-- A change of the context that keeps its registers. -/
theorem goesOn_modCtx (s : State) (k : Nat) {c : Nat} (f : Ctx → Ctx) (hc : c < 11)
    (hf : ∀ x, x = s.ctx k c → f x = { x with
      pc := (f x).pc, loops := (f x).loops, depth := (f x).depth, frame := (f x).frame, replay := (f x).replay
      slotsRead := (f x).slotsRead, refused := (f x).refused, mmaRow := (f x).mmaRow }) :
    GoesOn k c s (s.modCtx k c f) where
  rest := rfl
  others j hj := tile_modCtx_other _ _ _ hj
  tile := by rw [tile_modCtx]; rfl
  ctxs d hd := ctx_modCtx_other _ _ _ hd
  ctx := by rw [ctx_modCtx _ _ _ hc]; exact hf _ rfl

/-- The end of loops changes the loop state alone (R119). -/
theorem loopEnd_frame (image : Word) (off n : Nat) : ∀ x : Ctx,
    (loopEnd image off n x).1 = { x with loops := (loopEnd image off n x).1.loops, depth := (loopEnd image off n x).1.depth } := by
  induction n with
  | zero => intro x; rfl
  | succ n ih =>
    intro x
    rw [loopEnd]
    split
    · dsimp only
      split
      · rfl
      · rw [ih]
    · rfl

/-- A context that goes on after its word keeps its registers (R84). -/
theorem goesOn_goOn {s : State} (hc : s.cur.ctx < 11) : GoesOn s.curKey s.cur.ctx s (goOn s) := by
  simp only [goOn]
  split
  · refine goesOn_modCtx s _ _ hc fun x hx => ?_
    subst hx
    dsimp only
    rw [loopEnd_frame]
    rfl
  · split
    · exact goesOn_modCtx s _ _ hc fun x _ => rfl
    · split
      · exact goesOn_modCtx s _ _ hc fun x _ => rfl
      · refine goesOn_modCtx s _ _ hc fun x hx => ?_
        subst hx
        dsimp only
        rw [loopEnd_frame]
        rfl

/-- What follows the pops and the pushes of an instruction: what it has kept is forgotten, and the context goes on. -/
def finished (w : Work) (s : State) : State :=
  let s := s.modCur (fun x => { x with replay := none, slotsRead := [], refused := [], mmaRow := w.resume })
  if w.gone then s
  else match w.target with
    | some t => s.modCur (fun x => { x with pc := t })
    | none => goOn s

theorem finish_eq (w : Work) : finish w = finished w (applyAll w) := rfl

theorem goesOn_finished (w : Work) {s : State} (hc : s.cur.ctx < 11) : GoesOn s.curKey s.cur.ctx s (finished w s) := by
  let u := s.modCur (fun x => { x with replay := none, slotsRead := [], refused := [], mmaRow := w.resume })
  have hu : GoesOn s.curKey s.cur.ctx s u := goesOn_modCtx s _ _ hc fun x _ => rfl
  simp only [finished]
  split
  · exact hu
  · split
    · exact hu.trans (goesOn_modCtx u _ _ hc fun x _ => rfl)
    · exact hu.trans (goesOn_goOn (s := u) hc)

theorem io_modCur (s : State) (f : Ctx → Ctx) : ((s.modCur f).tile s.curKey).io = (s.tile s.curKey).io := by
  rw [State.modCur, tile_modCtx]; rfl

theorem io_goOn (s : State) : ((goOn s).tile s.curKey).io = (s.tile s.curKey).io := by
  simp only [goOn]
  split
  · exact io_modCur _ _
  · split
    · exact io_modCur _ _
    · split <;> exact io_modCur _ _

/-- What follows pops and pushes leaves the queues. -/
theorem io_finished (w : Work) (s : State) : ((finished w s).tile s.curKey).io = (s.tile s.curKey).io := by
  let u := s.modCur (fun x => { x with replay := none, slotsRead := [], refused := [], mmaRow := w.resume })
  have hu : (u.tile s.curKey).io = (s.tile s.curKey).io := io_modCur _ _
  simp only [finished]
  split
  · exact hu
  · split
    · exact (io_modCur u _).trans hu
    · exact (io_goOn u).trans hu

/-! ### Pops and pushes of queues (R72) -/

theorem popsOf_cons (p : Pop) (l : List Pop) (q : Nat) : popsOf (p :: l) q = (if p = Pop.queue q then 1 else 0) + popsOf l q := by
  by_cases h : p = Pop.queue q
  · simp [popsOf, h, Nat.add_comm]
  · simp [popsOf, h]

/-- A pop takes the oldest entry of its queue. -/
theorem queue_applyPop (s : State) (p q : Nat) :
    ((applyPop s (.queue p)).tile s.curKey).queue q = ((s.tile s.curKey).queue q).drop (if p = q then 1 else 0) := by
  simp only [applyPop, tile_modIo, Tile.queue]
  by_cases h : p = q
  · subst h
    by_cases hp : p < 8
    · simp [hp]
    · simp [hp]
  · simp [h]

/-- The pops of an instruction that takes no stream take that many entries of each queue. -/
theorem foldl_applyPop (pops : List Pop) : ∀ s : State, (∀ p ∈ pops, ∃ q, p = Pop.queue q) →
    GoesOn s.curKey s.cur.ctx s (pops.foldl applyPop s) ∧
      ∀ q, ((pops.foldl applyPop s).tile s.curKey).queue q = ((s.tile s.curKey).queue q).drop (popsOf pops q) := by
  induction pops with
  | nil => intro s _; exact ⟨GoesOn.refl _ _ _, fun q => rfl⟩
  | cons p l ih =>
    intro s h
    obtain ⟨q', rfl⟩ := h p List.mem_cons_self
    obtain ⟨hgoes, hqueue⟩ := ih (applyPop s (.queue q')) (fun x hx => h x (List.mem_cons_of_mem _ hx))
    have hpop : GoesOn s.curKey s.cur.ctx s (applyPop s (.queue q')) :=
      goesOn_queues s _ _ (fun io => io.queues.setIfInBounds q' (((io.queues[q']?).getD []).drop 1))
    refine ⟨hpop.trans hgoes, fun q => (hqueue q).trans ?_⟩
    show List.drop _ (((applyPop s (.queue q')).tile s.curKey).queue q) = _
    rw [queue_applyPop, List.drop_drop, popsOf_cons]
    simp

/-- A push adds an entry to its queue. -/
theorem queue_applyPush (s : State) (p : Nat × Word) {q : Nat} (hq : q < 8) :
    ((applyPush s p).tile s.curKey).queue q = (s.tile s.curKey).queue q ++ (if p.1 = q then [p.2] else []) := by
  simp only [applyPush, tile_modIo, Tile.queue]
  by_cases h : p.1 = q
  · simp [h, hq]
  · simp [h]

/-- The pushes of an instruction are added in their order. -/
theorem foldl_applyPush (l : List (Nat × Word)) : ∀ s : State,
    GoesOn s.curKey s.cur.ctx s (l.foldl applyPush s) ∧
      ∀ q < 8, ((l.foldl applyPush s).tile s.curKey).queue q =
        (s.tile s.curKey).queue q ++ (l.filter (fun e => decide (e.1 = q))).map (fun e => e.2) := by
  induction l with
  | nil => intro s; exact ⟨GoesOn.refl _ _ _, fun q _ => by simp⟩
  | cons p l ih =>
    intro s
    obtain ⟨hgoes, hqueue⟩ := ih (applyPush s p)
    have hpush : GoesOn s.curKey s.cur.ctx s (applyPush s p) := goesOn_queues s _ _ _
    refine ⟨hpush.trans hgoes, fun q hq => (hqueue q hq).trans ?_⟩
    show ((applyPush s p).tile s.curKey).queue q ++ _ = _
    rw [queue_applyPush s p hq, List.filter_cons]
    by_cases h : p.1 = q <;> simp [h]

/-- The pops and pushes of an instruction that takes no stream. -/
theorem applyAll_plain {w : Work} (h : Plain w) :
    GoesOn w.s.curKey w.s.cur.ctx w.s (applyAll w) ∧
      ∀ q < 8, ((applyAll w).tile w.s.curKey).queue q = ((w.s.tile w.s.curKey).queue q).drop (popsOf w.pops q) ++
        (w.pushes.filter (fun e => decide (e.1 = q))).map (fun e => e.2) := by
  obtain ⟨hpop, hpopq⟩ := foldl_applyPop w.pops w.s h.2
  obtain ⟨hpush, hpushq⟩ := foldl_applyPush w.pushes (w.pops.foldl applyPop w.s)
  rw [hpop.curKey, hpop.cur] at hpush
  rw [hpop.curKey] at hpushq
  have hall : applyAll w = w.pushes.foldl applyPush (w.pops.foldl applyPop w.s) := by rw [applyAll, h.1]; rfl
  rw [hall]
  exact ⟨hpop.trans hpush, fun q hq => by rw [hpushq q hq, hpopq q]⟩

/-- An instruction that takes no stream completes: the frame, and the tile's queues. -/
theorem goesOn_completed {w : Work} (hc : w.s.cur.ctx < 11) (h : Plain w) :
    GoesOn w.s.curKey w.s.cur.ctx w.s (completed w) ∧
      ∀ q < 8, ((completed w).tile w.s.curKey).queue q = ((w.s.tile w.s.curKey).queue q).drop (popsOf w.pops q) ++
        (w.pushes.filter (fun e => decide (e.1 = q))).map (fun e => e.2) := by
  let w' : Work := { w with s := settled w.s }
  have hset : GoesOn w.s.curKey w.s.cur.ctx w.s w'.s := goesOn_modTwin _ _ _ _
  have hcur : w'.s.cur = w.s.cur := hset.cur
  have hkey : w'.s.curKey = w.s.curKey := hset.curKey
  obtain ⟨hall, hqueue⟩ := applyAll_plain (w := w') h
  rw [hkey, hcur] at hall
  rw [hkey] at hqueue
  have hfin := goesOn_finished w' (s := applyAll w') (by rw [hall.cur, hcur]; exact hc)
  rw [hall.curKey, hall.cur, hkey, hcur] at hfin
  refine ⟨(hset.trans hall).trans hfin, fun q hq => ?_⟩
  have hio := io_finished w' (applyAll w')
  rw [hall.curKey, hkey] at hio
  have htile : (w'.s.tile w.s.curKey).queue q = (w.s.tile w.s.curKey).queue q := by
    rw [Tile.queue, Tile.queue, show (w'.s.tile w.s.curKey).io = (w.s.tile w.s.curKey).io by
      show ((modTwin w.s w.s.curKey _).tile w.s.curKey).io = _
      rw [modTwin_tile]]
  calc ((completed w).tile w.s.curKey).queue q
      = ((applyAll w').tile w.s.curKey).queue q := by
        rw [Tile.queue, Tile.queue]; exact congrArg (fun io : TileIo => (io.queues[q]?).getD []) hio
    _ = _ := by rw [hqueue q hq, htile]

/-- Settles O12: the frame of `GoesOn`, field by field. -/
theorem completionFrame : Obligations.CompletionFrame := by
  intro w hc hgroups hpops hgone t x y
  obtain ⟨h, hqueue⟩ := goesOn_completed hc (w := w) ⟨hgroups, hpops⟩
  have hown : t.curTile = t.tile w.s.curKey := by rw [State.curTile, h.curKey]
  have hself : x = t.ctx w.s.curKey w.s.cur.ctx := by show t.ctx t.curKey t.cur.ctx = _; rw [h.curKey, h.cur]
  have htile := hown.trans h.tile
  have hctx := hself.trans h.ctx
  rw [← hown] at hqueue
  exact ⟨
    (congrArg State.mem h.rest :), (congrArg State.hostMem h.rest :), (congrArg State.full h.rest :), (congrArg State.dies h.rest :),
    (congrArg State.modls h.rest :), (congrArg State.jobs h.rest :), (congrArg State.parts h.rest :), (congrArg State.launches h.rest :),
    (congrArg State.saves h.rest :), (congrArg State.pending h.rest :), (congrArg State.cur h.rest :), h.others, h.ctxs,
    (congrArg Tile.eng htile :), (congrArg Tile.step htile :), (congrArg Tile.csr htile :), (congrArg Tile.work htile :),
    (congrArg (fun t => t.io.inbox) htile :), (congrArg (fun t => t.io.descs) htile :), hqueue, (congrArg Ctx.s hctx :),
    (congrArg Ctx.v hctx :), (congrArg Ctx.k hctx :), (congrArg Ctx.qmap hctx :), (congrArg Ctx.frm hctx :), (congrArg Ctx.tcause hctx :),
    (congrArg Ctx.tpc hctx :), (congrArg Ctx.tval hctx :), (congrArg Ctx.tstat hctx :), (congrArg Ctx.scopes hctx :),
    (congrArg Ctx.binds hctx :), (congrArg Ctx.draws hctx :), (congrArg Ctx.mrow hctx :), (congrArg Ctx.st hctx :),
    (congrArg Ctx.wait hctx :)⟩

end Sys2Proof.Proofs
end

section
/-! Maps and lists of steps: what several updates of the state leave. -/
namespace Sys2Proof.Proofs
open Sys2Proof Sys2Proof.Machine Sys2Proof.Claims

/-! ### Maps -/

theorem mem_set_self {α : Type} (m : Map α) (k : Nat) (a : α) : (k, a) ∈ Map.set m k a := by
  induction m with
  | nil => simp [Map.set]
  | cons e m ih =>
    simp only [Map.set]
    split
    · simp
    · split
      · simp
      · simp [ih]

/-- An entry stays when another is set, or it is the one that is replaced. -/
theorem mem_set_or {α : Type} {m : Map α} {e : Nat × α} (k : Nat) (a : α) (h : e ∈ m) :
    e ∈ Map.set m k a ∨ (e.1 = k ∧ Map.get? m k = some e.2) := by
  induction m with
  | nil => simp at h
  | cons x m ih =>
    simp only [Map.set]
    split
    · exact .inl (List.mem_cons_of_mem _ h)
    · split
      next hne heq =>
        rcases List.mem_cons.mp h with rfl | hm
        · exact .inr ⟨heq.symm, by simp [Map.get?, heq]⟩
        · exact .inl (List.mem_cons_of_mem _ hm)
      next hne hne' =>
        rcases List.mem_cons.mp h with rfl | hm
        · exact .inl List.mem_cons_self
        · rcases ih hm with hm | ⟨hk, hget⟩
          · exact .inl (List.mem_cons_of_mem _ hm)
          · exact .inr ⟨hk, by simp [Map.get?, Ne.symm hne', hget]⟩

theorem mem_of_get? {α : Type} {m : Map α} {k : Nat} {a : α} (h : Map.get? m k = some a) : (k, a) ∈ m := by
  induction m with
  | nil => simp [Map.get?] at h
  | cons e m ih =>
    simp only [Map.get?] at h
    split at h
    next heq => cases h; exact List.mem_cons.mpr (.inl (by rw [← heq]))
    next => exact List.mem_cons_of_mem _ (ih h)

/-- What holds of no entry, nor of an entry that is not listed, and holds of the new value as it did of the old: setting it changes nothing. -/
theorem any_set {α : Type} (P : α → Bool) {d : α} (hd : P d = false) (m : Map α) (k : Nat) (a : α) (h : P a = P (Map.getD m k d)) :
    (Map.set m k a).any (fun e => P e.2) = m.any (fun e => P e.2) := by
  induction m with
  | nil => simpa [Map.set, Map.getD, Map.get?, hd] using h
  | cons e m ih =>
    have hfound : P (Map.getD (e :: m) k d) = true → (e :: m).any (fun e => P e.2) = true := fun hp => by
      cases hg : Map.get? (e :: m) k with
      | none => simp [Map.getD, hg, hd] at hp
      | some b => exact List.any_eq_true.mpr ⟨(k, b), mem_of_get? hg, by simpa [Map.getD, hg] using hp⟩
    simp only [Map.set]
    split
    · rw [List.any_cons]
      cases hp : P a with
      | false => simp
      | true => rw [hfound (h ▸ hp)]; rfl
    · split
      next heq =>
        have hb : P a = P e.2 := by rw [h]; simp [Map.getD, Map.get?, heq]
        simp [hb]
      next hne =>
        have hget : Map.getD (e :: m) k d = Map.getD m k d := by simp [Map.getD, Map.get?, Ne.symm hne]
        rw [List.any_cons, List.any_cons, ih (by rw [h, hget])]

/-! ### The tiles of a launch -/

theorem mem_tilesOf {s : State} {l j : Nat} : j ∈ s.tilesOf l ↔ ∃ t u, (j, t) ∈ s.tiles ∧ t.work = some u ∧ u.launch = l := by
  simp only [State.tilesOf, List.mem_filterMap, Prod.exists]
  constructor
  · rintro ⟨k, t, hmem, h⟩
    split at h
    next u hu =>
      split at h
      next hl => cases h; exact ⟨t, u, hmem, hu, hl⟩
      next => cases h
    next => cases h
  · rintro ⟨t, u, hmem, hu, rfl⟩
    exact ⟨j, t, hmem, by simp [hu]⟩

/-- A tile that holds a unit of a launch is one of the launch's. -/
theorem mem_tilesOf_of_work {s : State} {k : Nat} {u : WorkUnit} (h : (s.tile k).work = some u) : k ∈ s.tilesOf u.launch := by
  cases hg : Map.get? s.tiles k with
  | none => simp [State.tile, Map.getD, hg] at h
  | some t => exact mem_tilesOf.mpr ⟨t, u, mem_of_get? hg, by simpa [State.tile, Map.getD, hg] using h, rfl⟩

/-- A tile that keeps its unit takes no tile from a launch. -/
theorem mem_tilesOf_setTile {s : State} {k l j : Nat} {t : Tile} (h : t.work = (s.tile k).work) (hj : j ∈ s.tilesOf l) :
    j ∈ (s.setTile k t).tilesOf l := by
  obtain ⟨x, u, hmem, hu, hl⟩ := mem_tilesOf.mp hj
  rcases mem_set_or k t hmem with hm | ⟨hk, hget⟩
  · exact mem_tilesOf.mpr ⟨x, u, hm, hu, hl⟩
  · have hwork : t.work = some u := by rw [h, State.tile, Map.getD, hget]; exact hu
    exact mem_tilesOf.mpr ⟨t, u, by rw [show j = k from hk]; exact mem_set_self _ _ _, hwork, hl⟩

/-! ### Several events put into flight -/

/-- Events posted one after the other. -/
theorem foldl_post {α : Type} (f : α → Instr) (l : List α) : ∀ s : State,
    l.foldl (fun s x => s.post (f x)) s = { s with pending := s.pending ++ l.map f } := by
  induction l with
  | nil => intro s; simp
  | cons x l ih => intro s; rw [List.foldl_cons, ih]; simp [State.post]

/-- What each step of a list keeps, the list keeps. -/
theorem foldl_keeps {α β : Type} (p : State → β) (f : State → α → State) (h : ∀ s x, p (f s x) = p s) (l : List α) :
    ∀ s : State, p (l.foldl f s) = p s := by
  induction l with
  | nil => intro s; rfl
  | cons x l ih => intro s; rw [List.foldl_cons, ih, h]

end Sys2Proof.Proofs
end

section
/-! Taking a trap (R32, R33, R85). -/
namespace Sys2Proof.Proofs
open Sys2Proof Sys2Proof.Machine Sys2Proof.Claims

/-! ### The queue at which a context waits -/

theorem leaveQueues_rest (s : State) (k c : Nat) : leaveQueues s k c = { s with dies := (leaveQueues s k c).dies } := by
  unfold leaveQueues; split <;> rfl

@[simp] theorem leaveQueues_tile (s : State) (k c j : Nat) : (leaveQueues s k c).tile j = s.tile j := by rw [leaveQueues_rest]; rfl
@[simp] theorem leaveQueues_ctx (s : State) (k c j d : Nat) : (leaveQueues s k c).ctx j d = s.ctx j d := by rw [leaveQueues_rest]; rfl
@[simp] theorem leaveQueues_tiles (s : State) (k c : Nat) : (leaveQueues s k c).tiles = s.tiles := by rw [leaveQueues_rest]
@[simp] theorem leaveQueues_mem (s : State) (k c : Nat) : (leaveQueues s k c).mem = s.mem := by rw [leaveQueues_rest]
@[simp] theorem leaveQueues_hostMem (s : State) (k c : Nat) : (leaveQueues s k c).hostMem = s.hostMem := by rw [leaveQueues_rest]
@[simp] theorem leaveQueues_pending (s : State) (k c : Nat) : (leaveQueues s k c).pending = s.pending := by rw [leaveQueues_rest]
@[simp] theorem leaveQueues_parts (s : State) (k c : Nat) : (leaveQueues s k c).parts = s.parts := by rw [leaveQueues_rest]
@[simp] theorem leaveQueues_launches (s : State) (k c : Nat) : (leaveQueues s k c).launches = s.launches := by rw [leaveQueues_rest]

theorem leaveQueues_none {s : State} {k c : Nat} (h : (s.ctx k c).wait = none) : leaveQueues s k c = s := by simp [leaveQueues, h]

/-- A die that keeps its irrevocable marks keeps every superstep's (R275). -/
theorem isIrrevocable_modDie (s : State) (d g : Nat) (f : Die → Die) (h : ∀ x, (f x).irrevocable = x.irrevocable) :
    (s.modDie d f).isIrrevocable g = s.isIrrevocable g :=
  any_set (fun x : Die => x.irrevocable.any (fun r => r.1 = g)) rfl s.dies d (f (s.die d)) (by simp only [h]; rfl)

@[simp] theorem leaveQueues_isIrrevocable (s : State) (k c g : Nat) : (leaveQueues s k c).isIrrevocable g = s.isIrrevocable g := by
  unfold leaveQueues
  split
  · exact isIrrevocable_modDie _ _ _ _ fun _ => rfl
  · exact isIrrevocable_modDie _ _ _ _ fun _ => rfl
  · rfl

/-! ### What an instruction has issued -/

theorem dropTload_rest (s : State) (k c : Nat) : dropTload s k c = { s with tiles := (dropTload s k c).tiles } := by
  unfold dropTload; split <;> rfl

theorem dropTload_none {s : State} {k c : Nat} (h : (s.ctx k c).tload = none) : dropTload s k c = s := by simp [dropTload, h]

theorem dropTload_tile (s : State) (k c : Nat) : (dropTload s k c).tile k = { s.tile k with
    ctxs := ((dropTload s k c).tile k).ctxs, eng := ((dropTload s k c).tile k).eng } := by
  unfold dropTload
  split
  · rfl
  · rw [State.modEng, tile_modTile, tile_modCtx]; rfl

theorem dropTload_tile_other (s : State) {k j : Nat} (c : Nat) (h : j ≠ k) : (dropTload s k c).tile j = s.tile j := by
  unfold dropTload
  split
  · rfl
  · rw [State.modEng, tile_modTile_other _ _ h, tile_modCtx_other _ _ _ h]

theorem ctx_modEng (s : State) (k j d : Nat) (f : Engines → Engines) : (s.modEng k f).ctx j d = s.ctx j d := by
  by_cases h : j = k
  · subst h; rw [State.ctx, State.modEng, tile_modTile]; rfl
  · rw [State.ctx, State.modEng, tile_modTile_other _ _ h]; rfl

theorem dropTload_ctx (s : State) (k : Nat) {c : Nat} (hc : c < 11) : (dropTload s k c).ctx k c = { s.ctx k c with tload := none } := by
  unfold dropTload
  split
  next h => rw [← h]
  next => rw [ctx_modEng, ctx_modCtx _ _ _ hc]

theorem dropTload_ctx_other (s : State) (k : Nat) {c d : Nat} (h : d ≠ c) : (dropTload s k c).ctx k d = s.ctx k d := by
  unfold dropTload
  split
  · rfl
  · rw [ctx_modEng, ctx_modCtx_other _ _ _ h]

theorem dropIssued_rest (s : State) (k c : Nat) : dropIssued s k c = { s with tiles := (dropIssued s k c).tiles } := by
  simp only [dropIssued]
  split
  · rw [dropTload_rest]; rfl
  · exact dropTload_rest s k c

/-- An MMA that waits for its operands is no part of a context. -/
theorem dropIssued_ctx_eq (s : State) (k c j d : Nat) : (dropIssued s k c).ctx j d = (dropTload s k c).ctx j d := by
  simp only [dropIssued]
  split
  · exact ctx_modEng _ _ _ _ _
  · rfl

theorem dropIssued_ctx (s : State) (k : Nat) {c : Nat} (hc : c < 11) : (dropIssued s k c).ctx k c = { s.ctx k c with tload := none } := by
  rw [dropIssued_ctx_eq, dropTload_ctx s k hc]

theorem dropIssued_tile (s : State) (k c : Nat) : (dropIssued s k c).tile k = { s.tile k with
    ctxs := ((dropIssued s k c).tile k).ctxs, eng := ((dropIssued s k c).tile k).eng } := by
  simp only [dropIssued]
  split
  · rw [State.modEng, tile_modTile, dropTload_tile]
  · exact dropTload_tile s k c

theorem dropIssued_tile_other (s : State) {k j : Nat} (c : Nat) (h : j ≠ k) : (dropIssued s k c).tile j = s.tile j := by
  simp only [dropIssued]
  split
  · rw [State.modEng, tile_modTile_other _ _ h, dropTload_tile_other _ _ h]
  · exact dropTload_tile_other s c h

/-- Every other context stays. -/
theorem dropIssued_ctx_other (s : State) {k c j d : Nat} (h : (j, d) ≠ (k, c)) : (dropIssued s k c).ctx j d = s.ctx j d := by
  by_cases hj : j = k
  · subst hj
    rw [dropIssued_ctx_eq, dropTload_ctx_other s j fun hd => h (by rw [hd])]
  · rw [State.ctx, dropIssued_tile_other s c hj]; rfl

/-- A context that has issued nothing gives nothing up. -/
theorem dropIssued_none {s : State} {k c : Nat} (ht : (s.ctx k c).tload = none)
    (hm : ∀ o ∈ (s.tile k).eng.mmas, o.ctx = c → o.fetched = true) : dropIssued s k c = s := by
  simp only [dropIssued, dropTload_none ht]
  refine if_neg fun h => ?_
  obtain ⟨o, ho, hp⟩ := List.any_eq_true.mp h
  simp only [Bool.and_eq_true, Bool.not_eq_true', decide_eq_true_eq] at hp
  simp [hm o ho hp.2] at hp

/-! ### The state in which a trap is taken -/

/-- The state without what the instruction has issued, and with its context in no queue. -/
def givenUp (s : State) (k c : Nat) : State := leaveQueues (dropIssued s k c) k c

theorem givenUp_ctx (s : State) (k : Nat) {c : Nat} (hc : c < 11) : (givenUp s k c).ctx k c = { s.ctx k c with tload := none } := by
  rw [givenUp, leaveQueues_ctx, dropIssued_ctx s k hc]

theorem givenUp_tile (s : State) (k c : Nat) : (givenUp s k c).tile k = { s.tile k with
    ctxs := ((givenUp s k c).tile k).ctxs, eng := ((givenUp s k c).tile k).eng } := by
  rw [givenUp, leaveQueues_tile]; exact dropIssued_tile s k c

theorem givenUp_rest (s : State) (k c : Nat) : givenUp s k c = { s with tiles := (givenUp s k c).tiles, dies := (givenUp s k c).dies } := by
  rw [givenUp, leaveQueues_rest, dropIssued_rest]

theorem givenUp_ctx_other (s : State) {k c j d : Nat} (h : (j, d) ≠ (k, c)) : (givenUp s k c).ctx j d = s.ctx j d := by
  rw [givenUp, leaveQueues_ctx, dropIssued_ctx_other s h]

/-- The context as the trap leaves it, before a handler is looked for (R32, R85). -/
def trappedCtx (c : Nat) (cause : Cause) (tval pc : Word) (mm h : Bool) (x : Ctx) : Ctx :=
  { x with
    tpc := match x.frame with
      | some f => f.base
      | none => pc
    tcause := cause.code, tval := tval, replay := none, slotsRead := [], refused := [], mmaRow := none
    tstat := trapStatus c x.handle mm x.frame.isSome h }

/-- Whether a trap finds its handler (R32, R33). -/
def hasHandler (s : State) (k c : Nat) (cause : Cause) : Bool :=
  decide ((s.tile k).csr.tvec ≠ 0) && !(s.ctx k c).tstat.getLsbD 0 && decide (cause ≠ .overrun)

theorem takeTrapAt_handled {s : State} {k c : Nat} {cause : Cause} (tval pc : Word) (mm : Bool) (hc : c < 11)
    (hh : hasHandler s k c cause = true) : takeTrapAt s k c cause tval pc mm = (givenUp s k c).setCtx k c
      { trappedCtx c cause tval pc mm true { s.ctx k c with tload := none } with pc := (s.tile k).csr.tvec, frame := none, wait := none } := by
  have hctx : (leaveQueues (dropIssued s k c) k c).ctx k c = { s.ctx k c with tload := none } := givenUp_ctx s k hc
  have hcsr : ((leaveQueues (dropIssued s k c) k c).tile k).csr = (s.tile k).csr := (congrArg Tile.csr (givenUp_tile s k c) :)
  simp only [hasHandler] at hh
  simp only [takeTrapAt, hctx, hcsr, hh, if_true, Bool.or_true]
  rfl

theorem takeTrapAt_unhandled {s : State} {k c : Nat} {cause : Cause} (tval pc : Word) (mm : Bool) (hc : c < 11)
    (hh : hasHandler s k c cause = false) : takeTrapAt s k c cause tval pc mm = unhandled ((givenUp s k c).setCtx k c
      (trappedCtx c cause tval pc mm ((s.ctx k c).tstat.getLsbD 0) { s.ctx k c with tload := none })) k c cause.code := by
  have hctx : (leaveQueues (dropIssued s k c) k c).ctx k c = { s.ctx k c with tload := none } := givenUp_ctx s k hc
  have hcsr : ((leaveQueues (dropIssued s k c) k c).tile k).csr = (s.tile k).csr := (congrArg Tile.csr (givenUp_tile s k c) :)
  simp only [hasHandler] at hh
  simp only [takeTrapAt, hctx, hcsr, hh, Bool.or_false, trappedCtx, givenUp]
  exact if_neg Bool.false_ne_true

/-- A trap with a handler (R32, R85). -/
theorem handledTrap : HandledTrap := by
  intro s k c cause tval pc mm hc htvec hh hcause u
  have hhas : hasHandler s k c cause = true := by
    simp only [hasHandler, hh, decide_eq_true htvec, decide_eq_true hcause]; rfl
  have hrest := givenUp_rest s k c
  refine ⟨takeTrapAt_handled tval pc mm hc hhas, (congrArg State.mem hrest :), (congrArg State.hostMem hrest :),
    (congrArg State.pending hrest :), (congrArg State.parts hrest :), (congrArg State.launches hrest :),
    fun j d h => givenUp_ctx_other s h, fun hwait htload hmma => ?_⟩
  show leaveQueues (dropIssued s k c) k c = s
  rw [dropIssued_none htload hmma, leaveQueues_none hwait]

/-! ### Traps that no handler takes -/

theorem modLaunch_rest (s : State) (l : Nat) (f : Launch → Launch) : s.modLaunch l f = { s with launches := (s.modLaunch l f).launches } := by
  unfold State.modLaunch; split <;> rfl

theorem recordFault_rest (s : State) (k c : Nat) (cause : BitVec 8) (tval tpc : Word) :
    recordFault s k c cause tval tpc = { s with launches := (recordFault s k c cause tval tpc).launches } := by
  unfold recordFault
  split
  · rfl
  · exact modLaunch_rest _ _ _

@[simp] theorem recordFault_tile (s : State) (k c j : Nat) (cause : BitVec 8) (tval tpc : Word) :
    (recordFault s k c cause tval tpc).tile j = s.tile j := by rw [recordFault_rest]; rfl
@[simp] theorem recordFault_ctx (s : State) (k c j d : Nat) (cause : BitVec 8) (tval tpc : Word) :
    (recordFault s k c cause tval tpc).ctx j d = s.ctx j d := by rw [recordFault_rest]; rfl
@[simp] theorem recordFault_mem (s : State) (k c : Nat) (cause : BitVec 8) (tval tpc : Word) :
    (recordFault s k c cause tval tpc).mem = s.mem := by rw [recordFault_rest]

theorem step_modStep (s : State) (k : Nat) (f : Step → Step) : ((s.modStep k f).tile k) = { s.tile k with step := f (s.tile k).step } :=
  tile_modTile _ _ _

/-- The contexts of every tile stay where a tile's superstep state changes. -/
@[simp] theorem ctx_modStep (s : State) (k j d : Nat) (f : Step → Step) : (s.modStep k f).ctx j d = s.ctx j d := by
  by_cases h : j = k
  · subst h; rw [State.ctx, step_modStep]; rfl
  · rw [State.ctx, State.modStep, tile_modTile_other _ _ h]; rfl

/-- An event that does not wait for the end of a boundary shows at once (R279). -/
theorem raiseEvent_tile {s : State} {k : Nat} (code : BitVec 8) (h : (s.tile k).step.bound = false) :
    (raiseEvent s k code).tile k = { s.tile k with step := (s.tile k).step.pendFor code } := by
  rw [raiseEvent, step_modStep, h]; rfl

@[simp] theorem raiseEvent_ctx (s : State) (k j d : Nat) (code : BitVec 8) : (raiseEvent s k code).ctx j d = s.ctx j d := ctx_modStep _ _ _ _ _

theorem leaveGroups_rest (s : State) (k c : Nat) : leaveGroups s k c = { s with parts := (leaveGroups s k c).parts } := by
  unfold leaveGroups; split <;> rfl

@[simp] theorem leaveGroups_tile (s : State) (k c j : Nat) : (leaveGroups s k c).tile j = s.tile j := by rw [leaveGroups_rest]; rfl
@[simp] theorem leaveGroups_ctx (s : State) (k c j d : Nat) : (leaveGroups s k c).ctx j d = s.ctx j d := by rw [leaveGroups_rest]; rfl
@[simp] theorem leaveGroups_mem (s : State) (k c : Nat) : (leaveGroups s k c).mem = s.mem := by rw [leaveGroups_rest]

/-- A helper that ends has no booking (R30). -/
theorem freeHandle_tile (s : State) (k c : Nat) : (freeHandle s k c).tile k = { s.tile k with
    ctxs := ((freeHandle s k c).tile k).ctxs, csr := ((freeHandle s k c).tile k).csr } := by
  unfold freeHandle
  split
  · rfl
  · rw [tile_modCtx, State.modCsr, tile_modTile]; rfl

theorem freeHandle_ctx (s : State) (k : Nat) {c : Nat} (hc : c < 11) : (freeHandle s k c).ctx k c = { s.ctx k c with handle := none } := by
  unfold freeHandle
  split
  next h => rw [← h]
  next => rw [ctx_modCtx _ _ _ hc, State.ctx, State.modCsr, tile_modTile]; rfl

@[simp] theorem freeHandle_mem (s : State) (k c : Nat) : (freeHandle s k c).mem = s.mem := by unfold freeHandle; split <;> rfl

/-- A context that loses its bindings leaves entries and ports free (R163). -/
theorem dropBindings_tile (s : State) (k c : Nat) : (dropBindings s k c).tile k = { s.tile k with
    ctxs := ((dropBindings s k c).tile k).ctxs
    io := { (s.tile k).io with descs := ((dropBindings s k c).tile k).io.descs, ports := ((dropBindings s k c).tile k).io.ports } } := by
  simp only [dropBindings, tile_modCtx, tile_modIo, Tile.setCtx]

theorem dropBindings_ctx (s : State) (k : Nat) {c : Nat} (hc : c < 11) :
    (dropBindings s k c).ctx k c = { s.ctx k c with binds := Vector.replicate 8 0 } := by
  simp only [dropBindings, ctx_modCtx _ _ _ hc]
  rw [State.ctx, tile_modIo]; rfl

@[simp] theorem dropBindings_mem (s : State) (k c : Nat) : (dropBindings s k c).mem = s.mem := rfl

/-- An entry that arrives stands last in the inbox, or last among those that the die agent holds (R25). -/
theorem postInbox_tile (s : State) (k : Nat) (e : BitVec 128) : (postInbox s k e).tile k = { s.tile k with
    io := { (s.tile k).io with inbox := ((postInbox s k e).tile k).io.inbox, heldIn := ((postInbox s k e).tile k).io.heldIn } } := by
  simp only [postInbox]
  split
  · rw [tile_modIo]
  · rw [State.tile_post, tile_modIo]

theorem postInbox_entries (s : State) (k : Nat) (e : BitVec 128) :
    ((postInbox s k e).tile k).io.inbox ++ ((postInbox s k e).tile k).io.heldIn = (s.tile k).io.inbox ++ (s.tile k).io.heldIn ++ [e] := by
  simp only [postInbox]
  split
  next h => rw [tile_modIo]; simp [h.2]
  next => rw [State.tile_post, tile_modIo]; simp

@[simp] theorem postInbox_mem (s : State) (k : Nat) (e : BitVec 128) : (postInbox s k e).mem = s.mem := by
  simp only [postInbox]; split <;> rfl

/-- A helper that is stopped by a fault: its context, before its groups, bindings and booking are given up. -/
def faultedHelper (s : State) (k c : Nat) (cause : BitVec 8) : State :=
  (raiseEvent (recordFault s k c cause (s.ctx k c).tval (s.ctx k c).tpc) k cause).modCtx k c
    (fun x => { x with st := .faulted, frame := none, wait := none })

theorem unhandled_helper_eq (s : State) (k : Nat) {c : Nat} (cause : BitVec 8) (h : c ≠ 0) : unhandled s k c cause =
    notify (dropBindings (leaveGroups (freeHandle (faultedHelper s k c cause) k c) k c) k c) k
      (faultPayload cause c (s.ctx k c).handle (s.ctx k c).tval) 0 1 0x04 := by
  simp only [unhandled, if_pos h, faultedHelper]

theorem faultedHelper_tile {s : State} {k : Nat} (c : Nat) (cause : BitVec 8) (hb : (s.tile k).step.bound = false) :
    (faultedHelper s k c cause).tile k = { s.tile k with
      ctxs := ((faultedHelper s k c cause).tile k).ctxs, step := (s.tile k).step.pendFor cause } := by
  simp only [faultedHelper, tile_modCtx, Tile.setCtx]
  rw [raiseEvent_tile _ (by simpa using hb), recordFault_tile]

/-- A helper whose trap no handler takes (R33). -/
theorem unhandled_helper {s : State} {k c : Nat} (cause : BitVec 8) (h0 : c ≠ 0) (hc : c < 11) (hb : (s.tile k).step.bound = false) :
    let t := unhandled s k c cause
    t.ctx k c = { s.ctx k c with st := .faulted, frame := none, wait := none, handle := none, binds := Vector.replicate 8 0 } ∧
    (t.tile k).step = (s.tile k).step.pendFor cause ∧
    (t.tile k).io.inbox ++ (t.tile k).io.heldIn = (s.tile k).io.inbox ++ (s.tile k).io.heldIn ++
      [inboxEntry (faultPayload cause c (s.ctx k c).handle (s.ctx k c).tval) (s.tile k).step.ssn 0 1 0x04] ∧ t.mem = s.mem := by
  intro t
  let f := faultedHelper s k c cause
  let b := dropBindings (leaveGroups (freeHandle f k c) k c) k c
  have ht : t = postInbox b k (inboxEntry (faultPayload cause c (s.ctx k c).handle (s.ctx k c).tval) (b.tile k).step.ssn 0 1 0x04) :=
    unhandled_helper_eq s k cause h0
  have hstep : (b.tile k).step = (s.tile k).step.pendFor cause := by
    show ((dropBindings _ _ _).tile k).step = _
    rw [dropBindings_tile, leaveGroups_tile, freeHandle_tile]
    exact (congrArg Tile.step (faultedHelper_tile c cause hb) :)
  have hio : (b.tile k).io.inbox = (s.tile k).io.inbox ∧ (b.tile k).io.heldIn = (s.tile k).io.heldIn := by
    have hf := congrArg Tile.io (faultedHelper_tile c cause hb)
    show ((dropBindings _ _ _).tile k).io.inbox = _ ∧ ((dropBindings _ _ _).tile k).io.heldIn = _
    rw [dropBindings_tile, leaveGroups_tile, freeHandle_tile]
    exact ⟨(congrArg TileIo.inbox hf :), (congrArg TileIo.heldIn hf :)⟩
  have hctx : b.ctx k c = { s.ctx k c with st := .faulted, frame := none, wait := none, handle := none, binds := Vector.replicate 8 0 } := by
    have hf : f.ctx k c = { s.ctx k c with st := .faulted, frame := none, wait := none } := by
      show (faultedHelper s k c cause).ctx k c = _
      rw [faultedHelper, ctx_modCtx _ _ _ hc, raiseEvent_ctx, recordFault_ctx]
    show (dropBindings _ _ _).ctx k c = _
    rw [dropBindings_ctx _ _ hc, leaveGroups_ctx, freeHandle_ctx _ _ hc, hf]
  have hssn : (b.tile k).step.ssn = (s.tile k).step.ssn := by rw [hstep]; rfl
  refine ⟨?_, ?_, ?_, ?_⟩
  · rw [ht, State.ctx, postInbox_tile]; exact hctx
  · rw [ht, postInbox_tile]; exact hstep
  · rw [ht, postInbox_entries, hio.1, hio.2, hssn]
  · rw [ht, postInbox_mem]
    show (dropBindings _ _ _).mem = _
    rw [dropBindings_mem, leaveGroups_mem, freeHandle_mem]
    exact recordFault_mem _ _ _ _ _ _

/-- The state in which a trap is found to have no handler: the context has its trap registers. -/
def trapped (s : State) (k c : Nat) (cause : Cause) (tval pc : Word) (mm : Bool) : State :=
  (givenUp s k c).setCtx k c (trappedCtx c cause tval pc mm ((s.ctx k c).tstat.getLsbD 0) { s.ctx k c with tload := none })

theorem trapped_ctx (s : State) (k : Nat) {c : Nat} (cause : Cause) (tval pc : Word) (mm : Bool) (hc : c < 11) :
    (trapped s k c cause tval pc mm).ctx k c =
      trappedCtx c cause tval pc mm ((s.ctx k c).tstat.getLsbD 0) { s.ctx k c with tload := none } := State.ctx_setCtx _ _ _ _ hc

theorem trapped_tile (s : State) (k c : Nat) (cause : Cause) (tval pc : Word) (mm : Bool) :
    (trapped s k c cause tval pc mm).tile k = { s.tile k with
      ctxs := ((trapped s k c cause tval pc mm).tile k).ctxs, eng := ((trapped s k c cause tval pc mm).tile k).eng } := by
  rw [trapped, State.setCtx, State.tile_setTile, givenUp_tile]; rfl

theorem trapped_mem (s : State) (k c : Nat) (cause : Cause) (tval pc : Word) (mm : Bool) : (trapped s k c cause tval pc mm).mem = s.mem :=
  (congrArg State.mem (givenUp_rest s k c) :)

theorem not_hasHandler {s : State} {k c : Nat} {cause : Cause}
    (h : (s.tile k).csr.tvec = 0 ∨ (s.ctx k c).tstat.getLsbD 0 = true ∨ cause = .overrun) : hasHandler s k c cause = false := by
  rcases h with h | h | h
  · simp [hasHandler, h]
  · simp only [hasHandler, h, Bool.not_true, Bool.and_false, Bool.false_and]
  · simp [hasHandler, h]

theorem pendFor_cause (st : Step) (code : BitVec 8) : (st.pendFor code).cause = if st.cause = 0 then code else st.cause := rfl

/-- A trap of a helper that no handler takes (R33). -/
theorem unhandledHelperTrap : UnhandledHelperTrap := by
  intro s k c cause tval pc mm h0 hc hb hno t
  have ht : t = unhandled (trapped s k c cause tval pc mm) k c cause.code := takeTrapAt_unhandled tval pc mm hc (not_hasHandler hno)
  have htile := trapped_tile s k c cause tval pc mm
  obtain ⟨hctx, hstep, hinbox, hmem⟩ := unhandled_helper (s := trapped s k c cause tval pc mm) cause.code (Nat.ne_of_gt h0) hc
    (by rw [htile]; exact hb)
  rw [← ht] at hctx hstep hinbox hmem
  rw [trapped_ctx s k cause tval pc mm hc] at hctx hinbox
  rw [htile] at hstep hinbox
  exact ⟨(congrArg Ctx.st hctx :), (congrArg Ctx.tcause hctx :), (congrArg Ctx.tval hctx :), (congrArg Ctx.handle hctx :),
    (congrArg Step.pend hstep :), (congrArg Step.cause hstep :), hinbox, hmem.trans (trapped_mem _ _ _ _ _ _ _)⟩

end Sys2Proof.Proofs
end

section
/-! A trap of the control context that no handler takes (R33, R281, R327, R332). -/
namespace Sys2Proof.Proofs
open Sys2Proof Sys2Proof.Machine Sys2Proof.Claims

/-! ### Updates that take no tile from a launch -/

/-- Every tile that a launch holds in s it holds in t. -/
def KeepsUnits (s t : State) : Prop := ∀ l j, j ∈ s.tilesOf l → j ∈ t.tilesOf l

theorem KeepsUnits.trans {s t u : State} (h : KeepsUnits s t) (g : KeepsUnits t u) : KeepsUnits s u := fun l j hj => g l j (h l j hj)

theorem keepsUnits_of_tiles {s t : State} (h : t.tiles = s.tiles) : KeepsUnits s t := fun l j hj => by
  rw [State.tilesOf, h]; exact hj

theorem keepsUnits_modTile (s : State) (k : Nat) (f : Tile → Tile) (h : (f (s.tile k)).work = (s.tile k).work) : KeepsUnits s (s.modTile k f) :=
  fun _ _ hj => mem_tilesOf_setTile h hj

theorem keepsUnits_modCtx (s : State) (k c : Nat) (f : Ctx → Ctx) : KeepsUnits s (s.modCtx k c f) := fun _ _ hj => mem_tilesOf_setTile rfl hj

theorem keepsUnits_dropTload (s : State) (k c : Nat) : KeepsUnits s (dropTload s k c) := by
  unfold dropTload
  split
  · exact fun _ _ h => h
  · exact (keepsUnits_modCtx s k c _).trans (keepsUnits_modTile _ k _ rfl)

theorem keepsUnits_dropIssued (s : State) (k c : Nat) : KeepsUnits s (dropIssued s k c) := by
  simp only [dropIssued]
  split
  · exact (keepsUnits_dropTload s k c).trans (keepsUnits_modTile _ k _ rfl)
  · exact keepsUnits_dropTload s k c

theorem keepsUnits_trapped (s : State) (k c : Nat) (cause : Cause) (tval pc : Word) (mm : Bool) :
    KeepsUnits s (trapped s k c cause tval pc mm) :=
  ((keepsUnits_dropIssued s k c).trans (keepsUnits_of_tiles (leaveQueues_tiles _ k c))).trans fun _ _ hj => mem_tilesOf_setTile rfl hj

/-! ### What an abort that is broadcast leaves -/

/-- Contexts, events that have been raised, and memory are as they were. -/
structure KeepsTiles (s t : State) : Prop where
  ctx : ∀ k c, t.ctx k c = s.ctx k c
  pend : ∀ k, (t.tile k).step.pend = (s.tile k).step.pend
  cause : ∀ k, (t.tile k).step.cause = (s.tile k).step.cause
  mem : t.mem = s.mem

theorem KeepsTiles.refl (s : State) : KeepsTiles s s := ⟨fun _ _ => rfl, fun _ => rfl, fun _ => rfl, rfl⟩

theorem KeepsTiles.trans {s t u : State} (h : KeepsTiles s t) (g : KeepsTiles t u) : KeepsTiles s u :=
  ⟨fun k c => (g.ctx k c).trans (h.ctx k c), fun k => (g.pend k).trans (h.pend k), fun k => (g.cause k).trans (h.cause k), g.mem.trans h.mem⟩

theorem keepsTiles_of_eq {s t : State} (ht : t.tiles = s.tiles) (hm : t.mem = s.mem) : KeepsTiles s t := by
  have h (k : Nat) : t.tile k = s.tile k := by rw [State.tile, ht]; rfl
  exact ⟨fun k c => by rw [State.ctx, h]; rfl, fun k => by rw [h], fun k => by rw [h], hm⟩

/-- A tile that is told of an outcome (R267). -/
theorem keepsTiles_bound (s : State) (k : Nat) : KeepsTiles s (s.modStep k (fun st => { st with bound := true })) := by
  have h (j : Nat) : ∃ b, ((s.modStep k (fun st => { st with bound := true })).tile j).step = { (s.tile j).step with bound := b } := by
    by_cases hj : j = k
    · subst hj; exact ⟨true, by rw [step_modStep]⟩
    · exact ⟨(s.tile j).step.bound, by rw [State.modStep, tile_modTile_other _ _ hj]⟩
  refine ⟨fun j c => ctx_modStep _ _ _ _ _, fun j => ?_, fun j => ?_, rfl⟩
  · obtain ⟨b, hb⟩ := h j; rw [hb]
  · obtain ⟨b, hb⟩ := h j; rw [hb]

theorem keepsTiles_foldl {α : Type} (f : State → α → State) (h : ∀ s x, KeepsTiles s (f s x)) (l : List α) :
    ∀ s : State, KeepsTiles s (l.foldl f s) := by
  induction l with
  | nil => exact KeepsTiles.refl
  | cons x l ih => exact fun s => (h s x).trans (ih (f s x))

/-- The state once the barrier's new generation stands and its tiles are told (R267, R358). -/
def abortTold (s : State) (g : Nat) (tiles : List Nat) : State :=
  tiles.foldl (fun s k => s.modStep k (fun st => { st with bound := true }))
    (nextGen (s.modPart g (fun p => { p with
      bar := .aborting, members := tiles, undone := tiles ++ (s.controllersOf tiles g).map controllerWho })) g)

theorem broadcastAbort_eq (s : State) (g : Nat) (tiles : List Nat) : broadcastAbort s g tiles = { abortTold s g tiles with
    pending := (abortTold s g tiles).pending ++ tiles.map (fun k => Instr.abort (tileDie k) (tileId k)) ++
      (s.controllersOf tiles g).map (fun d => Instr.controllerAbort g d) } := by
  simp only [broadcastAbort, foldl_post, abortTold]

theorem keepsTiles_broadcastAbort (s : State) (g : Nat) (tiles : List Nat) : KeepsTiles s (broadcastAbort s g tiles) := by
  have htold : KeepsTiles s (abortTold s g tiles) := by
    refine KeepsTiles.trans ?_ (keepsTiles_foldl _ keepsTiles_bound tiles _)
    exact keepsTiles_of_eq rfl rfl
  rw [broadcastAbort_eq]
  exact htold.trans (keepsTiles_of_eq rfl rfl)

/-- A launch that fails stops no context by itself (R332). -/
theorem keepsTiles_failLaunch (s : State) (l : Nat) : KeepsTiles s (failLaunch s l) := by
  simp only [failLaunch]
  split
  · exact KeepsTiles.refl s
  · split
    · exact KeepsTiles.refl s
    · split
      · exact keepsTiles_of_eq rfl rfl
      · exact keepsTiles_broadcastAbort _ _ _

theorem modPart_part (s : State) (g : Nat) (f : Partition → Partition) : (s.modPart g f).part g = f (s.part g) := State.part_setPart _ _ _

/-- A new generation leaves the state of the barrier (R358). -/
theorem nextGen_bar (s : State) (g : Nat) : ((nextGen s g).part g).bar = (s.part g).bar := by
  have hdrop (t : State) : (dropStale t).part g = t.part g := rfl
  simp only [nextGen, hdrop, modPart_part]
  by_cases h : g = barOwner s g
  · rw [← h, modPart_part]
  · rw [State.modPart, State.part_setPart_other _ _ _ _ h]

theorem broadcastAbort_bar (s : State) (g : Nat) (tiles : List Nat) : ((broadcastAbort s g tiles).part g).bar = .aborting := by
  have hfold (t : State) : (tiles.foldl (fun s k => s.modStep k (fun st => { st with bound := true })) t).parts = t.parts :=
    foldl_keeps State.parts (fun s k => s.modStep k (fun st => { st with bound := true })) (fun _ _ => rfl) tiles t
  rw [broadcastAbort_eq]
  show (Map.getD (abortTold s g tiles).parts g {}).bar = _
  rw [abortTold, hfold]
  exact (nextGen_bar _ g).trans (by rw [modPart_part])

theorem mem_pending_broadcastAbort (s : State) (g : Nat) {tiles : List Nat} {k : Nat} (h : k ∈ tiles) :
    Instr.abort (tileDie k) (tileId k) ∈ (broadcastAbort s g tiles).pending := by
  rw [broadcastAbort_eq]
  exact List.mem_append_left _ (List.mem_append_right _ (List.mem_map.mpr ⟨k, h, rfl⟩))

/-- A launch whose superstep can be restored fails: its tiles receive the abort (R332). -/
theorem failLaunch_restorable {s : State} {l : Nat} (hl : (Map.get? s.launches l).isSome = true)
    (hbar : (s.part (implicitKey l)).bar = .running) (hirr : s.isIrrevocable (implicitKey l) = false) :
    failLaunch s l = broadcastAbort s (implicitKey l) (s.tilesOf l) := by
  obtain ⟨x, hx⟩ := Option.isSome_iff_exists.mp hl
  simp only [failLaunch, hx, hbar, hirr]
  rfl

/-! ### The control context stops -/

/-- The control context stopped by a fault. -/
def stoppedControl (s : State) (k : Nat) (cause : BitVec 8) : State :=
  (raiseEvent (recordFault s k 0 cause (s.ctx k 0).tval (s.ctx k 0).tpc) k cause).modCtx k 0
    (fun x => { x with st := .stopped, frame := none, wait := none })

/-- A LIVE context is stopped. -/
def haltCtx (x : Ctx) : Ctx := if x.st = .live then { x with st := .stopped, wait := none } else x

/-- Every context of the tile is in no queue, and none is LIVE. -/
def haltedTile (s : State) (k : Nat) : State :=
  ((List.range 11).foldl (fun s c => leaveQueues s k c) s).modTile k (fun t => { t with ctxs := mapV t.ctxs haltCtx })

theorem unhandled_control_eq (s : State) (k : Nat) (cause : BitVec 8) : unhandled s k 0 cause =
    match ((stoppedControl s k cause).tile k).work with
    | none => stoppedControl s k cause
    | some u =>
      if u.cls = 2 then
        let h := haltedTile (stoppedControl s k cause) k
        sendArrival (h.modStep k (fun st => { st with arrived := true })) k (barrierRec 0 (h.tile k).step.ssn 0 0 1)
      else failLaunch (stoppedControl s k cause) u.launch := by
  unfold unhandled stoppedControl haltedTile haltCtx
  exact if_neg fun h => h rfl

section
variable {s : State} {k : Nat} (cause : BitVec 8)

theorem stoppedControl_ctx : (stoppedControl s k cause).ctx k 0 = { s.ctx k 0 with st := .stopped, frame := none, wait := none } := by
  rw [stoppedControl, ctx_modCtx _ _ _ (by decide), raiseEvent_ctx, recordFault_ctx]

theorem stoppedControl_ctx_other {c : Nat} (h : c ≠ 0) : (stoppedControl s k cause).ctx k c = s.ctx k c := by
  rw [stoppedControl, ctx_modCtx_other _ _ _ h, raiseEvent_ctx, recordFault_ctx]

theorem stoppedControl_tile (hb : (s.tile k).step.bound = false) : (stoppedControl s k cause).tile k = { s.tile k with
    ctxs := ((stoppedControl s k cause).tile k).ctxs, step := (s.tile k).step.pendFor cause } := by
  simp only [stoppedControl, tile_modCtx, Tile.setCtx]
  rw [raiseEvent_tile _ (by simpa using hb), recordFault_tile]

theorem stoppedControl_rest : stoppedControl s k cause = { s with
    tiles := (stoppedControl s k cause).tiles, launches := (recordFault s k 0 cause (s.ctx k 0).tval (s.ctx k 0).tpc).launches } := by
  have h := recordFault_rest s k 0 cause (s.ctx k 0).tval (s.ctx k 0).tpc
  exact (congrArg (fun r : State => { r with tiles := (stoppedControl s k cause).tiles }) h :)

theorem keepsUnits_raiseEvent (s : State) (k : Nat) (code : BitVec 8) : KeepsUnits s (raiseEvent s k code) := keepsUnits_modTile _ k _ rfl

theorem keepsUnits_stoppedControl : KeepsUnits s (stoppedControl s k cause) := by
  have hfault : KeepsUnits s (recordFault s k 0 cause (s.ctx k 0).tval (s.ctx k 0).tpc) := keepsUnits_of_tiles (by rw [recordFault_rest])
  exact (hfault.trans (keepsUnits_raiseEvent _ k cause)).trans (keepsUnits_modCtx _ k 0 _)

end

theorem leaveQueues_all_rest (s : State) (k : Nat) (l : List Nat) :
    l.foldl (fun s c => leaveQueues s k c) s = { s with dies := (l.foldl (fun s c => leaveQueues s k c) s).dies } := by
  induction l generalizing s with
  | nil => rfl
  | cons c l ih => rw [List.foldl_cons, ih, leaveQueues_rest]

theorem haltedTile_rest (s : State) (k : Nat) : haltedTile s k = { s with tiles := (haltedTile s k).tiles, dies := (haltedTile s k).dies } := by
  have h := leaveQueues_all_rest s k (List.range 11)
  unfold haltedTile
  generalize (List.range 11).foldl (fun s c => leaveQueues s k c) s = q at h ⊢
  exact (congrArg (fun r : State => { r with tiles := (q.modTile k (fun t => { t with ctxs := mapV t.ctxs haltCtx })).tiles }) h :)

theorem haltedTile_tile (s : State) (k : Nat) : (haltedTile s k).tile k = { s.tile k with ctxs := mapV (s.tile k).ctxs haltCtx } := by
  have h : ((List.range 11).foldl (fun s c => leaveQueues s k c) s).tile k = s.tile k :=
    foldl_keeps (State.tile · k) (fun s c => leaveQueues s k c) (fun s c => leaveQueues_tile s k c k) _ s
  rw [haltedTile, tile_modTile, h]

theorem ctx_mapV (t : Tile) (f : Ctx → Ctx) {c : Nat} (hc : c < 11) : ({ t with ctxs := mapV t.ctxs f } : Tile).ctx c = f (t.ctx c) := by
  simp [Tile.ctx, mapV, hc]

theorem haltedTile_ctx (s : State) (k : Nat) {c : Nat} (hc : c < 11) : (haltedTile s k).ctx k c = haltCtx (s.ctx k c) := by
  rw [State.ctx, haltedTile_tile, ctx_mapV _ _ hc]; rfl

/-- What an arrival changes: the tile's place at its comparator, and the events in flight. -/
theorem sendArrival_rest (s : State) (k : Nat) (rec : BitVec 128) : sendArrival s k rec = { s with
    tiles := (sendArrival s k rec).tiles, pending := (sendArrival s k rec).pending } := by
  have hmod : ∀ f, modTwin s k f = { s with tiles := (modTwin s k f).tiles } := fun f => (goesOn_modTwin s k 0 f).rest
  unfold sendArrival
  split
  · simp only [sendTwin]
    split
    · rw [hmod]
    · rw [hmod]; rfl
  · unfold sendRecord; split <;> rfl

theorem sendArrival_tile (s : State) (k j : Nat) (rec : BitVec 128) : (sendArrival s k rec).tile j = { s.tile j with
    twin := ((sendArrival s k rec).tile j).twin } := by
  unfold sendArrival
  split
  · simp only [sendTwin]
    split
    · exact modTwin_tile s k j _
    · rw [State.tile_post]; exact modTwin_tile s k j _
  · unfold sendRecord; split <;> rfl

/-- A tile without a pair sends its record to its die's node (R281). -/
theorem sendArrival_pending {s : State} {k : Nat} {u : WorkUnit} (rec : BitVec 128) (ht : (s.tile k).twin = none)
    (hw : (s.tile k).work = some u) :
    (sendArrival s k rec).pending = s.pending ++ [.barrierRecord u.barKey 0 (tileDie (s.idKey k)) (s.idKey k) rec] := by
  simp only [sendArrival, ht, sendRecord, hw]; rfl

/-- The tile has arrived with an abort vote (R281). -/
def abortArrival (s : State) (k : Nat) : State :=
  sendArrival ((haltedTile s k).modStep k (fun st => { st with arrived := true })) k (barrierRec 0 (s.tile k).step.ssn 0 0 1)

theorem unhandled_con {s : State} {k : Nat} {u : WorkUnit} (cause : BitVec 8) (hw : ((stoppedControl s k cause).tile k).work = some u)
    (hc : u.cls = 2) : unhandled s k 0 cause = abortArrival (stoppedControl s k cause) k := by
  have hssn := congrArg (fun t : Tile => t.step.ssn) (haltedTile_tile (stoppedControl s k cause) k)
  rw [unhandled_control_eq, hw, abortArrival, ← hssn]
  exact if_pos hc

theorem unhandled_restartable {s : State} {k : Nat} {u : WorkUnit} (cause : BitVec 8)
    (hw : ((stoppedControl s k cause).tile k).work = some u) (hc : u.cls ≠ 2) :
    unhandled s k 0 cause = failLaunch (stoppedControl s k cause) u.launch := by
  rw [unhandled_control_eq, hw]
  exact if_neg hc

theorem arrived_tile (s : State) (k : Nat) : ((haltedTile s k).modStep k (fun st => { st with arrived := true })).tile k =
    { s.tile k with ctxs := mapV (s.tile k).ctxs haltCtx, step := { (s.tile k).step with arrived := true } } := by
  rw [step_modStep, haltedTile_tile]

theorem abortArrival_tile (s : State) (k : Nat) : (abortArrival s k).tile k = { s.tile k with
    ctxs := mapV (s.tile k).ctxs haltCtx, step := { (s.tile k).step with arrived := true }, twin := ((abortArrival s k).tile k).twin } := by
  rw [abortArrival, sendArrival_tile, arrived_tile]

theorem abortArrival_ctx (s : State) (k : Nat) {c : Nat} (hc : c < 11) : (abortArrival s k).ctx k c = haltCtx (s.ctx k c) := by
  rw [State.ctx, abortArrival_tile]; exact ctx_mapV _ _ hc

theorem abortArrival_rest (s : State) (k : Nat) : abortArrival s k = { s with
    tiles := (abortArrival s k).tiles, dies := (abortArrival s k).dies, pending := (abortArrival s k).pending } := by
  have hh := haltedTile_rest s k
  unfold abortArrival
  generalize haltedTile s k = a at hh ⊢
  have h := sendArrival_rest (a.modStep k (fun st => { st with arrived := true })) k (barrierRec 0 (s.tile k).step.ssn 0 0 1)
  generalize sendArrival (a.modStep k (fun st => { st with arrived := true })) k (barrierRec 0 (s.tile k).step.ssn 0 0 1) = b at h ⊢
  rw [h]
  exact (congrArg (fun r : State => { r with tiles := b.tiles, pending := b.pending }) hh :)

theorem abortArrival_pending {s : State} {k : Nat} {u : WorkUnit} (ht : (s.tile k).twin = none) (hw : (s.tile k).work = some u) :
    (abortArrival s k).pending.getLast? =
      some (.barrierRecord u.barKey 0 (tileDie (s.idKey k)) (s.idKey k) (barrierRec 0 (s.tile k).step.ssn 0 0 1)) := by
  have htile := arrived_tile s k
  have hid : ((haltedTile s k).modStep k (fun st => { st with arrived := true })).idKey k = s.idKey k := by
    simp only [State.idKey, htile]
  rw [abortArrival, sendArrival_pending _ (by rw [htile]; exact ht) (by rw [htile]; exact hw), hid, List.getLast?_concat]

theorem haltCtx_st (x : Ctx) : (haltCtx x).st = if x.st = .live then .stopped else x.st := by
  unfold haltCtx; split <;> rfl

/-- A context that is not LIVE is not halted. -/
theorem haltCtx_of_ne {x : Ctx} (h : x.st ≠ .live) : haltCtx x = x := if_neg h

/-- The first fault of a launch stands in its record (R327). -/
theorem recordFault_get? {s : State} {k : Nat} {u : WorkUnit} (c : Nat) (cause : BitVec 8) (tval tpc : Word) (hw : (s.tile k).work = some u) :
    Map.get? (recordFault s k c cause tval tpc).launches u.launch = (Map.get? s.launches u.launch).map fun l => { l with
      fault := some (l.fault.getD { cause := cause, ctx := c, tile := k, tval := tval, tpc := tpc })
      runFault := some (l.runFault.getD { cause := cause, ctx := c, tile := k, tval := tval, tpc := tpc }) } := by
  simp only [recordFault, hw, State.modLaunch]
  split
  next l hl => rw [hl]; exact Map.get?_set_same _ _ _
  next hl => rw [hl]; rfl

theorem idKey_of_tile {s t : State} {k : Nat} (h : (t.tile k).twin = (s.tile k).twin) : t.idKey k = s.idKey k := by
  simp only [State.idKey, h]

/-! ### The two kinds of launch, from the state in which the trap has no handler -/

section
variable {s : State} {k : Nat} {u : WorkUnit} {cause : BitVec 8} (hw : (s.tile k).work = some u) (hb : (s.tile k).step.bound = false)
include hw hb

theorem stoppedControl_work : ((stoppedControl s k cause).tile k).work = some u := by
  rw [stoppedControl_tile cause hb]; exact hw

omit hw in
theorem stoppedControl_step : ((stoppedControl s k cause).tile k).step = (s.tile k).step.pendFor cause := by
  rw [stoppedControl_tile cause hb]

/-- In a CON launch the tile stops its helpers and arrives with an abort vote (R33, R281). -/
theorem unhandled_con_arrives (hc : u.cls = 2) : let t := unhandled s k 0 cause
    (t.tile k).step.arrived = true ∧
    (∀ c, 0 < c → c < 11 → (t.ctx k c).st = if (s.ctx k c).st = .live then .stopped else (s.ctx k c).st) ∧
    ((s.tile k).twin = none → t.pending.getLast? = some (.barrierRecord u.barKey 0 (tileDie (s.idKey k)) (s.idKey k)
      (barrierRec 0 (s.tile k).step.ssn 0 0 1))) := by
  intro t
  have ht : t = abortArrival (stoppedControl s k cause) k := unhandled_con cause (stoppedControl_work hw hb) hc
  have htwin : ((stoppedControl s k cause).tile k).twin = (s.tile k).twin := by rw [stoppedControl_tile cause hb]
  have hssn : ((stoppedControl s k cause).tile k).step.ssn = (s.tile k).step.ssn := by rw [stoppedControl_step hb]; rfl
  refine ⟨by rw [ht, abortArrival_tile], fun c h0 hlt => ?_, fun hnone => ?_⟩
  · rw [ht, abortArrival_ctx _ _ hlt, haltCtx_st, stoppedControl_ctx_other cause (Nat.ne_of_gt h0)]
  · rw [ht, abortArrival_pending (htwin.trans hnone) (stoppedControl_work hw hb), idKey_of_tile htwin, hssn]

theorem unhandled_con_keeps (hc : u.cls = 2) : let t := unhandled s k 0 cause
    t.ctx k 0 = { s.ctx k 0 with st := .stopped, frame := none, wait := none } ∧
    (t.tile k).step = { (s.tile k).step.pendFor cause with arrived := true } ∧ t.mem = s.mem ∧
    t.launches = (recordFault s k 0 cause (s.ctx k 0).tval (s.ctx k 0).tpc).launches := by
  intro t
  have ht : t = abortArrival (stoppedControl s k cause) k := unhandled_con cause (stoppedControl_work hw hb) hc
  have hctx := stoppedControl_ctx (s := s) (k := k) cause
  have hrest := stoppedControl_rest (s := s) (k := k) cause
  have harr := abortArrival_rest (stoppedControl s k cause) k
  refine ⟨?_, ?_, ?_, ?_⟩
  · rw [ht, abortArrival_ctx _ _ (by decide), hctx]
    exact haltCtx_of_ne (by simp)
  · rw [ht, abortArrival_tile]; simp only [stoppedControl_step hb]
  · rw [ht]; exact (congrArg State.mem harr :).trans (congrArg State.mem hrest :)
  · rw [ht]; exact (congrArg State.launches harr :).trans (congrArg State.launches hrest :)

theorem unhandled_restartable_keeps (hc : u.cls ≠ 2) : let t := unhandled s k 0 cause
    t.ctx k 0 = { s.ctx k 0 with st := .stopped, frame := none, wait := none } ∧
    (t.tile k).step.pend = true ∧ (t.tile k).step.cause = ((s.tile k).step.pendFor cause).cause ∧ t.mem = s.mem := by
  intro t
  have ht : t = failLaunch (stoppedControl s k cause) u.launch := unhandled_restartable cause (stoppedControl_work hw hb) hc
  have hkeeps := keepsTiles_failLaunch (stoppedControl s k cause) u.launch
  rw [← ht] at hkeeps
  refine ⟨by rw [hkeeps.ctx, stoppedControl_ctx], ?_, ?_, ?_⟩
  · rw [hkeeps.pend, stoppedControl_step hb]; rfl
  · rw [hkeeps.cause, stoppedControl_step hb]
  · exact hkeeps.mem.trans (congrArg State.mem (stoppedControl_rest (s := s) (k := k) cause) :)

/-- In a WP or PAR launch every tile of the launch receives the abort (R332). -/
theorem unhandled_restartable_aborts (hc : u.cls ≠ 2) (hl : (Map.get? s.launches u.launch).isSome = true)
    (hbar : (s.part (implicitKey u.launch)).bar = .running) (hirr : s.isIrrevocable (implicitKey u.launch) = false) :
    let t := unhandled s k 0 cause
    (t.part (implicitKey u.launch)).bar = .aborting ∧
    ∀ j ∈ s.tilesOf u.launch, Instr.abort (tileDie j) (tileId j) ∈ t.pending := by
  intro t
  have hrest := stoppedControl_rest (s := s) (k := k) cause
  have hlaunch : (Map.get? (stoppedControl s k cause).launches u.launch).isSome = true := by
    rw [hrest]
    show (Map.get? (recordFault _ _ _ _ _ _).launches _).isSome = true
    rw [recordFault_get? _ _ _ _ hw, Option.isSome_map, hl]
  have hparts : (stoppedControl s k cause).parts = s.parts := (congrArg State.parts hrest :)
  have hdies : (stoppedControl s k cause).dies = s.dies := (congrArg State.dies hrest :)
  have ht : t = broadcastAbort (stoppedControl s k cause) (implicitKey u.launch) ((stoppedControl s k cause).tilesOf u.launch) :=
    (unhandled_restartable cause (stoppedControl_work hw hb) hc).trans
      (failLaunch_restorable hlaunch (by rw [State.part, hparts]; exact hbar) (by rw [State.isIrrevocable, hdies]; exact hirr))
  rw [ht]
  exact ⟨broadcastAbort_bar _ _ _, fun j hj => mem_pending_broadcastAbort _ _ (keepsUnits_stoppedControl cause _ _ hj)⟩

end

theorem givenUp_isIrrevocable (s : State) (k c g : Nat) : (givenUp s k c).isIrrevocable g = s.isIrrevocable g := by
  rw [givenUp, leaveQueues_isIrrevocable, dropIssued_rest]; rfl

theorem trapped_rest (s : State) (k c : Nat) (cause : Cause) (tval pc : Word) (mm : Bool) : trapped s k c cause tval pc mm = { s with
    tiles := (trapped s k c cause tval pc mm).tiles, dies := (givenUp s k c).dies } := by
  have hrest := givenUp_rest s k c
  unfold trapped
  generalize givenUp s k c = g at hrest ⊢
  exact (congrArg (fun r : State => { r with
    tiles := (g.setCtx k c (trappedCtx c cause tval pc mm ((s.ctx k c).tstat.getLsbD 0) { s.ctx k c with tload := none })).tiles }) hrest :)

/-- What the trap registers leave, in a state without what the instruction had issued. -/
theorem trapped_keeps (s : State) (k : Nat) (cause : Cause) (tval pc : Word) (mm : Bool) : let p := trapped s k 0 cause tval pc mm
    (p.tile k).work = (s.tile k).work ∧ (p.tile k).step = (s.tile k).step ∧ (p.tile k).twin = (s.tile k).twin ∧ p.launches = s.launches ∧
    p.parts = s.parts ∧ p.mem = s.mem ∧ (∀ g, p.isIrrevocable g = s.isIrrevocable g) ∧ ∀ c, 0 < c → p.ctx k c = s.ctx k c := by
  intro p
  have htile : p.tile k = _ := trapped_tile s k 0 cause tval pc mm
  have hrest : p = _ := trapped_rest s k 0 cause tval pc mm
  have hdies : p.dies = (givenUp s k 0).dies := by rw [hrest]
  have hctx (c : Nat) (h0 : 0 < c) : p.ctx k c = s.ctx k c :=
    (State.ctx_setCtx_other _ _ _ _ _ (Nat.ne_of_gt h0)).trans (givenUp_ctx_other s fun h => Nat.ne_of_gt h0 (congrArg Prod.snd h))
  clear_value p
  refine ⟨by rw [htile], by rw [htile], by rw [htile], by rw [hrest], by rw [hrest], by rw [hrest], fun g => ?_, hctx⟩
  rw [← givenUp_isIrrevocable s k 0 g, State.isIrrevocable, State.isIrrevocable, hdies]

/-- A context that is stopped keeps the registers of its trap. -/
theorem stopped_trappedCtx {x y : Ctx} {c : Nat} {cause : Cause} {tval pc : Word} {mm h : Bool}
    (hx : x = { trappedCtx c cause tval pc mm h y with st := .stopped, frame := none, wait := none }) :
    x.st = .stopped ∧ x.tcause = cause.code ∧ x.tval = tval ∧ x.tpc = (match y.frame with
      | some f => f.base
      | none => pc) := by
  subst hx
  exact ⟨rfl, rfl, rfl, rfl⟩

/-- A trap of the control context that no handler takes (R33, R281, R327, R332). -/
theorem unhandledControlTrap : UnhandledControlTrap := by
  intro s k cause tval pc mm u hw hb hno t tpc
  have ht : t = unhandled (trapped s k 0 cause tval pc mm) k 0 cause.code := takeTrapAt_unhandled tval pc mm (by decide) (not_hasHandler hno)
  obtain ⟨hwork, hstep, htwin, hlaunches, hparts, hmem, hirrev, hothers⟩ := trapped_keeps s k cause tval pc mm
  have hunits := keepsUnits_trapped s k 0 cause tval pc mm
  have hctx := trapped_ctx s k cause tval pc mm (c := 0) (by decide)
  generalize trapped s k 0 cause tval pc mm = p at ht hwork hstep htwin hlaunches hparts hmem hirrev hothers hunits hctx
  have hpw : (p.tile k).work = some u := hwork.trans hw
  have hpb : (p.tile k).step.bound = false := by rw [hstep]; exact hb
  have htval : (p.ctx k 0).tval = tval := (congrArg Ctx.tval hctx :)
  have htpc : (p.ctx k 0).tpc = tpc := (congrArg Ctx.tpc hctx :)
  clear_value t
  subst ht
  by_cases hc : u.cls = 2
  · obtain ⟨hx, hs, hm, hl⟩ := unhandled_con_keeps (cause := cause.code) hpw hpb hc
    obtain ⟨harr, hhelpers, hlast⟩ := unhandled_con_arrives (cause := cause.code) hpw hpb hc
    rw [hctx] at hx
    obtain ⟨hst, htc, htv, htp⟩ := stopped_trappedCtx hx
    refine ⟨hst, htc, htv, htp, by rw [hs]; rfl, by rw [hs, hstep]; rfl, hm.trans hmem, fun _ => ⟨harr, fun c h0 hlt => ?_, fun hnone => ?_,
      fun l hlaunch => ?_⟩, fun h => absurd hc h⟩
    · rw [hhelpers c h0 hlt, hothers c h0]
    · rw [hlast (htwin.trans hnone), idKey_of_tile htwin, hstep]
    · rw [hl, recordFault_get? _ _ _ _ hpw, hlaunches, hlaunch, htval, htpc]; rfl
  · obtain ⟨hx, hp, hs, hm⟩ := unhandled_restartable_keeps (cause := cause.code) hpw hpb hc
    rw [hctx] at hx
    obtain ⟨hst, htc, htv, htp⟩ := stopped_trappedCtx hx
    refine ⟨hst, htc, htv, htp, hp, by rw [hs, hstep]; rfl, hm.trans hmem, fun h => absurd h hc, fun _ hl hbar hirr => ?_⟩
    obtain ⟨hab, hall⟩ := unhandled_restartable_aborts (cause := cause.code) hpw hpb hc (by rw [hlaunches]; exact hl)
      (by rw [State.part, hparts]; exact hbar) ((hirrev _).trans hirr)
    exact ⟨hab, fun j hj => hall j (hunits _ _ hj)⟩

/-- Settles O10: the trap with a handler, and the two that no handler takes. -/
theorem trapEntry : Obligations.TrapEntry := by
  unfold Obligations.TrapEntry
  exact ⟨handledTrap, unhandledHelperTrap, unhandledControlTrap⟩

end Sys2Proof.Proofs
end

section
/-! CSRs: what a read depends on, and what a write changes (R29, R30, R124). -/
namespace Sys2Proof.Proofs
open Sys2Proof Sys2Proof.Machine Sys2Proof.Claims

/-! ### HSTAT -/

theorem indexed_map {α β : Type} (f : α → β) (l : List α) : ∀ o, indexed o (l.map f) = (indexed o l).map (fun e => (e.1, f e.2)) := by
  induction l with
  | nil => intro o; rfl
  | cons a l ih => intro o; simp [indexed, ih]

/-- The fields of HSTAT, from the states of the contexts (R30). -/
def hstatFields (l : List CtxState) : List (Nat × Nat) := (indexed 0 l).flatMap fun e =>
  if e.1 = 0 then [] else [(e.1, (decide (e.2 = .live)).toNat), (16 + e.1, (decide (e.2 = .faulted)).toNat)]

theorem csrRead_hstat (s : State) : csrRead s 0x060 = some (pack (hstatFields (s.curTile.ctxs.toList.map Ctx.st))) := by
  rw [hstatFields, indexed_map, List.flatMap_map]; rfl

/-- A context that keeps its state leaves the states of all. -/
theorem states_setCtx (t : Tile) (c : Nat) (x : Ctx) (h : x.st = (t.ctx c).st) :
    (t.setCtx c x).ctxs.toList.map Ctx.st = t.ctxs.toList.map Ctx.st := by
  refine List.ext_getElem (by simp) fun i hi _ => ?_
  have hlt : i < 11 := by simpa using hi
  by_cases hic : c = i
  · subst hic
    simp [Tile.setCtx, h, Tile.ctx, hlt]
  · simp [Tile.setCtx, hic]

/-! ### What a CSR reads -/

/-- The CSRs of the tile that no instruction writes, or whose write is not a plain one (R29). -/
def tileCsrs : List Nat := [0x000, 0x001, 0x002, 0x003, 0x010, 0x011, 0x012, 0x013, 0x014, 0x020, 0x021, 0x031, 0x060, 0x062, 0x070]

/-- The CSRs of a context. -/
def ctxCsrs : List Nat := [0x041, 0x042, 0x050, 0x051, 0x052, 0x053, 0x054, 0x061]

/-- The value of a CSR of a context. -/
def ctxCsr (x : Ctx) : Nat → Word
  | 0x041 => x.qmap.setWidth 64
  | 0x042 => x.frm.setWidth 64
  | 0x050 => x.tcause.setWidth 64
  | 0x051 => x.tpc
  | 0x052 => x.tval
  | 0x053 => x.tstat.setWidth 64
  | 0x054 => x.rptidx.setWidth 64
  | _ => x.mrow.setWidth 64

theorem csrRead_ctx (s : State) {n : Nat} (h : n ∈ ctxCsrs) : csrRead s n = some (ctxCsr s.curCtx n) := by
  simp only [ctxCsrs, List.mem_cons, List.not_mem_nil, or_false] at h
  rcases h with rfl | rfl | rfl | rfl | rfl | rfl | rfl | rfl <;> rfl

/-- The state t shows the same CSRs of the tile as s: it differs in SUBREG and TVEC, and in the registers of contexts. -/
structure SameTileCsrs (s t : State) : Prop where
  rest : t = { s with tiles := t.tiles }
  tile : t.curTile = { s.curTile with
    ctxs := t.curTile.ctxs, csr := { s.curTile.csr with subreg := t.curTile.csr.subreg, tvec := t.curTile.csr.tvec } }
  states : t.curTile.ctxs.toList.map Ctx.st = s.curTile.ctxs.toList.map Ctx.st

theorem SameTileCsrs.csrRead {s t : State} (h : SameTileCsrs s t) {n : Nat} (hn : n ∈ tileCsrs) : csrRead t n = csrRead s n := by
  have hkey : t.curKey = s.curKey := by rw [h.rest]; rfl
  obtain ⟨ctxs, subreg, tvec, htile⟩ : ∃ ctxs subreg tvec, t.tile t.curKey = { s.tile s.curKey with
      ctxs := ctxs, csr := { (s.tile s.curKey).csr with subreg := subreg, tvec := tvec } } := ⟨_, _, _, h.tile⟩
  have hid : t.idKey t.curKey = s.idKey s.curKey := by
    rw [State.idKey, htile]; simp only [hkey]; rfl
  have hdie : t.dieId t.curKey = s.dieId s.curKey := by
    rw [State.dieId, hid, htile, h.rest]; rfl
  have hlog : logcap t t.curKey = logcap s s.curKey := by
    rw [logcap, htile, hkey, h.rest]; rfl
  by_cases h60 : n = 0x060
  · rw [h60, csrRead_hstat, csrRead_hstat, h.states]
  · simp only [tileCsrs, List.mem_cons, List.not_mem_nil, or_false, h60, false_or] at hn
    rcases hn with rfl | rfl | rfl | rfl | rfl | rfl | rfl | rfl | rfl | rfl | rfl | rfl | rfl | rfl <;>
      simp only [Machine.csrRead, hid, hdie, hlog, htile, Tile.poolFree]

/-! ### Writes of the issuing context and of the tile -/

theorem curTile_modCur (s : State) (f : Ctx → Ctx) : (s.modCur f).curTile = s.curTile.setCtx s.cur.ctx (f s.curCtx) := tile_modCtx _ _ _ _

theorem curTile_modCsr (s : State) (f : TileCsr → TileCsr) : (s.modCsr s.curKey f).curTile = { s.curTile with csr := f s.curTile.csr } :=
  tile_modTile _ _ _

theorem curCtx_modCsr (s : State) (f : TileCsr → TileCsr) : (s.modCsr s.curKey f).curCtx = s.curCtx := by
  show (Tile.ctx _ _) = _
  rw [show (s.modCsr s.curKey f).tile (s.modCsr s.curKey f).curKey = _ from curTile_modCsr s f]; rfl

/-- A write of a register of the issuing context. -/
theorem sameTileCsrs_modCur (s : State) (f : Ctx → Ctx) (hf : (f s.curCtx).st = s.curCtx.st) : SameTileCsrs s (s.modCur f) where
  rest := rfl
  tile := by rw [curTile_modCur]; rfl
  states := by rw [curTile_modCur]; exact states_setCtx _ _ _ hf

/-- A write of SUBREG or of TVEC. -/
theorem sameTileCsrs_modCsr (s : State) (f : TileCsr → TileCsr)
    (hf : f s.curTile.csr = { s.curTile.csr with subreg := (f s.curTile.csr).subreg, tvec := (f s.curTile.csr).tvec }) :
    SameTileCsrs s (s.modCsr s.curKey f) where
  rest := rfl
  tile := by rw [curTile_modCsr]; simp only [← hf]
  states := by rw [curTile_modCsr]

/-- What a write does to the context, for a CSR of it. -/
def ctxPut (n : Nat) (v : Word) (x : Ctx) : Ctx :=
  match n with
  | 0x041 => { x with qmap := v.setWidth 8 }
  | 0x042 => { x with frm := v.setWidth 8 }
  | 0x050 => { x with tcause := v.setWidth 8 }
  | 0x051 => { x with tpc := v }
  | 0x052 => { x with tval := v }
  | 0x053 => { x with tstat := (x.tstat &&& 0xFF0#12) ||| (v.setWidth 12 &&& 0xF#12) }
  | 0x054 => { x with rptidx := v.setWidth 14 }
  | _ => { x with mrow := v.setWidth 8 }

theorem csrPut_ctx (s : State) (v : Word) {n : Nat} (h : n ∈ ctxCsrs) : csrPut s n v = s.modCur (ctxPut n v) := by
  simp only [ctxCsrs, List.mem_cons, List.not_mem_nil, or_false] at h
  rcases h with rfl | rfl | rfl | rfl | rfl | rfl | rfl | rfl <;> rfl

theorem ctxPut_st (n : Nat) (v : Word) (x : Ctx) : (ctxPut n v x).st = x.st := by unfold ctxPut; split <;> rfl

/-- A write to one CSR of the context leaves the others. -/
theorem ctxCsr_ctxPut_other (v : Word) (x : Ctx) {n m : Nat} (hn : n ∈ ctxCsrs) (hm : m ∈ ctxCsrs) (h : m ≠ n) :
    ctxCsr (ctxPut n v x) m = ctxCsr x m := by
  simp only [ctxCsrs, List.mem_cons, List.not_mem_nil, or_false] at hn
  rcases hn with rfl | rfl | rfl | rfl | rfl | rfl | rfl | rfl <;>
    (simp only [ctxCsrs, List.mem_cons, List.not_mem_nil, or_false, h, false_or] at hm
     rcases hm with rfl | rfl | rfl | rfl | rfl | rfl | rfl <;> rfl)

/-- A value without a reserved bit keeps its value in a field that holds the other bits. -/
theorem setWidth_of_reserved {v r : Word} {w : Nat} (h : v &&& r = 0) (hr : ∀ i : Fin 64, w ≤ i → r.getLsbD i = true) :
    (v.setWidth w).setWidth 64 = v := by
  refine BitVec.eq_of_getLsbD_eq fun i hi => ?_
  by_cases hw : i < w
  · simp [hi, hw]
  · have hbit : (v &&& r).getLsbD i = false := by rw [h]; simp
    rw [BitVec.getLsbD_and, hr ⟨i, hi⟩ (Nat.le_of_not_lt hw), Bool.and_true] at hbit
    simp [hw, hbit]

/-- What is written to a CSR of the context, without reserved bits, reads back; TSTAT has bits that are read-only. -/
theorem ctxCsr_ctxPut_same {n : Nat} {v : Word} {p : Bool} {r f : Word} (x : Ctx) (hn : n ∈ ctxCsrs) (h53 : n ≠ 0x053)
    (hk : csrKind n = some (p, r, f)) (hv : v &&& r = 0) : ctxCsr (ctxPut n v x) n = v := by
  simp only [ctxCsrs, List.mem_cons, List.not_mem_nil, or_false, h53, false_or] at hn
  rcases hn with rfl | rfl | rfl | rfl | rfl | rfl | rfl <;> cases hk
  · exact setWidth_of_reserved hv (by decide)
  · exact setWidth_of_reserved hv (by decide)
  · exact setWidth_of_reserved hv (by decide)
  · rfl
  · rfl
  · exact setWidth_of_reserved hv (by decide)
  · exact setWidth_of_reserved hv (by decide)

theorem csrRead_subreg (s : State) : csrRead s 0x040 = some s.curTile.csr.subreg := rfl
theorem csrRead_tvec (s : State) : csrRead s 0x055 = some s.curTile.csr.tvec := rfl

/-- A write of a CSR of the context: it reads back, and every other CSR stays. -/
theorem csrRead_put_ctx {s : State} (hc : s.cur.ctx < 11) (v : Word) {n : Nat} (hn : n ∈ ctxCsrs) :
    csrRead (csrPut s n v) n = some (ctxCsr (ctxPut n v s.curCtx) n) ∧
    ∀ m, m ∈ tileCsrs ∨ m = 0x040 ∨ m = 0x055 ∨ m ∈ ctxCsrs → m ≠ n → csrRead (csrPut s n v) m = csrRead s m := by
  have hctx : (csrPut s n v).curCtx = ctxPut n v s.curCtx := by rw [csrPut_ctx s v hn, State.curCtx_modCur _ _ hc]
  have htile : SameTileCsrs s (csrPut s n v) := by rw [csrPut_ctx s v hn]; exact sameTileCsrs_modCur s _ (ctxPut_st _ _ _)
  have hcsr : (csrPut s n v).curTile.csr = s.curTile.csr := by rw [csrPut_ctx s v hn, curTile_modCur]; rfl
  refine ⟨by rw [csrRead_ctx _ hn, hctx], fun m hm hne => ?_⟩
  rcases hm with hm | rfl | rfl | hm
  · exact htile.csrRead hm
  · rw [csrRead_subreg, csrRead_subreg, hcsr]
  · rw [csrRead_tvec, csrRead_tvec, hcsr]
  · rw [csrRead_ctx _ hm, csrRead_ctx _ hm, hctx, ctxCsr_ctxPut_other v _ hn hm hne]

theorem csrRead_put_subreg (s : State) (v : Word) : csrRead (csrPut s 0x040 v) 0x040 = some v ∧
    ∀ m, m ∈ tileCsrs ∨ m = 0x055 ∨ m ∈ ctxCsrs → csrRead (csrPut s 0x040 v) m = csrRead s m := by
  have htile : (csrPut s 0x040 v).curTile = { s.curTile with csr := { s.curTile.csr with subreg := v } } := curTile_modCsr s _
  refine ⟨by rw [csrRead_subreg, htile], fun m hm => ?_⟩
  rcases hm with hm | rfl | hm
  · exact (sameTileCsrs_modCsr s (fun r => { r with subreg := v }) rfl).csrRead hm
  · rw [csrRead_tvec, csrRead_tvec, htile]
  · rw [csrRead_ctx _ hm, csrRead_ctx _ hm]
    exact congrArg (fun x => some (ctxCsr x m)) (curCtx_modCsr s _)

theorem csrRead_put_tvec (s : State) (v : Word) : csrRead (csrPut s 0x055 v) 0x055 = some v ∧
    ∀ m, m ∈ tileCsrs ∨ m = 0x040 ∨ m ∈ ctxCsrs → csrRead (csrPut s 0x055 v) m = csrRead s m := by
  have htile : (csrPut s 0x055 v).curTile = { s.curTile with csr := { s.curTile.csr with tvec := v } } := curTile_modCsr s _
  refine ⟨by rw [csrRead_tvec, htile], fun m hm => ?_⟩
  rcases hm with hm | rfl | hm
  · exact (sameTileCsrs_modCsr s (fun r => { r with tvec := v }) rfl).csrRead hm
  · rw [csrRead_subreg, csrRead_subreg, htile]
  · rw [csrRead_ctx _ hm, csrRead_ctx _ hm]
    exact congrArg (fun x => some (ctxCsr x m)) (curCtx_modCsr s _)

theorem csrRead_abpend (s : State) :
    csrRead s 0x012 = some (pack [(8, s.curTile.step.cause.toNat), (0, s.curTile.step.pend.toNat)]) := rfl

/-- The CSRs but CALNOW, sorted by what they show. -/
theorem csr_cases {m : Nat} (h : m ∈ [0x000, 0x001, 0x002, 0x003, 0x010, 0x011, 0x012, 0x013, 0x014, 0x020, 0x021, 0x031, 0x040, 0x041,
    0x042, 0x050, 0x051, 0x052, 0x053, 0x054, 0x055, 0x060, 0x061, 0x062, 0x070]) :
    m ∈ tileCsrs ∨ m = 0x040 ∨ m = 0x055 ∨ m ∈ ctxCsrs := by
  revert m; decide

/-- TSTAT keeps its read-only fields (R30). -/
theorem tstat_put (x : BitVec 12) (v : Word) :
    (x &&& 0xFF0#12) ||| (v.setWidth 12 &&& 0xF#12) = x.extractLsb' 4 8 ++ v.extractLsb' 0 4 := by
  refine BitVec.eq_of_getLsbD_eq fun i hi => ?_
  rw [BitVec.getLsbD_append]
  interval_cases i <;> simp

/-- A write to ABPEND with bit 0 of 0 clears PEND and CAUSE; with 1 it sets PEND (R30). -/
theorem abpend_put (s : State) (v : Word) : (csrPut s 0x012 v).curTile.step =
    if v.getLsbD 0 then { s.curTile.step with pend := true } else { s.curTile.step with pend := false, cause := 0 } :=
  (congrArg Tile.step (step_modStep s s.curKey _) :)

/-- Settles O20. -/
theorem csrWriteReadsBack : Obligations.CsrWriteReadsBack := by
  intro s v hc
  refine ⟨fun n hn => ?_, ?_, fun h => ?_, fun h => ?_⟩
  · have hcases : n = 0x040 ∨ n = 0x055 ∨ (n ∈ ctxCsrs ∧ n ≠ 0x053) := by revert n; decide
    rcases hcases with rfl | rfl | ⟨hctx, h53⟩
    · obtain ⟨hsame, hother⟩ := csrRead_put_subreg s v
      refine ⟨fun _ _ _ _ _ => hsame, fun m hm hne => hother m ?_⟩
      rcases csr_cases hm with h | h | h
      · exact .inl h
      · exact absurd h hne
      · exact .inr h
    · obtain ⟨hsame, hother⟩ := csrRead_put_tvec s v
      refine ⟨fun _ _ _ _ _ => hsame, fun m hm hne => hother m ?_⟩
      rcases csr_cases hm with h | h | h | h
      · exact .inl h
      · exact .inr (.inl h)
      · exact absurd h hne
      · exact .inr (.inr h)
    · obtain ⟨hsame, hother⟩ := csrRead_put_ctx hc v hctx
      exact ⟨fun p r f hk hv => by rw [hsame, ctxCsr_ctxPut_same _ hctx h53 hk hv], fun m hm => hother m (csr_cases hm)⟩
  · rw [csrPut_ctx s v (by decide), State.curCtx_modCur _ _ hc]
    exact tstat_put _ _
  · have hstep := abpend_put s v
    simp only [h, Bool.false_eq_true, if_false] at hstep
    rw [csrRead_abpend, hstep]; simp [pack]
  · have hstep := abpend_put s v
    simp only [h, if_true] at hstep
    rw [hstep]; exact ⟨rfl, rfl⟩

end Sys2Proof.Proofs
end

section
/-! CSRR, CSRW, CSRS and CSRC (R29, R30, R123 to R125, R204). -/
namespace Sys2Proof.Proofs
open Sys2Proof Sys2Proof.Machine Sys2Proof.Claims

/-! ### The start of a meaning -/

/-- The start of a meaning changes the pair's record alone. -/
theorem curTile_started (s : State) : (started s).s.curTile = { s.curTile with twin := (started s).s.curTile.twin } := by
  have htile := modTwin_tile s s.curKey s.curKey (fun w => { w with pos := 0 })
  have hkey : (rewindTwin s s.curKey).curKey = s.curKey := rewindTwin_curKey s s.curKey
  simp only [started_s, State.curTile, hkey]
  exact htile

theorem started_rest (s : State) : (started s).s = { s with tiles := (started s).s.tiles } := (goesOn_modTwin s s.curKey s.cur.ctx _).rest

theorem started_cur (s : State) : (started s).s.cur = s.cur := rewindTwin_cur s s.curKey

theorem started_curCtx (s : State) : (started s).s.curCtx = s.curCtx := rewindTwin_curCtx s s.curKey

theorem eng_started (s : State) : (started s).s.curTile.eng = s.curTile.eng := (congrArg Tile.eng (curTile_started s) :)

theorem csr_started (s : State) : (started s).s.curTile.csr = s.curTile.csr := (congrArg Tile.csr (curTile_started s) :)

theorem started_free (s : State) : (started s).s.free = s.free := (congrArg State.free (started_rest s) :)

/-! ### Waiting for engine operations -/

theorem afterEarlier_ok {s : State} (h : s.curTile.eng.outOf s.cur.ctx = false) : afterEarlier (started s) = .ok () (started s) := by
  have hout : (started s).s.curTile.eng.outOf (started s).s.cur.ctx = false := by rw [eng_started, started_cur]; exact h
  simp only [afterEarlier, M_bind, getS_run, hout]
  rfl

theorem afterEarlier_retry {s : State} (h : s.curTile.eng.outOf s.cur.ctx = true) : afterEarlier (started s) = .error .retry (started s) := by
  have hout : (started s).s.curTile.eng.outOf (started s).s.cur.ctx = true := by rw [eng_started, started_cur]; exact h
  simp only [afterEarlier, M_bind, getS_run, hout]
  rfl

/-- A meaning that begins by waiting for engine operations waits at issue (R125, R204). -/
theorem runM_afterEarlier_retry {s : State} (f : Unit → M Unit) (h : s.curTile.eng.outOf s.cur.ctx = true) :
    runM (afterEarlier >>= f) s = .next (enterWait (started s).s .issue) := by
  have hrun : (afterEarlier >>= f) (started s) = .error .retry (started s) := by rw [M_bind, afterEarlier_retry h]
  rw [runM_retry hrun, keepSlots_none ((plain_started s).slots false)]

/-! ### CSRR -/

/-- The numbers of R29. -/
def csrNumbers : List Nat := [0x000, 0x001, 0x002, 0x003, 0x010, 0x011, 0x012, 0x013, 0x014, 0x020, 0x021, 0x030, 0x031, 0x040,
  0x041, 0x042, 0x050, 0x051, 0x052, 0x053, 0x054, 0x055, 0x060, 0x061, 0x062, 0x070]

theorem csrRead_ne_none_iff (s : State) (n : Nat) : csrRead s n ≠ none ↔ n ∈ csrNumbers := by
  unfold csrRead
  split <;> simp_all [csrNumbers]

/-- A number names a CSR in every state, or in none. -/
theorem csrRead_isSome_eq (s t : State) (n : Nat) : (csrRead s n).isSome = (csrRead t n).isSome := by
  rw [Bool.eq_iff_iff, Option.isSome_iff_ne_none, Option.isSome_iff_ne_none, csrRead_ne_none_iff, csrRead_ne_none_iff]

theorem csrOld_plain {c : BitVec 12} {w : Work} {v : Word} (iw : Word32) (hv : csrRead w.s c.toNat = some v) (hc : c ≠ 0x030) :
    csrOld c iw w = .ok v w := by
  have hne : c.toNat ≠ 0x030 := fun h => hc (BitVec.eq_of_toNat_eq h)
  simp [csrOld, hv, hne]

/-- CALNOW is read, and the counter of free values goes on. -/
theorem csrOld_calnow {c : BitVec 12} {w : Work} {v : Word} (iw : Word32) (hc : c.toNat = 0x030) (hv : csrRead w.s c.toNat = some v) :
    csrOld c iw w = .ok v { w with s := { w.s with free := w.s.free + 1 } } := by
  rw [hc] at hv
  simp [csrOld, hv, hc]

theorem roomS_reg {d : BitVec 5} {w : Work} (h : queueOf w.s.curCtx d = none) : roomS d w = .ok () w := by simp [roomS, h]

section
variable {s : State} {d : BitVec 5} {c : BitVec 12} {v : Word} (hout : s.curTile.eng.outOf s.cur.ctx = false)
include hout

theorem exec_csrr_ok {w : Work} (hc : c ≠ 0x030) (hv : csrRead (started s).s c.toNat = some v) (hd : dstS d v (started s) = .ok () w) :
    exec (.csrr d c) s = .next (completed w) := by
  refine runM_plain ?_ ((plain_started s).dstS hd)
  simp only [M_bind, afterEarlier_ok hout, csrRead_isSome_eq s (started s).s, hv, Option.isSome_some, require_true, (dstS_ok_cases hd).1,
    csrOld_plain _ hv hc, hd]

theorem exec_csrr_illegal (hv : csrRead (started s).s c.toNat = none) :
    exec (.csrr d c) s = .next (takeTrap (settled (started s).s) .illegal ((wordOf (.csrr d c)).setWidth 64)) := by
  refine runM_illegal ?_
  simp only [M_bind, afterEarlier_ok hout, csrRead_isSome_eq s (started s).s, hv, Option.isSome_none, require_false]

theorem exec_csrr_calnow (hc : c.toNat = 0x030) (hv : csrRead (started s).s c.toNat = some v) (hd : queueOf s.curCtx d = none) :
    exec (.csrr d c) s = .next (completed { s := { (started s).s with free := s.free + 1 }.modCur (fun x => x.setS d v) }) := by
  let u : Work := { started s with s := { (started s).s with free := (started s).s.free + 1 } }
  have hroom : roomS d (started s) = .ok () (started s) := roomS_reg (by rw [started_curCtx]; exact hd)
  have hdst : dstS d v u = .ok () { u with s := u.s.modCur (fun x => x.setS d v) } :=
    dstS_reg ((congrArg (queueOf · d) (started_curCtx s) :).trans hd)
  have hplain : Plain u := plain_started s
  refine (runM_plain (w := { u with s := u.s.modCur (fun x => x.setS d v) }) ?_ hplain).trans ?_
  · simp only [M_bind, afterEarlier_ok hout, csrRead_isSome_eq s (started s).s, hv, Option.isSome_some, require_true, hroom,
      csrOld_calnow _ hc hv]
    exact hdst
  · simp only [u, started_free]
    rfl

end

/-! ### The fields of the CSRs that are packed (R30) -/

/-- Digit i of a number is the i-th of its list. -/
theorem ofDigits_digit {b : Nat} {l : List Nat} (hb : 0 < b) (h : ∀ x ∈ l, x < b) {i : Nat} (hi : i < l.length) :
    Nat.ofDigits b l / b ^ i % b = l[i] := by
  rw [Nat.ofDigits_div_pow_eq_ofDigits_drop i hb l h, List.drop_eq_getElem_cons hi, Nat.ofDigits_cons, Nat.add_mul_mod_self_left]
  exact Nat.mod_eq_of_lt (h _ (List.getElem_mem hi))

/-- Fields of two bits each, from bit b on. -/
theorem foldl_pack_pairs (b : Nat) (l : List Nat) : ∀ o n, ((indexed o l).map (fun e => (b + 2 * e.1, e.2))).foldl (fun n e => n + e.2 * 2 ^ e.1) n =
    n + 2 ^ b * 4 ^ o * Nat.ofDigits 4 l := by
  induction l with
  | nil => intro o n; simp [indexed]
  | cons x l ih =>
    intro o n
    have hpow : (2 : Nat) ^ (b + 2 * o) = 2 ^ b * 4 ^ o := by rw [Nat.pow_add, Nat.pow_mul]
    simp only [indexed, List.map_cons, List.foldl_cons, ih, Nat.ofDigits_cons, Nat.pow_succ, hpow]
    ring

theorem BkStat.code_lt (x : BkStat) : x.code < 4 := by cases x <;> decide
theorem SlotState.code_lt (x : SlotState) : x.code < 4 := by cases x <;> decide

/-- BKSTAT has two bits for each handle. -/
theorem bkstat_fields (s : State) : ∃ v, csrRead s 0x031 = some v ∧
    ∀ h (hh : h < 16), v.toNat / 4 ^ h % 4 = (s.curTile.csr.books[h]).stat.code := by
  let codes := s.curTile.csr.books.toList.map (fun b => b.stat.code)
  have hlt : ∀ x ∈ codes, x < 4 := fun x hx => by
    obtain ⟨b, -, rfl⟩ := List.mem_map.mp hx
    exact BkStat.code_lt _
  have hlen : codes.length = 16 := by simp [codes]
  have hpack : csrRead s 0x031 = some (BitVec.ofNat 64 (Nat.ofDigits 4 codes)) := by
    have hfields : csrRead s 0x031 = some (pack ((indexed 0 codes).map fun e => (0 + 2 * e.1, e.2))) := by
      simp only [codes, indexed_map, List.map_map, Nat.zero_add]; rfl
    rw [hfields, pack, foldl_pack_pairs]; simp
  have hbound : Nat.ofDigits 4 codes < 2 ^ 32 :=
    lt_of_lt_of_eq (Nat.ofDigits_lt_base_pow_length (by decide) hlt) (by rw [hlen]; norm_num)
  refine ⟨_, hpack, fun h hh => ?_⟩
  rw [BitVec.toNat_ofNat, Nat.mod_eq_of_lt (hbound.trans (by norm_num)), ofDigits_digit (by decide) hlt (by rw [hlen]; exact hh)]
  simp [codes]

/-- ACCST has HEAD and two bits for each slot. -/
theorem accst_fields (s : State) : ∃ v, csrRead s 0x062 = some v ∧ v.toNat % 8 = s.curTile.eng.head.toNat ∧
    ∀ a (ha : a < 8), v.toNat / 2 ^ (8 + 2 * a) % 4 = (s.curTile.eng.acc[a]).st.code := by
  let codes := s.curTile.eng.acc.toList.map (fun x => x.st.code)
  have hlt : ∀ x ∈ codes, x < 4 := fun x hx => by
    obtain ⟨b, -, rfl⟩ := List.mem_map.mp hx
    exact SlotState.code_lt _
  have hlen : codes.length = 8 := by simp [codes]
  have hpack : csrRead s 0x062 = some (BitVec.ofNat 64 (s.curTile.eng.head.toNat + 2 ^ 8 * Nat.ofDigits 4 codes)) := by
    have hfields : csrRead s 0x062 = some (pack ((0, s.curTile.eng.head.toNat) :: (indexed 0 codes).map fun e => (8 + 2 * e.1, e.2))) := by
      simp only [codes, indexed_map, List.map_map]; rfl
    rw [hfields, pack, List.foldl_cons, foldl_pack_pairs]; simp
  have hbound : Nat.ofDigits 4 codes < 2 ^ 16 :=
    lt_of_lt_of_eq (Nat.ofDigits_lt_base_pow_length (by decide) hlt) (by rw [hlen]; norm_num)
  have hhead : s.curTile.eng.head.toNat < 8 := s.curTile.eng.head.isLt
  have hnat : (BitVec.ofNat 64 (s.curTile.eng.head.toNat + 2 ^ 8 * Nat.ofDigits 4 codes)).toNat =
      s.curTile.eng.head.toNat + 2 ^ 8 * Nat.ofDigits 4 codes := by
    rw [BitVec.toNat_ofNat]; omega
  refine ⟨_, hpack, by rw [hnat]; omega, fun a ha => ?_⟩
  rw [hnat, Nat.pow_add, Nat.pow_mul, ← Nat.div_div_eq_div_mul,
    show (s.curTile.eng.head.toNat + 2 ^ 8 * Nat.ofDigits 4 codes) / 2 ^ 8 = Nat.ofDigits 4 codes by omega,
    show (2 : Nat) ^ 2 = 4 from rfl, ofDigits_digit (by decide) hlt (by rw [hlen]; exact ha)]
  simp [codes]

/-- The bits of HSTAT of contexts from o on. -/
theorem foldl_hstat (l : List CtxState) : ∀ o n, 0 < o → ((indexed o l).flatMap fun e =>
      if e.1 = 0 then [] else [(e.1, (decide (e.2 = .live)).toNat), (16 + e.1, (decide (e.2 = .faulted)).toNat)]).foldl
        (fun n e => n + e.2 * 2 ^ e.1) n =
    n + 2 ^ o * Nat.ofDigits 2 (l.map fun x => (decide (x = CtxState.live)).toNat) +
      2 ^ (16 + o) * Nat.ofDigits 2 (l.map fun x => (decide (x = CtxState.faulted)).toNat) := by
  induction l with
  | nil => intro o n _; simp [indexed]
  | cons x l ih =>
    intro o n ho
    simp only [indexed, List.flatMap_cons, List.foldl_append, if_neg (Nat.ne_of_gt ho), List.foldl_cons, List.foldl_nil,
      ih _ _ (Nat.succ_pos o), List.map_cons, Nat.ofDigits_cons, Nat.pow_succ, Nat.pow_add]
    ring

/-- A number of two runs of ten bits, as HSTAT has them, and its bits. -/
theorem two_runs_bits {m n : Nat} (hm : m < 2 ^ 10) (hn : n < 2 ^ 10) :
    let v := BitVec.ofNat 64 (2 * m + 2 ^ 17 * n)
    v.toNat < 2 ^ 27 ∧ v.getLsbD 0 = false ∧
      ∀ j < 10, (v.getLsbD (j + 1) = decide (m / 2 ^ j % 2 = 1)) ∧ (v.getLsbD (16 + (j + 1)) = decide (n / 2 ^ j % 2 = 1)) := by
  intro v
  have hnat : v.toNat = 2 * m + 2 ^ 17 * n := by rw [BitVec.toNat_ofNat]; omega
  have hbit (i : Nat) : v.getLsbD i = decide ((2 * m + 2 ^ 17 * n) / 2 ^ i % 2 = 1) := by rw [← bits_one_eq_getLsbD, hnat]; rfl
  refine ⟨by omega, ?_, fun j hj => ⟨?_, ?_⟩⟩
  · rw [hbit]; simp; omega
  · rw [hbit]
    refine decide_eq_decide.mpr ?_
    interval_cases j <;> omega
  · rw [hbit]
    refine decide_eq_decide.mpr ?_
    interval_cases j <;> omega

/-- A digit of a list of truth values. -/
theorem ofDigits_two_bit (p : CtxState → Bool) {l : List CtxState} {j : Nat} (hj : j < l.length) :
    decide (Nat.ofDigits 2 (l.map fun x => (p x).toNat) / 2 ^ j % 2 = 1) = p l[j] := by
  rw [ofDigits_digit (by decide) (fun x hx => ?_) (by simpa using hj)]
  · cases h : p l[j] <;> simp [h]
  · obtain ⟨y, -, rfl⟩ := List.mem_map.mp hx
    exact Bool.toNat_lt _

theorem ofDigits_two_lt (p : CtxState → Bool) (l : List CtxState) : Nat.ofDigits 2 (l.map fun x => (p x).toNat) < 2 ^ l.length := by
  refine lt_of_lt_of_eq (Nat.ofDigits_lt_base_pow_length (by decide) fun x hx => ?_) (by rw [List.length_map])
  obtain ⟨y, -, rfl⟩ := List.mem_map.mp hx
  exact Bool.toNat_lt _

/-- HSTAT has a bit for each helper that is LIVE, and one for each that is FAULTED. -/
theorem hstat_fields (s : State) : ∃ v, csrRead s 0x060 = some v ∧ v.toNat < 2 ^ 27 ∧ v.getLsbD 0 = false ∧ ∀ c, 1 ≤ c → c ≤ 10 →
    (v.getLsbD c = true ↔ (s.curTile.ctx c).st = .live) ∧ (v.getLsbD (16 + c) = true ↔ (s.curTile.ctx c).st = .faulted) := by
  obtain ⟨x, l, hl⟩ : ∃ x l, s.curTile.ctxs.toList.map Ctx.st = x :: l := by
    match h : s.curTile.ctxs.toList.map Ctx.st with
    | [] => simp at h
    | x :: l => exact ⟨x, l, rfl⟩
  have hlen : l.length = 10 := by simpa using (congrArg List.length hl).symm
  have hst {j : Nat} (hj : j < 10) : (s.curTile.ctx (j + 1)).st = l[j] := by
    have hget : (s.curTile.ctxs.toList.map Ctx.st)[j + 1]? = some l[j] := by rw [hl]; simp [hlen, hj]
    have hlt : j + 1 < 11 := by omega
    simpa [Tile.ctx, hlt] using hget
  have hpack : csrRead s 0x060 = some (BitVec.ofNat 64 (2 * Nat.ofDigits 2 (l.map fun x => (decide (x = CtxState.live)).toNat) +
      2 ^ 17 * Nat.ofDigits 2 (l.map fun x => (decide (x = CtxState.faulted)).toNat))) := by
    rw [csrRead_hstat, hl, hstatFields, pack, indexed, List.flatMap_cons, if_pos rfl, List.nil_append, foldl_hstat _ _ _ (by decide)]
    simp
  obtain ⟨hlt, h0, hbits⟩ := two_runs_bits (hlen ▸ ofDigits_two_lt (fun x => decide (x = CtxState.live)) l)
    (hlen ▸ ofDigits_two_lt (fun x => decide (x = CtxState.faulted)) l)
  refine ⟨_, hpack, hlt, h0, fun c hc1 hc10 => ?_⟩
  obtain ⟨j, rfl⟩ : ∃ j, c = j + 1 := ⟨c - 1, by omega⟩
  have hj : j < 10 := by omega
  obtain ⟨hlive, hfault⟩ := hbits j hj
  rw [hlive, hfault, ofDigits_two_bit (fun x => decide (x = CtxState.live)) (by rw [hlen]; exact hj),
    ofDigits_two_bit (fun x => decide (x = CtxState.faulted)) (by rw [hlen]; exact hj), hst hj, decide_eq_true_eq, decide_eq_true_eq]
  exact ⟨Iff.rfl, Iff.rfl⟩

theorem calnow_slot (s : State) : ∃ v, csrRead s 0x030 = some v ∧ v.toNat / 2 ^ 9 = s.curTile.csr.slot % 64 := by
  have hcycle : (Config.freeCycle s.free).toNat < 512 := (Config.freeCycle s.free).isLt
  refine ⟨_, rfl, ?_⟩
  simp only [pack, List.foldl_cons, List.foldl_nil, BitVec.toNat_ofNat]
  show (0 + s.curTile.csr.slot % 64 * 2 ^ 9 + (Config.freeCycle s.free).toNat * 2 ^ 0) % 2 ^ 64 / 2 ^ 9 = _
  omega

theorem pack_pair (i a b : Nat) : pack [(i, a), (0, b)] = BitVec.ofNat 64 (a * 2 ^ i + b) := by simp [pack]

theorem pack_triple (i j a b c : Nat) : pack [(i, a), (j, b), (0, c)] = BitVec.ofNat 64 (a * 2 ^ i + b * 2 ^ j + c) := by simp [pack]

/-- CSRR: what it reads, where its value goes, and the numbers that are ILLEGAL. -/
theorem csrReads : CsrReads := by
  refine ⟨fun s d c v w hout hc hv hd => exec_csrr_ok hout hc hv hd, fun s d c v hout hc hv hd => ?_, fun s d hout hd => ?_,
    fun s d c hout hv => exec_csrr_illegal hout hv, fun s => ?_⟩
  · exact exec_csrr_ok hout hc hv (dstS_reg (by rw [started_curCtx]; exact hd))
  · obtain ⟨v, hv, hslot⟩ := calnow_slot (started s).s
    exact ⟨v, exec_csrr_calnow hout rfl hv hd, by rw [hslot, csr_started]⟩
  · refine ⟨rfl, rfl, ?_, rfl, rfl, ?_, ?_, ?_, rfl, ?_, ?_, bkstat_fields s, rfl, rfl, rfl, rfl, rfl, rfl, rfl, rfl, rfl, hstat_fields s, rfl,
      accst_fields s, rfl, csrRead_ne_none_iff s⟩
    · cases hw : s.curTile.work with
      | none =>
        have hw' : (s.tile s.curKey).work = none := hw
        simp only [csrRead, hw']
      | some u =>
        have hw' : (s.tile s.curKey).work = some u := hw
        simp only [csrRead, hw', pack_pair]
        rfl
    · exact congrArg some (pack_triple _ _ _ _ _)
    · exact congrArg some (pack_pair _ _ _)
    · exact congrArg some (pack_pair _ _ _)
    · exact congrArg some (pack_triple _ _ _ _ _)
    · exact congrArg some (pack_pair _ _ _)

/-! ### CSRW, CSRS and CSRC -/

theorem exec_csrForm {d a : BitVec 5} {c : BitVec 12} {e : Instr × (Word → Word → Word)} (h : e ∈ csrForms d a c) (s : State) :
    exec e.1 s = runM (csrWrite e.2 d a c (wordOf e.1)) s := by
  simp only [csrForms, List.mem_cons, List.not_mem_nil, or_false] at h
  rcases h with rfl | rfl | rfl <;> rfl

/-- The end of a write: the old value goes to S[d], and the CSR takes its value. -/
def csrStore (d : BitVec 5) (c : BitVec 12) (old v : Word) : M Unit := dstS d old >>= fun _ => modS fun s => csrPut s c.toNat v

section
variable {s : State} {d a : BitVec 5} {c : BitVec 12} (iw : Word32) (f : Word → Word → Word) {perTile : Bool} {reserved fixed x old : Word} {w1 : Work}
  (hout : s.curTile.eng.outOf s.cur.ctx = false)
include hout

/-- A number that is not read-write. -/
theorem runM_csrWrite_unknown (hkind : csrKind c.toNat = none) :
    runM (csrWrite f d a c iw) s = .next (takeTrap (settled (started s).s) .illegal (iw.setWidth 64)) := by
  refine runM_illegal ?_
  simp only [csrWrite, M_bind, afterEarlier_ok hout, hkind]
  rfl

variable (hkind : csrKind c.toNat = some (perTile, reserved, fixed)) (hx : srcS a (started s) = .ok x w1)
  (hold : csrRead w1.s c.toNat = some old)
include hkind hx hold

/-- A reserved bit that would become 1, or a rounding mode above 4. -/
theorem runM_csrWrite_illegal (h : f old x &&& reserved ≠ 0 ∨ c = 0x042 ∧ 4 < (f old x &&& 7).toNat) :
    runM (csrWrite f d a c iw) s = .next (takeTrap (settled w1.s) .illegal (iw.setWidth 64)) := by
  refine runM_trap (w := w1) ?_ (by decide)
  simp only [csrWrite, M_bind, afterEarlier_ok hout, hkind, hx, getS_run, hold, Option.getD_some]
  by_cases hres : f old x &&& reserved = 0
  · obtain ⟨hc, hround⟩ := h.resolve_left (fun hne => hne hres)
    have hnum : c.toNat = 0x042 := by rw [hc]; rfl
    have hbad : (!(decide (c.toNat = 0x042) && decide (4 < (f old x &&& 7).toNat))) = false := by
      rw [decide_eq_true hnum, decide_eq_true hround]; rfl
    simp only [hres, beq_self_eq_true, require_true, hbad, require_false]
  · simp only [beq_eq_false_iff_ne.mpr hres, require_false]

variable (hres : f old x &&& reserved = 0) (hround : c = 0x042 → (f old x &&& 7).toNat ≤ 4)
include hres hround

/-- The checks that come before CTXPRIV pass. -/
theorem csrWrite_checked : csrWrite f d a c iw (started s) =
    (if perTile = true ∧ w1.s.cur.ctx ≠ 0 then ctxpriv 1 iw >>= fun _ : Unit => csrStore d c old ((f old x &&& ~~~fixed) ||| (old &&& fixed))
      else csrStore d c old ((f old x &&& ~~~fixed) ||| (old &&& fixed)) : M Unit) w1 := by
  have hgood : (!(decide (c.toNat = 0x042) && decide (4 < (f old x &&& 7).toNat))) = true := by
    by_cases hc : c = 0x042
    · have hle : ¬ 4 < (f old x &&& 7).toNat := Nat.not_lt.mpr (hround hc)
      rw [decide_eq_false hle, Bool.and_false]; rfl
    · have hne : c.toNat ≠ 0x042 := fun h => hc (BitVec.eq_of_toNat_eq h)
      simp [hne]
  simp only [csrWrite, M_bind, afterEarlier_ok hout, hkind, hx, getS_run, hold, Option.getD_some, hres, beq_self_eq_true, require_true, hgood]
  rfl

/-- A per-tile CSR written by a helper. -/
theorem runM_csrWrite_ctxpriv (hpt : perTile = true) (hctx : s.cur.ctx ≠ 0) :
    runM (csrWrite f d a c iw) s = .next (takeTrap (settled w1.s) .ctxpriv (1#32 ++ iw)) := by
  refine runM_trap (w := w1) ?_ (by decide)
  have hcur : w1.s.cur.ctx ≠ 0 := by rw [srcS_ok_s hx, started_cur]; exact hctx
  rw [csrWrite_checked iw f hout hkind hx hold hres hround, if_pos ⟨hpt, hcur⟩]
  rfl

/-- The write completes, once the old value has its place. -/
theorem runM_csrWrite_ok (hpriv : perTile = true → s.cur.ctx = 0) {w2 : Work} (hd : dstS d old w1 = .ok () w2) :
    runM (csrWrite f d a c iw) s = .next (completed { w2 with s := csrPut w2.s c.toNat ((f old x &&& ~~~fixed) ||| (old &&& fixed)) }) := by
  have hplain : Plain w2 := ((plain_started s).srcS hx).dstS hd
  have hcur : ¬ (perTile = true ∧ w1.s.cur.ctx ≠ 0) := by rw [srcS_ok_s hx, started_cur]; exact fun h => h.2 (hpriv h.1)
  refine runM_plain ?_ (w := { w2 with s := csrPut w2.s c.toNat ((f old x &&& ~~~fixed) ||| (old &&& fixed)) }) hplain
  rw [csrWrite_checked iw f hout hkind hx hold hres hround, if_neg hcur]
  simp only [csrStore, M_bind, hd, modS_run]

end

theorem csrKind_eq (n : Nat) : csrKind n = if n = 0x012 then some (true, 0xFFFFFFFFFFFF00FE, 0xFF00) else if n = 0x040 then some (true, 0x3FE, 0)
    else if n = 0x041 ∨ n = 0x042 ∨ n = 0x050 then some (false, 0xFFFFFFFFFFFFFF00, 0) else if n = 0x051 ∨ n = 0x052 then some (false, 0, 0)
    else if n = 0x053 then some (false, 0xFFFFFFFFFFFFF000, 0xFF0) else if n = 0x054 then some (false, 0xFFFFFFFFFFFFC0F0, 0)
    else if n = 0x055 then some (true, 3, 0) else if n = 0x061 then some (false, 0xFFFFFFFFFFFFFF70, 0) else none := by
  unfold csrKind
  split <;> simp_all

/-- CSRW, CSRS and CSRC: the write, and what stops it. -/
theorem csrWrites : CsrWrites := by
  refine ⟨fun s d a c hout e he => ⟨fun perTile reserved fixed x old w1 hkind hx hold => ?_, fun hkind => ?_⟩, csrKind_eq⟩
  · rw [exec_csrForm he]
    refine ⟨runM_csrWrite_illegal _ _ hout hkind hx hold, runM_csrWrite_ctxpriv _ _ hout hkind hx hold, fun hres hround hpriv w2 hd =>
      runM_csrWrite_ok _ _ hout hkind hx hold hres hround hpriv hd, fun hres hround hpriv ha hd => ?_⟩
    rw [srcS_reg (by rw [started_curCtx]; exact ha)] at hx
    cases hx
    exact ⟨by rw [started_curCtx], runM_csrWrite_ok _ _ hout hkind (srcS_reg (by rw [started_curCtx]; exact ha)) hold hres hround hpriv
      (dstS_reg (by rw [started_curCtx]; exact hd))⟩
  · rw [exec_csrForm he]
    exact runM_csrWrite_unknown _ _ hout hkind

/-- Each waits for the engine operations that its context issued earlier. -/
theorem csrWaits : CsrWaits := by
  intro s d a c hout i hi
  simp only [List.mem_cons, List.not_mem_nil, or_false] at hi
  rcases hi with rfl | rfl | rfl | rfl
  · exact runM_afterEarlier_retry _ hout
  · exact runM_afterEarlier_retry _ hout
  · exact runM_afterEarlier_retry _ hout
  · exact runM_afterEarlier_retry _ hout

theorem csrKind_some_read {n : Nat} {e : Bool × Word × Word} (s : State) (h : csrKind n = some e) : ∃ v, csrRead s n = some v := by
  refine Option.ne_none_iff_exists'.mp ((csrRead_ne_none_iff s n).mpr ?_)
  unfold csrKind at h
  split at h <;> simp_all [csrNumbers]

/-- The scalar registers of a context stay when its instruction completes. -/
theorem s_completed {w : Work} (hc : w.s.cur.ctx < 11) (h : Plain w) : (completed w).curCtx.s = w.s.curCtx.s := by
  obtain ⟨hgoes, -⟩ := goesOn_completed hc h
  have hself : (completed w).curCtx = (completed w).ctx w.s.curKey w.s.cur.ctx := by
    show (completed w).ctx (completed w).curKey (completed w).cur.ctx = _; rw [hgoes.curKey, hgoes.cur]
  exact (congrArg Ctx.s (hself.trans hgoes.ctx) :)

/-- With plain scalar registers they complete. -/
theorem csrFormsComplete : CsrFormsComplete := by
  intro s d a c hout ha hd
  have hdst (v : Word) : dstS d v (started s) = .ok () { started s with s := (started s).s.modCur (fun x => x.setS d v) } :=
    dstS_reg (by rw [started_curCtx]; exact hd)
  have hread : srcS a (started s) = .ok (s.curCtx.sreg a) (started s) := by
    rw [srcS_reg (by rw [started_curCtx]; exact ha), started_curCtx]
  refine ⟨fun hc => ?_, fun perTile reserved fixed hkind => ?_⟩
  · obtain ⟨v, hv⟩ := Option.ne_none_iff_exists'.mp ((csrRead_ne_none_iff (started s).s c.toNat).mpr hc)
    by_cases h30 : c = 0x030
    · subst h30
      exact ⟨_, exec_csrr_calnow hout rfl hv hd, fun h => absurd rfl h⟩
    · refine ⟨_, exec_csrr_ok hout h30 hv (hdst v), fun _ hlt => ?_⟩
      rw [hv]
      have hcur : (started s).s.cur.ctx < 11 := by rw [started_cur]; exact hlt
      let w : Work := { started s with s := (started s).s.modCur (fun x => x.setS d v) }
      have hend : (completed w).curCtx.s = ((started s).s.curCtx.setS d v).s := by
        rw [← State.curCtx_modCur _ (fun x => x.setS d v) hcur]
        exact s_completed (w := w) hcur (plain_started s)
      have hreg : (completed w).curCtx.sreg d = ((started s).s.curCtx.setS d v).sreg d := by rw [Ctx.sreg, hend]; rfl
      by_cases h0 : d = 0
      · rw [h0, Ctx.sreg_zero, if_pos rfl]
      · rw [hreg, Ctx.sreg_setS, if_pos ⟨rfl, h0⟩, if_neg h0]
  · obtain ⟨old, hold⟩ := csrKind_some_read (started s).s hkind
    refine ⟨old, hold, fun e he => ?_⟩
    intro new hres hround hpriv
    rw [exec_csrForm he]
    exact runM_csrWrite_ok _ _ hout hkind hread hold hres hround hpriv (hdst old)

/-- Settles O19. -/
theorem csrReadsAndWrites : Obligations.CsrReadsAndWrites := ⟨csrReads, csrWrites, csrWaits, csrFormsComplete⟩

end Sys2Proof.Proofs
end

section
/-! What a tile does when its superstep commits (R277, R284). -/
namespace Sys2Proof.Proofs
open Sys2Proof Sys2Proof.Machine Sys2Proof.Claims

/-! ### Bytes of a line -/

theorem natOfBytes_eq_ofDigits (l : List Byte) : natOfBytes l = Nat.ofDigits 256 (l.map BitVec.toNat) := by
  induction l with
  | nil => rfl
  | cons b l ih => simp [natOfBytes, ih, Nat.ofDigits_cons]

theorem toNat_ofNat_of_lt {w n : Nat} (h : n < 2 ^ w) : (BitVec.ofNat w n).toNat = n := by rw [BitVec.toNat_ofNat, Nat.mod_eq_of_lt h]

/-- A byte of a line that bytes make up. -/
theorem vecByte_natOfBytes {l : List Byte} (hl : l.length = 64) {i : Nat} (hi : i < 64) :
    vecByte (BitVec.ofNat 512 (natOfBytes l)) i = l[i] := by
  have hdigits : ∀ x ∈ l.map BitVec.toNat, x < 256 := fun x hx => by
    obtain ⟨b, -, rfl⟩ := List.mem_map.mp hx
    exact b.isLt
  have hsize : (256 : Nat) ^ 64 = 2 ^ 512 := by rw [show 512 = 8 * 64 from rfl, Nat.pow_mul]
  have hbound : natOfBytes l < 2 ^ 512 := by
    rw [natOfBytes_eq_ofDigits, ← hsize, ← hl, ← List.length_map (f := BitVec.toNat)]
    exact Nat.ofDigits_lt_base_pow_length (by decide) hdigits
  have hnat : (BitVec.ofNat 512 (natOfBytes l)).toNat = natOfBytes l := toNat_ofNat_of_lt hbound
  have hpow : (2 : Nat) ^ (8 * i) = 256 ^ i := by rw [Nat.pow_mul]
  apply BitVec.eq_of_toNat_eq
  rw [vecByte, BitVec.extractLsb'_toNat, hnat, Nat.shiftRight_eq_div_pow, hpow, natOfBytes_eq_ofDigits]
  exact (ofDigits_digit (by decide) hdigits (by simpa [hl] using hi)).trans (by simp)

theorem vecByte_retainedLine (s : State) (k line : Nat) {i : Nat} (hi : i < 64) :
    vecByte (retainedLine s k line) i = Memory.read s.mem (lineKey k line + i) := by
  rw [retainedLine, vecByte_natOfBytes (by simp [Memory.readN]) hi]
  simp [Memory.readN]

/-! ### Lines of a tile -/

/-- Two lines of a tile share no byte. -/
theorem lineKey_disjoint {k l m i j : Nat} (hi : i < 64) (hj : j < 64) (h : lineKey k l + i = lineKey k m + j) : l = m := by
  have ht : tileId k < 1024 := Nat.mod_lt _ (by decide)
  unfold lineKey spadKey vaultKey at h
  split at h <;> split at h <;> omega

/-! ### The merge of deltas (R284) -/

/-- A byte of a kept line as its deltas leave it. -/
def mergedByte (l : Option LocalDelta) (r : Option RemoteDelta) (i : Nat) (old : Byte) : Byte :=
  let own : Byte := match l with
    | some d => vecByte d.data i
    | none => old
  match r with
  | some d => if d.last.getLsbD i then vecByte d.data i else own
  | none => own

/-- What has been merged once is merged. -/
theorem mergedByte_idem (l : Option LocalDelta) (r : Option RemoteDelta) (i : Nat) (old : Byte) :
    mergedByte l r i (mergedByte l r i old) = mergedByte l r i old := by
  cases l with
  | some d => rfl
  | none =>
    cases r with
    | none => rfl
    | some d =>
      simp only [mergedByte]
      split <;> rfl

theorem mergedLine_eq (old : Vec) (l : Option LocalDelta) (r : Option RemoteDelta) :
    mergedLine old l r = (List.range 64).map fun i => mergedByte l r i (vecByte old i) := by
  cases l <;> cases r <;> rfl

/-- A line of a tile's memory takes what its deltas hold. -/
def mergeMem (k : Nat) (st : Step) (s : State) (line : Nat) : Memory :=
  Memory.writeN s.mem (lineKey k line) (mergedLine (retainedLine s k line) (Map.get? st.locals line) (Map.get? st.remotes line))

/-- The full words of the tile with those of a line's local delta. -/
def mergeWords (k : Nat) (st : Step) (full : List Nat) (line : Nat) : List Nat :=
  match Map.get? st.locals line with
  | some d => if line < 8192 then mergeFull d.fe (lineKey k line) full else full
  | none => full

/-- The merge of one line. -/
def mergeOne (k : Nat) (st : Step) (s : State) (line : Nat) : State :=
  { s with mem := mergeMem k st s line, full := mergeWords k st s.full line }

theorem mergeDeltas_eq (s : State) (k : Nat) : mergeDeltas s k =
    ((((s.tile k).step.locals.map (fun e => e.1) ++ (s.tile k).step.remotes.map (fun e => e.1)).foldl insertNat []).foldl
      (mergeOne k (s.tile k).step) s).modStep k (fun st => { st with locals := [], remotes := [] }) := by
  unfold mergeDeltas
  refine congrArg (fun f : State → Nat → State => (List.foldl f s _).modStep k _) (funext fun s' => funext fun line => ?_)
  cases hl : Map.get? (s.tile k).step.locals line with
  | none => simp only [mergeOne, mergeWords, mergeMem, hl]
  | some d => by_cases hlt : line < 8192 <;> simp only [mergeOne, mergeWords, mergeMem, hl, hlt, if_true, if_false]

theorem mergeMem_read (k : Nat) (st : Step) (s : State) (line : Nat) (hwf : s.mem.wf = true) (l : Nat) {i : Nat} (hi : i < 64) :
    Memory.read (mergeMem k st s line) (lineKey k l + i) =
      if line = l then mergedByte (Map.get? st.locals l) (Map.get? st.remotes l) i (Memory.read s.mem (lineKey k l + i))
      else Memory.read s.mem (lineKey k l + i) := by
  unfold mergeMem
  split
  next h =>
    subst h
    rw [Memory.read_writeN_same _ _ i (by simp [mergedLine_eq, hi]) hwf]
    simp [mergedLine_eq, vecByte_retainedLine s k line hi]
  next h =>
    refine Memory.read_writeN_other _ _ _ _ ?_
    have hlen : (mergedLine (retainedLine s k line) (Map.get? st.locals line) (Map.get? st.remotes line)).length = 64 := by simp [mergedLine_eq]
    rw [hlen]
    by_contra hin
    exact h (lineKey_disjoint (i := lineKey k l + i - lineKey k line) (k := k) (by omega) hi (by omega))

theorem mergeMem_read_other (k : Nat) (st : Step) (s : State) (line : Nat) {a : Nat} (h : ∀ i < 64, a ≠ lineKey k line + i) :
    Memory.read (mergeMem k st s line) a = Memory.read s.mem a := by
  refine Memory.read_writeN_other _ _ _ _ ?_
  have hlen : (mergedLine (retainedLine s k line) (Map.get? st.locals line) (Map.get? st.remotes line)).length = 64 := by simp [mergedLine_eq]
  rw [hlen]
  by_contra hin
  exact h (a - lineKey k line) (by omega) (by omega)

/-! ### Full words -/

theorem mem_insertNat (l : List Nat) (a b : Nat) : b ∈ insertNat l a ↔ b = a ∨ b ∈ l := by
  induction l with
  | nil => simp [insertNat]
  | cons c l ih =>
    simp only [insertNat]
    split
    · rw [List.mem_cons]
    · split
      next h => subst h; simp
      next => rw [List.mem_cons, ih, List.mem_cons]; exact or_left_comm

theorem mem_removeNat (l : List Nat) (a b : Nat) : b ∈ removeNat l a ↔ b ≠ a ∧ b ∈ l := by
  rw [removeNat, List.mem_filter, bne_iff_ne, and_comm]

theorem mem_foldl_insertNat (l : List Nat) (a : Nat) : ∀ m : List Nat, a ∈ l.foldl insertNat m ↔ a ∈ m ∨ a ∈ l := by
  induction l with
  | nil => intro m; simp
  | cons x l ih =>
    intro m
    rw [List.foldl_cons, ih, mem_insertNat, List.mem_cons, or_comm (a := a = x), or_assoc]

/-- One word of a line takes the bit of its delta. -/
def mergeWord (fe : BitVec 16) (a : Nat) (full : List Nat) (i : Nat) : List Nat :=
  if fe.getLsbD i then insertNat full (a + 4 * i) else removeNat full (a + 4 * i)

theorem contains_mergeWord (fe : BitVec 16) (a : Nat) (full : List Nat) (i b : Nat) :
    (mergeWord fe a full i).contains b = if b = a + 4 * i then fe.getLsbD i else full.contains b := by
  rw [Bool.eq_iff_iff, List.contains_iff_mem, mergeWord]
  cases fe.getLsbD i with
  | true =>
    rw [if_pos rfl, mem_insertNat]
    by_cases hb : b = a + 4 * i <;> simp [hb]
  | false =>
    rw [if_neg Bool.false_ne_true, mem_removeNat]
    by_cases hb : b = a + 4 * i <;> simp [hb]

theorem contains_mergeFull (fe : BitVec 16) (a : Nat) {j : Nat} (full : List Nat) (hj : j < 16) :
    (mergeFull fe a full).contains (a + 4 * j) = fe.getLsbD j := by
  have hlist (l : List Nat) : ∀ full : List Nat,
      (l.foldl (mergeWord fe a) full).contains (a + 4 * j) = if j ∈ l then fe.getLsbD j else full.contains (a + 4 * j) := by
    induction l with
    | nil => intro full; simp
    | cons i l ih =>
      intro full
      rw [List.foldl_cons, ih, contains_mergeWord]
      by_cases hl : j ∈ l
      · simp [hl]
      · by_cases hij : j = i
        · simp [hij]
        · have hne : ¬ a + 4 * j = a + 4 * i := by omega
          simp [hl, hij]
  exact (hlist _ full).trans (if_pos (List.mem_range.mpr hj))

theorem contains_mergeFull_other (fe : BitVec 16) (a : Nat) {b : Nat} (full : List Nat) (hb : ∀ i < 16, b ≠ a + 4 * i) :
    (mergeFull fe a full).contains b = full.contains b := by
  have hlist (l : List Nat) : (∀ i ∈ l, i < 16) → ∀ full : List Nat, (l.foldl (mergeWord fe a) full).contains b = full.contains b := by
    induction l with
    | nil => intro _ full; rfl
    | cons i l ih =>
      intro h full
      rw [List.foldl_cons, ih (fun j hj => h j (List.mem_cons_of_mem _ hj)), contains_mergeWord, if_neg (hb i (h i List.mem_cons_self))]
  exact hlist _ (fun i hi => List.mem_range.mp hi) full

theorem contains_mergeWords (k : Nat) (st : Step) (full : List Nat) (line l : Nat) {d : LocalDelta} (hd : Map.get? st.locals l = some d)
    (hl : l < 8192) {i : Nat} (hi : i < 16) : (mergeWords k st full line).contains (lineKey k l + 4 * i) =
      if line = l then d.fe.getLsbD i else full.contains (lineKey k l + 4 * i) := by
  by_cases h : line = l
  · subst h
    simp only [mergeWords, hd, hl, if_true]
    exact contains_mergeFull _ _ _ hi
  · rw [if_neg h]
    unfold mergeWords
    split
    · split
      · exact contains_mergeFull_other _ _ _ fun j hj heq => h (lineKey_disjoint (by omega) (by omega) heq).symm
      · rfl
    · rfl

/-! ### The merge of several lines -/

section
variable (k : Nat) (st : Step)

theorem mergeAll_rest (lines : List Nat) : ∀ s : State, lines.foldl (mergeOne k st) s = { s with
    mem := (lines.foldl (mergeOne k st) s).mem, full := (lines.foldl (mergeOne k st) s).full } := by
  induction lines with
  | nil => intro s; rfl
  | cons l lines ih => intro s; rw [List.foldl_cons, ih]; rfl

theorem mergeAll_read (lines : List Nat) (l : Nat) {i : Nat} (hi : i < 64) : ∀ s : State, s.mem.wf = true →
    Memory.read (lines.foldl (mergeOne k st) s).mem (lineKey k l + i) =
      if l ∈ lines then mergedByte (Map.get? st.locals l) (Map.get? st.remotes l) i (Memory.read s.mem (lineKey k l + i))
      else Memory.read s.mem (lineKey k l + i) := by
  induction lines with
  | nil => intro s _; simp
  | cons x lines ih =>
    intro s hwf
    have hone : Memory.read (mergeOne k st s x).mem (lineKey k l + i) = _ := mergeMem_read k st s x hwf l hi
    rw [List.foldl_cons, ih _ (Memory.writeN_wf _ _ hwf), hone]
    by_cases hx : x = l
    · by_cases hl : l ∈ lines
      · simp [hx, hl, mergedByte_idem]
      · simp [hx, hl]
    · have hne : ¬ l = x := fun h => hx h.symm
      simp [hx, hne]

theorem mergeAll_read_other (lines : List Nat) {a : Nat} (h : ∀ l ∈ lines, ∀ i < 64, a ≠ lineKey k l + i) : ∀ s : State,
    Memory.read (lines.foldl (mergeOne k st) s).mem a = Memory.read s.mem a := by
  induction lines with
  | nil => intro s; rfl
  | cons x lines ih =>
    intro s
    rw [List.foldl_cons, ih (fun l hl => h l (List.mem_cons_of_mem _ hl))]
    exact mergeMem_read_other k st s x (h x List.mem_cons_self)

theorem mergeAll_contains (lines : List Nat) {l : Nat} {d : LocalDelta} (hd : Map.get? st.locals l = some d) (hlt : l < 8192)
    {i : Nat} (hi : i < 16) : ∀ s : State, (lines.foldl (mergeOne k st) s).full.contains (lineKey k l + 4 * i) =
      if l ∈ lines then d.fe.getLsbD i else s.full.contains (lineKey k l + 4 * i) := by
  induction lines with
  | nil => intro s; simp
  | cons x lines ih =>
    intro s
    have hone : (mergeOne k st s x).full.contains (lineKey k l + 4 * i) = _ := contains_mergeWords k st s.full x l hd hlt hi
    rw [List.foldl_cons, ih, hone]
    by_cases hl : l ∈ lines
    · simp [hl]
    · by_cases hx : x = l
      · simp [hx]
      · have hne : ¬ l = x := fun h => hx h.symm
        simp [hl, hx, hne]

end

/-! ### The deltas of a tile, merged -/

theorem get?_ne_none_iff {α : Type} (m : Map α) (k : Nat) : Map.get? m k ≠ none ↔ k ∈ m.map (fun e => e.1) := by
  induction m with
  | nil => simp [Map.get?]
  | cons e m ih =>
    simp only [Map.get?, List.map_cons, List.mem_cons]
    split
    next h => simp [h]
    next h =>
      have hne : ¬ k = e.1 := fun hk => h hk.symm
      rw [ih]
      simp [hne]

/-- The lines that have deltas. -/
def changedLines (st : Step) : List Nat := (st.locals.map (fun e => e.1) ++ st.remotes.map (fun e => e.1)).foldl insertNat []

theorem mem_changedLines (st : Step) (l : Nat) : l ∈ changedLines st ↔ Map.get? st.locals l ≠ none ∨ Map.get? st.remotes l ≠ none := by
  rw [changedLines, mem_foldl_insertNat, List.mem_append, get?_ne_none_iff, get?_ne_none_iff]
  simp

theorem mergeDeltas_rest (s : State) (k : Nat) : mergeDeltas s k = { s with
    tiles := (mergeDeltas s k).tiles, mem := (mergeDeltas s k).mem, full := (mergeDeltas s k).full } := by
  have h := mergeAll_rest k (s.tile k).step (changedLines (s.tile k).step) s
  rw [mergeDeltas_eq]
  exact (congrArg (fun r : State => { r with tiles := ((List.foldl (mergeOne k (s.tile k).step) s (changedLines (s.tile k).step)).modStep k
    (fun st => { st with locals := [], remotes := [] })).tiles }) h :)

theorem mergeDeltas_tile (s : State) (k : Nat) : (mergeDeltas s k).tile k = { s.tile k with
    step := { (s.tile k).step with locals := [], remotes := [] } } := by
  have h := mergeAll_rest k (s.tile k).step (changedLines (s.tile k).step) s
  rw [mergeDeltas_eq, step_modStep]
  exact (congrArg (fun r : State => { r.tile k with step := { (r.tile k).step with locals := [], remotes := [] } }) h :)

/-- Each byte of a line that has deltas takes the value of its last writer (R284). -/
theorem mergeDeltas_read {s : State} (hwf : s.mem.wf = true) (k l : Nat) {i : Nat} (hi : i < 64)
    (h : Map.get? (s.tile k).step.locals l ≠ none ∨ Map.get? (s.tile k).step.remotes l ≠ none) :
    Memory.read (mergeDeltas s k).mem (lineKey k l + i) =
      mergedByte (Map.get? (s.tile k).step.locals l) (Map.get? (s.tile k).step.remotes l) i (Memory.read s.mem (lineKey k l + i)) := by
  rw [mergeDeltas_eq]
  exact (mergeAll_read k (s.tile k).step _ l hi s hwf).trans (if_pos ((mem_changedLines _ l).mpr h))

theorem mergeDeltas_read_other (s : State) (k : Nat) {a : Nat} (h : ∀ l i, (Map.get? (s.tile k).step.locals l ≠ none ∨
    Map.get? (s.tile k).step.remotes l ≠ none) → i < 64 → a ≠ lineKey k l + i) :
    Memory.read (mergeDeltas s k).mem a = Memory.read s.mem a := by
  rw [mergeDeltas_eq]
  exact mergeAll_read_other k (s.tile k).step _ (fun l hl i hi => h l i ((mem_changedLines _ l).mp hl) hi) s

theorem mergeDeltas_full (s : State) (k : Nat) {l : Nat} {d : LocalDelta} (hd : Map.get? (s.tile k).step.locals l = some d) (hl : l < 8192)
    {i : Nat} (hi : i < 16) : (mergeDeltas s k).full.contains (lineKey k l + 4 * i) = d.fe.getLsbD i := by
  rw [mergeDeltas_eq]
  exact (mergeAll_contains k (s.tile k).step _ hd hl hi s).trans (if_pos ((mem_changedLines _ l).mpr (.inl (by rw [hd]; simp))))

/-! ### What messages, the pair's record and triggers leave -/

/-- Memory, the tile's superstep state, its CSRs and its control context are as they were. -/
structure Calm (k : Nat) (s t : State) : Prop where
  mem : t.mem = s.mem
  full : t.full = s.full
  step : (t.tile k).step = (s.tile k).step
  csr : (t.tile k).csr = (s.tile k).csr
  ctx : t.ctx k 0 = s.ctx k 0

theorem Calm.refl (k : Nat) (s : State) : Calm k s s := ⟨rfl, rfl, rfl, rfl, rfl⟩

theorem Calm.trans {k : Nat} {s t u : State} (h : Calm k s t) (g : Calm k t u) : Calm k s u :=
  ⟨g.mem.trans h.mem, g.full.trans h.full, g.step.trans h.step, g.csr.trans h.csr, g.ctx.trans h.ctx⟩

theorem calm_of_tiles {k : Nat} {s t : State} (hm : t.mem = s.mem) (hf : t.full = s.full) (ht : t.tiles = s.tiles) : Calm k s t := by
  have h : t.tile k = s.tile k := by rw [State.tile, ht]; rfl
  exact ⟨hm, hf, by rw [h], by rw [h], by rw [State.ctx, h]; rfl⟩

/-- A change of a tile that leaves its superstep state, its CSRs and its contexts. -/
theorem calm_modTile (s : State) (k j : Nat) (f : Tile → Tile) (h : ∀ t, f t = { t with io := (f t).io, twin := (f t).twin, work := (f t).work }) :
    Calm k s (s.modTile j f) := by
  by_cases hj : k = j
  · subst hj
    have ht : (s.modTile k f).tile k = f (s.tile k) := tile_modTile s k f
    refine ⟨rfl, rfl, ?_, ?_, ?_⟩
    · rw [ht, h]
    · rw [ht, h]
    · rw [State.ctx, ht, h]; rfl
  · have ht : (s.modTile j f).tile k = s.tile k := tile_modTile_other s f hj
    exact ⟨rfl, rfl, by rw [ht], by rw [ht], by rw [State.ctx, ht]; rfl⟩

theorem calm_post (k : Nat) (s : State) (e : Instr) : Calm k s (s.post e) := calm_of_tiles rfl rfl rfl

theorem calm_postInbox (k : Nat) (s : State) (j : Nat) (e : BitVec 128) : Calm k s (postInbox s j e) := by
  simp only [postInbox]
  split
  · exact calm_modTile _ _ _ _ fun _ => rfl
  · exact (calm_modTile _ _ _ _ fun _ => rfl).trans (calm_post _ _ _)

theorem calm_foldl {α : Type} {k : Nat} (f : State → α → State) (h : ∀ s x, Calm k s (f s x)) (l : List α) : ∀ s : State, Calm k s (l.foldl f s) := by
  induction l with
  | nil => exact Calm.refl k
  | cons x l ih => exact fun s => (h s x).trans (ih (f s x))

theorem calm_postMessages (k : Nat) (s : State) (l : List HeldMsg) : Calm k s (postMessages s l) :=
  calm_foldl _ (fun _ _ => calm_foldl _ (fun _ _ => calm_postInbox _ _ _ _) _ _) l s

theorem calm_clearTwin (k : Nat) (s : State) (j : Nat) : Calm k s (clearTwin s j) := by
  unfold clearTwin modTwin
  split
  · exact calm_modTile _ _ _ _ fun _ => rfl
  · exact Calm.refl k s

theorem calm_modLaunch (k : Nat) (s : State) (l : Nat) (f : Launch → Launch) : Calm k s (s.modLaunch l f) := by
  rw [modLaunch_rest]; exact calm_of_tiles rfl rfl rfl

theorem calm_triggerUnit (k : Nat) (s : State) (j : Nat) : Calm k s (triggerUnit s j) := by
  unfold triggerUnit
  split
  · exact Calm.refl k s
  · split
    · exact Calm.refl k s
    · exact (calm_modTile _ _ _ _ fun _ => rfl).trans (calm_modLaunch _ _ _ _)

/-! ### The SSB goes on (R277) -/

/-- The control context takes the result, and goes on after its SSB. -/
def ssbGoesOn (s : State) (k : Nat) (b : BitVec 5) (v : Word) : State := goOn ((asCtx s k 0).modCur (fun x => x.setS b v))

theorem tileKey_of (k : Nat) : tileKey (tileDie k) (tileId k) = k := Nat.div_add_mod' k 1024

theorem asCtx_curKey (s : State) (k c : Nat) : (asCtx s k c).curKey = k := tileKey_of k

theorem ssbGoesOn_goes (s : State) (k : Nat) (b : BitVec 5) (v : Word) :
    GoesOn k 0 ((asCtx s k 0).modCur (fun x => x.setS b v)) (ssbGoesOn s k b v) := by
  have h := goesOn_goOn (s := (asCtx s k 0).modCur (fun x => x.setS b v)) (by decide : 0 < 11)
  rw [show ((asCtx s k 0).modCur (fun x => x.setS b v)).curKey = k from asCtx_curKey s k 0] at h
  exact h

theorem asCtx_setS_tile (s : State) (k : Nat) (b : BitVec 5) (v : Word) :
    ((asCtx s k 0).modCur (fun x => x.setS b v)).tile k = (s.tile k).setCtx 0 ((s.ctx k 0).setS b v) := by
  rw [State.modCur, asCtx_curKey, tile_modCtx]; rfl

theorem asCtx_setS_ctx (s : State) (k : Nat) (b : BitVec 5) (v : Word) :
    ((asCtx s k 0).modCur (fun x => x.setS b v)).ctx k 0 = (s.ctx k 0).setS b v := by
  rw [State.modCur, asCtx_curKey]
  exact ctx_modCtx (asCtx s k 0) k (c := 0) (fun x => x.setS b v) (by decide)

/-- Only the control context, the pair's record and the queues change. -/
theorem ssbGoesOn_keeps (s : State) (k : Nat) (b : BitVec 5) (v : Word) :
    (ssbGoesOn s k b v).mem = s.mem ∧ (ssbGoesOn s k b v).full = s.full ∧ ((ssbGoesOn s k b v).tile k).step = (s.tile k).step ∧
    ((ssbGoesOn s k b v).tile k).csr = (s.tile k).csr ∧ ((ssbGoesOn s k b v).ctx k 0).s = ((s.ctx k 0).setS b v).s := by
  have h := ssbGoesOn_goes s k b v
  have htile := h.tile
  have hctx := h.ctx
  rw [asCtx_setS_tile] at htile
  rw [asCtx_setS_ctx] at hctx
  exact ⟨(congrArg State.mem h.rest :), (congrArg State.full h.rest :), (congrArg Tile.step htile :), (congrArg Tile.csr htile :),
    (congrArg Ctx.s hctx :)⟩

theorem setS_pc (x : Ctx) (b : BitVec 5) (v : Word) : (x.setS b v).pc = x.pc := (congrArg Ctx.pc (Ctx.setS_frame x b v) :)
theorem setS_fr (x : Ctx) (b : BitVec 5) (v : Word) : (x.setS b v).frame = x.frame := (congrArg Ctx.frame (Ctx.setS_frame x b v) :)
theorem setS_depth (x : Ctx) (b : BitVec 5) (v : Word) : (x.setS b v).depth = x.depth := (congrArg Ctx.depth (Ctx.setS_frame x b v) :)

/-- Outside loops and repeat frames a context goes on at the next word. -/
theorem goOn_plain {s : State} (hc : s.cur.ctx < 11) (hf : s.curCtx.frame = none) (hd : s.curCtx.depth = 0) :
    (goOn s).curCtx.pc = ptrWithOff s.curCtx.pc (ptrOff s.curCtx.pc + 4) := by
  have hloop : ∀ image off, loopEnd image off 4 s.curCtx = (s.curCtx, none) := fun image off => by
    rw [loopEnd, if_neg (by rw [hd]; exact fun h => absurd h.1 (Nat.lt_irrefl 0))]
  have h : goOn s = s.modCur (fun _ => { s.curCtx with pc := ptrWithOff s.curCtx.pc (ptrOff s.curCtx.pc + 4) }) := by
    simp only [goOn, hf, hloop, Option.getD_none]
  rw [h, State.curCtx_modCur _ _ hc]

theorem ssbGoesOn_pc {s : State} {k : Nat} (b : BitVec 5) (v : Word) (hf : (s.ctx k 0).frame = none) (hd : (s.ctx k 0).depth = 0) :
    ((ssbGoesOn s k b v).ctx k 0).pc = ptrWithOff (s.ctx k 0).pc (ptrOff (s.ctx k 0).pc + 4) := by
  let u := (asCtx s k 0).modCur (fun x => x.setS b v)
  have hkey : u.curKey = k := asCtx_curKey s k 0
  have hcur : u.curCtx = (s.ctx k 0).setS b v := by rw [State.curCtx, hkey]; exact asCtx_setS_ctx s k b v
  have hself : (ssbGoesOn s k b v).ctx k 0 = (goOn u).curCtx := by
    have hg := ssbGoesOn_goes s k b v
    have hk : (goOn u).curKey = k := hg.curKey.trans hkey
    have hc : (goOn u).cur = u.cur := hg.cur
    rw [State.curCtx, hk, hc]; rfl
  rw [hself, goOn_plain (show u.cur.ctx < 11 from Nat.succ_pos 10) (by rw [hcur, setS_fr, hf]) (by rw [hcur, setS_depth, hd]), hcur, setS_pc]

/-! ### The commit column (R277) -/

/-- The events that waited for the end of the tile's own work are raised in their order (R279). -/
theorem foldl_pendFor (l : List (BitVec 8 × BitVec 2)) : ∀ st : Step, l.foldl (fun x e => x.pendFor e.1) st = { st with
    pend := st.pend || !l.isEmpty, cause := l.foldl (fun c e => if c = 0 then e.1 else c) st.cause } := by
  induction l with
  | nil => intro st; simp
  | cons e l ih =>
    intro st
    rw [List.foldl_cons, ih]
    simp only [Step.pendFor, List.isEmpty_cons, Bool.not_false, Bool.or_true, Bool.true_or, List.foldl_cons]

theorem settle_eq {st : Step} (hp : st.pend = false) (hc : st.cause = 0) : st.settle = { st with
    pend := !st.deferred.isEmpty, cause := st.deferred.foldl (fun c e => if c = 0 then e.1 else c) 0, settled := true
    deferred := st.deferred.filter (fun e => decide (e.2 ≠ 0)) } := by
  simp only [Step.settle, foldl_pendFor, hp, hc, Bool.false_or]

/-- The contexts of a tile, given one by one. -/
theorem ctx_ofFn {t : Tile} {f : Fin 11 → Ctx} {c : Nat} (ht : t.ctxs = Vector.ofFn f) (hc : c < 11) : t.ctx c = f ⟨c, hc⟩ := by
  simp [Tile.ctx, ht, hc]

/-- The control context as a commit leaves it. -/
def committedCtx (t : Tile) : Ctx :=
  { t.ctx 0 with wait := none, draws := 0, replay := none, mmaRow := none, tload := none, binds := keepRings t.io (t.ctx 0).binds }

theorem commitTileState_ctx (out : BitVec 2) (t : Tile) : (commitTileState out t).ctx 0 = committedCtx t := by
  rw [ctx_ofFn (ht := rfl) (by decide : 0 < 11)]
  rfl

theorem commitTileState_helper (out : BitVec 2) (t : Tile) {c : Nat} (h0 : 0 < c) (hc : c < 11) : (commitTileState out t).ctx c = {} := by
  rw [ctx_ofFn (ht := rfl) hc]
  exact if_neg (Nat.ne_of_gt h0)

theorem commitTileState_csr (out : BitVec 2) (t : Tile) :
    (commitTileState out t).csr = { t.csr with books := Vector.replicate 16 {} } := rfl

theorem commitTileState_step (out : BitVec 2) (t : Tile) : (commitTileState out t).step =
    { ssn := t.step.ssn + 1, out := out, bound := true, settled := true, badLater := t.step.badLater
      deferred := t.step.deferred.filter (fun e => decide (e.2 ≠ 0)), pend := !t.step.deferred.isEmpty
      cause := t.step.deferred.foldl (fun c e => if c = 0 then e.1 else c) 0
      retained := committedCtx t, staged := t.step.staged.filter (fun e => decide (e.st = 0)) ++ t.step.fetchList } := settle_eq rfl rfl

/-- The control context at the end of the superstep: past its SSB, or where it stands. -/
def ssbApplied (s : State) (k : Nat) (r : Option (BitVec 5)) (v : Word) : State :=
  match r with
  | some b => ssbGoesOn s k b v
  | none => s

/-- Messages go out, the pair's record is empty, and a trigger counts. -/
def boundaryOut (s : State) (k : Nat) (trig : Bool) : State :=
  let s := if s.idKey k = k then postMessages s (s.tile k).io.msgs else s
  let s := clearTwin s k
  if trig then triggerUnit s k else s

theorem calm_boundaryOut (s : State) (k : Nat) (trig : Bool) : Calm k s (boundaryOut s k trig) := by
  have hmsg : Calm k s (if s.idKey k = k then postMessages s (s.tile k).io.msgs else s) := by
    split
    · exact calm_postMessages _ _ _
    · exact Calm.refl k s
  simp only [boundaryOut]
  split
  · exact (hmsg.trans (calm_clearTwin _ _ _)).trans (calm_triggerUnit _ _ _)
  · exact hmsg.trans (calm_clearTwin _ _ _)

/-- The state of a tile before the commit column applies to it. -/
def beforeColumn (s : State) (k : Nat) (v : Word) : State :=
  boundaryOut (ssbApplied (mergeDeltas s k) k (s.tile k).step.ssbReg v) k (s.tile k).step.trig

theorem commitTile_eq {s : State} {k : Nat} {u : WorkUnit} (hw : (s.tile k).work = some u) (hh : (s.tile k).step.halting = false) :
    commitTile k s = ((beforeColumn s k ((s.part u.barKey).result.extractLsb' 64 64)).modTile k
      (commitTileState (if (s.part u.barKey).result.getLsbD 1 then 3 else 1))).post (.reportDone u.barKey k) := by
  simp only [commitTile, hw, hh, Bool.false_eq_true, if_false]
  rfl

section
variable (s : State) (k : Nat) (v : Word)

/-- What the column starts from: memory as the deltas leave it, and the tile's own state. -/
theorem beforeColumn_keeps : (beforeColumn s k v).mem = (mergeDeltas s k).mem ∧ (beforeColumn s k v).full = (mergeDeltas s k).full ∧
    ((beforeColumn s k v).tile k).step = { (s.tile k).step with locals := [], remotes := [] } ∧
    ((beforeColumn s k v).tile k).csr = (s.tile k).csr := by
  have hmerge := mergeDeltas_tile s k
  have hssb : let a := ssbApplied (mergeDeltas s k) k (s.tile k).step.ssbReg v
      a.mem = (mergeDeltas s k).mem ∧ a.full = (mergeDeltas s k).full ∧ (a.tile k).step = ((mergeDeltas s k).tile k).step ∧
      (a.tile k).csr = ((mergeDeltas s k).tile k).csr := by
    unfold ssbApplied
    cases (s.tile k).step.ssbReg with
    | none => exact ⟨rfl, rfl, rfl, rfl⟩
    | some b =>
      obtain ⟨hm, hf, hs, hc, -⟩ := ssbGoesOn_keeps (mergeDeltas s k) k b v
      exact ⟨hm, hf, hs, hc⟩
  have hout := calm_boundaryOut (ssbApplied (mergeDeltas s k) k (s.tile k).step.ssbReg v) k (s.tile k).step.trig
  obtain ⟨hm, hf, hs, hc⟩ := hssb
  exact ⟨hout.mem.trans hm, hout.full.trans hf, (hout.step.trans hs).trans (congrArg Tile.step hmerge :),
    (hout.csr.trans hc).trans (congrArg Tile.csr hmerge :)⟩

theorem beforeColumn_ctx : (beforeColumn s k v).ctx k 0 = (ssbApplied (mergeDeltas s k) k (s.tile k).step.ssbReg v).ctx k 0 :=
  (calm_boundaryOut _ _ _).ctx

theorem mergeDeltas_ctx (c : Nat) : (mergeDeltas s k).ctx k c = s.ctx k c := by
  rw [State.ctx, mergeDeltas_tile]; rfl

end

/-- What the deltas leave of a byte, in the words of the statement. -/
theorem mergedByte_eq (l : Option LocalDelta) (r : Option RemoteDelta) (i : Nat) (old : Byte) : mergedByte l r i old =
    match r with
    | some d => if d.last.getLsbD i then vecByte d.data i else (match l with
      | some l => vecByte l.data i
      | none => old)
    | none => match l with
      | some l => vecByte l.data i
      | none => old := by
  cases l <;> cases r <;> rfl

/-- A tile commits and goes on. -/
theorem tileCommit : TileCommit := by
  intro s die tile u k st x result changed hw hh hcanon
  let v : Word := result.extractLsb' 64 64
  let out : BitVec 2 := if result.getLsbD 1 then 3 else 1
  let b := beforeColumn s k v
  let t := (b.modTile k (commitTileState out)).post (.reportDone u.barKey k)
  have htile : t.tile k = commitTileState out (b.tile k) := tile_modTile b k _
  have hctx (c : Nat) : t.ctx k c = (commitTileState out (b.tile k)).ctx c := by rw [State.ctx, htile]
  obtain ⟨hmem, hfull, hstep, hcsr⟩ := beforeColumn_keeps s k v
  have hctx0 : t.ctx k 0 = committedCtx (b.tile k) := (hctx 0).trans (commitTileState_ctx _ _)
  have hb : (b.tile k).ctx 0 = (ssbApplied (mergeDeltas s k) k st.ssbReg v).ctx k 0 := beforeColumn_ctx s k v
  have hpc : (t.ctx k 0).pc = ((ssbApplied (mergeDeltas s k) k st.ssbReg v).ctx k 0).pc := by rw [hctx0, ← hb]; rfl
  have hs : (t.ctx k 0).s = ((ssbApplied (mergeDeltas s k) k st.ssbReg v).ctx k 0).s := by rw [hctx0, ← hb]; rfl
  refine ⟨t, congrArg Host.Outcome.next (commitTile_eq hw hh), ?_, fun c h0 hc => ?_, ?_, fun hnone => ?_, fun r hr hf hd => ?_, ?_,
    fun line i hline hi => ?_, fun a ha => ?_, fun line i l hl hlt hi => ?_⟩
  · rw [htile, commitTileState_step, hstep, hctx0]
  · rw [hctx, commitTileState_helper _ _ h0 hc]
  · rw [htile, commitTileState_csr, hcsr]
  · rw [hpc, hs, hnone]
    exact ⟨congrArg Ctx.pc (mergeDeltas_ctx s k 0), congrArg Ctx.s (mergeDeltas_ctx s k 0)⟩
  · have hm : (mergeDeltas s k).ctx k 0 = x := mergeDeltas_ctx s k 0
    obtain ⟨-, -, -, -, hregs⟩ := ssbGoesOn_keeps (mergeDeltas s k) k r v
    rw [hpc, hs, hr]
    refine ⟨?_, hregs.trans (by rw [hm])⟩
    exact (ssbGoesOn_pc r v (by rw [hm]; exact hf) (by rw [hm]; exact hd)).trans (by rw [hm])
  · exact List.mem_append_right _ (List.mem_singleton.mpr rfl)
  · exact ((congrArg (Memory.read · _) hmem).trans (mergeDeltas_read hcanon.1 k line hi hline)).trans (mergedByte_eq _ _ _ _)
  · exact (congrArg (Memory.read · a) hmem).trans (mergeDeltas_read_other s k ha)
  · exact (congrArg (List.contains · _) hfull).trans (mergeDeltas_full s k hl hlt hi)

end Sys2Proof.Proofs
end

section
/-! What a tile does when its superstep aborts (R28, R277, R286, R291, R332). -/
namespace Sys2Proof.Proofs
open Sys2Proof Sys2Proof.Machine Sys2Proof.Claims

/-! ### Lines that are made zero -/

/-- A line of a tile's memory is zero. -/
def zeroLine (k : Nat) (m : Memory) (l : Nat) : Memory := Memory.writeN m (lineKey k l) (List.replicate 64 0)

theorem read_zeroLine (k : Nat) {m : Memory} (hwf : m.wf = true) (l : Nat) {i : Nat} (hi : i < 64) :
    Memory.read (zeroLine k m l) (lineKey k l + i) = 0 := by
  rw [zeroLine, Memory.read_writeN_same _ _ i (by rw [List.length_replicate]; exact hi) hwf, List.getElem_replicate]

theorem read_zeroLine_other (k : Nat) (m : Memory) (l : Nat) {a : Nat} (h : ∀ i < 64, a ≠ lineKey k l + i) :
    Memory.read (zeroLine k m l) a = Memory.read m a := by
  refine Memory.read_writeN_other _ _ _ _ ?_
  rw [List.length_replicate]
  by_contra hin
  exact h (a - lineKey k l) (by omega) (by omega)

theorem read_zeroLines_other (k : Nat) {a : Nat} (lines : List Nat) (h : ∀ l ∈ lines, ∀ i < 64, a ≠ lineKey k l + i) :
    ∀ m : Memory, Memory.read (lines.foldl (zeroLine k) m) a = Memory.read m a := by
  induction lines with
  | nil => intro m; rfl
  | cons x lines ih =>
    intro m
    rw [List.foldl_cons, ih (fun l hl => h l (List.mem_cons_of_mem _ hl)), read_zeroLine_other k m x (h x List.mem_cons_self)]

/-- A byte that is zero stays zero. -/
theorem read_zeroLines_zero (k : Nat) {a : Nat} (lines : List Nat) : ∀ m : Memory, m.wf = true → Memory.read m a = 0 →
    Memory.read (lines.foldl (zeroLine k) m) a = 0 := by
  induction lines with
  | nil => exact fun m _ h => h
  | cons x lines ih =>
    intro m hwf h
    rw [List.foldl_cons]
    refine ih _ (Memory.writeN_wf _ _ hwf) ?_
    by_cases hin : ∃ i < 64, a = lineKey k x + i
    · obtain ⟨i, hi, rfl⟩ := hin
      exact read_zeroLine k hwf x hi
    · rw [read_zeroLine_other k m x fun i hi heq => hin ⟨i, hi, heq⟩, h]

theorem read_zeroLines (k : Nat) (lines : List Nat) {l i : Nat} (hl : l ∈ lines) (hi : i < 64) : ∀ m : Memory, m.wf = true →
    Memory.read (lines.foldl (zeroLine k) m) (lineKey k l + i) = 0 := by
  induction lines with
  | nil => simp at hl
  | cons x lines ih =>
    intro m hwf
    rw [List.foldl_cons]
    rcases List.mem_cons.mp hl with rfl | hl
    · exact read_zeroLines_zero k lines _ (Memory.writeN_wf _ _ hwf) (read_zeroLine k hwf _ hi)
    · exact ih hl _ (Memory.writeN_wf _ _ hwf)

/-! ### The transit regions (R286) -/

/-- A full word of the tile's transit region. -/
def inTransit (s : State) (k a : Nat) : Bool :=
  decide (spadKey k 0 ≤ a ∧ a < spadKey k 0 + 2 ^ 20) && decide (regionOf s k false (a - spadKey k 0) = .transit)

theorem foldl_mem (f : Memory → Nat → Memory) (lines : List Nat) : ∀ s : State,
    lines.foldl (fun s l => { s with mem := f s.mem l }) s = { s with mem := lines.foldl f s.mem } := by
  induction lines with
  | nil => intro s; rfl
  | cons l lines ih => intro s; rw [List.foldl_cons, ih, List.foldl_cons]

theorem clearTransit_eq (s : State) (k : Nat) : clearTransit s k = { s with
    full := s.full.filter (fun a => !inTransit s k a)
    mem := ((s.tile k).step.badLines ++ (s.tile k).step.badLater).foldl (zeroLine k) s.mem } :=
  foldl_mem (zeroLine k) _ { s with full := s.full.filter (fun a => !inTransit s k a) }

theorem clearTransit_full {s : State} {k o : Nat} (ho : o < 2 ^ 20) (h : regionOf s k false o = .transit) :
    (clearTransit s k).full.contains (spadKey k o) = false := by
  have hoff : spadKey k o = spadKey k 0 + o := by unfold spadKey; omega
  have hin : inTransit s k (spadKey k o) = true := by
    rw [inTransit, hoff, Nat.add_sub_cancel_left, h, decide_eq_true ⟨Nat.le_add_right _ _, Nat.add_lt_add_left ho _⟩]
    rfl
  rw [clearTransit_eq, ← Bool.not_eq_true, List.contains_iff_mem, List.mem_filter, hin]
  simp

/-! ### What is in flight -/

theorem foldl_postNew {α : Type} (f : α → Instr) (l : List α) : ∀ s : State,
    (∃ p, l.foldl (fun s x => if s.pending.contains (f x) then s else s.post (f x)) s = { s with pending := s.pending ++ p }) ∧
    ∀ x ∈ l, f x ∈ (l.foldl (fun s x => if s.pending.contains (f x) then s else s.post (f x)) s).pending := by
  induction l with
  | nil => exact fun s => ⟨⟨[], by simp⟩, by simp⟩
  | cons x l ih =>
    intro s
    let u := if s.pending.contains (f x) then s else s.post (f x)
    have hu : (∃ p, u = { s with pending := s.pending ++ p }) ∧ f x ∈ u.pending := by
      by_cases h : s.pending.contains (f x) = true
      · have hus : u = s := if_pos h
        exact ⟨⟨[], by rw [hus]; simp⟩, by rw [hus]; exact List.contains_iff_mem.mp h⟩
      · have hus : u = s.post (f x) := if_neg h
        exact ⟨⟨[f x], hus⟩, by rw [hus]; simp⟩
    obtain ⟨⟨p, hp⟩, hx⟩ := hu
    obtain ⟨⟨q, hq⟩, hl⟩ := ih u
    have hfold : (x :: l).foldl (fun s x => if s.pending.contains (f x) then s else s.post (f x)) s =
      l.foldl (fun s x => if s.pending.contains (f x) then s else s.post (f x)) u := rfl
    rw [hfold]
    refine ⟨⟨p ++ q, by rw [hq, hp, List.append_assoc]⟩, fun y hy => ?_⟩
    rcases List.mem_cons.mp hy with rfl | hy
    · rw [hq]; exact List.mem_append_left _ hx
    · exact hl y hy

/-- Entries that are being fetched are asked for again, and nothing else changes (R291). -/
theorem refetch_rest (k : Nat) (s : State) : refetch k s = { s with pending := (refetch k s).pending } := by
  obtain ⟨⟨p, hp⟩, -⟩ := foldl_postNew (fun e : StagingEntry => Instr.stagingEntryComplete (tileDie k) (tileId k) e.id)
    ((s.tile k).step.staged.filter (fun e => decide (e.st = 0))) s
  have h : refetch k s = { s with pending := s.pending ++ p } := hp
  rw [h]

theorem mem_pending_refetch {k : Nat} {s : State} {e : StagingEntry} (he : e ∈ (s.tile k).step.staged) (hst : e.st = 0) :
    .stagingEntryComplete (tileDie k) (tileId k) e.id ∈ (refetch k s).pending :=
  (foldl_postNew (fun e : StagingEntry => Instr.stagingEntryComplete (tileDie k) (tileId k) e.id) _ s).2 e
    (List.mem_filter.mpr ⟨he, by simp [hst]⟩)

theorem repostHeld_rest (s : State) (k : Nat) : repostHeld s k = { s with pending := (repostHeld s k).pending } := by
  simp only [repostHeld, foldl_post]

/-! ### The state of a tile before the abort column applies -/

/-- The pair's record is empty, and waits and the fetches of the list are gone. -/
def dropped (k : Nat) (s : State) : State :=
  dropWaitsBut (fun c => decide ((s.ctx k c).st = .frozen)) (cancelList (clearTwin s k) k) k

theorem dropped_tile (k : Nat) (s : State) : (dropped k s).tile k = { s.tile k with twin := ((dropped k s).tile k).twin } :=
  modTwin_tile s k k _

theorem dropped_keeps (k : Nat) (s : State) : (dropped k s).mem = s.mem ∧ (dropped k s).full = s.full ∧ (dropped k s).parts = s.parts :=
  ⟨modTwin_mem _ _ _, modTwin_full _ _ _, modTwin_parts _ _ _⟩

/-- What is dropped, and the transit regions cleared. -/
def stripped (k : Nat) (s : State) : State := clearTransit (dropped k s) k

section
variable (k : Nat) (s : State)

theorem stripped_tiles : (stripped k s).tiles = (dropped k s).tiles := by rw [stripped, clearTransit_eq]

theorem stripped_tile : (stripped k s).tile k = { s.tile k with twin := ((stripped k s).tile k).twin } := by
  have h : (stripped k s).tile k = (dropped k s).tile k := by rw [State.tile, stripped_tiles]; rfl
  rw [h]; exact dropped_tile k s

theorem stripped_parts : (stripped k s).parts = s.parts := by
  rw [stripped, clearTransit_eq]; exact (dropped_keeps k s).2.2

theorem stripped_mem : (stripped k s).mem = ((s.tile k).step.badLines ++ (s.tile k).step.badLater).foldl (zeroLine k) s.mem := by
  rw [stripped, clearTransit_eq]
  have hstep : ((dropped k s).tile k).step = (s.tile k).step := (congrArg Tile.step (dropped_tile k s) :)
  rw [hstep]
  exact congrArg (fun m => List.foldl (zeroLine k) m _) (dropped_keeps k s).1

theorem stripped_full {o : Nat} (ho : o < 2 ^ 20) (h : regionOf s k false o = .transit) :
    (stripped k s).full.contains (spadKey k o) = false := by
  refine clearTransit_full ho ?_
  rw [regionOf, dropped_tile]
  exact h

end

/-! ### The abort column (R277) -/

theorem abortTileState_step (t : Tile) : (abortTileState t).step =
    { ssn := t.step.ssn, retry := if t.step.retry = 0xFFFF then t.step.retry else t.step.retry + 1
      mine := t.step.pend || t.step.forced || t.step.votedAbort, out := 2, bound := true, settled := true, badLater := t.step.badLater
      retained := t.step.retained, deferred := t.step.deferred.filter (fun e => decide (e.2 ≠ 0)), pend := !t.step.deferred.isEmpty
      cause := t.step.deferred.foldl (fun c e => if c = 0 then e.1 else c) 0, staged := t.step.staged.map StagingEntry.again
      parityRun := t.step.parityRun.filterMap (fun r => if r.2.2 then some (r.1, r.2.1, false) else none) } := settle_eq rfl rfl

theorem tile_getElem_ctxs (t : Tile) {c : Nat} (hc : c < 11) : t.ctxs[c] = t.ctx c := by simp [Tile.ctx, hc]

/-- A context that is not FROZEN, as the abort leaves it. -/
theorem abortTileState_ctx {t : Tile} {c : Nat} (hc : c < 11) (h : (t.ctx c).st ≠ .frozen) :
    (abortTileState t).ctx c = if c = 0 then reloadCtx (t.ctx c) t.step.retained else {} := by
  rw [ctx_ofFn (ht := rfl) hc]
  show (if (t.ctxs[c]).st = .frozen then _ else if c = 0 then reloadCtx t.ctxs[c] t.step.retained else {}) = _
  rw [tile_getElem_ctxs t hc, if_neg h]

/-! ### The abort of a tile -/

/-- What is posted again changes nothing else. -/
theorem refetch_repostHeld_rest (k : Nat) (u : State) :
    refetch k (repostHeld u k) = { u with pending := (refetch k (repostHeld u k)).pending } := by
  have hheld := repostHeld_rest u k
  generalize repostHeld u k = v at hheld ⊢
  have hfetch := refetch_rest k v
  generalize refetch k v = w at hfetch ⊢
  exact hfetch.trans (congrArg (fun r : State => { r with pending := w.pending }) hheld)

theorem refetch_repostHeld_tile (k : Nat) (u : State) (f : Tile → Tile) :
    (refetch k (repostHeld (u.modTile k f) k)).tile k = f (u.tile k) := by
  rw [refetch_repostHeld_rest]
  exact tile_modTile u k f

/-- A tile of a CON launch without FROZEN contexts, once its control context is reloaded. -/
def reloaded (k : Nat) (s : State) : State := refetch k (repostHeld ((stripped k s).modTile k abortTileState) k)

theorem reloaded_rest (k : Nat) (s : State) :
    reloaded k s = { (stripped k s).modTile k abortTileState with pending := (reloaded k s).pending } :=
  refetch_repostHeld_rest k ((stripped k s).modTile k abortTileState)

theorem reloaded_tile (k : Nat) (s : State) : (reloaded k s).tile k = abortTileState ((stripped k s).tile k) :=
  refetch_repostHeld_tile k (stripped k s) abortTileState

theorem undoTile_con {s : State} {k : Nat} {u : WorkUnit} (hw : (s.tile k).work = some u) (hc : u.cls = 2)
    (hsw : (s.part u.barKey).switchAbort = false) : undoTile k s = reloaded k s := by
  have hparts : (reloaded k s).part u.barKey = s.part u.barKey :=
    (congrArg (State.part · u.barKey) (reloaded_rest k s)).trans (by rw [State.part, State.part]; exact congrArg (Map.getD · _ _) (stripped_parts k s))
  have hno : ((reloaded k s).part u.barKey).switchAbort = false := by rw [hparts, hsw]
  unfold reloaded stripped dropped at hno ⊢
  simp only [undoTile, hw, hc, if_true, hno, Bool.false_and, Bool.false_eq_true, if_false]

/-- A tile as reset leaves it, but for its test kernels (R13). -/
def blankTile (t : Tile) : Tile := { testKernel := t.testKernel, testFailed := t.testFailed, kernels := t.kernels }

theorem releaseTile_tiles (s : State) (k : Nat) : (releaseTile s k).tiles = (s.modTile k blankTile).tiles := by
  simp only [releaseTile]
  rw [repostHeld_rest]
  rfl

/-- A released tile holds no unit (R13). -/
theorem releaseTile_work (s : State) (k : Nat) : ((releaseTile s k).tile k).work = none := by
  have h : (releaseTile s k).tile k = (s.modTile k blankTile).tile k := by rw [State.tile, releaseTile_tiles]; rfl
  rw [h, tile_modTile]
  rfl

theorem keepRuns_tile (g k : Nat) (s : State) : (keepRuns g k s).tile k = s.tile k := rfl

/-- Without FROZEN contexts a tile of a WP or PAR launch is released (R332). -/
theorem undoTile_released {s : State} {k : Nat} {u : WorkUnit} (hw : (s.tile k).work = some u) (hc : u.cls ≠ 2)
    (hno : ∀ c, (s.ctx k c).st ≠ .frozen) : undoTile k s = releaseTile (keepRuns u.barKey k (stripped k s)) k := by
  have hctxs : ((keepRuns u.barKey k (stripped k s)).tile k).ctxs = (s.tile k).ctxs :=
    (congrArg Tile.ctxs (stripped_tile k s) :)
  have hany : ((keepRuns u.barKey k (stripped k s)).tile k).ctxs.toList.any (fun x => decide (x.st = .frozen)) = false := by
    rw [hctxs, List.any_eq_false]
    intro x hx
    obtain ⟨c, hlt, rfl⟩ := List.mem_iff_getElem.mp hx
    have hc11 : c < 11 := by simpa using hlt
    have hfro := hno c
    rw [State.ctx, ← tile_getElem_ctxs _ hc11] at hfro
    simpa using hfro
  unfold stripped dropped at hany ⊢
  simp only [undoTile, hw, hc, if_false, hany, Bool.false_eq_true, decide_false, Bool.and_false]

/-- A tile aborts. -/
theorem tileAbort : TileAbort := by
  intro s die tile u k st x hw hno hsw hcanon
  let t := (undoTile k s).post (.reportDone u.barKey k)
  have hexec : exec (.abort die tile) s = .next t := by
    refine congrArg Host.Outcome.next ?_
    show abortTile k s = t
    simp only [abortTile, hw, t]
  refine ⟨t, hexec, List.mem_append_right _ (List.mem_singleton.mpr rfl), fun hc => ?_, fun hc => ?_⟩
  · exact (congrArg (fun r : State => (r.tile k).work) (undoTile_released hw hc hno) :).trans (releaseTile_work _ k)
  · have hundo := undoTile_con hw hc hsw
    have htile : t.tile k = abortTileState ((stripped k s).tile k) := (congrArg (State.tile · k) hundo :).trans (reloaded_tile k s)
    have hold := stripped_tile k s
    have hstep : ((stripped k s).tile k).step = st := (congrArg Tile.step hold :)
    have hctx (c : Nat) : ((stripped k s).tile k).ctx c = s.ctx k c := by rw [hold]; rfl
    have hctxs {c : Nat} (hlt : c < 11) : t.ctx k c = if c = 0 then reloadCtx (s.ctx k c) st.retained else {} := by
      rw [State.ctx, htile, abortTileState_ctx hlt (by rw [hctx]; exact hno c), hctx, hstep]
    have hrest := reloaded_rest k s
    have hmem : t.mem = (st.badLines ++ st.badLater).foldl (zeroLine k) s.mem :=
      ((congrArg State.mem hundo).trans (congrArg State.mem hrest :)).trans (stripped_mem k s)
    have hfull : t.full = (stripped k s).full := (congrArg State.full hundo).trans (congrArg State.full hrest :)
    refine ⟨?_, ?_, fun e he hst => ?_, ?_, fun c h0 hlt => ?_, fun l i hl hi => ?_, fun a ha => ?_, fun o ho hreg => ?_⟩
    · rw [htile]; exact (congrArg Tile.work hold :).trans hw
    · rw [htile, abortTileState_step, hstep]; rfl
    · refine List.mem_append_left _ ?_
      rw [hundo]
      have hstaged : e.again ∈ (((repostHeld ((stripped k s).modTile k abortTileState) k)).tile k).step.staged := by
        rw [repostHeld_rest]
        show _ ∈ (((stripped k s).modTile k abortTileState).tile k).step.staged
        rw [tile_modTile, abortTileState_step, hstep]
        exact List.mem_map.mpr ⟨e, he, rfl⟩
      exact mem_pending_refetch (e := e.again) hstaged hst
    · rw [hctxs (by decide), if_pos rfl]; rfl
    · rw [hctxs hlt, if_neg (Nat.ne_of_gt h0)]
    · rw [hmem]; exact read_zeroLines k _ hl hi _ hcanon.1
    · rw [hmem]; exact read_zeroLines_other k _ (fun l hl i hi => ha l i hl hi) _
    · rw [hfull]; exact stripped_full k s ho hreg

/-- Settles O49: a tile's commit and its abort. -/
theorem tileBoundaries : Obligations.TileBoundaries := ⟨tileCommit, tileAbort⟩

end Sys2Proof.Proofs
end

section
/-! Rings: doorbells, scans, and writes to RINGBASE (R310, R320, R322, R324). -/
namespace Sys2Proof.Proofs
open Sys2Proof Sys2Proof.Machine Sys2Proof.Claims

/-! ### Accesses of the hardware, and how they end -/

theorem A_bind {α β : Type} (x : A α) (f : α → A β) (s : State) : (x >>= f) s = match x s with
    | .ok a t => f a t
    | .error e t => .error e t := by
  show EStateM.bind x f s = _
  unfold EStateM.bind
  cases x s <;> rfl

theorem A_bind_ok {α β : Type} {x : A α} {f : α → A β} {s t : State} {a : α} (h : x s = .ok a t) : (x >>= f) s = f a t := by rw [A_bind, h]

theorem A_pure {α : Type} (a : α) (s : State) : (pure a : A α) s = .ok a s := rfl
theorem getA_run (s : State) : getA s = .ok s s := rfl

section
variable {α : Type} {x : A α} {s t : State}

theorem ends_ok {a : α} (h : x s = .ok a t) : x.ends s = (t, .made a) := by simp only [A.ends, h]
theorem ends_refer {w : PageWait} (h : x s = .error (.refer w) t) : x.ends s = (t, .waits w) := by simp only [A.ends, h]
theorem ends_trap {c : Cause} {v : Word} (h : x s = .error (.trap c v) t) : x.ends s = (t, .refused) := by simp only [A.ends, h]

end

/-! ### Rings of a module -/

theorem modl_modModl (s : State) (m : Nat) (f : Modl → Modl) : (s.modModl m f).modl m = f (s.modl m) := State.modl_setModl _ _ _

theorem ringOf_setRing (s : State) (m fn r : Nat) (x : Ring) : ringOf (setRing s m fn r x) m fn r = x := by
  rw [ringOf, setRing, modl_modModl]
  exact Map.getD_set_same _ _ _ _

/-- A ring that is not enabled is not scanned. -/
theorem scanRing_disabled {s : State} {m fn r : Nat} (n : Nat) (h : (ringOf s m fn r).enabled = false) : scanRing m fn r n s = s := by
  cases n with
  | zero => rfl
  | succ n => simp only [scanRing, h, true_or, if_true]

section
variable {s : State} {m fn r : Nat} (v : Word)

theorem writeTail_eq (ha : fnAnswers s m fn = true) (hr : r < 64) : writeTail m fn r v s = scanRing m fn r 4
    (setRing s m fn r { ringOf s m fn r with tail := if (ringOf s m fn r).tail.toNat < v.toNat then v else (ringOf s m fn r).tail }) := by
  simp only [writeTail, ha, Bool.true_eq_false, Nat.not_le.mpr hr, or_self, if_false]

theorem writeTail_deaf (ha : fnAnswers s m fn = false) : writeTail m fn r v s = s := by
  simp only [writeTail, ha, true_or, if_true]

end

/-- Doorbells. -/
theorem ringDoorbells : RingDoorbells := by
  intro s m fn r v x raised
  refine ⟨fun ha hr => congrArg Host.Outcome.next (writeTail_eq v ha hr), fun ha hr hen => ?_, fun hask => ?_, fun hask hen => ?_, fun b hask => ?_,
    fun ha => congrArg Host.Outcome.next (writeTail_deaf v ha)⟩
  · refine congrArg Host.Outcome.next ((writeTail_eq v ha hr).trans (scanRing_disabled 4 ?_))
    rw [ringOf_setRing]
    exact hen
  · have hasked : (ringOf s m fn r).asked = none := hask
    exact congrArg (fun t => Host.Outcome.next (scanRing m fn r 4 t)) (by simp only [hasked])
  · have hasked : (ringOf s m fn r).asked = none := hask
    refine congrArg Host.Outcome.next (Eq.trans (congrArg (scanRing m fn r 4) (by simp only [hasked])) (scanRing_disabled 4 hen))
  · have hasked : (ringOf s m fn r).asked = some b := hask
    exact congrArg (fun t => Host.Outcome.next (scanRing m fn r 4 t)) (by simp only [hasked])

/-! ### One slot of a scan (R322) -/

section
variable {s : State} {m fn r j : Nat} (n : Nat) (hen : (ringOf s m fn r).enabled = true) (hboot : (s.modl m).bootState = 4)
  (hlive : (s.modl m).frozenFns.contains fn = false) (hroom : (heldOf s m fn r).length < 4) (hjob : fnJob s m fn = some j)
include hen hboot hlive hroom hjob

omit hen hboot hlive hroom in
theorem ringFor_eq : ringFor s m fn = { job := j, fn := fn } := by rw [ringFor, hjob]; rfl

/-- A ring that may be scanned looks at its next slot. -/
theorem scanRing_scans : ¬ ((ringOf s m fn r).enabled = false ∨ (s.modl m).bootState ≠ 4 ∨ (s.modl m).frozenFns.contains fn = true ∨
    4 ≤ (heldOf s m fn r).length ∨ (fnJob s m fn).isNone = true) := by
  rintro (h | h | h | h | h)
  · rw [hen] at h; cases h
  · exact h hboot
  · rw [hlive] at h; cases h
  · exact absurd hroom (Nat.not_lt.mpr h)
  · rw [hjob] at h; cases h

theorem scanRing_waits {t : State} {w : PageWait} (h : takeSlot m fn (ringOf s m fn r) s = .error (.refer w) t) :
    scanRing m fn r (n + 1) s = hwAgain t { job := j, fn := fn } (.ringScanResume m fn r) w := by
  rw [← ringFor_eq hjob]
  simp only [scanRing, if_neg (scanRing_scans hen hboot hlive hroom hjob), ends_refer h]

theorem scanRing_refused {t : State} {c : Cause} {v : Word} (h : takeSlot m fn (ringOf s m fn r) s = .error (.trap c v) t) :
    scanRing m fn r (n + 1) s = recordMerr (setRing (hwSettled t { job := j, fn := fn }) m fn r
      { ringOf s m fn r with base := 0, enabled := false }) m fn 11 ((scanAddr m fn (ringOf s m fn r) s).toNat % 2 ^ 48) := by
  rw [← ringFor_eq hjob]
  simp only [scanRing, if_neg (scanRing_scans hen hboot hlive hroom hjob), ends_trap h]

theorem scanRing_none {t : State} (h : takeSlot m fn (ringOf s m fn r) s = .ok none t) :
    scanRing m fn r (n + 1) s = hwSettled t { job := j, fn := fn } := by
  rw [← ringFor_eq hjob]
  simp only [scanRing, if_neg (scanRing_scans hen hboot hlive hroom hjob), ends_ok h]

theorem scanRing_taken {t : State} {head : Nat} {bs : List Byte} (h : takeSlot m fn (ringOf s m fn r) s = .ok (some (head, bs)) t) :
    scanRing m fn r (n + 1) s = scanRing m fn r n (handBlock m fn r j head bs (hwSettled t { job := j, fn := fn })) := by
  rw [← ringFor_eq hjob]
  simp only [scanRing, if_neg (scanRing_scans hen hboot hlive hroom hjob), ends_ok h]
  rw [ringFor_eq hjob]

end

section
variable {s s1 s2 s3 s4 : State} {m fn : Nat} {x : Ring} {base : Word} {size head : Nat} {q body : List Byte}

theorem takeSlot_control_error {e : AccErr} (h : readControl m fn x.base s = .error e s1) : takeSlot m fn x s = .error e s1 := by
  simp only [takeSlot, A_bind, h]

variable (hc : readControl m fn x.base s = .ok (base, size, head) s1)
include hc

theorem takeSlot_below (h : x.tail.toNat ≤ head) : takeSlot m fn x s = .ok none s1 := by
  simp only [takeSlot, A_bind, hc, h, if_true, A_pure]

variable (hlt : head < x.tail.toNat)
include hlt

theorem takeSlot_slot_error {e : AccErr} (h : fnRead m fn (ptrAdd (ptrAdd base (128 * (head % size))) 120) 8 s1 = .error e s2) :
    takeSlot m fn x s = .error e s2 := by
  simp only [takeSlot, A_bind, hc, Nat.not_le.mpr hlt, if_false, h]

variable (hq : fnRead m fn (ptrAdd (ptrAdd base (128 * (head % size))) 120) 8 s1 = .ok q s2)
include hq

theorem takeSlot_unpublished (h : natOfBytes q ≠ (head + 1) % 2 ^ 64) : takeSlot m fn x s = .ok none s2 := by
  simp only [takeSlot, A_bind, hc, Nat.not_le.mpr hlt, if_false, hq, if_pos h, A_pure]

theorem takeSlot_published (h : natOfBytes q = (head + 1) % 2 ^ 64) (hb : fnRead m fn (ptrAdd base (128 * (head % size))) 120 s2 = .ok body s3)
    (hw : hwWrite (ringFor s3 m fn) (ptrAdd x.base 24) (bytesOfNat 8 (head + 1)) s3 = .ok () s4) :
    takeSlot m fn x s = .ok (some (head, body ++ q)) s4 := by
  refine (A_bind_ok hc).trans ?_
  dsimp only
  rw [if_neg (Nat.not_le.mpr hlt)]
  refine (A_bind_ok hq).trans ?_
  rw [if_neg (not_not_intro h)]
  refine (A_bind_ok hb).trans ((A_bind_ok (getA_run s3)).trans ?_)
  exact A_bind_ok hw

end

/-- The address that a scan records is that of the control block where it cannot be read. -/
theorem scanAddr_control {s t : State} {m fn : Nat} {x : Ring} {c : Cause} {v : Word} (h : readControl m fn x.base s = .error (.trap c v) t) :
    scanAddr m fn x s = x.base := by simp only [scanAddr, ends_trap h]

theorem scanAddr_slot {s t : State} {m fn size head : Nat} {x : Ring} {base : Word} (h : readControl m fn x.base s = .ok (base, size, head) t) :
    scanAddr m fn x s = ptrAdd base (128 * (head % size)) := by simp only [scanAddr, ends_ok h]

theorem bytesOfNat_eq_map (n : Nat) : ∀ x : Nat, bytesOfNat n x = (List.range n).map fun i => BitVec.ofNat 8 (x / 256 ^ i) := by
  induction n with
  | zero => intro x; rfl
  | succ n ih =>
    intro x
    rw [bytesOfNat, ih, List.range_succ_eq_map, List.map_cons, List.map_map, Nat.pow_zero, Nat.div_one]
    refine congrArg _ (List.map_congr_left fun i _ => ?_)
    rw [Function.comp_apply, Nat.div_div_eq_div_mul, ← Nat.pow_succ']

/-- The two ways of writing the bytes of a word. -/
theorem bytesLE_ofNat (n : Nat) : bytesLE 8 (BitVec.ofNat 64 n) = bytesOfNat 8 n := by
  rw [bytesOfNat_eq_map]
  refine List.map_congr_left fun i hi => BitVec.eq_of_toNat_eq ?_
  have hlt : i < 8 := List.mem_range.mp hi
  rw [BitVec.extractLsb'_toNat, BitVec.toNat_ofNat, BitVec.toNat_ofNat, Nat.shiftRight_eq_div_pow]
  interval_cases i <;> omega

/-- A block that has been consumed is a held launch under its ID (R324). -/
theorem handBlock_get? (m fn r j head : Nat) (bs : List Byte) (s : State) :
    Map.get? (handBlock m fn r j head bs s).launches (launchKey m (launchId fn r head)) =
      some { block := BitVec.ofNat 1024 (natOfBytes bs), modl := m, fn := fn, ring := r, job := j, phase := .held } :=
  Map.get?_set_same _ _ _

/-- The scan of a ring. -/
theorem ringScan : RingScan := by
  intro s s1 s2 s3 s4 m fn r n j size head base q body x slot h scan stops hen hboot hlive hroom hjob
  refine ⟨fun w hw => ?_, fun c v hc => ?_, fun hc => ⟨fun hle => ?_, fun hlt => ⟨fun w hw => ?_,
    fun c v hq => ?_, fun hq hne => ?_, fun hq heq hb hw => ⟨?_, ?_⟩⟩⟩⟩
  · exact scanRing_waits n hen hboot hlive hroom hjob (takeSlot_control_error hw)
  · refine (scanRing_refused n hen hboot hlive hroom hjob (takeSlot_control_error hc)).trans ?_
    rw [scanAddr_control (x := ringOf s m fn r) hc]
    rfl
  · exact scanRing_none n hen hboot hlive hroom hjob (takeSlot_below hc hle)
  · exact scanRing_waits n hen hboot hlive hroom hjob (takeSlot_slot_error hc hlt hw)
  · refine (scanRing_refused n hen hboot hlive hroom hjob (takeSlot_slot_error hc hlt hq)).trans ?_
    rw [scanAddr_slot (x := ringOf s m fn r) hc]
    rfl
  · exact scanRing_none n hen hboot hlive hroom hjob (takeSlot_unpublished hc hlt hq hne)
  · rw [bytesLE_ofNat] at hw
    exact scanRing_taken n hen hboot hlive hroom hjob (takeSlot_published hc hlt hq heq hb hw)
  · exact ⟨_, handBlock_get? m fn r j head (body ++ q) _, rfl, rfl, rfl, rfl, rfl, rfl⟩

/-! ### Writes to RINGBASE (R320) -/

/-- The ring without what an earlier write asked for. -/
def ringUnasked (s : State) (m fn r : Nat) : Ring := { ringOf s m fn r with asked := none }

section
variable {s t : State} {m fn r : Nat} {v : Word}

theorem exec_ringbaseWrite (ha : fnAnswers s m fn = true) (hr : r < 64) :
    exec (.ringbaseWrite m fn r v) s = .next (examineRingbase m fn r v s) := by
  refine congrArg Host.Outcome.next ?_
  show writeRingbase m fn r v s = _
  simp only [writeRingbase, ha, Bool.true_eq_false, Nat.not_le.mpr hr, or_self, if_false]

/-- The control block at `v` is examined, when the ring is not enabled. -/
theorem examineRingbase_disabled (hv : v ≠ 0) (he : (ringUnasked s m fn r).enabled = false) :
    (∀ base size head, readControl m fn v s = .ok (base, size, head) t → examineRingbase m fn r v s =
      setRing (hwSettled t (ringFor s m fn)) m fn r { base := v, tail := BitVec.ofNat 64 head, enabled := true }) ∧
    (∀ c a, readControl m fn v s = .error (.trap c a) t → examineRingbase m fn r v s = recordMerr
      (setRing (hwSettled t (ringFor s m fn)) m fn r { ringUnasked s m fn r with base := v, enabled := false }) m fn 5 (0x200 + 8 * r)) ∧
    (∀ w, readControl m fn v s = .error (.refer w) t → examineRingbase m fn r v s =
      hwAgain (setRing t m fn r { ringUnasked s m fn r with asked := some v }) (ringFor s m fn) (.ringScanResume m fn r) w) := by
  have he' : (ringOf s m fn r).enabled = false := he
  refine ⟨fun base size head hc => ?_, fun c a hc => ?_, fun w hc => ?_⟩
  · simp only [examineRingbase, hv, if_false, he', if_true, ends_ok hc]
  · simp only [examineRingbase, hv, if_false, he', if_true, ends_trap hc, ringUnasked]
  · simp only [examineRingbase, hv, if_false, he', if_true, ends_refer hc, ringUnasked]

/-- The ring's own control block is read first, when the ring is enabled. -/
theorem examineRingbase_enabled (hv : v ≠ 0) (he : (ringUnasked s m fn r).enabled = true) :
    (∀ w, readControl m fn (ringUnasked s m fn r).base s = .error (.refer w) t → examineRingbase m fn r v s =
      hwAgain (setRing t m fn r { ringUnasked s m fn r with asked := some v }) (ringFor s m fn) (.ringScanResume m fn r) w) ∧
    (∀ base size head, readControl m fn (ringUnasked s m fn r).base s = .ok (base, size, head) t → head < (ringUnasked s m fn r).tail.toNat →
      examineRingbase m fn r v s = recordMerr (setRing (hwSettled t (ringFor s m fn)) m fn r (ringUnasked s m fn r)) m fn 2 (0x200 + 8 * r)) := by
  have he' : (ringOf s m fn r).enabled = true := he
  refine ⟨fun w hw => ?_, fun base size head hc hlt => ?_⟩
  · have hends : (readControl m fn (ringOf s m fn r).base).ends s = (t, .waits w) := ends_refer hw
    simp only [examineRingbase, hv, if_false, he', Bool.true_eq_false, hends, ringUnasked]
  · have hends : (readControl m fn (ringOf s m fn r).base).ends s = (t, .made (base, size, head)) := ends_ok hc
    have hlt' : head < (ringOf s m fn r).tail.toNat := hlt
    simp only [examineRingbase, hv, if_false, he', Bool.true_eq_false, hends, hlt', if_true, ringUnasked]

end

/-- Writes to RINGBASE. -/
theorem ringBases : RingBases := by
  intro s s1 m fn r v x put h runs again ha hr
  have hexec := exec_ringbaseWrite (v := v) ha hr
  refine ⟨fun h0 => hexec.trans ?_, fun hv he => ?_, fun hv he => ?_⟩
  · simp only [examineRingbase, h0, if_true]; rfl
  · obtain ⟨hok, hbad, hwait⟩ := examineRingbase_disabled (t := s1) hv he
    exact ⟨fun base size head hc => hexec.trans (congrArg Host.Outcome.next (hok base size head hc)),
      fun c a hc => hexec.trans (congrArg Host.Outcome.next (hbad c a hc)), fun w hc => hexec.trans (congrArg Host.Outcome.next (hwait w hc))⟩
  · obtain ⟨hwait, hleft⟩ := examineRingbase_enabled (t := s1) hv he
    exact ⟨fun base size head hc hlt => hexec.trans (congrArg Host.Outcome.next (hleft base size head hc hlt)),
      fun w hc => hexec.trans (congrArg Host.Outcome.next (hwait w hc))⟩

end Sys2Proof.Proofs
end

section
/-! The dispatcher's checks, the placement of units, and their start (R13, R15, R326 to R331). -/
namespace Sys2Proof.Proofs
open Sys2Proof Sys2Proof.Machine Sys2Proof.Claims

/-! ### The checks of a held launch (R326) -/

section
variable {s t : State} {key : Nat} {l : Launch} (hl : Map.get? s.launches key = some l) (hheld : l.phase = .held)
include hl hheld

theorem dispatch_bad (h : readBlock key l s = .ok none t) :
    dispatch key s = endLaunch (takeLaunch key l (hwSettled t (l.hwFor s key))) key 5 := by
  simp only [dispatch, hl, hheld, ne_eq, not_true_eq_false, if_false, ends_ok h]

theorem dispatch_refused {c : Cause} {a : Word} (h : readBlock key l s = .error (.trap c a) t) :
    dispatch key s = endLaunch (takeLaunch key l (hwSettled t (l.hwFor s key))) key 5 := by
  simp only [dispatch, hl, hheld, ne_eq, not_true_eq_false, if_false, ends_trap h]

theorem dispatch_waits {w : PageWait} (h : readBlock key l s = .error (.refer w) t) :
    dispatch key s = hwAgain t (l.hwFor s key) (.dispatchCheck key) w := by
  simp only [dispatch, hl, hheld, ne_eq, not_true_eq_false, if_false, ends_refer h]

variable {i : InitBytes} (h : readBlock key l s = .ok (some i) t)
include h

theorem dispatch_empty (hu : blockField l.block 12 4 = 0) :
    dispatch key s = endLaunch (takeLaunch key l (hwSettled t (l.hwFor s key))) key 1 := by
  simp only [dispatch, hl, hheld, ne_eq, not_true_eq_false, if_false, ends_ok h, hu, if_true]

theorem dispatch_range (hu : 16777216 < blockField l.block 12 4) :
    dispatch key s = endLaunch (takeLaunch key l (hwSettled t (l.hwFor s key))) key 2 := by
  have h0 : blockField l.block 12 4 ≠ 0 := by omega
  simp only [dispatch, hl, hheld, ne_eq, not_true_eq_false, if_false, ends_ok h, h0, hu, if_true]

variable (hpos : 0 < blockField l.block 12 4) (hle : blockField l.block 12 4 ≤ 16777216)
include hpos hle

theorem dispatch_progress (hg : granted t l = false) :
    dispatch key s = endLaunch (takeLaunch key l (hwSettled t (l.hwFor s key))) key 7 := by
  simp only [dispatch, hl, hheld, ne_eq, not_true_eq_false, if_false, ends_ok h, Nat.ne_of_gt hpos, Nat.not_lt.mpr hle, hg, if_true]

theorem dispatch_begins (hg : granted t l = true) :
    dispatch key s = beginLaunch key l i (takeLaunch key l (hwSettled t (l.hwFor s key))) := by
  simp only [dispatch, hl, hheld, ne_eq, not_true_eq_false, if_false, ends_ok h, Nat.ne_of_gt hpos, Nat.not_lt.mpr hle, hg, Bool.true_eq_false]

end

/-! ### Placement leaves partitions and launches (R330) -/

theorem placeUnit_parts (key uid : Nat) (l : Launch) (i : InitBytes) (w : Option Twin) (k : Nat) (s : State) :
    (placeUnit key uid l i w k s).parts = s.parts := rfl

theorem placeUnit_launches (key uid : Nat) (l : Launch) (i : InitBytes) (w : Option Twin) (k : Nat) (s : State) :
    (placeUnit key uid l i w k s).launches = s.launches := rfl

theorem placeOn_parts (key uid : Nat) (l : Launch) (i : InitBytes) (ks : List Nat) (s : State) : (placeOn key uid l i ks s).parts = s.parts := by
  unfold placeOn
  split
  · rfl
  · exact foldl_keeps State.parts (fun s k => placeUnit key uid l i none k s) (fun _ _ => rfl) ks s

theorem placeUnits_parts (key : Nat) (l : Launch) (i : InitBytes) (ks : List (List Nat)) : ∀ (uid : Nat) (s : State),
    (placeUnits key l i uid ks s).parts = s.parts := by
  induction ks with
  | nil => intro uid s; rfl
  | cons k ks ih => intro uid s; rw [placeUnits, ih, placeOn_parts]

/-! ### A launch that passes its checks (R330, R331) -/

section
variable {s : State} {key : Nat} {l : Launch} (i : InitBytes)

theorem beginLaunch_con_none (hc : blockField l.block 20 1 = 2) (h : conTiles s l = none) : beginLaunch key l i s = endLaunch s key 3 := by
  simp only [beginLaunch, hc, if_true, h]

/-- A partition as a CON launch begins in it. -/
def conPart (s : State) (key : Nat) (l : Launch) (ks : List (List Nat)) (p : Machine.Partition) : Machine.Partition :=
  { p with
    launch := some key, ssn := 0, members := ks.flatten, bar := .running, undone := [], held := false, groupsAt := p.groups
    publish := false, reserved := [], pvSel := BitVec.ofNat 16 (latestOf s l.job (blockField l.block 22 1)), frozenHold := false
    switchAbort := false, gen := p.genTop }

theorem beginLaunch_con (hc : blockField l.block 20 1 = 2) {ks : List (List Nat)} (h : conTiles s l = some ks) : beginLaunch key l i s =
    (placeUnits key { l with phase := .running } i 0 ks
      ((s.setLaunch key { l with phase := .running }).modPart l.part (conPart s key l ks))).post (.conLaunchStart key) := by
  simp only [beginLaunch, hc, if_true, h]
  rfl

theorem beginLaunch_nores (hc : blockField l.block 20 1 ≠ 2) (h : gangHolds s l = false) : beginLaunch key l i s = endLaunch s key 3 := by
  simp only [beginLaunch, hc, if_false, h, if_true]

/-- The state in which a WP or PAR launch runs, before its first unit is placed. -/
def begun (s : State) (key : Nat) (l : Launch) : State :=
  (s.setLaunch key { l with phase := .running }).setPart (implicitKey key)
    { launch := some key, pvSel := BitVec.ofNat 16 (latestOf s l.job (blockField l.block 22 1)), gen := (s.part l.part).genTop }

theorem beginLaunch_waits (hc : blockField l.block 20 1 ≠ 2) (h : gangHolds s l = true) (hs : unitSpot (begun s key l) key = none) :
    beginLaunch key l i s = (begun s key l).post (.unitPlace key) := by
  unfold begun at hs ⊢
  simp only [beginLaunch, hc, if_false, h, Bool.true_eq_false, hs, Option.isSome_none, Bool.false_eq_true]

theorem beginLaunch_places (hc : blockField l.block 20 1 ≠ 2) (h : gangHolds s l = true) (hs : unitSpot (begun s key l) key ≠ none) :
    beginLaunch key l i s = placeWith key i (begun s key l) := by
  have hsome : (unitSpot (begun s key l) key).isSome = true := Option.isSome_iff_ne_none.mpr hs
  unfold begun at hsome ⊢
  simp only [beginLaunch, hc, if_false, h, Bool.true_eq_false, hsome, if_true]

end

/-- A CON launch takes its partition (R331). -/
theorem beginLaunch_con_part (i : InitBytes) {s : State} {key : Nat} {l : Launch} (hc : blockField l.block 20 1 = 2) {ks : List (List Nat)}
    (h : conTiles s l = some ks) : (beginLaunch key l i s).part l.part = conPart s key l ks (s.part l.part) ∧
    .conLaunchStart key ∈ (beginLaunch key l i s).pending := by
  rw [beginLaunch_con i hc h]
  refine ⟨?_, List.mem_append_right _ (List.mem_singleton.mpr rfl)⟩
  have hparts := placeUnits_parts key { l with phase := .running } i ks 0
    ((s.setLaunch key { l with phase := .running }).modPart l.part (conPart s key l ks))
  exact (congrArg (fun m => Map.getD m l.part {}) hparts :).trans (modPart_part _ _ _)

/-- The checks of the dispatcher, in their order. -/
theorem dispatchChecks : DispatchChecks := by
  intro s s1 key l units h u runs run con v hl hheld
  have hexec {t : State} (ht : dispatch key s = t) : runs t := congrArg Host.Outcome.next ht
  refine ⟨fun hb => hexec (dispatch_bad hl hheld hb), fun c a hb => hexec (dispatch_refused hl hheld hb),
    fun w hb => hexec (dispatch_waits hl hheld hb), fun i hb => ⟨fun hu => hexec (dispatch_empty hl hheld hb hu),
    fun hu => hexec (dispatch_range hl hheld hb hu), fun hpos hle => ⟨fun hg => hexec (dispatch_progress hl hheld hb hpos hle hg), fun hg => ?_⟩⟩⟩
  have hbegin := dispatch_begins hl hheld hb hpos hle hg
  refine ⟨fun hc hn => hexec (hbegin.trans (beginLaunch_con_none i hc hn)), fun hc hn => hexec (hbegin.trans (beginLaunch_nores i hc hn)),
    fun hc hh => ?_, fun hc ks hks => ⟨_, hexec hbegin, ?_⟩⟩
  · intro first begun'
    exact ⟨fun hs => hexec (hbegin.trans (beginLaunch_waits i hc hh hs)), fun hs => hexec (hbegin.trans (beginLaunch_places i hc hh hs))⟩
  obtain ⟨hpart, hpend⟩ := beginLaunch_con_part i hc hks
  rw [hpart]
  exact ⟨rfl, rfl, rfl, rfl, rfl, hpend⟩

/-! ### The next unit of a WP or PAR launch (R15, R330) -/

section
variable {s t : State} {key : Nat} {l : Launch} (hl : Map.get? s.launches key = some l) (hs : unitSpot s key ≠ none)
include hl hs

theorem placeNext_waits {w : PageWait} (h : readInit (l.hwFor s key) l.block s = .error (.refer w) t) :
    placeNext key s = hwAgain t (l.hwFor s key) (.unitPlace key) w := by
  simp only [placeNext, hl, Option.isNone_iff_eq_none, hs, if_false, ends_refer h]

theorem placeNext_places {i : InitBytes} (h : readInit (l.hwFor s key) l.block s = .ok i t) :
    placeNext key s = placeWith key i (hwSettled t (l.hwFor s key)) := by
  simp only [placeNext, hl, Option.isNone_iff_eq_none, hs, if_false, ends_ok h]

end

/-- A unit placed alone on a tile. -/
theorem placeWith_single {s : State} {key k : Nat} {l : Launch} (i : InitBytes) (hl : Map.get? s.launches key = some l)
    (hs : unitSpot s key = some [k]) : placeWith key i s =
    let p := ((placeUnit key l.next l i none k s).setLaunch key { l with next := l.next + 1 }).post (.workUnitStart (tileDie k) (tileId k))
    if l.next + 1 < blockField l.block 12 4 then p.post (.unitPlace key) else p := by
  simp only [placeWith, hl, hs]
  rfl

/-- What placement gives the tile. -/
theorem placeUnit_work (key uid : Nat) (l : Launch) (i : InitBytes) (w : Option Twin) (k : Nat) (s : State) :
    ((placeUnit key uid l i w k s).tile k).work = some (unitOf l key uid) :=
  (congrArg Tile.work (tile_modTile _ k _) :)

theorem placeUnit_ctxs (key uid : Nat) (l : Launch) (i : InitBytes) (w : Option Twin) (k : Nat) (s : State) :
    ((placeUnit key uid l i w k s).tile k).ctxs = (({} : Tile).setCtx 0 (unitStart l uid (scopeTable i.scopes))).ctxs :=
  (congrArg Tile.ctxs (tile_modTile _ k _) :)

theorem placeUnit_ctx (key uid : Nat) (l : Launch) (i : InitBytes) (w : Option Twin) (k : Nat) (s : State) :
    (placeUnit key uid l i w k s).ctx k 0 = unitStart l uid (scopeTable i.scopes) := by
  rw [State.ctx, Tile.ctx, placeUnit_ctxs]
  exact Tile.ctx_setCtx {} 0 _ (by decide)

theorem ctx_default {c : Nat} (hc : c < 11) : ({} : Tile).ctx c = {} := by simp [Tile.ctx, hc]

theorem placeUnit_helper (key uid : Nat) (l : Launch) (i : InitBytes) (w : Option Twin) (k : Nat) (s : State) {c : Nat} (h0 : 0 < c) (hc : c < 11) :
    (placeUnit key uid l i w k s).ctx k c = {} := by
  rw [State.ctx, Tile.ctx, placeUnit_ctxs]
  exact (Tile.ctx_setCtx_other {} 0 c _ (Nat.ne_of_gt h0)).trans (ctx_default hc)

/-- The registers with which a unit starts (R15). -/
theorem unitStart_sreg (l : Launch) (uid : Nat) (scopes : Vector (BitVec 32) 32) (n : BitVec 5) : (unitStart l uid scopes).sreg n =
    if n = 2 then ptrAdd (blockPtr l.block 40) 64 else if n = 1 then BitVec.ofNat 64 uid else 0 := by
  have hzero : ({ pc := ptrAdd (blockPtr l.block 0) (blockField l.block 8 4), scopes := scopes } : Ctx).sreg n = 0 := by
    simp [Ctx.sreg, n.isLt]
  simp only [unitStart, Ctx.sreg_setS, hzero]
  simp

/-- Placement of the next unit. -/
theorem unitPlacement : UnitPlacement := by
  intro s s1 key k l i h u hl hs
  have hexec {t : State} (ht : placeNext key s = t) : exec (.unitPlace key) s = .next t := congrArg Host.Outcome.next ht
  refine ⟨fun w hw => hexec (placeNext_waits hl hs hw), fun hi hl' hs' => ?_⟩
  let b := (placeUnit key l.next l i none k u).setLaunch key { l with next := l.next + 1 }
  let p := b.post (.workUnitStart (tileDie k) (tileId k))
  let t := if l.next + 1 < blockField l.block 12 4 then p.post (.unitPlace key) else p
  have hrun : placeNext key s = t := (placeNext_places hl hs hi).trans (placeWith_single i hl' hs')
  have htiles : t.tiles = (placeUnit key l.next l i none k u).tiles := by
    show State.tiles (if _ then _ else _) = _
    split <;> rfl
  have hlaunches : t.launches = b.launches := by
    show State.launches (if _ then _ else _) = _
    split <;> rfl
  have hpending : .workUnitStart (tileDie k) (tileId k) ∈ t.pending := by
    have hp : .workUnitStart (tileDie k) (tileId k) ∈ p.pending := List.mem_append_right _ (List.mem_singleton.mpr rfl)
    show _ ∈ State.pending (if _ then _ else _)
    split
    · exact List.mem_append_left _ hp
    · exact hp
  have htile : t.tile k = (placeUnit key l.next l i none k u).tile k := by rw [State.tile, htiles]; rfl
  have hctx (c : Nat) : t.ctx k c = (placeUnit key l.next l i none k u).ctx k c := by rw [State.ctx, htile]; rfl
  have hctx0 : t.ctx k 0 = unitStart l l.next (scopeTable i.scopes) := (hctx 0).trans (placeUnit_ctx _ _ _ _ _ _ _)
  refine ⟨t, hexec hrun, ?_, ?_, hpending, ?_, ?_, ?_, ?_, fun n h1 h2 => ?_, fun c h0 hc => ?_⟩
  · rw [htile]; exact placeUnit_work _ _ _ _ _ _ _
  · rw [hlaunches]; exact Map.get?_set_same _ _ _
  · rw [hctx0]; rfl
  · rw [hctx0]; rfl
  · rw [hctx0, unitStart_sreg]; rfl
  · rw [hctx0, unitStart_sreg]; rfl
  · rw [hctx0, unitStart_sreg, if_neg h2, if_neg h1]
  · rw [hctx]; exact placeUnit_helper _ _ _ _ _ _ _ h0 hc

/-! ### Lists of steps that each set one tile -/

/-- What each step sets for its element, and every step keeps, holds of all elements at the end. -/
theorem foldl_sets {f : State → Nat → State} {P : State → Prop} {Q : Nat → State → Prop} (hP : ∀ s x, P s → P (f s x))
    (hset : ∀ s x, P s → Q x (f s x)) (hkeep : ∀ s x j, P s → Q j s → Q j (f s x)) (l : List Nat) : ∀ s, P s →
    (∀ j, Q j s → Q j (l.foldl f s)) ∧ ∀ j ∈ l, Q j (l.foldl f s) := by
  induction l with
  | nil => exact fun s _ => ⟨fun _ h => h, fun j hj => absurd hj List.not_mem_nil⟩
  | cons x l ih =>
    intro s hs
    obtain ⟨hall, hmem⟩ := ih (f s x) (hP s x hs)
    refine ⟨fun j h => hall j (hkeep s x j hs h), fun j hj => ?_⟩
    rcases List.mem_cons.mp hj with rfl | hj
    · exact hall j (hset s j hs)
    · exact hmem j hj

theorem tile_modCsr (s : State) (k : Nat) (f : TileCsr → TileCsr) : (s.modCsr k f).tile k = { s.tile k with csr := f (s.tile k).csr } :=
  tile_modTile s k _

/-- A change of the CSRs of a tile. -/
theorem tile_modCsr_cases (s : State) (k j : Nat) (f : TileCsr → TileCsr) :
    (s.modCsr k f).tile j = { s.tile j with csr := if j = k then f (s.tile j).csr else (s.tile j).csr } := by
  by_cases h : j = k
  · subst h; rw [tile_modCsr, if_pos rfl]
  · rw [if_neg h]; exact tile_modTile_other s _ h

/-! ### The start of a unit (R15) -/

/-- A tile whose CSRs may differ. -/
def SameButCsr (s t : State) : Prop := ∀ k, t.tile k = { s.tile k with csr := (t.tile k).csr }

theorem sameButCsr_foldl (f : State → Nat → TileCsr → TileCsr) (l : List Nat) : ∀ s : State,
    SameButCsr s (l.foldl (fun s k => s.modCsr k (f s k)) s) := by
  induction l with
  | nil => exact fun s k => rfl
  | cons x l ih =>
    intro s k
    have hone := tile_modCsr_cases s x k (f s x)
    have hrest := ih (s.modCsr x (f s x)) k
    rw [hone] at hrest
    exact hrest

theorem startUnit_tile_other (s : State) {k j : Nat} (h : j ≠ k) : (startUnit k s).tile j = s.tile j := by
  unfold startUnit
  split
  · rfl
  · split
    · rfl
    · rw [State.modStep, tile_modTile_other _ _ h, tile_modCtx_other _ _ _ h]

/-- Only contexts and the superstep state of the tile change. -/
theorem startUnit_tile (s : State) (k : Nat) : (startUnit k s).tile k = { s.tile k with
    ctxs := ((startUnit k s).tile k).ctxs, step := ((startUnit k s).tile k).step } := by
  unfold startUnit
  split
  · rfl
  · split
    · rfl
    · rw [step_modStep, tile_modCtx]; rfl

theorem startUnit_rest (s : State) (k : Nat) : startUnit k s = { s with tiles := (startUnit k s).tiles } := by
  unfold startUnit
  split
  · rfl
  · split <;> rfl

section
variable {s : State} {k : Nat} (hw : (s.tile k).work ≠ none) (hst : (s.ctx k 0).st = .idle)
include hw hst

/-- The control context of a placed unit that has not started. -/
theorem startUnit_eq : startUnit k s = (s.modCtx k 0 (fun x => { x with st := .resident })).modStep k (fun st => { st with
    retained := { st.retained with st := .resident } }) := by
  obtain ⟨u, hu⟩ := Option.ne_none_iff_exists'.mp hw
  simp only [startUnit, hu, hst, ne_eq, not_true_eq_false, if_false]

theorem startUnit_ctx : (startUnit k s).ctx k 0 = { s.ctx k 0 with st := .resident } := by
  rw [startUnit_eq hw hst, ctx_modStep, ctx_modCtx _ _ _ (by decide)]

theorem startUnit_ctx_other {c : Nat} (hc : c ≠ 0) : (startUnit k s).ctx k c = s.ctx k c := by
  rw [startUnit_eq hw hst, ctx_modStep, ctx_modCtx_other _ _ _ hc]

end

/-- A context that runs already is left as it is. -/
theorem startUnit_started {s : State} {k : Nat} (hst : (s.ctx k 0).st ≠ .idle) : startUnit k s = s := by
  unfold startUnit
  split
  · rfl
  · exact if_pos hst

/-- A placed unit has started, or is about to. -/
def MayStart (k : Nat) (s : State) : Prop := (s.tile k).work ≠ none ∧ ((s.ctx k 0).st = .idle ∨ (s.ctx k 0).st = .resident)

theorem startUnit_resident {s : State} {k : Nat} (h : MayStart k s) : ((startUnit k s).ctx k 0).st = .resident := by
  obtain ⟨hw, hst | hst⟩ := h
  · rw [startUnit_ctx hw hst]
  · rw [startUnit_started (by rw [hst]; decide), hst]

theorem startUnit_ctx_tile_other (s : State) {k j : Nat} (h : j ≠ k) (c : Nat) : (startUnit k s).ctx j c = s.ctx j c := by
  rw [State.ctx, startUnit_tile_other s h]; rfl

theorem startUnit_mayStart {s : State} {j : Nat} (k : Nat) (h : MayStart j s) : MayStart j (startUnit k s) := by
  by_cases hj : j = k
  · subst hj
    exact ⟨by rw [startUnit_tile]; exact h.1, .inr (startUnit_resident h)⟩
  · rw [MayStart, startUnit_tile_other s hj, startUnit_ctx_tile_other s hj]; exact h

/-- Each unit of the list starts. -/
theorem foldl_startUnit_resident {s : State} {k : Nat} {l : List Nat} (hk : k ∈ l) (h : MayStart k s) :
    ((l.foldl (fun s k => startUnit k s) s).ctx k 0).st = .resident := by
  have hsets := foldl_sets (f := fun s k => startUnit k s) (P := MayStart k) (Q := fun j s => j = k → (s.ctx k 0).st = .resident)
    (fun s x hs => startUnit_mayStart x hs) (fun s x hs hx => by subst hx; exact startUnit_resident hs)
    (fun s x j hs hq hj => by
      have hr := hq hj
      by_cases hx : k = x
      · subst hx; exact startUnit_resident hs
      · rw [startUnit_ctx_tile_other s hx]; exact hr) l s h
  exact hsets.2 k hk rfl

/-! ### The start of a CON launch (R331) -/

/-- The members show the version selected. -/
theorem showSelected_parts (s : State) (g : Nat) (l : List Nat) : (showSelected s g l).parts = s.parts :=
  foldl_keeps State.parts (fun s k => s.modCsr k (fun r => { r with pvCur := (s.part g).pvSel, pvPending := false })) (fun _ _ => rfl) l s

/-- The launch and the partition as a CON launch starts. -/
def conSelected (s : State) (key : Nat) (l : Launch) : State :=
  (s.modLaunch key (fun l => { l with ssn := 0 })).modPart l.part
    (fun p => { p with pvSel := BitVec.ofNat 16 (latestOf s l.job (blockField l.block 22 1)) })

/-- The state before control contexts start: the launch's superstep number and version are set, and the members show their CSRs. -/
def conReady (s : State) (key : Nat) (l : Launch) : State :=
  setSizes (rebuildTree (showSelected (conSelected s key l) l.part (s.part l.part).members) l.part) l.part

theorem startCon_eq {s : State} {key : Nat} {l : Launch} (hl : Map.get? s.launches key = some l) :
    startCon key s = (s.part l.part).members.foldl (fun s k => startUnit k s) (conReady s key l) := by
  simp only [startCon, hl, conReady, conSelected]

theorem SameButCsr.idKey {s t : State} (h : SameButCsr s t) (k : Nat) : t.idKey k = s.idKey k := idKey_of_tile (by rw [h k])

theorem SameButCsr.trans {s t u : State} (h : SameButCsr s t) (g : SameButCsr t u) : SameButCsr s u := fun k => by rw [g k, h k]

theorem sameButCsr_of_tiles {s t : State} (h : t.tiles = s.tiles) : SameButCsr s t := fun k => by rw [State.tile, State.tile, h]

/-- Every tile of a list takes a value in its CSRs, which other steps of the list keep. -/
theorem foldl_modCsr_sets {α : Type} (get : TileCsr → α) (v : α) (f : State → TileCsr → TileCsr) (P : State → Prop)
    (hP : ∀ s k, P s → P (s.modCsr k (f s))) (hf : ∀ s r, P s → get (f s r) = v) (l : List Nat) {s : State} (hs : P s) :
    ∀ k ∈ l, get ((l.foldl (fun s k => s.modCsr k (f s)) s).tile k).csr = v :=
  (foldl_sets (f := fun s k => s.modCsr k (f s)) (P := P) (Q := fun j s => get (s.tile j).csr = v) hP
    (fun s x hs => by rw [tile_modCsr]; exact hf s _ hs)
    (fun s x j hs hq => by
      rw [tile_modCsr_cases]
      by_cases hj : j = x
      · simp only [hj, if_true]; exact hf s _ hs
      · simp only [if_neg hj]; exact hq) l s hs).2

/-- What changes of CSRs keep of the CSRs themselves. -/
theorem foldl_modCsr_keeps {α : Type} (get : TileCsr → α) (f : TileCsr → TileCsr) (hf : ∀ r, get (f r) = get r) (l : List Nat) (s : State) (k : Nat) :
    get ((l.foldl (fun s k => s.modCsr k f) s).tile k).csr = get (s.tile k).csr :=
  foldl_keeps (fun s => get (s.tile k).csr) (fun s k => s.modCsr k f) (fun s x => by
    rw [tile_modCsr_cases]
    by_cases hk : k = x
    · simp only [hk, if_true]; exact hf _
    · simp only [if_neg hk]) l s

/-- The CSRs with another PARTSZ. -/
def withSize (n : Nat) (r : TileCsr) : TileCsr := { r with partsz := BitVec.ofNat 24 n }

section
variable (s : State) (g : Nat) (l : List Nat)

theorem showSelected_sameButCsr : SameButCsr s (showSelected s g l) :=
  sameButCsr_foldl (fun s _ r => { r with pvCur := (s.part g).pvSel, pvPending := false }) l s

theorem showSelected_mem : (showSelected s g l).mem = s.mem :=
  foldl_keeps State.mem (fun s k => s.modCsr k (fun r => { r with pvCur := (s.part g).pvSel, pvPending := false })) (fun _ _ => rfl) l s

/-- Each member shows the version that its partition selects (R380). -/
theorem showSelected_pvCur : ∀ k ∈ l, ((showSelected s g l).tile k).csr.pvCur = (s.part g).pvSel :=
  foldl_modCsr_sets TileCsr.pvCur (s.part g).pvSel (fun s r => { r with pvCur := (s.part g).pvSel, pvPending := false })
    (fun t => t.part g = s.part g) (fun _ _ h => h) (fun _ _ h => congrArg Machine.Partition.pvSel h) l rfl

theorem setSizes_eq : setSizes s g = (s.part g).members.foldl (fun t k => t.modCsr k
    (withSize ((s.part g).members.filter (fun k => decide (s.idKey k = k))).length)) s := rfl

theorem setSizes_sameButCsr : SameButCsr s (setSizes s g) := by
  rw [setSizes_eq]; exact sameButCsr_foldl (fun _ _ => withSize _) _ s

theorem setSizes_mem : (setSizes s g).mem = s.mem := by
  rw [setSizes_eq]; exact foldl_keeps State.mem (fun s k => s.modCsr k (withSize _)) (fun _ _ => rfl) _ s

theorem setSizes_parts : (setSizes s g).parts = s.parts := by
  rw [setSizes_eq]; exact foldl_keeps State.parts (fun s k => s.modCsr k (withSize _)) (fun _ _ => rfl) _ s

theorem setSizes_pvCur (k : Nat) : ((setSizes s g).tile k).csr.pvCur = (s.tile k).csr.pvCur := by
  rw [setSizes_eq]; exact foldl_modCsr_keeps TileCsr.pvCur (withSize _) (fun _ => rfl) _ s k

/-- PARTSZ counts the members, a pair once (R29, R416). -/
theorem setSizes_partsz : ∀ k ∈ (s.part g).members, ((setSizes s g).tile k).csr.partsz =
    BitVec.ofNat 24 ((s.part g).members.filter (fun k => decide (s.idKey k = k))).length := by
  rw [setSizes_eq]
  exact foldl_modCsr_sets TileCsr.partsz _ (fun _ => withSize _) (fun _ => True) (fun _ _ _ => trivial) (fun _ _ _ => rfl) _ trivial

end

theorem conSelected_tiles (s : State) (key : Nat) (l : Launch) : (conSelected s key l).tiles = s.tiles := by
  rw [conSelected, modLaunch_rest]; rfl

theorem conSelected_part (s : State) (key : Nat) (l : Launch) : (conSelected s key l).part l.part = { s.part l.part with
    pvSel := BitVec.ofNat 16 (latestOf s l.job (blockField l.block 22 1)) } := by
  rw [conSelected, modPart_part, modLaunch_rest]; rfl

theorem conSelected_mem (s : State) (key : Nat) (l : Launch) : (conSelected s key l).mem = s.mem := by
  rw [conSelected, modLaunch_rest]; rfl

/-- The tree stands, and the members show PARTSZ and the version. -/
theorem conReady_facts (s : State) (key : Nat) (l : Launch) :
    let own := (s.part l.part).members.filter (fun k => decide (s.idKey k = k))
    (conReady s key l).mem = s.mem ∧ SameButCsr s (conReady s key l) ∧ ((conReady s key l).part l.part).nodes = buildNodes own ∧
    ∀ k ∈ (s.part l.part).members, ((conReady s key l).tile k).csr.partsz = BitVec.ofNat 24 own.length ∧
      ((conReady s key l).tile k).csr.pvCur = BitVec.ofNat 16 (latestOf s l.job (blockField l.block 22 1)) := by
  intro own
  let a := conSelected s key l
  let b := showSelected a l.part (s.part l.part).members
  let c := rebuildTree b l.part
  have ha : a.part l.part = _ := conSelected_part s key l
  have hab : SameButCsr s b := (sameButCsr_of_tiles (conSelected_tiles s key l)).trans (showSelected_sameButCsr a l.part _)
  have hbparts : b.parts = a.parts := showSelected_parts a l.part _
  have hbpart : b.part l.part = a.part l.part := by rw [State.part, State.part, hbparts]
  have hcpart : c.part l.part = { b.part l.part with nodes := buildNodes ((b.part l.part).members.filter (fun k => decide (b.idKey k = k))) } :=
    modPart_part b l.part _
  have hmembers : (c.part l.part).members = (s.part l.part).members := by rw [hcpart, hbpart, ha]
  have hid (k : Nat) : c.idKey k = s.idKey k := hab.idKey k
  have hown : (c.part l.part).members.filter (fun k => decide (c.idKey k = k)) = own := by simp only [hmembers, hid]; rfl
  have hready : conReady s key l = setSizes c l.part := rfl
  rw [hready]
  refine ⟨?_, hab.trans (setSizes_sameButCsr c l.part), ?_, fun k hk => ⟨?_, ?_⟩⟩
  · exact (setSizes_mem c l.part).trans ((showSelected_mem a l.part _).trans (conSelected_mem s key l))
  · rw [State.part, setSizes_parts]
    show (c.part l.part).nodes = _
    rw [← hown, hcpart]
    rfl
  · rw [setSizes_partsz c l.part k (by rw [hmembers]; exact hk), hown]
  · rw [setSizes_pvCur]
    exact (showSelected_pvCur a l.part _ k hk).trans (by rw [ha])

theorem foldl_startUnit_rest (l : List Nat) (s : State) : (l.foldl (fun s k => startUnit k s) s).mem = s.mem ∧
    (l.foldl (fun s k => startUnit k s) s).parts = s.parts ∧
    ∀ k, ((l.foldl (fun s k => startUnit k s) s).tile k).csr = (s.tile k).csr := by
  refine ⟨foldl_keeps State.mem (fun s k => startUnit k s) (fun s k => by rw [startUnit_rest]) l s,
    foldl_keeps State.parts (fun s k => startUnit k s) (fun s k => by rw [startUnit_rest]) l s, fun k => ?_⟩
  refine foldl_keeps (fun s => (s.tile k).csr) (fun s k => startUnit k s) (fun s j => ?_) l s
  by_cases h : k = j
  · subst h; rw [startUnit_tile]
  · rw [startUnit_tile_other s h]

/-- Starts of units, and of a CON launch. -/
theorem unitStarts : UnitStarts := by
  refine ⟨fun s die tile => ?_, fun s key l hl => ?_⟩
  · intro k hw hst
    have hrest := startUnit_rest s k
    exact ⟨startUnit k s, rfl, startUnit_ctx hw hst, fun c hc => startUnit_ctx_other hw hst hc, (congrArg State.mem hrest :),
      (congrArg State.pending hrest :)⟩
  · intro p own
    obtain ⟨hmem, hsame, hnodes, hcsr⟩ := conReady_facts s key l
    let t := p.members.foldl (fun s k => startUnit k s) (conReady s key l)
    obtain ⟨htmem, htparts, htcsr⟩ := foldl_startUnit_rest p.members (conReady s key l)
    refine ⟨t, congrArg Host.Outcome.next (startCon_eq hl), ?_, htmem.trans hmem, fun k hk => ⟨?_, ?_, fun hw hst => ?_⟩⟩
    · rw [State.part, htparts]; exact hnodes
    · rw [htcsr]; exact (hcsr k hk).1
    · rw [htcsr]; exact (hcsr k hk).2
    · have hctx : (conReady s key l).ctx k 0 = s.ctx k 0 := by rw [State.ctx, hsame k]; rfl
      exact foldl_startUnit_resident hk ⟨by rw [hsame k]; exact hw, .inl (by rw [hctx]; exact hst)⟩

end Sys2Proof.Proofs
end

section
/-! The end of a launch (R318, R327): what accesses of the hardware leave, and the release of tiles. -/
namespace Sys2Proof.Proofs
open Sys2Proof Sys2Proof.Machine Sys2Proof.Claims

/-! ### Accesses leave launches and tiles -/

/-- The launches and the tiles are as they were. -/
structure SameUnits (s t : State) : Prop where
  launches : t.launches = s.launches
  tiles : t.tiles = s.tiles

theorem SameUnits.refl (s : State) : SameUnits s s := ⟨rfl, rfl⟩

theorem SameUnits.trans {s t u : State} (h : SameUnits s t) (g : SameUnits t u) : SameUnits s u :=
  ⟨g.launches.trans h.launches, g.tiles.trans h.tiles⟩

theorem sameUnits_foldl {α : Type} (f : State → α → State) (h : ∀ s x, SameUnits s (f s x)) (l : List α) : ∀ s, SameUnits s (l.foldl f s) := by
  induction l with
  | nil => exact SameUnits.refl
  | cons x l ih => exact fun s => (h s x).trans (ih _)

theorem sameUnits_recordMerr (s : State) (m fn : Nat) (code : BitVec 8) (addr : Nat) : SameUnits s (recordMerr s m fn code addr) := ⟨rfl, rfl⟩

theorem sameUnits_writeAt (s : State) (d hpa n x : Nat) : SameUnits s (writeAt s d hpa n x) := by
  unfold writeAt
  split <;> exact ⟨rfl, rfl⟩

theorem sameUnits_copyFrame (s : State) (d src dst : Nat) : SameUnits s (copyFrame s d src dst) := ⟨rfl, rfl⟩

theorem sameUnits_appendRequest (s : State) (d r tag : Nat) (bytes : List Byte) : SameUnits s (appendRequest s d r tag bytes) :=
  (sameUnits_writeAt _ _ _ _ _).trans (sameUnits_writeAt _ _ _ _ _)

theorem sameUnits_walked (s : State) (q : TrReq) (a : Nat) : SameUnits s (walked s q a) := by
  simp only [walked]
  split
  · exact SameUnits.refl s
  · split <;> exact ⟨rfl, rfl⟩


/-- A miss is referred with the launches and the tiles as they were. The test for room in the ring stands as a variable: the kernel would
otherwise evaluate it down to the 2 ^ 64 in it. -/
theorem sameUnits_referMiss {s t : State} {q : TrReq} {stage addr level va tag : Nat} (h : referMiss s q stage addr level va = some (t, tag)) :
    SameUnits s t := by
  unfold referMiss at h
  obtain ⟨room, hroom⟩ : ∃ room, room = ringHasRoom := ⟨_, rfl⟩
  simp only [← hroom] at h
  split at h
  · cases h; exact SameUnits.refl s
  · split at h
    · cases h; exact SameUnits.refl s
    · split at h
      · cases h
      · split at h
        · cases h
          have happ := sameUnits_appendRequest s q.die (ringDescAt s q.die q.fn stage) tag (requestRecord q stage addr level va)
          exact ⟨happ.launches, happ.tiles⟩
        · cases h; exact ⟨rfl, rfl⟩

theorem sameUnits_policyFrame {s t : State} {q : TrReq} {pd f : Nat} (h : policyFrame s q pd = .ok (t, f)) : SameUnits s t := by
  have hframe {v x : Nat} {u : State} (hv : (match slotOf s q.die pd v with
      | some i => Except.ok (s, slotFrame (slotWord s q.die pd i))
      | none => .error (.malformed pd) : Except WalkErr (State × Nat)) = .ok (u, x)) : SameUnits s u := by
    split at hv <;> cases hv
    exact SameUnits.refl s
  simp only [policyFrame] at h
  split at h
  · cases h
  split at h
  · cases h
  split at h
  · split at h
    · cases h
    · exact hframe h
  split at h
  · cases h
  split at h
  · cases h
  split at h
  · split at h
    · cases h; exact SameUnits.refl s
    split at h
    · split at h
      · cases h
      · simp only [bind, Except.bind] at h
        split at h
        · cases h
        · cases h
          exact ((sameUnits_writeAt ..).trans (sameUnits_copyFrame ..)).trans (sameUnits_writeAt ..)
    · exact hframe h
  split at h
  · cases h
  · exact hframe h

/-- A translation leaves launches and tiles: it marks what the walk touched, takes a frame from the pool of its policy, or refers a miss. -/
theorem sameUnits_translate (s : State) (q : TrReq) (a : Nat) : SameUnits s (Machine.translate s q a).1 := by
  unfold Machine.translate
  extract_lets fail
  have hfail (e : WalkErr) (u : State) : SameUnits u (fail e u).1 := by
    cases e with
    | malformed loc => exact sameUnits_recordMerr ..
    | draft loc => exact sameUnits_recordMerr ..
    | page => exact SameUnits.refl u
    | perm => exact SameUnits.refl u
    | refer stage addr level =>
      simp only [fail]
      split
      · exact SameUnits.refl u
      split
      · exact sameUnits_referMiss ‹_›
      · exact sameUnits_recordMerr ..
  clear_value fail
  have hw := sameUnits_walked s q a
  split
  · exact SameUnits.refl s
  split
  · exact hw.trans (hfail _ _)
  split
  · split
    · split
      · have hp := sameUnits_policyFrame ‹_›
        split
        · exact hw.trans (hp.trans (hfail _ _))
        split <;> exact hw.trans hp
      · exact hw.trans (hfail _ _)
    · exact hw
  · exact hw

/-! ### Accesses of the hardware (R166, R325) -/

/-- The state in which a result ends. -/
def endState {α : Type} : EStateM.Result AccErr State α → State
  | .ok _ t => t
  | .error _ t => t

/-- The access leaves launches and tiles, however it ends. -/
def LeavesUnits {α : Type} (m : A α) : Prop := ∀ s, SameUnits s (endState (m s))

theorem leavesUnits_pure {α : Type} (a : α) : LeavesUnits (pure a : A α) := SameUnits.refl

theorem leavesUnits_throw {α : Type} (e : AccErr) : LeavesUnits (throw e : A α) := SameUnits.refl

theorem leavesUnits_getA : LeavesUnits getA := SameUnits.refl

theorem leavesUnits_modA {f : State → State} (h : ∀ s, SameUnits s (f s)) : LeavesUnits (modA f) := h

theorem leavesUnits_bind {α β : Type} {m : A α} {f : α → A β} (hm : LeavesUnits m) (hf : ∀ a, LeavesUnits (f a)) : LeavesUnits (m >>= f) := by
  intro s
  have h := hm s
  simp only [bind, EStateM.bind]
  revert h
  cases m s with
  | ok a t => exact fun h => h.trans (hf a t)
  | error e t => exact id

theorem leavesUnits_mapM {α β : Type} {f : α → A β} (h : ∀ a, LeavesUnits (f a)) (l : List α) : LeavesUnits (l.mapM f) := by
  rw [← List.mapM'_eq_mapM]
  induction l with
  | nil => exact leavesUnits_pure _
  | cons x l ih => exact leavesUnits_bind (h x) fun _ => leavesUnits_bind ih fun _ => leavesUnits_pure _

theorem leavesUnits_eachA {α : Type} {f : α → A Unit} (h : ∀ a, LeavesUnits (f a)) (l : List α) : LeavesUnits (eachA l f) := by
  induction l with
  | nil => exact leavesUnits_pure _
  | cons x l ih => exact leavesUnits_bind (h x) fun _ => ih

theorem leavesUnits_checkSeal (s : State) (a : Acc) (d first last : Nat) : LeavesUnits (checkSeal s a d first last) := by
  unfold checkSeal
  split
  · exact leavesUnits_throw _
  · exact leavesUnits_pure _

theorem sameUnits_recordErrors (s : State) (d : Nat) (secs : List Nat) (tag : BitVec 4) : SameUnits s (recordErrors s d secs tag) := by
  unfold recordErrors
  extract_lets x recs good
  split <;> exact ⟨rfl, rfl⟩

theorem sameUnits_scramble (s : State) (d key c : Nat) : SameUnits s (scramble s d key c) := by
  unfold scramble
  split <;> exact ⟨rfl, rfl⟩

theorem sameUnits_writeHbm (s : State) (d hpa : Nat) (tag : BitVec 4) (key : Nat) (bs : List Byte) :
    SameUnits s (writeHbm s d hpa tag key bs) := by
  have h := sameUnits_foldl (fun s c => scramble s d key c) (fun s c => sameUnits_scramble s d key c)
    ((sectorsOf hpa bs.length).filter (fun c => !decide (hpa ≤ c * 32 ∧ c * 32 + 32 ≤ hpa + bs.length))) s
  exact ⟨h.launches, h.tiles⟩

theorem leavesUnits_hwPut (fn : Nat) (l : List Piece) : ∀ bs, LeavesUnits (hwPut fn l bs) := by
  induction l with
  | nil => exact fun _ => leavesUnits_pure _
  | cons x l ih =>
    refine fun bs => leavesUnits_bind (leavesUnits_modA fun s => ?_) fun _ => ih _
    cases x with
    | hbm d hpa n leaf => exact sameUnits_writeHbm ..
    | host port addr n => exact ⟨rfl, rfl⟩
    | tile => exact SameUnits.refl s
    | shard => exact SameUnits.refl s


/-- A check that traps, and goes on otherwise. -/
theorem leavesUnits_guard {α : Type} {c : Prop} [Decidable c] {k : Cause} {v : Word} {f : Unit → A α} (h : ∀ u, LeavesUnits (f u)) :
    LeavesUnits (if c then (do let r ← trapA k v; f r) else f ()) := by
  split
  · exact leavesUnits_bind (leavesUnits_throw _) h
  · exact h ()

/-- A step that replaces the state by one with the same launches and tiles. -/
theorem leavesUnits_replace {α β : Type} {f : State → State × β} {g : β → A α} (hf : ∀ s, SameUnits s (f s).1) (hg : ∀ x, LeavesUnits (g x)) :
    LeavesUnits (do let s ← getA; let (t, x) := f s; set t; g x) := fun s => (hf s).trans (hg _ _)

/-- The piece that a translation gives for a part of the access, or how the access ends there. -/
def pieceOf (h : HwFor) (p : Word) (n d : Nat) (write : Bool) (e : Nat × Nat) : Except TrErr Leaf → A Piece
  | .ok l => match l.home with
    | .hbm hpa => pure (Piece.hbm d hpa e.2 l)
    | .host port addr => pure (Piece.host port addr e.2)
  | .error .page => trapA .page p
  | .error .perm => trapA .perm p
  | .error .busy => throw .stall
  | .error (.refer stage tag) => throw (.refer { elem := 0, die := d, fn := h.fn, stage := stage, tag := tag, addr := p, write := write, size := n
                                                 data := 0, parked := none, solo := true })

theorem leavesUnits_pieceOf (h : HwFor) (p : Word) (n d : Nat) (write : Bool) (e : Nat × Nat) (x : Except TrErr Leaf) :
    LeavesUnits (pieceOf h p n d write e x) := by
  cases x with
  | ok l =>
    simp only [pieceOf]
    split <;> exact leavesUnits_pure _
  | error r => cases r <;> exact leavesUnits_throw _

theorem leavesUnits_hwPieces (h : HwFor) (p : Word) (n : Nat) (write : Bool) : LeavesUnits (hwPieces h p n write) := by
  refine leavesUnits_bind leavesUnits_getA fun s => leavesUnits_guard fun _ => leavesUnits_guard fun _ => ?_
  split
  · exact leavesUnits_throw _
  next d _ =>
  refine leavesUnits_guard fun _ => leavesUnits_bind (leavesUnits_mapM (fun e => ?_) _) fun ps => leavesUnits_bind leavesUnits_getA fun s => ?_
  · exact leavesUnits_replace (f := fun s => Machine.translate s { hwReq d h.fn with write := write, pol := h.pol } e.1)
      (fun s => sameUnits_translate s _ _) (leavesUnits_pieceOf h p n d write e)
  refine leavesUnits_bind (leavesUnits_eachA (fun x => ?_) _) fun _ => leavesUnits_bind (leavesUnits_modA (sameUnits_foldl _ (fun s x => ?_) ps)) fun _ =>
    leavesUnits_guard fun _ => leavesUnits_pure ps
  · cases x with
    | hbm => exact leavesUnits_checkSeal _ _ _ _ _
    | host => exact leavesUnits_checkSeal _ _ _ _ _
    | tile => exact leavesUnits_pure ()
    | shard => exact leavesUnits_pure ()
  · cases x with
    | hbm => exact sameUnits_recordErrors ..
    | host => exact SameUnits.refl s
    | tile => exact SameUnits.refl s
    | shard => exact SameUnits.refl s

theorem leavesUnits_hwWrite (h : HwFor) (p : Word) (bs : List Byte) : LeavesUnits (hwWrite h p bs) :=
  leavesUnits_bind (leavesUnits_hwPieces _ _ _ _) fun _ => leavesUnits_hwPut _ _ _

theorem ends_endState {α : Type} (x : A α) (s : State) : (x.ends s).1 = endState (x s) := by
  unfold A.ends
  split <;> simp only [*, endState]

theorem sameUnits_hwStore (h : HwFor) (p : Word) (bs : List Byte) (s : State) : SameUnits s (hwStore h p bs s).1 := by
  have hw : SameUnits s ((hwWrite h p bs).ends s).1 := ends_endState (hwWrite h p bs) s ▸ leavesUnits_hwWrite h p bs s
  unfold hwStore
  revert hw
  cases (hwWrite h p bs).ends s with
  | mk t e => cases e <;> exact fun hw => ⟨hw.launches, hw.tiles⟩

/-! ### The end of a launch (R318, R327) -/

theorem releaseTile_work_keeps {s : State} (k : Nat) {j : Nat} (h : (s.tile j).work = none) : ((releaseTile s k).tile j).work = none := by
  by_cases hj : j = k
  · subst hj
    exact releaseTile_work s j
  · have hother : (releaseTile s k).tile j = s.tile j := by
      rw [State.tile, releaseTile_tiles]
      exact Map.getD_set_other _ _ _ _ _ hj
    rw [hother, h]

/-- Once the tiles of a list are released, none of them holds a unit. -/
theorem releaseTiles_work {ks : List Nat} {k : Nat} (h : k ∈ ks) (s : State) : ((ks.foldl releaseTile s).tile k).work = none :=
  (foldl_sets (f := releaseTile) (P := fun _ => True) (Q := fun j s => (s.tile j).work = none) (fun _ _ _ => trivial)
    (fun s k _ => releaseTile_work s k) (fun _ k _ _ hj => releaseTile_work_keeps k hj) ks s trivial).2 k h

/-- The state of a launch that ends, and its tiles released. -/
def endedState (s : State) (id status : Nat) (l : Launch) : State :=
  ((s.tilesOf id).foldl releaseTile s).setLaunch id { l with phase := .ended, status := BitVec.ofNat 8 status, frames := [] }

/-- What the end of a launch does further, to its partition and with its completion record, leaves launches and tiles. The store of the
hardware stands as a variable: the kernel would otherwise evaluate it. -/
theorem sameUnits_endLaunch {s : State} {id : Nat} {l : Launch} (status : Nat) (hl : Map.get? s.launches id = some l) (hp : l.phase ≠ .ended) :
    SameUnits (endedState s id status l) (endLaunch s id status) := by
  unfold endLaunch
  obtain ⟨store, hstore⟩ : ∃ store, store = hwStore := ⟨_, rfl⟩
  have hkeep (h : HwFor) (p : Word) (bs : List Byte) {u v : State} {b : Bool} (hb : store h p bs u = (v, b)) : SameUnits u v := by
    have hu := sameUnits_hwStore h p bs u
    rwa [← hstore, hb] at hu
  rw [← hstore]
  clear hstore
  simp only [hl, if_neg hp]
  have hparts (p : Nat) (f g : Partition → Partition) :
      SameUnits (endedState s id status l) (((endedState s id status l).modPart p f).modPart p g) := ⟨rfl, rfl⟩
  split
  · exact (hparts _ _ _).trans (sameUnits_recordMerr _ _ _ _ _)
  split
  next v htail => exact ((hparts _ _ _).trans (hkeep _ _ _ htail)).trans (sameUnits_recordMerr _ _ _ _ _)
  next v htail =>
    have hv := (hparts _ _ _).trans (hkeep _ _ _ htail)
    split
    next w hword => exact hv.trans (hkeep _ _ _ hword)
    next w hword => exact (hv.trans (hkeep _ _ _ hword)).trans (sameUnits_recordMerr _ _ _ _ _)

theorem launchEnds : LaunchEnds := by
  intro s key status l hl hp
  have hend := sameUnits_endLaunch status hl hp
  refine ⟨⟨_, (congrArg (Map.get? · key) hend.launches).trans (Map.get?_set_same _ _ _), rfl, rfl, rfl⟩, fun k u hk hu => ?_⟩
  subst hu
  rw [State.tile, hend.tiles]
  exact releaseTiles_work (mem_tilesOf_of_work hk) s

/-- Settles O55: the seven parts of the statement are the theorems named here. -/
theorem launchEvents : Obligations.LaunchEvents :=
  ⟨ringDoorbells, ringScan, ringBases, dispatchChecks, launchEnds, unitPlacement, unitStarts⟩

end Sys2Proof.Proofs
end

section
/-! Elements of vectors, and vector arithmetic on floats and on integers (R17, R53, R61, R135 to R142). -/
namespace Sys2Proof.Proofs
open Sys2Proof Sys2Proof.Machine Sys2Proof.Claims

/-! ### Elements of vectors -/

theorem elemOf_lt (v : Vec) (w j : Nat) : elemOf v w j < 2 ^ w := Nat.mod_lt _ (Nat.two_pow_pos w)

theorem vecOf_eq_ofDigits (w : Nat) (l : List Nat) : vecOf w l = BitVec.ofNat 512 (Nat.ofDigits (2 ^ w) (l.map (· % 2 ^ w))) := by
  rw [vecOf, Nat.ofDigits_eq_foldr, List.foldr_map]
  simp

/-- A field of a number lies below what a reduction takes away. -/
theorem bits_mod_two_pow {lo len m : Nat} (h : lo + len ≤ m) (n : Nat) : bits (n % 2 ^ m) lo len = bits n lo len := by
  refine Nat.eq_of_testBit_eq fun i => ?_
  simp only [bits, Nat.testBit_mod_two_pow, Nat.testBit_div_two_pow]
  by_cases hi : i < len
  · simp [hi, show i + lo < m by omega]
  · simp [hi]

theorem bits_toNat_ofNat {lo len m : Nat} (h : lo + len ≤ m) (n : Nat) : bits (BitVec.ofNat m n).toNat lo len = bits n lo len := by
  rw [BitVec.toNat_ofNat, bits_mod_two_pow h]

/-- What a vector made of elements shows of one. -/
theorem elemOf_vecOf {w j : Nat} {l : List Nat} (hj : j < l.length) (hl : w * l.length ≤ 512) : elemOf (vecOf w l) w j = l[j] % 2 ^ w := by
  have hlt : ∀ x ∈ l.map (· % 2 ^ w), x < 2 ^ w := by
    intro x hx
    obtain ⟨y, -, rfl⟩ := List.mem_map.mp hx
    exact Nat.mod_lt _ (Nat.two_pow_pos w)
  have hsize : w * j + w ≤ 512 := (Nat.mul_le_mul_left w hj).trans hl
  rw [vecOf_eq_ofDigits, elemOf, bits_toNat_ofNat hsize, bits, pow_mul, ofDigits_digit (Nat.two_pow_pos w) hlt (by simpa using hj),
    List.getElem_map]

/-- A vector is its elements. -/
theorem eq_of_elemOf {w : Nat} (hw : w * (512 / w) = 512) {u v : Vec} (h : ∀ j < 512 / w, elemOf u w j = elemOf v w j) : u = v := by
  refine BitVec.eq_of_getLsbD_eq fun i hi => ?_
  have hpos : 0 < w := Nat.pos_of_ne_zero (by rintro rfl; simp at hw)
  have hbit (x : Vec) : x.getLsbD i = (elemOf x w (i / w)).testBit (i % w) := by
    rw [elemOf, bits, Nat.testBit_mod_two_pow, Nat.testBit_div_two_pow, Nat.mod_add_div, BitVec.getLsbD]
    simp [Nat.mod_lt i hpos]
  rw [hbit, hbit, h _ (Nat.div_lt_of_lt_mul (hw.symm ▸ hi))]

/-- A result computed element by element has the lanes of its statement (R17, R135). -/
theorem lanes_mergeElems {w : Nat} (hw : w * (512 / w) = 512) (p : BitVec 16) (old : Vec) (r : Nat → Nat) : lanes w p old (mergeElems w p old r) r := by
  intro j hj
  rw [mergeElems, elemOf_vecOf (by simpa using hj) (by simp [hw]), List.getElem_map, List.getElem_range]
  split
  · rfl
  · exact Nat.mod_eq_of_lt (elemOf_lt _ _ _)

theorem mergeElems_of_lanes {w : Nat} (hw : w * (512 / w) = 512) {p : BitVec 16} {old v : Vec} {r : Nat → Nat} (h : lanes w p old v r) :
    mergeElems w p old r = v :=
  eq_of_elemOf hw fun j hj => (lanes_mergeElems hw p old r j hj).trans (h j hj).symm

theorem fmt_width_divides (f : FloatFmt) : f.width * (512 / f.width) = 512 := by cases f <;> rfl

/-! ### The end of an instruction that may take slots of rings -/

theorem ends_of_run {m : M Unit} {s : State} {w : Work} (h : m (started s) = .ok () w) : ends (runM m s) s w :=
  ⟨runM_ok h, fun _ => runM_short h⟩

/-- The result is written and the flags are raised. -/
theorem putElems_ok {d : BitVec 5} {n : Nat} {p : BitVec 16} {f : Nat → FRes} {old v : Vec} {w w' : Work} (hn : n * (512 / n) = 512)
    (hold : oldV d w = .ok old w) (hl : lanes n p old v (fun j => (f j).val)) (hd : dstV d v w = .ok () w') :
    putElems d n p f w = .ok () { w' with s := w'.s.modCur (fun x => x.orFlags (flagsOf n p f)) } := by
  simp only [putElems, M_bind, hold, mergeElems_of_lanes hn hl, hd]
  rfl

theorem countDraw_run (rm : BitVec 3) (w : Work) :
    countDraw rm w = .ok () (if rm = 4 then { w with s := w.s.modCur (fun x => { x with draws := x.draws + 1 }) } else w) := by
  unfold countDraw
  split <;> rfl

/-- The result is written, the flags are raised, and the draw counter advances where the instruction rounds under STO. -/
theorem putElems_raised {d : BitVec 5} {n : Nat} {p : BitVec 16} {f : Nat → FRes} {old v : Vec} {w w' : Work} (rounds : Bool) (rm : BitVec 3)
    (hn : n * (512 / n) = 512) (hold : oldV d w = .ok old w) (hl : lanes n p old v (fun j => (f j).val)) (hd : dstV d v w = .ok () w') :
    (do putElems d n p f; if rounds then countDraw rm) w = .ok () (raised rounds rm (flagsOf n p f) w') := by
  rw [M_bind, putElems_ok hn hold hl hd]
  cases rounds with
  | false => rfl
  | true => simp [countDraw_run, raised]

/-! ### Types (R133, R138, R140) -/

theorem typeOf_some {t : BitVec 4} {e : ElemTy} (h : elemTy t = some e) (iw : Word32) (w : Work) : typeOf t iw w = .ok e w := by
  simp [typeOf, h]

theorem typeOf_none {t : BitVec 4} (h : elemTy t = none) (iw : Word32) (w : Work) :
    typeOf t iw w = .error (.trap .illegal (iw.setWidth 64)) w := by
  simp only [typeOf, h]
  rfl

/-- The codes of the types that float arithmetic takes. -/
theorem float_type {t : BitVec 4} {f : FloatFmt} (h : (t, f) ∈ [(0#4, FloatFmt.f32), (1#4, .bf16), (2#4, .f16)]) :
    elemTy t = some (.flt f) ∧ (ElemTy.flt f).arith? = some f := by
  simp only [List.mem_cons, Prod.mk.injEq, List.not_mem_nil, or_false] at h
  rcases h with ⟨rfl, rfl⟩ | ⟨rfl, rfl⟩ | ⟨rfl, rfl⟩ <;> exact ⟨rfl, rfl⟩

theorem arithTy_ok {e : ElemTy} {f : FloatFmt} (h : e.arith? = some f) (iw : Word32) (w : Work) : arithTy e iw w = .ok f w := by
  simp [arithTy, h]

/-- The codes of the types that integer arithmetic takes. -/
theorem int_type {t : BitVec 4} {sgn : Bool} {w : Nat} (h : (t, sgn, w) ∈ [(5#4, true, 8), (6#4, true, 16), (7#4, true, 32), (8#4, true, 64),
    (9#4, false, 8), (10#4, false, 16), (11#4, false, 32), (12#4, false, 64)]) :
    elemTy t = some (.int sgn w) ∧ (ElemTy.int sgn w).int8? = some (sgn, w) ∧ w * (512 / w) = 512 ∧ 0 < w := by
  simp only [List.mem_cons, Prod.mk.injEq, List.not_mem_nil, or_false] at h
  rcases h with ⟨rfl, rfl, rfl⟩ | ⟨rfl, rfl, rfl⟩ | ⟨rfl, rfl, rfl⟩ | ⟨rfl, rfl, rfl⟩ | ⟨rfl, rfl, rfl⟩ | ⟨rfl, rfl, rfl⟩ | ⟨rfl, rfl, rfl⟩ |
    ⟨rfl, rfl, rfl⟩ <;> exact ⟨rfl, rfl, rfl, by decide⟩

/-! ### Float arithmetic (R138, R139, R142) -/

theorem kreg_started (s : State) (k : BitVec 3) : (started s).s.curCtx.kreg k = s.curCtx.kreg k := by rw [started_curCtx]

theorem fltOp2_gives {i : BitVec 5 → BitVec 5 → BitVec 5 → BitVec 3 → BitVec 4 → Instr} {rounds : Bool}
    {r : FloatFmt → BitVec 3 → BitVec 16 → Nat → Nat → FRes}
    (hi : ∀ d a b k t s, exec (i d a b k t) s = runM (fltOp2 rounds r d a b k t (wordOf (i d a b k t))) s) : vfloat2Gives i rounds r := by
  intro s d a b k t f x y old v w1 w2 w3 ht hdirs hx hy hold one hl hd
  rw [hi]
  refine ends_of_run ?_
  obtain ⟨hty, harith⟩ := float_type ht
  rw [fltOp2, M_bind, typeOf_some hty]
  simp only [M_bind, arithTy_ok harith, hdirs, pred_run, kreg_started, hx, hy, getS_run]
  simpa only [M_bind] using putElems_raised rounds w2.s.curCtx.rm (fmt_width_divides f) hold hl hd

theorem fltOp1_gives {i : BitVec 5 → BitVec 5 → BitVec 3 → BitVec 4 → Instr} {rounds : Bool} {r q : FloatFmt → BitVec 3 → BitVec 16 → Nat → FRes}
    (hi : ∀ d a k t s, exec (i d a k t) s = runM (fltOp1 rounds q d a k t (wordOf (i d a k t))) s)
    (hq : ∀ f rm draw x, x < 2 ^ f.width → q f rm draw x = r f rm draw x) : vfloat1Gives i rounds r := by
  intro s d a k t f x old v w1 w2 ht hdirs hx hold one hl hd
  rw [hi]
  refine ends_of_run ?_
  obtain ⟨hty, harith⟩ := float_type ht
  rw [fltOp1, M_bind, typeOf_some hty]
  simp only [M_bind, arithTy_ok harith, hdirs, pred_run, kreg_started, hx, getS_run, hq _ _ _ _ (elemOf_lt _ _ _)]
  simpa only [M_bind] using putElems_raised rounds w1.s.curCtx.rm (fmt_width_divides f) hold hl hd

theorem fmaOp_gives {i : BitVec 5 → BitVec 5 → BitVec 5 → BitVec 5 → BitVec 3 → BitVec 1 → Instr} {np nc : Bool}
    (hi : ∀ d a b c k t s, exec (i d a b c k t) s = runM (fmaOp np nc d a b c k t (wordOf (i d a b c k t))) s) : vfmaGives i np nc := by
  intro s d a b c k t x y z old v w1 w2 w3 w4 f hdirs hx hy hz hold one hl hd
  rw [hi]
  refine ends_of_run ?_
  rw [fmaOp, M_bind, hdirs]
  simp only [M_bind, pred_run, kreg_started, hx, hy, hz, getS_run]
  simpa only [M_bind, if_true] using putElems_raised true w3.s.curCtx.rm (fmt_width_divides f) hold hl hd

/-- The sign bit cleared (R139). -/
theorem signOp_clear (f : FloatFmt) (x : Nat) :
    signOp false f x = { val := if (decodeFp f x).isNan then f.nan else x % 2 ^ (f.width - 1), flags := 0 } := by
  unfold signOp
  split <;> rfl

/-- A bit above a number is added by exclusive or, and the top bit of a number is taken away by it. -/
theorem xor_two_pow {n x : Nat} (hx : x < 2 ^ (n + 1)) : x ^^^ 2 ^ n = if x < 2 ^ n then x + 2 ^ n else x % 2 ^ n := by
  have htop : x.testBit n = decide (2 ^ n ≤ x) := by
    rw [Nat.testBit_eq_decide_div_mod_eq, decide_eq_decide]
    have hdiv : x / 2 ^ n < 2 := Nat.div_lt_of_lt_mul (by rwa [Nat.pow_succ] at hx)
    rw [Nat.mod_eq_of_lt hdiv, ← Nat.one_le_div_iff (Nat.two_pow_pos n)]
    omega
  have hhigh {i : Nat} (hi : n < i) : x.testBit i = false :=
    Nat.testBit_lt_two_pow (hx.trans_le (Nat.pow_le_pow_right (by decide) hi))
  refine Nat.eq_of_testBit_eq fun i => ?_
  rw [Nat.testBit_xor, Nat.testBit_two_pow]
  split
  next hlt =>
    rw [Nat.add_comm, ← Nat.mul_one (2 ^ n), Nat.two_pow_add_eq_or_of_lt hlt, Nat.mul_one, Nat.testBit_or, Nat.testBit_two_pow]
    by_cases hi : n = i
    · subst hi
      simp [htop, hlt]
    · simp [hi]
  next hge =>
    rw [Nat.testBit_mod_two_pow]
    rcases Nat.lt_trichotomy i n with hi | rfl | hi
    · simp [hi, hi.ne']
    · simp [htop, Nat.not_lt.mp hge]
    · simp [hi.ne, hhigh hi, hi.not_gt]

/-- The sign bit of an encoding inverted (R139). -/
theorem signOp_flip (f : FloatFmt) {x : Nat} (hx : x < 2 ^ f.width) :
    signOp true f x = { val := if (decodeFp f x).isNan then f.nan else (x % 2 ^ f.width) ^^^ 2 ^ (f.width - 1), flags := 0 } := by
  obtain ⟨n, hn⟩ : ∃ n, f.width = n + 1 := by cases f <;> exact ⟨_, rfl⟩
  have hmag : x = x % 2 ^ n ↔ x < 2 ^ n := by
    rw [eq_comm, Nat.mod_eq_iff_lt (Nat.two_pow_pos n).ne']
  rw [signOp, Nat.mod_eq_of_lt hx, hn, Nat.add_sub_cancel, xor_two_pow (hn ▸ hx)]
  split
  · rfl
  · simp only [hmag, Bool.true_and, decide_eq_true_eq]
    split
    next hlt => rw [Nat.mod_eq_of_lt hlt]
    next => rfl

theorem vectorFloatResults : VectorFloatResults :=
  ⟨fltOp2_gives fun _ _ _ _ _ _ => rfl, fltOp2_gives fun _ _ _ _ _ _ => rfl, fltOp2_gives fun _ _ _ _ _ _ => rfl,
    fltOp2_gives fun _ _ _ _ _ _ => rfl, fltOp2_gives fun _ _ _ _ _ _ => rfl, fltOp2_gives fun _ _ _ _ _ _ => rfl,
    fltOp1_gives (fun _ _ _ _ _ => rfl) fun _ _ _ _ _ => rfl, fltOp1_gives (fun _ _ _ _ _ => rfl) fun f _ _ x _ => signOp_clear f x,
    fltOp1_gives (fun _ _ _ _ _ => rfl) fun f _ _ _ hx => signOp_flip f hx,
    fmaOp_gives fun _ _ _ _ _ _ _ => rfl, fmaOp_gives fun _ _ _ _ _ _ _ => rfl, fmaOp_gives fun _ _ _ _ _ _ _ => rfl⟩

/-! ### Integer arithmetic (R140, R141) -/

theorem vintOp_gives {i : BitVec 5 → BitVec 5 → BitVec 5 → BitVec 3 → BitVec 4 → Instr} {f : Bool → Nat → Nat → Nat → Nat}
    {r : (sgn : Bool) → (w : Nat) → BitVec w → BitVec w → BitVec w}
    (hi : ∀ d a b k t s, exec (i d a b k t) s = runM (vintOp f d a b k t (wordOf (i d a b k t))) s)
    (hf : ∀ sgn w x y, 0 < w → x < 2 ^ w → y < 2 ^ w → f sgn w x y = (r sgn w (BitVec.ofNat w x) (BitVec.ofNat w y)).toNat) : vintGives i r := by
  intro s d a b k t sgn w x y old v w1 w2 w3 ht hdirs hx hy hold hl hd
  rw [hi]
  refine ends_of_run ?_
  obtain ⟨hty, hint, hw, hpos⟩ := int_type ht
  rw [vintOp, M_bind, typeOf_some hty]
  simp only [hint, M_bind, hdirs, pred_run, kreg_started, hx, hy, hold, hf _ _ _ _ hpos (elemOf_lt _ _ _) (elemOf_lt _ _ _), mergeElems_of_lanes hw hl, hd]

theorem readInt_eq_toInt {w : Nat} (hw : 0 < w) (x : Nat) : readInt true w x = (BitVec.ofNat w x).toInt := by
  obtain ⟨n, rfl⟩ : ∃ n, w = n + 1 := ⟨w - 1, by omega⟩
  simp only [readInt, BitVec.toInt_eq_toNat_cond, BitVec.toNat_ofNat, true_and, Nat.add_sub_cancel]
  have hpow : 2 ^ (n + 1) = 2 * 2 ^ n := Nat.pow_succ'
  split <;> split <;> first | omega | (push_cast; rfl)

theorem readInt_lt_iff {w : Nat} (hw : 0 < w) (x y : Nat) : readInt true w x < readInt true w y ↔ (BitVec.ofNat w x).slt (BitVec.ofNat w y) = true := by
  rw [readInt_eq_toInt hw, readInt_eq_toInt hw, BitVec.slt_iff_toInt_lt]

theorem intAdd_eq (w x y : Nat) : intAdd w x y = (BitVec.ofNat w x + BitVec.ofNat w y).toNat := by
  simp [intAdd]

theorem intMul_eq (w x y : Nat) : intMul w x y = (BitVec.ofNat w x * BitVec.ofNat w y).toNat := by
  simp [intMul]

section
variable {w x y : Nat} (hx : x < 2 ^ w) (hy : y < 2 ^ w)
include hx hy

theorem intSub_eq : intSub w x y = (BitVec.ofNat w x - BitVec.ofNat w y).toNat := by
  simp only [intSub, BitVec.toNat_sub, BitVec.toNat_ofNat, Nat.mod_eq_of_lt hx, Nat.mod_eq_of_lt hy]
  congr 1
  omega

theorem intAnd_eq : intAnd w x y = (BitVec.ofNat w x &&& BitVec.ofNat w y).toNat := by
  simp [intAnd, Nat.mod_eq_of_lt hx, Nat.mod_eq_of_lt hy]

theorem intOr_eq : intOr w x y = (BitVec.ofNat w x ||| BitVec.ofNat w y).toNat := by
  simp [intOr, Nat.mod_eq_of_lt hx, Nat.mod_eq_of_lt hy]

theorem intXor_eq : intXor w x y = (BitVec.ofNat w x ^^^ BitVec.ofNat w y).toNat := by
  simp [intXor, Nat.mod_eq_of_lt hx, Nat.mod_eq_of_lt hy]

theorem intShl_eq : intShl w x y = (BitVec.ofNat w x <<< (BitVec.ofNat w y).toNat).toNat := by
  rw [BitVec.toNat_shiftLeft, BitVec.toNat_ofNat, BitVec.toNat_ofNat, Nat.mod_eq_of_lt hx, Nat.mod_eq_of_lt hy, Nat.shiftLeft_eq, intShl]
  split
  · rfl
  next h => exact (Nat.mod_eq_zero_of_dvd ((Nat.pow_dvd_pow 2 (Nat.not_lt.mp h)).mul_left x)).symm

theorem intShr_eq : intShr w x y = (BitVec.ofNat w x >>> (BitVec.ofNat w y).toNat).toNat := by
  rw [BitVec.toNat_ushiftRight, BitVec.toNat_ofNat, BitVec.toNat_ofNat, Nat.mod_eq_of_lt hx, Nat.mod_eq_of_lt hy, Nat.shiftRight_eq_div_pow, intShr]
  split
  · rfl
  next h => exact (Nat.div_eq_of_lt (hx.trans_le (Nat.pow_le_pow_right (by decide) (Nat.not_lt.mp h)))).symm

end

/-- A shift by more than the width gives what one by the width gives. -/
theorem toInt_div_two_pow {w : Nat} (x : BitVec w) {n : Nat} (h : w ≤ n) : x.toInt / 2 ^ n = x.toInt / 2 ^ w := by
  have hle : (2 : Int) ^ w ≤ 2 ^ n := pow_le_pow_right₀ (by decide) h
  have hlo := BitVec.le_two_mul_toInt (x := x)
  have hhi := BitVec.two_mul_toInt_lt (x := x)
  rcases lt_or_ge x.toInt 0 with hneg | hpos
  · rw [Int.ediv_eq_neg_one_of_neg_of_le hneg (by omega), Int.ediv_eq_neg_one_of_neg_of_le hneg (by omega)]
  · rw [Int.ediv_eq_zero_of_lt hpos (by omega), Int.ediv_eq_zero_of_lt hpos (by omega)]

theorem intSra_eq {w : Nat} (hw : 0 < w) (x : Nat) {y : Nat} (hy : y < 2 ^ w) : intSra w x y = ((BitVec.ofNat w x).sshiftRight (BitVec.ofNat w y).toNat).toNat := by
  have hcount : (BitVec.ofNat w x).toInt / 2 ^ (if y < w then y else w) = (BitVec.ofNat w x).toInt / 2 ^ y := by
    split
    · rfl
    next h => exact (toInt_div_two_pow _ (Nat.not_lt.mp h)).symm
  rw [intSra, readInt_eq_toInt hw, hcount, BitVec.sshiftRight, BitVec.toNat_ofNat, Nat.mod_eq_of_lt hy, BitVec.toNat_ofInt,
    Int.shiftRight_eq_div_pow, wrapInt]
  push_cast
  rfl

section
variable {w x y : Nat} (hw : 0 < w) (hx : x < 2 ^ w) (hy : y < 2 ^ w)
include hw hx hy

theorem intMin_eq (sgn : Bool) : (if sgn then intMinS w else intMinN w) x y =
    (if (if sgn then (BitVec.ofNat w x).slt (BitVec.ofNat w y) else (BitVec.ofNat w x).ult (BitVec.ofNat w y)) then BitVec.ofNat w x
      else BitVec.ofNat w y).toNat := by
  have hnat {n : Nat} (h : n < 2 ^ w) : (BitVec.ofNat w n).toNat = n := toNat_ofNat_of_lt h
  cases sgn with
  | true =>
    simp only [if_true, intMinS, readInt_lt_iff hw]
    split <;> simp [hnat, hx, hy, Nat.mod_eq_of_lt]
  | false =>
    simp only [Bool.false_eq_true, if_false, intMinN, BitVec.ult, hnat hx, hnat hy, decide_eq_true_eq, Nat.mod_eq_of_lt hy]
    split <;> simp only [hnat, hx, hy] <;> omega

theorem intMax_eq (sgn : Bool) : (if sgn then intMaxS w else intMaxN w) x y =
    (if (if sgn then (BitVec.ofNat w x).slt (BitVec.ofNat w y) else (BitVec.ofNat w x).ult (BitVec.ofNat w y)) then BitVec.ofNat w y
      else BitVec.ofNat w x).toNat := by
  have hnat {n : Nat} (h : n < 2 ^ w) : (BitVec.ofNat w n).toNat = n := toNat_ofNat_of_lt h
  cases sgn with
  | true =>
    simp only [if_true, intMaxS, readInt_lt_iff hw]
    split <;> simp [hnat, hx, hy, Nat.mod_eq_of_lt]
  | false =>
    simp only [Bool.false_eq_true, if_false, intMaxN, BitVec.ult, hnat hx, hnat hy, decide_eq_true_eq, Nat.mod_eq_of_lt hy]
    split <;> simp only [hnat, hx, hy] <;> omega

end

theorem vectorIntegerResults : VectorIntegerResults :=
  ⟨vintOp_gives (fun _ _ _ _ _ _ => rfl) fun _ w x y _ _ _ => intAdd_eq w x y,
    vintOp_gives (fun _ _ _ _ _ _ => rfl) fun _ _ _ _ _ hx hy => intSub_eq hx hy,
    vintOp_gives (fun _ _ _ _ _ _ => rfl) fun _ w x y _ _ _ => intMul_eq w x y,
    vintOp_gives (fun _ _ _ _ _ _ => rfl) fun sgn _ _ _ hw hx hy => intMin_eq hw hx hy sgn,
    vintOp_gives (fun _ _ _ _ _ _ => rfl) fun sgn _ _ _ hw hx hy => intMax_eq hw hx hy sgn,
    vintOp_gives (fun _ _ _ _ _ _ => rfl) fun _ _ _ _ _ hx hy => intAnd_eq hx hy,
    vintOp_gives (fun _ _ _ _ _ _ => rfl) fun _ _ _ _ _ hx hy => intOr_eq hx hy,
    vintOp_gives (fun _ _ _ _ _ _ => rfl) fun _ _ _ _ _ hx hy => intXor_eq hx hy,
    vintOp_gives (fun _ _ _ _ _ _ => rfl) fun _ _ _ _ _ hx hy => intShl_eq hx hy,
    vintOp_gives (fun _ _ _ _ _ _ => rfl) fun _ _ _ _ _ hx hy => intShr_eq hx hy,
    vintOp_gives (fun _ _ _ _ _ _ => rfl) fun _ _ x _ hw _ hy => intSra_eq hw x hy⟩

/-- Settles O24: every function is one of three shapes, whose result is written lane by lane. -/
theorem vectorArithmeticResults : Obligations.VectorArithmeticResults := ⟨vectorFloatResults, vectorIntegerResults⟩

end Sys2Proof.Proofs
end

section
/-! What an access of a context or an engine leaves: contexts, engines, streams and CSRs of every tile, and who issues (R166, R270 to R279, R299 to R319, R417). -/
namespace Sys2Proof.Proofs
open Sys2Proof Sys2Proof.Machine Sys2Proof.Claims

/-! ### States that differ in the superstep state of tiles and at comparators alone -/

/-- A tile whose superstep state may have taken deltas and events, and whose record at the comparator may have gone on. -/
structure TileKept (a b : Tile) : Prop where
  rest : b = { a with step := b.step, twin := b.twin }
  ssn : b.step.ssn = a.step.ssn
  twin : b.twin.map (fun w => (w.primary, w.partner)) = a.twin.map (fun w => (w.primary, w.partner))

theorem TileKept.refl (a : Tile) : TileKept a a := ⟨rfl, rfl, rfl⟩

theorem TileKept.trans {a b c : Tile} (h : TileKept a b) (g : TileKept b c) : TileKept a c :=
  ⟨g.rest.trans (by rw [h.rest]), g.ssn.trans h.ssn, g.twin.trans h.twin⟩

/-- Every tile is kept, the same context issues, and every job has the same die map. -/
structure KeepsAgents (s t : State) : Prop where
  cur : t.cur = s.cur
  dieMap : ∀ j, (t.job j).dieMap = (s.job j).dieMap
  tile : ∀ k, TileKept (s.tile k) (t.tile k)

theorem KeepsAgents.refl (s : State) : KeepsAgents s s := ⟨rfl, fun _ => rfl, fun _ => TileKept.refl _⟩

theorem KeepsAgents.trans {s t u : State} (h : KeepsAgents s t) (g : KeepsAgents t u) : KeepsAgents s u :=
  ⟨g.cur.trans h.cur, fun j => (g.dieMap j).trans (h.dieMap j), fun k => (h.tile k).trans (g.tile k)⟩

theorem keepsAgents_of_eq {s t : State} (ht : t.tiles = s.tiles) (hc : t.cur = s.cur) (hj : t.jobs = s.jobs) : KeepsAgents s t :=
  ⟨hc, fun j => by rw [State.job, hj]; rfl, fun k => by
    rw [show t.tile k = s.tile k by rw [State.tile, ht]; rfl]
    exact TileKept.refl _⟩

theorem keepsAgents_modTile (s : State) (k : Nat) {f : Tile → Tile} (h : TileKept (s.tile k) (f (s.tile k))) : KeepsAgents s (s.modTile k f) := by
  refine ⟨rfl, fun _ => rfl, fun j => ?_⟩
  by_cases hj : j = k
  · subst hj
    rw [tile_modTile]
    exact h
  · rw [tile_modTile_other _ _ hj]
    exact TileKept.refl _

theorem keepsAgents_foldl {α : Type} (f : State → α → State) (h : ∀ s x, KeepsAgents s (f s x)) (l : List α) : ∀ s, KeepsAgents s (l.foldl f s) := by
  induction l with
  | nil => exact KeepsAgents.refl
  | cons x l ih => exact fun s => (h s x).trans (ih _)

theorem keepsAgents_modStep (s : State) (k : Nat) {f : Step → Step} (h : (f (s.tile k).step).ssn = (s.tile k).step.ssn) :
    KeepsAgents s (s.modStep k f) := keepsAgents_modTile s k ⟨rfl, h, rfl⟩

theorem keepsAgents_modTwin (s : State) (k : Nat) {f : Twin → Twin} (h : ∀ w, (f w).primary = w.primary ∧ (f w).partner = w.partner) :
    KeepsAgents s (modTwin s k f) := by
  unfold modTwin
  split
  next w hw =>
    obtain ⟨hp, hq⟩ := h w
    exact keepsAgents_modTile s k ⟨rfl, rfl, by simp [hw, hp, hq]⟩
  · exact KeepsAgents.refl s

namespace KeepsAgents
variable {s t : State} (h : KeepsAgents s t)
include h

theorem curKey : t.curKey = s.curKey := by rw [State.curKey, h.cur]; rfl
theorem eng (k : Nat) : (t.tile k).eng = (s.tile k).eng := by rw [(h.tile k).rest]
theorem io (k : Nat) : (t.tile k).io = (s.tile k).io := by rw [(h.tile k).rest]
theorem work (k : Nat) : (t.tile k).work = (s.tile k).work := by rw [(h.tile k).rest]
theorem ctx (k c : Nat) : t.ctx k c = s.ctx k c := by rw [State.ctx, (h.tile k).rest]; rfl
theorem curCtx : t.curCtx = s.curCtx := by rw [State.curCtx, h.curKey, h.cur, h.ctx]; rfl
theorem self_eq : self t = self s := by rw [self, h.curKey, h.cur]; rfl

theorem idKey (k : Nat) : t.idKey k = s.idKey k := by
  have htwin := (h.tile k).twin
  unfold State.idKey
  cases hs : (s.tile k).twin <;> cases ht : (t.tile k).twin <;> simp_all

theorem dieId (k : Nat) : t.dieId k = s.dieId k := by
  simp only [State.dieId, h.work, h.idKey, Job.virtual, h.dieMap]

end KeepsAgents

/-! ### Events that are raised (R275, R279, R332) -/

theorem keepsAgents_raiseEvent (s : State) (k : Nat) (code : BitVec 8) : KeepsAgents s (raiseEvent s k code) := by
  refine keepsAgents_modStep s k ?_
  split <;> rfl

theorem keepsAgents_broadcastAbort (s : State) (g : Nat) (tiles : List Nat) : KeepsAgents s (broadcastAbort s g tiles) := by
  rw [broadcastAbort_eq]
  have htold : KeepsAgents s (abortTold s g tiles) := by
    refine KeepsAgents.trans ?_ (keepsAgents_foldl _ (fun s k => keepsAgents_modStep s k (f := fun st => { st with bound := true }) rfl) tiles _)
    exact keepsAgents_of_eq rfl rfl rfl
  exact htold.trans (keepsAgents_of_eq rfl rfl rfl)

theorem keepsAgents_jobUnrecoverable (s : State) (j : Nat) : KeepsAgents s (jobUnrecoverable s j) := by
  refine ⟨rfl, fun i => ?_, fun k => TileKept.refl _⟩
  by_cases hi : i = j
  · subst hi
    show (Map.getD (Map.set s.jobs i { s.job i with stopped := true }) i {}).dieMap = _
    rw [Map.getD_set_same]
  · show (Map.getD (Map.set s.jobs j { s.job j with stopped := true }) i {}).dieMap = _
    rw [Map.getD_set_other _ _ _ _ _ hi]
    rfl

theorem keepsAgents_failLaunch (s : State) (l : Nat) : KeepsAgents s (failLaunch s l) := by
  simp only [failLaunch]
  split
  · exact KeepsAgents.refl s
  · split
    · exact KeepsAgents.refl s
    · split
      · exact keepsAgents_jobUnrecoverable _ _
      · exact keepsAgents_broadcastAbort _ _ _

theorem keepsAgents_sendTwin (s : State) (k key : Nat) (pkt : List Byte) : KeepsAgents s (sendTwin s k key pkt) := by
  have h := keepsAgents_modTwin s k (f := fun w => { w with sent := w.sent ++ [(key, pkt)] }) fun _ => ⟨rfl, rfl⟩
  simp only [sendTwin]
  split
  · exact h
  · exact h.trans (keepsAgents_of_eq rfl rfl rfl)

theorem keepsAgents_sendRecord (s : State) (k : Nat) (rec : BitVec 128) : KeepsAgents s (sendRecord s k rec) := by
  unfold sendRecord
  split <;> exact keepsAgents_of_eq rfl rfl rfl

theorem keepsAgents_sendVote (s : State) (k : Nat) (rec : BitVec 128) : KeepsAgents s (sendVote s k rec) := by
  unfold sendVote
  split
  · split
    · exact keepsAgents_sendTwin _ _ _ _
    · exact keepsAgents_sendRecord _ _ _
  · exact keepsAgents_sendRecord _ _ _

/-- A forced event stops no context by itself. -/
theorem keepsAgents_raiseForced (s : State) (k : Nat) (code : BitVec 8) (vote : BitVec 2) : KeepsAgents s (raiseForced s k code vote) := by
  unfold raiseForced
  split
  · exact KeepsAgents.refl s
  · split
    · refine keepsAgents_modStep s k ?_
      dsimp only
      split <;> rfl
    · have hraised : KeepsAgents s ((raiseEvent s k code).modStep k (fun st => { st with forced := true })) :=
        (keepsAgents_raiseEvent s k code).trans (keepsAgents_modStep _ k rfl)
      refine hraised.trans ?_
      dsimp only
      split
      · exact keepsAgents_sendVote _ _ _
      · split
        · exact keepsAgents_jobUnrecoverable _ _
        · exact keepsAgents_failLaunch _ _

/-! ### Translation (R299 to R312, R374 to R376) -/

theorem keepsAgents_recordMerr (s : State) (m fn : Nat) (code : BitVec 8) (addr : Nat) : KeepsAgents s (recordMerr s m fn code addr) :=
  keepsAgents_of_eq rfl rfl rfl

theorem keepsAgents_writeAt (s : State) (d hpa n x : Nat) : KeepsAgents s (writeAt s d hpa n x) := by
  unfold writeAt
  split <;> exact keepsAgents_of_eq rfl rfl rfl

theorem keepsAgents_copyFrame (s : State) (d src dst : Nat) : KeepsAgents s (copyFrame s d src dst) := keepsAgents_of_eq rfl rfl rfl

theorem keepsAgents_appendRequest (s : State) (d r tag : Nat) (bytes : List Byte) : KeepsAgents s (appendRequest s d r tag bytes) :=
  (keepsAgents_writeAt _ _ _ _ _).trans (keepsAgents_writeAt _ _ _ _ _)

theorem keepsAgents_walked (s : State) (q : TrReq) (a : Nat) : KeepsAgents s (walked s q a) := by
  simp only [walked]
  split
  · exact KeepsAgents.refl s
  · split <;> exact keepsAgents_of_eq rfl rfl rfl

/-- A miss is referred; the test for room in the ring stands as a variable, which the kernel would otherwise evaluate down to the 2 ^ 64 in it. -/
theorem keepsAgents_referMiss {s t : State} {q : TrReq} {stage addr level va tag : Nat} (h : referMiss s q stage addr level va = some (t, tag)) :
    KeepsAgents s t := by
  unfold referMiss at h
  obtain ⟨room, hroom⟩ : ∃ room, room = ringHasRoom := ⟨_, rfl⟩
  simp only [← hroom] at h
  split at h
  · cases h; exact KeepsAgents.refl s
  split at h
  · cases h; exact KeepsAgents.refl s
  split at h
  · cases h
  split at h
  · cases h
    exact (keepsAgents_appendRequest s q.die (ringDescAt s q.die q.fn stage) tag (requestRecord q stage addr level va)).trans
      (keepsAgents_of_eq rfl rfl rfl)
  · cases h
    exact keepsAgents_of_eq rfl rfl rfl

/-- The frame of a policy page is known, or a draft has been made: nothing has changed, or tables and memory of the die alone. -/
theorem policyFrame_cases {s t : State} {q : TrReq} {pd f : Nat} (h : policyFrame s q pd = .ok (t, f)) :
    t = s ∨ ∃ gd n src dst, t = writeAt (copyFrame (writeAt s q.die gd 4 n) q.die src dst) q.die pd 8 dst := by
  have hframe {v x : Nat} {u : State} (hv : (match slotOf s q.die pd v with
      | some i => Except.ok (s, slotFrame (slotWord s q.die pd i))
      | none => .error (.malformed pd) : Except WalkErr (State × Nat)) = .ok (u, x)) : u = s := by
    split at hv <;> cases hv
    rfl
  simp only [policyFrame] at h
  split at h
  · cases h
  split at h
  · cases h
  split at h
  · split at h
    · cases h
    · exact .inl (hframe h)
  split at h
  · cases h
  split at h
  · cases h
  split at h
  · split at h
    · cases h; exact .inl rfl
    split at h
    · split at h
      · cases h
      · simp only [bind, Except.bind] at h
        split at h
        · cases h
        · cases h
          exact .inr ⟨_, _, _, _, rfl⟩
    · exact .inl (hframe h)
  split at h
  · cases h
  · exact .inl (hframe h)

theorem keepsAgents_policyFrame {s t : State} {q : TrReq} {pd f : Nat} (h : policyFrame s q pd = .ok (t, f)) : KeepsAgents s t := by
  obtain rfl | ⟨gd, n, src, dst, rfl⟩ := policyFrame_cases h
  · exact KeepsAgents.refl _
  · exact ((keepsAgents_writeAt ..).trans (keepsAgents_copyFrame ..)).trans (keepsAgents_writeAt ..)

theorem keepsAgents_translate (s : State) (q : TrReq) (a : Nat) : KeepsAgents s (Machine.translate s q a).1 := by
  unfold Machine.translate
  extract_lets fail
  have hfail (e : WalkErr) (u : State) : KeepsAgents u (fail e u).1 := by
    cases e with
    | malformed loc => exact keepsAgents_recordMerr ..
    | draft loc => exact keepsAgents_recordMerr ..
    | page => exact KeepsAgents.refl u
    | perm => exact KeepsAgents.refl u
    | refer stage addr level =>
      simp only [fail]
      split
      · exact KeepsAgents.refl u
      split
      · exact keepsAgents_referMiss ‹_›
      · exact keepsAgents_recordMerr ..
  clear_value fail
  have hw := keepsAgents_walked s q a
  split
  · exact KeepsAgents.refl s
  split
  · exact hw.trans (hfail _ _)
  split
  · split
    · split
      · have hp := keepsAgents_policyFrame ‹_›
        split
        · exact hw.trans (hp.trans (hfail _ _))
        split <;> exact hw.trans hp
      · exact hw.trans (hfail _ _)
    · exact hw
  · exact hw

/-! ### Accesses, step by step -/

/-- The access keeps the agents, however it ends. -/
def Leaves {α : Type} (m : A α) : Prop := ∀ s, KeepsAgents s (endState (m s))

theorem Leaves.ok {α : Type} {m : A α} (h : Leaves m) {s t : State} {a : α} (hm : m s = .ok a t) : KeepsAgents s t := by
  have := h s
  rwa [hm] at this

theorem Leaves.error {α : Type} {m : A α} (h : Leaves m) {s t : State} {e : AccErr} (hm : m s = .error e t) : KeepsAgents s t := by
  have := h s
  rwa [hm] at this

theorem leaves_pure {α : Type} (a : α) : Leaves (pure a : A α) := KeepsAgents.refl
theorem leaves_throw {α : Type} (e : AccErr) : Leaves (throw e : A α) := KeepsAgents.refl
theorem leaves_trapA {α : Type} (c : Cause) (v : Word) : Leaves (trapA c v : A α) := KeepsAgents.refl
theorem leaves_getA : Leaves getA := KeepsAgents.refl
theorem leaves_modA {f : State → State} (h : ∀ s, KeepsAgents s (f s)) : Leaves (modA f) := h

theorem leaves_bind {α β : Type} {m : A α} {f : α → A β} (hm : Leaves m) (hf : ∀ a, Leaves (f a)) : Leaves (m >>= f) := by
  intro s
  rw [A_bind]
  cases h : m s with
  | ok a t => exact (hm.ok h).trans (hf a t)
  | error e t => exact hm.error h

/-- What reads the state first may use it. -/
theorem leaves_getA_bind {β : Type} {f : State → A β} (hf : ∀ s, KeepsAgents s (endState (f s s))) : Leaves (getA >>= f) := hf

theorem leaves_ite {α : Type} {c : Prop} [Decidable c] {m n : A α} (hm : Leaves m) (hn : Leaves n) : Leaves (if c then m else n) := by
  split
  · exact hm
  · exact hn

/-- A check that ends the access, or lets it go on. -/
theorem leaves_check {α : Type} {c : Prop} [Decidable c] {m : A PUnit} {f : PUnit → A α} (hm : Leaves m) (hf : ∀ u, Leaves (f u)) :
    Leaves (if c then (do let r ← m; f r) else f ⟨⟩) := leaves_ite (leaves_bind hm hf) (hf _)

theorem leaves_mapM {α β : Type} {f : α → A β} (h : ∀ a, Leaves (f a)) (l : List α) : Leaves (l.mapM f) := by
  rw [← List.mapM'_eq_mapM]
  induction l with
  | nil => exact leaves_pure _
  | cons x l ih => exact leaves_bind (h x) fun _ => leaves_bind ih fun _ => leaves_pure _

theorem leaves_eachA {α : Type} {f : α → A Unit} (h : ∀ a, Leaves (f a)) (l : List α) : Leaves (eachA l f) := by
  induction l with
  | nil => exact leaves_pure _
  | cons x l ih => exact leaves_bind (h x) fun _ => ih

/-! ### The checks of an access (R166) -/

theorem leaves_checkFmt (p : Word) (declared : Option Nat) : Leaves (checkFmt p declared) := by
  unfold checkFmt
  refine leaves_ite (leaves_trapA _ _) ?_
  split
  · exact leaves_ite (leaves_trapA _ _) (leaves_pure _)
  · exact leaves_pure _

theorem leaves_checkForm (a : Acc) : Leaves (checkForm a) :=
  leaves_bind (leaves_checkFmt _ _) fun _ => leaves_check (leaves_trapA _ _) fun _ => leaves_check (leaves_trapA _ _) fun _ =>
    leaves_ite (leaves_trapA _ _) (leaves_pure _)

theorem leaves_needResource (r : Requester) (n : Nat) : Leaves (needResource r n) := by
  refine leaves_bind leaves_getA fun s => ?_
  split
  · exact leaves_ite (leaves_pure _) (leaves_trapA _ _)
  · exact leaves_pure _

theorem leaves_noHbm (r : Requester) : Leaves (noHbm r) := by
  refine leaves_bind leaves_getA fun s => ?_
  split
  · exact leaves_trapA _ _
  · exact leaves_pure _

theorem leaves_checkTile (r : Requester) (a : Acc) (t : Nat) (vault : Bool) (off : Nat) : Leaves (checkTile r a t vault off) := by
  refine leaves_bind leaves_getA fun s => leaves_check (leaves_throw _) fun _ => leaves_check (leaves_trapA _ _) fun _ =>
    leaves_check (leaves_trapA _ _) fun _ => ?_
  extract_lets taken staged
  have htaken (u : PUnit) : Leaves (taken u) := leaves_ite (leaves_throw _) (leaves_pure _)
  have hstaged (u : PUnit) : Leaves (staged u) := by
    refine leaves_ite ?_ (htaken ())
    split
    · exact leaves_bind (leaves_trapA _ _) htaken
    · exact leaves_bind (leaves_throw _) htaken
  exact leaves_ite (leaves_ite (leaves_bind (leaves_needResource r 5) hstaged) (leaves_bind (leaves_eachA (leaves_needResource r) _) hstaged))
    (hstaged ())

/-! ### Translation of an access (R167, R306, R367) -/

theorem keepsAgents_parkAccess (s : State) (r : Requester) (engine : Option Nat) (d : Nat) (q : TrReq) (stage tag : Nat) (p : Word) :
    KeepsAgents s (parkAccess s r engine d q stage tag p).1 := by
  unfold parkAccess
  split <;> exact keepsAgents_of_eq rfl rfl rfl

/-- Where the miss has been referred in a state that keeps the agents, so does the wait. -/
theorem waitFor_keeps {α : Type} (r : Requester) (a : Acc) (d : Nat) (q : TrReq) (stage tag : Nat) {s t : State} (h : KeepsAgents s t) :
    KeepsAgents s (endState (waitFor r a d q stage tag t s : EStateM.Result AccErr State α)) := by
  have hpark := h.trans (keepsAgents_parkAccess t r none d q stage tag a.p)
  simp only [waitFor, A_bind, getA_run]
  cases hb : bookingOf s r with
  | some e => exact KeepsAgents.refl s
  | none =>
    simp only [A_bind, getA_run]
    split
    · exact KeepsAgents.refl s
    · exact hpark

/-- A part of an access to HBM is translated, or its access ends there. -/
theorem leaves_translated (r : Requester) (a : Acc) (d : Nat) (e : Nat × Nat) (kind : AccKind) : Leaves (do
    let s ← getA
    let q := trReqOf s r d e.1 kind
    let (s', x) := Machine.translate s q e.1
    match x with
    | .ok l =>
      set s'
      match l.home with
      | .hbm hpa => pure (.hbm d hpa e.2 l)
      | .host port addr => pure (.host port addr e.2)
    | .error .page => do set s'; trapA .page a.p
    | .error .perm => do set s'; trapA .perm a.p
    | .error .busy => throw .stall
    | .error (.refer stage tag) => waitFor r a d q stage tag s' : A Piece) := by
  refine leaves_getA_bind fun s => ?_
  have ht := keepsAgents_translate s (trReqOf s r d e.1 kind) e.1
  revert ht
  dsimp only
  cases Machine.translate s (trReqOf s r d e.1 kind) e.1 with
  | mk u x =>
    intro ht
    cases x with
    | ok l =>
      dsimp only
      split <;> exact ht
    | error x =>
      cases x with
      | page => exact ht
      | perm => exact ht
      | busy => exact KeepsAgents.refl s
      | refer stage tag => exact waitFor_keeps r a d _ stage tag ht

theorem leaves_resolveHbm (r : Requester) (a : Acc) (d : Nat) : Leaves (resolveHbm r a d) := by
  unfold resolveHbm
  extract_lets off one
  have hone (e : Nat × Nat) : Leaves (one e) := leaves_translated r a d e a.kind
  clear_value one
  exact leaves_check (leaves_noHbm r) fun _ => leaves_bind leaves_getA fun s => leaves_check (leaves_trapA _ _) fun _ => leaves_mapM hone _

/-! ### Seals, tags and error records (R185, R316, R317) -/

theorem leaves_checkSeal (s : State) (a : Acc) (d first last : Nat) : Leaves (checkSeal s a d first last) :=
  leaves_ite (leaves_trapA _ _) (leaves_pure _)

theorem keepsAgents_recordErrors (s : State) (d : Nat) (secs : List Nat) (tag : BitVec 4) : KeepsAgents s (recordErrors s d secs tag) := by
  unfold recordErrors
  extract_lets x recs good
  split
  · exact KeepsAgents.refl s
  · exact keepsAgents_of_eq rfl rfl rfl

theorem leaves_checkPieces (r : Requester) (a : Acc) (d : Nat) (ps : List Piece) : Leaves (checkPieces r a d ps) := by
  refine leaves_bind leaves_getA fun s => leaves_bind (leaves_eachA (fun p => ?_) ps) fun _ =>
    leaves_bind (leaves_modA (keepsAgents_foldl _ (fun s p => ?_) ps)) fun _ => ?_
  · cases p with
    | hbm => exact leaves_checkSeal _ _ _ _ _
    | host => exact leaves_checkSeal _ _ _ _ _
    | tile => exact leaves_pure _
    | shard => exact leaves_pure _
  · cases p with
    | hbm => exact keepsAgents_recordErrors _ _ _ _
    | host => exact KeepsAgents.refl s
    | tile => exact KeepsAgents.refl s
    | shard => exact KeepsAgents.refl s
  · exact leaves_check (leaves_bind (leaves_modA fun s => keepsAgents_raiseForced _ _ _ _) fun _ => leaves_throw _) fun _ =>
      leaves_ite (leaves_throw _) (leaves_pure _)

/-! ### Routes and shards (R352, R356, R426) -/

theorem leaves_takeRoute (r : Requester) (d : Nat) : Leaves (takeRoute r d) := by
  refine leaves_bind leaves_getA fun s => ?_
  extract_lets job
  split
  · exact leaves_pure _
  · exact leaves_bind (leaves_modA fun s => keepsAgents_foldl _ (fun s k => keepsAgents_raiseForced s k _ _) _ _) fun _ => leaves_throw _

/-- A miss in a shard is referred by the die that serves it, or has no ring to go to. -/
theorem referred_keeps (r : Requester) (a : Acc) (d : Nat) (q : TrReq) (stage addr level va : Nat) (s : State) :
    KeepsAgents s (endState ((match referMiss s q stage addr level va with
      | some (s', tag) => waitFor r a d q stage tag s'
      | none => do
        set (recordMerr s (d / 8) 0 4 (ringDescAt s d q.fn stage))
        trapA .page a.p : A Piece) s)) := by
  cases h : referMiss s q stage addr level va with
  | some e => exact waitFor_keeps r a d q stage e.2 (keepsAgents_referMiss h)
  | none => exact keepsAgents_recordMerr _ _ _ _ _

theorem leaves_resolveShard (r : Requester) (a : Acc) (x : Save) (d : Nat) : Leaves (resolveShard r a x d) := by
  refine leaves_bind leaves_getA fun s => ?_
  extract_lets old serving one
  have hone (e : Nat × Nat) : Leaves (one e) := by
    simp only [one]
    split
    · split <;> exact leaves_pure _
    · exact leaves_trapA _ _
    next stage addr level _ _ =>
      refine leaves_getA_bind fun s => ?_
      split
      · exact KeepsAgents.refl s
      · exact referred_keeps r a serving _ stage addr level e.1 s
    · exact leaves_trapA _ _
  clear_value one
  split
  · extract_lets cut refused data
    have hcut (u : PUnit) : Leaves (cut u) := leaves_mapM hone _
    have hrefused (u : PUnit) : Leaves (refused u) := leaves_check (leaves_trapA _ _) hcut
    have hdata (u : PUnit) : Leaves (data u) := leaves_check (leaves_noHbm r) hrefused
    exact leaves_check (leaves_trapA _ _) hdata
  · exact leaves_trapA _ _
  · exact leaves_trapA _ _

/-- The checks of R166, however they end. -/
theorem leaves_resolve (r : Requester) (a : Acc) : Leaves (resolve r a) := by
  refine leaves_bind (leaves_checkForm a) fun _ => leaves_bind leaves_getA fun s => ?_
  split
  · exact leaves_resolveShard _ _ _ _
  · exact leaves_trapA _ _
  next d _ _ =>
  extract_lets off there onward
  split
  · exact leaves_trapA _ _
  have hthere : Leaves there := leaves_ite (leaves_pure _) (leaves_takeRoute r d)
  have honward (u : PUnit) : Leaves (onward u) :=
    leaves_bind (leaves_resolveHbm _ _ _) fun ps => leaves_bind (leaves_checkPieces _ _ _ _) fun _ => leaves_pure _
  clear_value there onward
  split
  · exact leaves_trapA _ _
  · exact leaves_trapA _ _
  · exact leaves_bind hthere fun _ => leaves_bind (leaves_checkTile _ _ _ _ _) fun _ => leaves_pure _
  · exact leaves_bind hthere fun _ => leaves_bind (leaves_checkTile _ _ _ _ _) fun _ => leaves_pure _
  · exact leaves_bind hthere fun _ => leaves_ite (leaves_bind (leaves_trapA _ _) honward) (honward ())

/-! ### Reads and writes at the target (R270, R271, R274) -/

theorem leaves_readPiece (r : Requester) (p : Piece) : Leaves (readPiece r p) := by
  cases p with
  | tile => exact leaves_bind leaves_getA fun s => leaves_pure _
  | hbm => 
    refine leaves_bind leaves_getA fun s => leaves_bind leaves_getA fun s => ?_
    exact leaves_check (leaves_modA fun s => keepsAgents_of_eq rfl rfl rfl) fun _ => leaves_pure _
  | host => exact leaves_bind leaves_getA fun s => leaves_pure _
  | shard => exact leaves_pure _

theorem leaves_readPieces (r : Requester) (ps : List Piece) : Leaves (readPieces r ps) := by
  induction ps with
  | nil => exact leaves_pure _
  | cons p ps ih => exact leaves_bind (leaves_readPiece r p) fun _ => leaves_bind ih fun _ => leaves_pure _

theorem keepsAgents_allocLocal (s : State) (t line : Nat) : KeepsAgents s (allocLocal s t line) := by
  unfold allocLocal
  split
  · exact KeepsAgents.refl s
  · exact keepsAgents_modStep s t rfl

theorem keepsAgents_landWrite (k : Nat) (vault : Bool) (off : Nat) (bytes : List Byte) (s : State) : KeepsAgents s (landWrite k vault off bytes s) := by
  refine keepsAgents_foldl _ (fun s line => ?_) _ s
  dsimp only
  split
  · exact keepsAgents_foldl _ (fun s e => keepsAgents_modStep s k rfl) _ s
  · exact keepsAgents_raiseForced _ _ _ _

theorem leaves_takeLocals (t : Nat) (vault : Bool) (off n : Nat) : Leaves (takeLocals t vault off n) := by
  refine leaves_bind leaves_getA fun s => ?_
  extract_lets missing free
  split
  · exact leaves_modA (keepsAgents_foldl _ (fun s l => keepsAgents_allocLocal s t l) missing)
  · exact leaves_trapA _ _

theorem keepsAgents_putPlain (s : State) (t : Nat) (vault : Bool) (off : Nat) (bs : List Byte) : KeepsAgents s (putPlain s t vault off bs) :=
  keepsAgents_of_eq rfl rfl rfl

theorem leaves_writeTile (k t : Nat) (vault : Bool) (off : Nat) (bs : List Byte) : Leaves (writeTile k t vault off bs) := by
  refine leaves_bind leaves_getA fun s => ?_
  extract_lets n kept plain
  have hplain (u : PUnit) : Leaves (plain u) := leaves_modA fun s => keepsAgents_foldl _ (fun s t => keepsAgents_putPlain s t vault _ _) _ s
  have hlocal : Leaves (modA fun s => (indexed 0 kept).foldl (fun s e => putLocal s t (lineOf vault (off + e.1)) ((off + e.1) % 64) e.2) s) :=
    leaves_modA (keepsAgents_foldl _ (fun s e => keepsAgents_modStep s t rfl) _)
  have hremote : Leaves (modA fun s => (twinsOf s k t).foldl (fun s t => landWrite t vault off kept s) s) :=
    leaves_modA fun s => keepsAgents_foldl _ (fun s t => keepsAgents_landWrite t vault off kept s) _ _
  exact leaves_ite (hplain ()) (leaves_ite (leaves_bind (leaves_takeLocals _ _ _ _) fun _ => leaves_bind hlocal hplain) (leaves_bind hremote hplain))

theorem keepsAgents_markIrrevocable (s : State) (d c g : Nat) (ssn : BitVec 32) : KeepsAgents s (markIrrevocable s d c g ssn) := by
  unfold markIrrevocable
  split
  · exact KeepsAgents.refl s
  · dsimp only
    split <;> exact keepsAgents_of_eq rfl rfl rfl

theorem keepsAgents_logLine (s : State) (d : Nat) (u : WorkUnit) (ssn : BitVec 32) (line : Nat) : KeepsAgents s (logLine s d u ssn line) := by
  unfold logLine
  extract_lets x g key foreign byte broken rec logged
  split
  · exact KeepsAgents.refl s
  split
  · exact KeepsAgents.refl s
  split
  · exact keepsAgents_markIrrevocable _ _ _ _ _
  · simp only [logged]
    split <;> exact keepsAgents_of_eq rfl rfl rfl

theorem keepsAgents_scramble (s : State) (d key c : Nat) : KeepsAgents s (scramble s d key c) := by
  unfold scramble
  split
  · exact keepsAgents_of_eq rfl rfl rfl
  · exact KeepsAgents.refl s

theorem keepsAgents_writeHbm (s : State) (d hpa : Nat) (tag : BitVec 4) (key : Nat) (bs : List Byte) : KeepsAgents s (writeHbm s d hpa tag key bs) := by
  unfold writeHbm
  extract_lets secs whole t u
  have ht : KeepsAgents s t := keepsAgents_foldl _ (fun s c => keepsAgents_scramble s d key c) _ s
  exact ht.trans (keepsAgents_of_eq rfl rfl rfl)

theorem leaves_writePiece (r : Requester) (p : Piece) (bs : List Byte) : Leaves (writePiece r p bs) := by
  cases p with
  | tile => exact leaves_writeTile _ _ _ _ _
  | hbm d hpa n leaf =>
    refine leaves_modA fun s => ?_
    refine KeepsAgents.trans ?_ (keepsAgents_writeHbm _ _ _ _ _ _)
    split
    · split
      · exact keepsAgents_foldl _ (fun s l => keepsAgents_logLine _ _ _ _ _) _ s
      · exact KeepsAgents.refl s
    · exact KeepsAgents.refl s
  | host => exact leaves_modA fun s => keepsAgents_of_eq rfl rfl rfl
  | shard => exact leaves_pure _

theorem leaves_writePieces (r : Requester) (ps : List Piece) : ∀ bs, Leaves (writePieces r ps bs) := by
  induction ps with
  | nil => exact fun _ => leaves_pure _
  | cons p ps ih => exact fun bs => leaves_bind (leaves_writePiece r p _) fun _ => ih _

theorem leaves_readRaw (r : Requester) (a : Acc) : Leaves (readRaw r a) := leaves_bind (leaves_resolve r a) fun ps => leaves_readPieces r ps

theorem leaves_writeRaw (r : Requester) (a : Acc) (bs : List Byte) : Leaves (writeRaw r a bs) :=
  leaves_bind (leaves_resolve r a) fun ps => leaves_writePieces r ps bs

/-! ### Packets of a pair (R417) -/

theorem keepsAgents_closePacket (k : Nat) (a : TwinAnswer) (s : State) : KeepsAgents s (closePacket k a s) := by
  unfold closePacket
  split
  · exact KeepsAgents.refl s
  · split
    · exact KeepsAgents.refl s
    · refine (keepsAgents_modTwin s k fun _ => ?_).trans (keepsAgents_modTwin _ _ fun _ => ?_)
      · exact ⟨rfl, rfl⟩
      · exact ⟨rfl, rfl⟩

theorem leaves_forBoth (k key : Nat) {perform : A (List Byte)} (h : Leaves perform) : Leaves (forBoth k key perform) := by
  intro s
  have hs := h s
  revert hs
  unfold forBoth
  split
  next h => rw [h]; exact fun hs => hs.trans (keepsAgents_closePacket _ _ _)
  next h => rw [h]; exact fun hs => hs.trans (keepsAgents_closePacket _ _ _)
  next h => rw [h]; exact fun hs => hs.trans (keepsAgents_closePacket _ _ _)
  next h => rw [h]; exact id

theorem leaves_reply (a : TwinAnswer) : Leaves a.reply := by
  unfold TwinAnswer.reply
  split
  · exact leaves_pure _
  · exact leaves_throw _
  · exact leaves_trapA _ _

theorem leaves_paired (r : Requester) (pkt : List Byte) {perform : A (List Byte)} (h : Leaves perform) : Leaves (paired r pkt perform) := by
  refine leaves_bind leaves_getA fun s => ?_
  extract_lets key
  split
  · exact h
  split
  · exact leaves_bind (leaves_modA fun s => keepsAgents_modTwin s _ fun _ => ⟨rfl, rfl⟩) fun _ => leaves_reply _
  split
  · exact leaves_bind (leaves_modA fun s => keepsAgents_modTwin s _ fun _ => ⟨rfl, rfl⟩) fun _ => leaves_reply _
  · exact leaves_ite (leaves_forBoth _ _ h) (leaves_check (leaves_modA fun s => keepsAgents_sendTwin s _ _ _) fun _ => leaves_throw _)

theorem leaves_compared (r : Requester) (a : Acc) (data : List Byte) {perform : A (List Byte)} (h : Leaves perform) : Leaves (compared r a data perform) :=
  leaves_bind leaves_getA fun _ => leaves_ite (leaves_bind (leaves_checkForm a) fun _ => leaves_paired r _ h) h

theorem leaves_readAcc (r : Requester) (a : Acc) : Leaves (readAcc r a) := leaves_compared r a _ (leaves_readRaw r a)

theorem leaves_writeAcc (r : Requester) (a : Acc) (bs : List Byte) : Leaves (writeAcc r a bs) :=
  leaves_bind (leaves_compared r a _ (leaves_bind (leaves_writeRaw r a bs) fun _ => leaves_pure _)) fun _ => leaves_pure _

theorem keepsAgents_rewindTwin (s : State) (k : Nat) : KeepsAgents s (rewindTwin s k) := keepsAgents_modTwin s k fun _ => ⟨rfl, rfl⟩

theorem keepsAgents_forgetTwin (s : State) (k key : Nat) : KeepsAgents s (forgetTwin s k key) := keepsAgents_modTwin s k fun _ => ⟨rfl, rfl⟩

theorem leaves_twinStep {α : Type} (k key : Nat) {x : A α} (h : Leaves x) : Leaves (twinStep k key x) := by
  intro s
  have hs := (keepsAgents_rewindTwin s k).trans (h (rewindTwin s k))
  revert hs
  unfold twinStep
  split
  next hx => rw [hx]; exact fun hs => hs.trans (keepsAgents_forgetTwin _ _ _)
  next e _ hx =>
    rw [hx]
    cases e.again with
    | true => exact id
    | false => exact fun hs => hs.trans (keepsAgents_forgetTwin _ _ _)

end Sys2Proof.Proofs
end

section
/-! Exact values of floats, and the interpolation of a table (R36, R50, R54, R156). -/
namespace Sys2Proof.Proofs
open Sys2Proof Sys2Proof.Machine Sys2Proof.Claims

/-! ### The rational number that a value is -/

theorem ratOf_fin (n : Bool) (m : Nat) (e : Int) : ratOf (.fin n m e) = some ((signed n m : ℚ) * 2 ^ e) := by
  cases n <;> simp [ratOf, signed]

theorem fin_of_ratOf {x : Fp} {a : ℚ} (h : ratOf x = some a) : ∃ n m e, x = .fin n m e ∧ a = (signed n m : ℚ) * 2 ^ e := by
  cases x with
  | fin n m e =>
    rw [ratOf_fin] at h
    exact ⟨n, m, e, rfl, (Option.some.inj h).symm⟩
  | inf n => cases h
  | nan s => cases h

theorem signed_not (n : Bool) (m : Nat) : signed (!n) m = -signed n m := by cases n <;> simp [signed]

theorem ratOf_neg {x : Fp} {a : ℚ} (h : ratOf x = some a) : ratOf x.neg = some (-a) := by
  obtain ⟨n, m, e, rfl, rfl⟩ := fin_of_ratOf h
  rw [Fp.neg, ratOf_fin, signed_not]
  push_cast
  rw [neg_mul]

/-- An exact sum, in units of its exponent. -/
theorem addExact_rat (n1 : Bool) (m1 : Nat) (e1 : Int) (n2 : Bool) (m2 : Nat) (e2 : Int) :
    ((addExact n1 m1 e1 n2 m2 e2).1 : ℚ) * 2 ^ (addExact n1 m1 e1 n2 m2 e2).2 = signed n1 m1 * 2 ^ e1 + signed n2 m2 * 2 ^ e2 := by
  have hscale {e : Int} (h : min e1 e2 ≤ e) : (2 : ℚ) ^ (e - min e1 e2).toNat * 2 ^ min e1 e2 = 2 ^ e := by
    rw [← zpow_natCast, ← zpow_add₀ (by norm_num)]
    congr 1
    omega
  simp only [addExact]
  push_cast
  rw [add_mul, mul_assoc, mul_assoc, hscale (min_le_left _ _), hscale (min_le_right _ _)]

theorem signed_sign_natAbs (v : Int) : signed (decide (v < 0)) v.natAbs = v := by
  simp only [signed, decide_eq_true_eq]
  split <;> omega

theorem ratOf_addEx {x y : Fp} {a b : ℚ} (rm : BitVec 3) (hx : ratOf x = some a) (hy : ratOf y = some b) : ratOf (addEx rm x y) = some (a + b) := by
  obtain ⟨n1, m1, e1, rfl, rfl⟩ := fin_of_ratOf hx
  obtain ⟨n2, m2, e2, rfl, rfl⟩ := fin_of_ratOf hy
  rw [← addExact_rat]
  simp only [addEx]
  split
  next hz => simp [ratOf, hz]
  next => rw [ratOf_fin, signed_sign_natAbs]

theorem signed_mul (n1 n2 : Bool) (m1 m2 : Nat) : signed (n1 != n2) (m1 * m2) = signed n1 m1 * signed n2 m2 := by
  cases n1 <;> cases n2 <;> simp [signed]

theorem ratOf_mulEx {x y : Fp} {a b : ℚ} (hx : ratOf x = some a) (hy : ratOf y = some b) : ratOf (mulEx x y) = some (a * b) := by
  obtain ⟨n1, m1, e1, rfl, rfl⟩ := fin_of_ratOf hx
  obtain ⟨n2, m2, e2, rfl, rfl⟩ := fin_of_ratOf hy
  rw [mulEx, ratOf_fin, signed_mul, zpow_add₀ (by norm_num)]
  push_cast
  congr 1
  ring

theorem ratOf_shiftEx {x : Fp} {a : ℚ} (k : Int) (hx : ratOf x = some a) : ratOf (shiftEx k x) = some (a * 2 ^ k) := by
  obtain ⟨n, m, e, rfl, rfl⟩ := fin_of_ratOf hx
  rw [shiftEx, ratOf_fin, zpow_add₀ (by norm_num), mul_assoc]

theorem zpow_two_pos (e : Int) : (0 : ℚ) < 2 ^ e := zpow_pos (by norm_num) e

/-- The order of two finite values is that of the numbers (R139, R143). -/
theorem ltFp_iff {x y : Fp} {a b : ℚ} (hx : ratOf x = some a) (hy : ratOf y = some b) : ltFp false x y = true ↔ a < b := by
  obtain ⟨n1, m1, e1, rfl, rfl⟩ := fin_of_ratOf hx
  obtain ⟨n2, m2, e2, rfl, rfl⟩ := fin_of_ratOf hy
  simp only [ltFp]
  split
  next hz => simp [hz.1, hz.2, signed]
  next =>
    have hsum := addExact_rat n1 m1 e1 (!n2) m2 e2
    rw [signed_not] at hsum
    push_cast at hsum
    have hlt : (addExact n1 m1 e1 (!n2) m2 e2).1 < 0 ↔ ((addExact n1 m1 e1 (!n2) m2 e2).1 : ℚ) * 2 ^ (addExact n1 m1 e1 (!n2) m2 e2).2 < 0 := by
      rw [Rat.mul_neg_iff_of_pos_right (zpow_two_pos _)]
      exact_mod_cast Iff.rfl
    rw [decide_eq_true_eq, hlt, hsum]
    constructor <;> intro h <;> linarith

/-- The whole part of a finite value that is not negative. -/
theorem floorEx_eq {x : Fp} {a : ℚ} (hx : ratOf x = some a) (ha : 0 ≤ a) : (floorEx x : Int) = ⌊a⌋ := by
  obtain ⟨n, m, e, rfl, rfl⟩ := fin_of_ratOf hx
  have hm : (signed n m : ℚ) = m := by
    have hpos : (0 : ℚ) ≤ signed n m := nonneg_of_mul_nonneg_left ha (zpow_two_pos e)
    have hint : 0 ≤ signed n m := by exact_mod_cast hpos
    have : signed n m = m := by
      unfold signed at hint ⊢
      split at hint <;> simp_all
    rw [this]
    norm_cast
  rw [hm]
  rcases le_or_gt 0 e with he | he
  · obtain ⟨k, rfl⟩ := Int.eq_ofNat_of_zero_le he
    simp only [floorEx, scaleTo, he, if_true, Int.sub_zero, Int.toNat_natCast, Nat.div_one]
    rw [zpow_natCast]
    exact_mod_cast (Int.floor_natCast (R := ℚ) (m * 2 ^ k)).symm
  · obtain ⟨k, rfl⟩ : ∃ k : Nat, e = -k := ⟨(-e).toNat, by omega⟩
    have hne : ¬ (0 : Int) ≤ -k := by omega
    simp only [floorEx, scaleTo, hne, if_false, Int.zero_sub, Int.neg_neg, Int.toNat_natCast, one_mul]
    rw [zpow_neg, zpow_natCast, ← div_eq_mul_inv]
    have hfloor := Rat.floor_natCast_div_natCast m (2 ^ k)
    push_cast at hfloor ⊢
    exact hfloor.symm

/-! ### The three parts of a table's domain (R156) -/

/-- The distance from the first breakpoint, in segments. -/
def tablePlace (t : TableSlot) (rm : BitVec 3) (v : Fp) : Fp := shiftEx (-t.exp) (addEx rm v (decodeFp .f32 t.x0).neg)

/-- The polynomial of segment i at a place in it. -/
def tablePoly (t : TableSlot) (rm : BitVec 3) (i : Nat) (at' : Fp) : Fp :=
  addEx rm (t.coef i 0) (mulEx at' (addEx rm (t.coef i 1) (mulEx at' (t.coef i 2))))

/-- What a mode gives of element x: +0, the element, or the polynomial of segment i (R154, R156). -/
def tableEnd (t : TableSlot) (f : FloatFmt) (rm : BitVec 3) (q : BitVec 16) (x : Nat) (infinite : Bool) (mode i : Nat) (at' : Fp) : FRes :=
  if mode = 1 then { val := 0, flags := 0 }
  else if mode = 2 then { val := x, flags := 0 }
  else if infinite || [t.coef i 0, t.coef i 1, t.coef i 2].any (fun c => c.isInf || c.isNan) then invalid f
  else roundFp f rm q (tablePoly t rm i at')

section
variable {t : TableSlot} {f : FloatFmt} (rm : BitVec 3) (q : BitVec 16) {x : Nat}

theorem interp_nan {b : Bool} (h : decodeFp f x = .nan b) : interp t f rm q x = nanOf f b := by simp only [interp, h]

/-- An element that is no NaN lies below the table, above it or in a segment. -/
theorem interp_parts {v : Fp} (hv : decodeFp f x = v) (hn : v.isNan = false) : interp t f rm q x =
    if ltFp false (tablePlace t rm v) (.fin false 0 0) then
      tableEnd t f rm q x v.isInf t.below 0 (if t.below = 3 then addEx rm (tablePlace t rm v) (.fin true 0 0) else .fin false 0 0)
    else if !ltFp false (tablePlace t rm v) (.fin false t.count 0) then
      tableEnd t f rm q x v.isInf t.above (t.count - 1)
        (if t.above = 3 then addEx rm (tablePlace t rm v) (.fin true (t.count - 1) 0) else .fin false 1 0)
    else tableEnd t f rm q x v.isInf 3 (floorEx (tablePlace t rm v)) (addEx rm (tablePlace t rm v) (.fin true (floorEx (tablePlace t rm v)) 0)) := by
  have hcase : ∀ b, v ≠ .nan b := fun b h => by simp [h, Fp.isNan] at hn
  rw [interp, hv]
  generalize hu : tablePlace t rm v = u
  have hfold : shiftEx (-t.exp) (addEx rm v (decodeFp .f32 t.x0).neg) = u := hu
  split
  next sn => exact absurd rfl (hcase sn)
  next =>
    simp only [hfold]
    cases ltFp false u (.fin false 0 0) with
    | true => rfl
    | false => cases ltFp false u (.fin false t.count 0) <;> rfl

/-- A coefficient that no number is, or all three are numbers. -/
theorem coef_not_finite (i : Nat) : [t.coef i 0, t.coef i 1, t.coef i 2].any (fun c => c.isInf || c.isNan) = true ↔ ∃ j < 3, ratOf (t.coef i j) = none := by
  have hfin (c : Fp) : (c.isInf || c.isNan) = true ↔ ratOf c = none := by cases c <;> simp [ratOf, Fp.isInf, Fp.isNan]
  simp only [List.any_cons, List.any_nil, Bool.or_false, Bool.or_eq_true, hfin]
  constructor
  · rintro (h | h | h)
    exacts [⟨0, by decide, h⟩, ⟨1, by decide, h⟩, ⟨2, by decide, h⟩]
  · rintro ⟨j, hj, h⟩
    interval_cases j <;> simp [h]

/-- What an end's mode gives of a finite element, whose place the polynomial takes as the number `r`. -/
theorem tableEnd_finite {mode i : Nat} {at' : Fp} {r : ℚ} (hat : ratOf at' = some r) :
    (mode = 1 → tableEnd t f rm q x false mode i at' = { val := 0, flags := 0 }) ∧
    (mode = 2 → tableEnd t f rm q x false mode i at' = { val := x, flags := 0 }) ∧
    (mode = 0 ∨ mode = 3 →
      (∀ c0 c1 c2 : ℚ, ratOf (t.coef i 0) = some c0 → ratOf (t.coef i 1) = some c1 → ratOf (t.coef i 2) = some c2 →
        ∃ y : Fp, ratOf y = some (c0 + r * (c1 + r * c2)) ∧ tableEnd t f rm q x false mode i at' = roundFp f rm q y) ∧
      ((∃ j < 3, ratOf (t.coef i j) = none) → tableEnd t f rm q x false mode i at' = { val := f.nan, flags := Flags.nv })) := by
  refine ⟨fun h => by simp [tableEnd, h], fun h => by simp [tableEnd, h], fun h => ?_⟩
  have h1 : mode ≠ 1 := by omega
  have h2 : mode ≠ 2 := by omega
  simp only [tableEnd, h1, h2, if_false, Bool.false_or, coef_not_finite]
  refine ⟨fun c0 c1 c2 hc0 hc1 hc2 => ?_, fun hj => by rw [if_pos hj]; rfl⟩
  refine ⟨_, ratOf_addEx rm hc0 (ratOf_mulEx hat (ratOf_addEx rm hc1 (ratOf_mulEx hat hc2))), if_neg ?_⟩
  rintro ⟨j, hj, h⟩
  interval_cases j <;> simp_all

/-- What an end's mode gives of an infinite element. -/
theorem tableEnd_infinite (mode i : Nat) (at' : Fp) :
    (mode = 1 → tableEnd t f rm q x true mode i at' = { val := 0, flags := 0 }) ∧
    (mode = 2 → tableEnd t f rm q x true mode i at' = { val := x, flags := 0 }) ∧
    (mode = 0 ∨ mode = 3 → tableEnd t f rm q x true mode i at' = { val := f.nan, flags := Flags.nv }) := by
  refine ⟨fun h => by simp [tableEnd, h], fun h => by simp [tableEnd, h], fun h => ?_⟩
  have h1 : mode ≠ 1 := by omega
  have h2 : mode ≠ 2 := by omega
  simp [tableEnd, h1, h2, invalid]

end

theorem ratOf_nat (n : Bool) (m : Nat) : ratOf (.fin n m 0) = some (if n then -(m : ℚ) else m) := by
  cases n <;> simp [ratOf]

theorem interpolationStep : InterpolationStep := by
  intro t f rm q x hcount hbelow habove v r
  refine ⟨fun b hb => interp_nan rm q hb, fun neg hinf hx0 => ?_, fun a b ha hb => ?_⟩
  · obtain ⟨b, hb⟩ := Option.isSome_iff_exists.mp hx0
    have hplace : tablePlace t rm v = .inf neg := by
      rw [tablePlace, hinf]
      obtain ⟨n, m, e, hfin, -⟩ := fin_of_ratOf (ratOf_neg hb)
      rw [hfin]
      rfl
    have hr := interp_parts (t := t) rm q (v := v) (f := f) (x := x) rfl (by rw [hinf]; rfl)
    have hinf' : v.isInf = true := by rw [hinf]; rfl
    simp only [hplace, hinf'] at hr
    cases neg with
    | true =>
      simp only [ltFp, if_true] at hr
      rw [show r = _ from hr]
      exact tableEnd_infinite rm q _ _ _
    | false =>
      simp only [ltFp, Bool.not_false, if_true, Bool.false_eq_true, if_false] at hr
      rw [show r = _ from hr]
      exact tableEnd_infinite rm q _ _ _
  · intro u ends
    have hplace : ratOf (tablePlace t rm v) = some u := by
      have := ratOf_shiftEx (-t.exp) (ratOf_addEx rm ha (ratOf_neg hb))
      rw [tablePlace, this, zpow_neg, ← div_eq_mul_inv, ← sub_eq_add_neg]
    obtain ⟨n, m, e, hfin, -⟩ := fin_of_ratOf ha
    have hr := interp_parts (t := t) rm q (v := v) (f := f) (x := x) rfl (by rw [hfin]; rfl)
    have hinf : v.isInf = false := by rw [hfin]; rfl
    have hzero := ltFp_iff hplace (ratOf_nat false 0)
    have htop := ltFp_iff hplace (ratOf_nat false t.count)
    have hat (i : Nat) : ratOf (addEx rm (tablePlace t rm v) (.fin true i 0)) = some (u - i) := by
      rw [ratOf_addEx rm hplace (ratOf_nat true i), if_pos rfl, sub_eq_add_neg]
    simp only [Bool.false_eq_true, if_false, Nat.cast_zero] at hzero htop
    rw [hinf] at hr
    have hends {mode i : Nat} {at' : Fp} {z : ℚ} (h : interp t f rm q x = tableEnd t f rm q x false mode i at') (hz : ratOf at' = some z) :
        ends mode i z := by
      have hend := tableEnd_finite (t := t) (f := f) (mode := mode) (i := i) rm q (x := x) hz
      rw [← h] at hend
      exact hend
    refine ⟨fun hu => ?_, fun hu => ?_, fun h0 hn => ?_⟩
    · rw [if_pos (hzero.mpr hu)] at hr
      refine hends hr ?_
      split
      · simpa using hat 0
      · simpa using ratOf_nat false 0
    · have hge : ¬ u < 0 := not_lt.mpr (le_trans (Nat.cast_nonneg _) hu)
      have hout : (!ltFp false (tablePlace t rm v) (.fin false t.count 0)) = true := by
        rw [Bool.not_eq_true', ← Bool.not_eq_true, htop]
        exact not_lt.mpr hu
      rw [if_neg (hzero.not.mpr hge), if_pos hout] at hr
      refine hends hr ?_
      split
      · exact hat _
      · simpa using ratOf_nat false 1
    · have hin : ¬ (!ltFp false (tablePlace t rm v) (.fin false t.count 0)) = true := by
        rw [Bool.not_eq_true', Bool.not_eq_false, htop]
        exact hn
      have hfloor : floorEx (tablePlace t rm v) = ⌊u⌋.toNat := by rw [← floorEx_eq hplace h0, Int.toNat_natCast]
      have hcast : ((⌊u⌋.toNat : Nat) : ℚ) = (⌊u⌋ : ℚ) := by
        rw [← Int.cast_natCast, Int.toNat_of_nonneg (Int.floor_nonneg.mpr h0)]
      rw [if_neg (hzero.not.mpr (not_lt.mpr h0)), if_neg hin, hfloor] at hr
      refine hends hr ?_
      rw [hat, hcast]

end Sys2Proof.Proofs
end

section
/-! TLOAD (R153 to R155). -/
namespace Sys2Proof.Proofs
open Sys2Proof Sys2Proof.Machine Sys2Proof.Claims

/-! ### Headers of tables (R154) -/

theorem natOfBytes_lt (l : List Byte) : natOfBytes l < 256 ^ l.length := by
  induction l with
  | nil => decide
  | cons b l ih =>
    rw [natOfBytes, List.length_cons, pow_succ]
    have := b.isLt
    omega

theorem bits_bits {x lo len a b : Nat} (h : a + b ≤ len) : bits (bits x lo len) a b = bits x (lo + a) b := by
  refine (bits_mod_two_pow h _).trans ?_
  rw [bits, bits, Nat.div_div_eq_div_mul, pow_add]

theorem bits_zero_iff {n lo len : Nat} (h : n < 2 ^ (lo + len)) : bits n lo len = 0 ↔ n < 2 ^ lo := by
  have hdiv : n / 2 ^ lo < 2 ^ len := Nat.div_lt_of_lt_mul (by rwa [← pow_add])
  rw [bits, Nat.mod_eq_of_lt hdiv, Nat.div_eq_zero_iff_lt (Nat.two_pow_pos lo)]

/-- The encodings of F32 (R36, R37). -/
theorem decodeFp_f32 (x : Nat) : decodeFp .f32 x =
    if bits x 23 8 = 255 then (if bits x 0 23 = 0 then .inf (bits x 31 1 = 1) else .nan (decide (bits (bits x 0 23) 22 1 = 0)))
    else if bits x 23 8 = 0 then .fin (bits x 31 1 = 1) (bits x 0 23) (-149)
    else .fin (bits x 31 1 = 1) (2 ^ 23 + bits x 0 23) ((bits x 23 8 : Int) - 127 - 23) := rfl

/-- An encoding of F32 is finite where its exponent is not all ones (R36, R37). -/
theorem f32_finite_iff (x : Nat) : (∃ n m e, decodeFp .f32 x = .fin n m e) ↔ bits x 23 8 ≠ 255 := by
  rw [decodeFp_f32]
  split
  next h =>
    split <;> simp [h]
  next h =>
    split <;> simp [h]

theorem readInt8_eq (x : Nat) : readInt true 8 x = (BitVec.ofNat 8 x).toInt := readInt_eq_toInt (by decide) x

/-- The limits of a header are those of R154. -/
theorem headerOk_iff {t : TableSlot} {n : Nat} (hn : n < 2 ^ 256) (ht : t.header = BitVec.ofNat 256 n) : t.headerOk = true ↔ headerFollows n := by
  have hhead : t.header.toNat = n := by rw [ht, toNat_ofNat_of_lt hn]
  have h23 : bits t.x0 23 8 = bits n 23 8 := by rw [TableSlot.x0, hhead, bits_bits (by decide), Nat.zero_add]
  have hhigh : bits n 80 176 = 0 ↔ n < 2 ^ 80 := bits_zero_iff hn
  have hlimits : (-24 ≤ t.exp ∧ t.exp ≤ 24 ∧ t.below ≤ 3 ∧ t.above ≤ 3 ∧ 1 ≤ t.count ∧ t.count ≤ 256) ∧
      (bits t.header.toNat 56 8 = 0 ∧ bits t.header.toNat 80 176 = 0) ∧ bits n 23 8 ≠ 255 ↔ headerFollows n := by
    simp only [TableSlot.exp, TableSlot.below, TableSlot.above, TableSlot.count, hhead, readInt8_eq, headerFollows, hhigh]
    tauto
  rw [← hlimits, ← h23, ← f32_finite_iff, TableSlot.headerOk, Bool.and_eq_true, Bool.and_eq_true, decide_eq_true_eq, decide_eq_true_eq]
  cases decodeFp .f32 t.x0 <;> simp

/-! ### Accesses of an instruction -/

theorem bind_run {α β : Type} {x : M α} {f : α → M β} {w w' : Work} {a : α} (h : x w = .ok a w') : (x >>= f) w = f a w' := by rw [M_bind, h]

theorem readM_run (a : Acc) (w : Work) : readM a w = liftA (readAcc (self w.s) a) w := rfl

theorem needResource_unbooked {r : Requester} {s : State} (n : Nat) (h : (s.ctx r.tile r.ctx).handle = none) : needResource r n s = .ok () s := by
  have hb : bookingOf s r = none := by simp [bookingOf, h]
  simp only [needResource, A_bind, getA_run, hb]
  rfl

/-- Reads one after the other, as an instruction makes them. -/
theorem mapM_readM {β : Type} (acc : Nat → Acc) (g : List Byte → β) (val : Nat → List Byte) (r : Requester) : ∀ (l : List Nat) (w : Work) {t : State},
    self w.s = r → readsAll (fun i => readAcc r (acc i)) val l w.s t →
    (l.mapM (fun i => do return g (← readM (acc i)))) w = .ok (l.map (fun i => g (val i))) { w with s := t } ∧ KeepsAgents w.s t := by
  intro l
  induction l with
  | nil =>
    intro w t _ h
    cases h
    exact ⟨rfl, KeepsAgents.refl _⟩
  | cons i l ih =>
    intro w t hw ⟨u, hu, hrest⟩
    have hkeep := (leaves_readAcc _ _).ok hu
    obtain ⟨hrun, hlast⟩ := ih { w with s := u } (hkeep.self_eq.trans hw) hrest
    have hfirst : readM (acc i) w = .ok (val i) { w with s := u } := by rw [readM_run, hw]; exact liftA_ok hu
    rw [List.mapM_cons]
    refine ⟨?_, hkeep.trans hlast⟩
    simp only [M_bind, hfirst, M_pure, hrun]
    rfl

/-! ### TLOAD -/

section
variable {s : State} {d a : BitVec 5}

theorem tload_illegal (hd : 4 ≤ d.toNat) :
    exec (.tload d a) s = .next (takeTrap (settled (started s).s) .illegal ((wordOf (.tload d a)).setWidth 64)) := by
  refine runM_illegal ?_
  rw [show decide (d.toNat < 4) = false by simpa using hd, M_bind, require_false]

/-- The state in which a TLOAD has issued (R153). -/
def tloadIssued (s : State) (d : BitVec 5) : State := (started s).s.modCur (fun x => { x with tload := some d.toNat })

/-- Whether an epilogue job issued before has still to read the slot. -/
def tableAwaited (s : State) (d : BitVec 5) : Bool := s.curTile.eng.epiq.any (fun j => epTable j.cfg == some d.toNat && !j.behind.contains s.cur.ctx)

/-- Up to the wait for its slot a TLOAD has issued: `rest` is what follows. -/
theorem tload_issues (hd : d.toNat < 4) (hh : s.curCtx.handle = none) (rest : Word → M Unit) :
    (do
      require (decide (d.toNat < 4)) (wordOf (.tload d a))
      liftA (needResource (← requester) 1)
      let p ← regS a
      modS (fun s => s.modCur (fun x => { x with tload := some d.toNat }))
      rest p) (started s) = rest (s.curCtx.sreg a) { started s with s := tloadIssued s d } := by
  have hfree : liftA (needResource (self (started s).s) 1) (started s) = .ok () (started s) :=
    liftA_ok (needResource_unbooked 1 (show (started s).s.curCtx.handle = none by rw [started_curCtx, hh]))
  simp only [M_bind, decide_eq_true hd, require_true, requester_run, hfree, regS_run, modS_run, started_curCtx]
  rfl

theorem tload_waits (hd : d.toNat < 4) (hh : s.curCtx.handle = none) (hreads : tableAwaited s d = true) :
    exec (.tload d a) s = .next (enterWait (tloadIssued s d) .issue) := by
  refine (runM_retry (w := { started s with s := tloadIssued s d }) ((tload_issues hd hh _).trans ?_)).trans ?_
  · simp only [tableAwaited] at hreads
    rw [if_pos hreads]
    rfl
  · rw [keepSlots_none (Plain.slots (w := { started s with s := tloadIssued s d }) (plain_started s) false)]

theorem self_tloadIssued : self (tloadIssued s d) = self s := (keepsAgents_rewindTwin s s.curKey).self_eq

/-- The slot that a TLOAD makes of a header and its segments (R153). -/
def tableSlot (s : State) (n : Nat) (segs : List (BitVec 128)) : TableSlot :=
  { valid := true, ssn := s.curTile.step.ssn, header := BitVec.ofNat 256 n, segs := segs }


theorem headerOk_slot {h : List Byte} (hlen : h.length = 32) : (tableSlot s (natOfBytes h) []).headerOk = true ↔ headerFollows (natOfBytes h) :=
  headerOk_iff (by have := natOfBytes_lt h; rwa [hlen] at this) rfl

/-- What a TLOAD does with the header that it has read (R153, R154). -/
def tloadTable (s : State) (d : BitVec 5) (p : Word) (h : List Byte) : M Unit := do
  let head := tableSlot s (natOfBytes h) []
  if head.headerOk = false then trapM .illfmt p
  liftA (checkForm (accAt p 32 (16 * head.count) 16 .load))
  let segs ← (List.range head.count).mapM (fun (i : Nat) => do
    return BitVec.ofNat 128 (natOfBytes (← readM (accAt p (32 + 16 * i) 16 16 .load))))
  if segs.any (fun g => decide (bits g.toNat 96 32 ≠ 0)) then trapM .illfmt p
  modS (fun s' => (dropTload s' s'.curKey s.cur.ctx).modEng s'.curKey (fun e =>
    { e with tables := e.tables.setIfInBounds d.toNat { head with segs := segs } }))

/-- A TLOAD that does not wait for its slot reads the header. -/
theorem tload_reads_header {s1 : State} {h : List Byte} (hd : d.toNat < 4) (hh : s.curCtx.handle = none) (hreads : tableAwaited s d = false)
    (hread : readAcc (self s) { accAt (s.curCtx.sreg a) 0 32 16 .load with declared := some 1 } (tloadIssued s d) = .ok h s1) :
    ∃ m, exec (.tload d a) s = runM m s ∧ m (started s) = tloadTable s d (s.curCtx.sreg a) h { started s with s := s1 } := by
  refine ⟨_, rfl, (tload_issues hd hh _).trans ((congrFun (if_neg ?_) _).trans (bind_run (f := tloadTable s d (s.curCtx.sreg a)) ?_))⟩
  · rw [tableAwaited] at hreads
    rw [hreads]
    decide
  · rw [readM_run]
    simp only [self_tloadIssued]
    exact liftA_ok hread

/-- The segments that a TLOAD has read. -/
def tableSegs (count : Nat) (val : Nat → List Byte) : List (BitVec 128) := (List.range count).map (fun i => BitVec.ofNat 128 (natOfBytes (val i)))

theorem tableSegs_any (count : Nat) (val : Nat → List Byte) :
    (tableSegs count val).any (fun g => decide (bits g.toNat 96 32 ≠ 0)) = true ↔
      ∃ i < count, (BitVec.ofNat 128 (natOfBytes (val i))).extractLsb' 96 32 ≠ 0 := by
  have hreserved : ∀ g : BitVec 128, bits g.toNat 96 32 ≠ 0 ↔ g.extractLsb' 96 32 ≠ 0 := fun g => by
    rw [Ne, Ne, ← BitVec.toNat_inj, BitVec.extractLsb'_toNat, Nat.shiftRight_eq_div_pow]
    rfl
  simp [tableSegs, hreserved, -BitVec.extractLsb'_eq_zero]

theorem count_slot (n : Nat) : (tableSlot s n []).count = bits n 64 16 := bits_toNat_ofNat (by decide) _

section
variable {w : Work} {s2 : State} {p : Word} {h : List Byte} {val : Nat → List Byte}

theorem tloadTable_header (hlen : h.length = 32) (hn : ¬ headerFollows (natOfBytes h)) : tloadTable s d p h w = .error (.trap .illfmt p) w := by
  have hbad : (tableSlot s (natOfBytes h) []).headerOk = false := by
    rw [← Bool.not_eq_true, headerOk_slot hlen]; exact hn
  exact congrFun (if_pos hbad) _

variable (hw : self w.s = self s) (hlen : h.length = 32) (hn : headerFollows (natOfBytes h))
  (hform : checkForm (accAt p 32 (16 * bits (natOfBytes h) 64 16) 16 .load) w.s = .ok () w.s)
  (hsegs : readsAll (fun i => readAcc (self s) (accAt p (32 + 16 * i) 16 16 .load)) val (List.range (bits (natOfBytes h) 64 16)) w.s s2)
include hw hlen hn hform hsegs

theorem tloadTable_segments : tloadTable s d p h w =
    (do
      if (tableSegs (bits (natOfBytes h) 64 16) val).any (fun g => decide (bits g.toNat 96 32 ≠ 0)) then trapM .illfmt p
      modS (fun s' => (dropTload s' s'.curKey s.cur.ctx).modEng s'.curKey (fun e =>
        { e with tables := e.tables.setIfInBounds d.toNat (tableSlot s (natOfBytes h) (tableSegs (bits (natOfBytes h) 64 16) val)) }))) { w with s := s2 } := by
  have hgood : (tableSlot s (natOfBytes h) []).headerOk ≠ false := by
    rw [Bool.ne_false_iff, headerOk_slot hlen]; exact hn
  have hrun := (mapM_readM (fun i => accAt p (32 + 16 * i) 16 16 .load) (fun h => BitVec.ofNat 128 (natOfBytes h)) val (self s) _ w hw hsegs).1
  refine (congrFun (if_neg hgood) _).trans ?_
  rw [count_slot]
  exact (bind_run (liftA_ok hform)).trans (bind_run hrun)

theorem tloadTable_bad_segment (hbad : ∃ i < bits (natOfBytes h) 64 16, (BitVec.ofNat 128 (natOfBytes (val i))).extractLsb' 96 32 ≠ 0) :
    tloadTable s d p h w = .error (.trap .illfmt p) { w with s := s2 } :=
  (tloadTable_segments hw hlen hn hform hsegs).trans (congrFun (if_pos ((tableSegs_any _ _).mpr hbad)) _)

theorem tloadTable_loads (hgood : ∀ i < bits (natOfBytes h) 64 16, (BitVec.ofNat 128 (natOfBytes (val i))).extractLsb' 96 32 = 0) :
    tloadTable s d p h w = .ok () { w with s := (dropTload s2 s.curKey s.cur.ctx).modEng s.curKey (fun e =>
        { e with tables := e.tables.setIfInBounds d.toNat (tableSlot s (natOfBytes h) (tableSegs (bits (natOfBytes h) 64 16) val)) }) } := by
  have hkey : s2.curKey = s.curKey :=
    congrArg Requester.tile ((mapM_readM (fun i => accAt p (32 + 16 * i) 16 16 .load) id val (self s) _ w hw hsegs).2.self_eq.trans hw)
  have hnone : ¬ (tableSegs (bits (natOfBytes h) 64 16) val).any (fun g => decide (bits g.toNat 96 32 ≠ 0)) = true := by
    rw [tableSegs_any]
    exact fun ⟨i, hi, hne⟩ => hne (hgood i hi)
  refine (tloadTable_segments hw hlen hn hform hsegs).trans ((congrFun (if_neg hnone) _).trans ?_)
  rw [← hkey]
  rfl

end

theorem tableLoads : TableLoads := by
  intro s d a
  refine ⟨tload_illegal, tload_waits, fun s1 h hd hh hreads hread hlen => ?_⟩
  obtain ⟨m, hm, hrun⟩ := tload_reads_header hd hh hreads hread
  have hself : self s1 = self s := ((leaves_readAcc _ _).ok hread).self_eq.trans self_tloadIssued
  rw [hm]
  refine ⟨fun hn => ?_, fun s2 val hn hform hsegs => ⟨fun hbad => ?_, fun hgood => ?_⟩⟩
  · have htrap := runM_trap (hrun.trans (tloadTable_header hlen hn)) (by decide)
    exact htrap
  · have htrap := runM_trap (hrun.trans (tloadTable_bad_segment hself hlen hn hform hsegs hbad)) (by decide)
    exact htrap
  · have hdone := runM_plain (hrun.trans (tloadTable_loads hself hlen hn hform hsegs hgood)) (plain_started s)
    exact hdone

end

end Sys2Proof.Proofs
end

section
/-! TINTERP, VQDQ and QSCALE (R156 to R158). -/
namespace Sys2Proof.Proofs
open Sys2Proof Sys2Proof.Machine Sys2Proof.Claims

/-! ### Products of few bits are exact in F32 -/

/-- A sign, an exponent field and a fraction of F32 decode as they stand (R36). -/
theorem decodeFp_f32_normal (neg : Bool) {field frac : Nat} (hpos : 0 < field) (hfield : field < 255) (hfrac : frac < 2 ^ 23) :
    decodeFp .f32 (FloatFmt.f32.sign neg + (field * 2 ^ 23 + frac)) = .fin neg (2 ^ 23 + frac) ((field : Int) - 127 - 23) := by
  have hsign : FloatFmt.f32.sign neg = if neg then 2 ^ 31 else 0 := rfl
  have hexp : bits (FloatFmt.f32.sign neg + (field * 2 ^ 23 + frac)) 23 8 = field := by
    rw [bits, hsign]; split <;> omega
  have hlow : bits (FloatFmt.f32.sign neg + (field * 2 ^ 23 + frac)) 0 23 = frac := by
    rw [bits, hsign]; split <;> omega
  have htop : (bits (FloatFmt.f32.sign neg + (field * 2 ^ 23 + frac)) 31 1 = 1) = (neg = true) := by
    rw [bits, hsign]; cases neg <;> simp <;> omega
  rw [decodeFp_f32, hexp, hlow, if_neg (by omega), if_neg (by omega)]
  simp only [htop, Bool.decide_eq_true]

/-- Shifted so that its highest bit is bit 23. -/
theorem aligned_bounds {m : Nat} (hm : m ≠ 0) (hlt : m < 2 ^ 24) :
    Nat.log2 m ≤ 23 ∧ 2 ^ 23 ≤ m * 2 ^ (23 - Nat.log2 m) ∧ m * 2 ^ (23 - Nat.log2 m) < 2 ^ 24 := by
  have hL : Nat.log2 m ≤ 23 := by have := (Nat.log2_lt hm).mpr hlt; omega
  refine ⟨hL, ?_, ?_⟩
  · calc 2 ^ 23 = 2 ^ Nat.log2 m * 2 ^ (23 - Nat.log2 m) := by rw [← pow_add]; congr 1; omega
      _ ≤ _ := Nat.mul_le_mul_right _ (Nat.log2_self_le hm)
  · calc _ < 2 ^ (Nat.log2 m + 1) * 2 ^ (23 - Nat.log2 m) := Nat.mul_lt_mul_of_pos_right Nat.lt_log2_self (Nat.two_pow_pos _)
      _ = 2 ^ 24 := by rw [← pow_add]; congr 1; omega

/-- A magnitude of at most 24 bits in units of 1/256 is a value of F32, and is rounded to itself (R51). -/
theorem roundMag_exact (neg : Bool) {m : Nat} (hm : m ≠ 0) (hlt : m < 2 ^ 24) :
    roundMag .f32 0 false neg m 1 (-8) 0 =
      { val := FloatFmt.f32.sign neg + ((Nat.log2 m + 119) * 2 ^ 23 + (m * 2 ^ (23 - Nat.log2 m) - 2 ^ 23)), flags := 0 } := by
  obtain ⟨hL, hlow, hhigh⟩ := aligned_bounds hm hlt
  have hfloor : floorLog2 m 1 (-8) = (Nat.log2 m : Int) - 8 := by
    have hself : ¬ m < 1 * 2 ^ Nat.log2 m := by rw [one_mul]; exact not_lt.mpr (Nat.log2_self_le hm)
    simp only [floorLog2, show Nat.log2 1 = 0 from rfl, Int.natCast_zero, Int.sub_zero, Int.natCast_nonneg, if_true, Int.toNat_natCast, hself, decide_false, Bool.false_eq_true, if_false, Int.sub_zero]
    rfl
  have hscale : scaleTo m 1 (-8) ((Nat.log2 m : Int) - 8 - 23) = (m * 2 ^ (23 - Nat.log2 m), 0, 1) := by
    have hle : (Nat.log2 m : Int) - 8 - 23 ≤ -8 := by omega
    have hexp : (-8 - ((Nat.log2 m : Int) - 8 - 23)).toNat = 23 - Nat.log2 m := by omega
    simp [scaleTo, hle, hexp, Nat.mod_one]
  have hemin : ¬ ((Nat.log2 m : Int) - 8 < 1 - 127) := by omega
  have hcarry : m * 2 ^ (23 - Nat.log2 m) ≠ 2 ^ (23 + 1) := hhigh.ne
  have hfield : ((Nat.log2 m : Int) - 8 - 23 + 23 + 127).toNat = Nat.log2 m + 119 := by omega
  have hmax : ¬ 0x7F7FFFFF < (Nat.log2 m + 119) * 2 ^ 23 + (m * 2 ^ (23 - Nat.log2 m) - 2 ^ 23) := by omega
  simp only [roundMag, FloatFmt.bias, FloatFmt.fracBits, FloatFmt.maxBits, hfloor, if_neg hemin, Nat.cast_ofNat, hscale, ne_eq, not_true, decide_false, Bool.false_and, Bool.and_false,
    Bool.false_eq_true, if_false, if_neg hcarry, if_neg (not_lt.mpr hlow), hfield, if_neg hmax]
  rfl

/-- Such a product loses nothing: no flag, and the encoding is that of the value (R157). -/
theorem round_exact (neg : Bool) {m : Nat} (hlt : m < 2 ^ 24) (hsign : m = 0 → neg = false) :
    (roundFp .f32 0 0 (.fin neg m (-8))).flags = 0 ∧
      ratOf (decodeFp .f32 (roundFp .f32 0 0 (.fin neg m (-8))).val) = some ((signed neg m : ℚ) * 2 ^ (-8 : Int)) := by
  by_cases hm : m = 0
  · rw [hm, hsign hm]
    refine ⟨rfl, ?_⟩
    rw [show decodeFp .f32 (roundFp .f32 0 0 (.fin false 0 (-8))).val = .fin false 0 (-149) from rfl, ratOf_fin]
    simp [signed]
  · have hround : roundFp .f32 0 0 (.fin neg m (-8)) = roundMag .f32 0 false neg m 1 (-8) 0 := if_neg hm
    obtain ⟨hL, hlow, hhigh⟩ := aligned_bounds hm hlt
    rw [hround, roundMag_exact neg hm hlt, decodeFp_f32_normal neg (by omega) (by omega) (by omega), ratOf_fin]
    refine ⟨rfl, congrArg some ?_⟩
    have hscaled : signed neg (2 ^ 23 + (m * 2 ^ (23 - Nat.log2 m) - 2 ^ 23)) = signed neg m * 2 ^ (23 - Nat.log2 m) := by
      rw [Nat.add_sub_cancel' hlow]
      cases neg <;> simp [signed]
    rw [hscaled]
    have hexp : ((23 - Nat.log2 m : Nat) : Int) + (((Nat.log2 m + 119 : Nat) : Int) - 127 - 23) = -8 := by omega
    rw [Int.cast_mul, Int.cast_pow, Int.cast_ofNat, mul_assoc, ← zpow_natCast, ← zpow_add₀ (by norm_num), hexp]

theorem q4_exact {c y : Nat} (hy : y < 256) {z : Int} (hz : codebook[c]? = some z) :
    (roundFp .f32 0 0 (q4Value c y)).flags = 0 ∧ ratOf (decodeFp .f32 (roundFp .f32 0 0 (q4Value c y)).val) = some ((z : ℚ) * y / 256) := by
  have hrange : z.natAbs ≤ 256 := (by decide : ∀ z ∈ codebook, z.natAbs ≤ 256) z (List.mem_of_getElem? hz)
  have habs : (z * y).natAbs < 2 ^ 24 := by
    rw [Int.natAbs_mul, Int.natAbs_natCast]
    calc _ ≤ 256 * y := Nat.mul_le_mul_right _ hrange
      _ < 2 ^ 24 := by omega
  have hvalue : q4Value c y = .fin (decide (z * y < 0)) (z * y).natAbs (-8) := by rw [q4Value, hz]; rfl
  obtain ⟨hflags, hval⟩ := round_exact (decide (z * y < 0)) habs (fun h => by simp [Int.natAbs_eq_zero.mp h])
  rw [hvalue]
  refine ⟨hflags, hval.trans (congrArg some ?_)⟩
  rw [signed_sign_natAbs, div_eq_mul_inv]
  push_cast
  norm_num

/-! ### Super-scales (R42, R43) -/

theorem bits_eq_extractLsb' (sc : BitVec 32) (lo len : Nat) : bits sc.toNat lo len = (sc.extractLsb' lo len).toNat := by
  rw [BitVec.extractLsb'_toNat, Nat.shiftRight_eq_div_pow]
  rfl

theorem badScale_iff (sc : BitVec 32) : badScale sc = true ↔
    sc.getLsbD 31 = true ∨ sc.extractLsb' 0 31 = 0 ∨ sc.extractLsb' 23 8 = 0xFF#8 := by
  have hsign : bits sc.toNat 31 1 = 1 ↔ sc.getLsbD 31 = true := by
    rw [BitVec.getLsbD, Nat.testBit_eq_decide_div_mod_eq]
    simp [bits]
  have hzero : sc.extractLsb' 0 31 = 0 ↔ bits sc.toNat 0 23 = 0 ∧ bits sc.toNat 23 8 = 0 := by
    rw [← BitVec.toNat_inj, ← bits_eq_extractLsb']
    simp only [bits, show (0 : BitVec 31).toNat = 0 from rfl, pow_zero, Nat.div_one]
    omega
  have hones : sc.extractLsb' 23 8 = 0xFF#8 ↔ bits sc.toNat 23 8 = 255 := by
    rw [← BitVec.toNat_inj, ← bits_eq_extractLsb']
    rfl
  rw [← hsign, hzero, hones, badScale, decodeFp_f32]
  by_cases hall : bits sc.toNat 23 8 = 255
  · by_cases hfrac : bits sc.toNat 0 23 = 0 <;> simp [hall, hfrac]
  · by_cases hnone : bits sc.toNat 23 8 = 0 <;> simp [hall, hnone]

/-! ### Vector fields -/

/-- A part of a meaning leaves the state where it ends well; what it pops is noted apart. -/
def Reads {α : Type} (m : M α) : Prop := ∀ w a w', m w = .ok a w' → w'.s = w.s

theorem reads_pure {α : Type} (a : α) : Reads (pure a : M α) := fun w b w' h => by cases h; rfl
theorem reads_throw {α : Type} (e : Stop) : Reads (throw e : M α) := fun w b w' h => by cases h
theorem reads_get : Reads (get : M Work) := fun w b w' h => by cases h; rfl
theorem reads_getS : Reads getS := fun w b w' h => by cases h; rfl
theorem reads_pop (p : Pop) : Reads (modify (fun w => { w with pops := w.pops ++ [p] }) : M PUnit) := fun w b w' h => by cases h; rfl

theorem reads_bind {α β : Type} {m : M α} {f : α → M β} (hm : Reads m) (hf : ∀ a, Reads (f a)) : Reads (m >>= f) := by
  intro w b w' h
  rw [M_bind] at h
  cases hrun : m w with
  | ok a u =>
    rw [hrun] at h
    exact (hf a u b w' h).trans (hm w a u hrun)
  | error e u =>
    rw [hrun] at h
    cases h

theorem reads_ite {α : Type} {c : Prop} [Decidable c] {m n : M α} (hm : Reads m) (hn : Reads n) : Reads (if c then m else n) := by
  split
  · exact hm
  · exact hn

theorem reads_requester : Reads requester := fun w b w' h => by cases h; rfl

theorem reads_ringAccess (off : Nat) : Reads (ringAccess off) := by
  have hrest : ∀ s, Reads (if slotTaken s s.curKey off 64 (some s.cur.ctx) then waitM .stream else pure () : M Unit) := fun s =>
    reads_ite (reads_throw _) (reads_pure _)
  refine reads_bind reads_getS fun s => reads_ite (reads_bind reads_requester fun r => ?_) (hrest s)
  cases bookingOf s r with
  | none => exact reads_bind (reads_throw _) fun _ => hrest s
  | some x => exact reads_bind (reads_throw _) fun _ => hrest s

/-- A vector source that is read leaves the state (R162). -/
theorem reads_srcV (f : BitVec 5) (iw : Word32) : Reads (srcV f iw) := by
  refine reads_bind reads_get fun w => ?_
  cases boundTo w.s.curCtx f with
  | none => exact reads_pure _
  | some e =>
    refine reads_ite ?_ (reads_bind (reads_ringAccess _) fun _ => reads_ite (reads_bind (reads_pop _) fun _ => reads_pure _) (reads_throw _))
    have hgroup : ∀ o : Option Vec, Reads (match o with
        | some v => do
          modify (fun w => { w with pops := w.pops ++ [Pop.stream e] })
          pure v
        | none => waitM .stream : M Vec) := by
      intro o
      cases o with
      | none => exact reads_throw _
      | some v => exact reads_bind (reads_pop _) fun _ => reads_pure _
    exact reads_ite (reads_bind (reads_throw _) fun _ => hgroup _) (hgroup _)

section
variable {f : BitVec 5} {w : Work} (h : boundTo w.s.curCtx f = none)
include h

theorem srcV_unbound (iw : Word32) : srcV f iw w = .ok (w.s.curCtx.vreg f) w := by simp [srcV, h]

theorem oldV_unbound : oldV f w = .ok (w.s.curCtx.vreg f) w := by simp [oldV, h]

theorem dstV_unbound (v : Vec) : dstV f v w = .ok () { w with s := w.s.modCur (fun x => x.setV f v) } := by simp [dstV, roomV, h]

end

/-- The directions of registers that are not bound need no check (R162). -/
theorem checkDirs_unbound {a d : BitVec 5} {iw : Word32} {w : Work} (ha : boundTo w.s.curCtx a = none) (hd : boundTo w.s.curCtx d = none) :
    checkDirs [a] [d] iw w = .ok () w := by
  simp [checkDirs, streamNeeds, indexed, ha, hd, require_true]

/-! ### VQDQ and QSCALE -/

theorem onlyF32_ok (iw : Word32) (w : Work) : onlyF32 0 iw w = .ok () w := rfl

theorem onlyF32_other {t : BitVec 4} (h0 : t ≠ 0) (h15 : t ≠ 15) (iw : Word32) (w : Work) :
    onlyF32 t iw w = .error (.trap .unimpl (0xFF#32 ++ iw)) w := by
  obtain ⟨ty, hty, hne⟩ : ∃ ty, elemTy t = some ty ∧ (ty == .flt .f32) = false := by
    revert t
    decide
  rw [onlyF32, M_bind, typeOf_some hty]
  simp only [hne, supported_false]
  rfl

section
variable {s : State} {d a b : BitVec 5} {k : BitVec 3} {x old v : Vec} {w1 w2 : Work}

theorem sreg_after_srcV {f : BitVec 5} {iw : Word32} (h : srcV f iw (started s) = .ok x w1) : w1.s.curCtx.sreg b = s.curCtx.sreg b := by
  rw [reads_srcV _ _ _ _ _ h, started_curCtx]

/-- The quarter and the subscale of a VQDQ (R157). -/
theorem quarter_fields (y : Word) : bits y.toNat 8 3 = (y.extractLsb' 8 3).toNat ∧ bits y.toNat 0 8 = (y.extractLsb' 0 8).toNat := by
  constructor <;> rw [BitVec.extractLsb'_toNat, Nat.shiftRight_eq_div_pow] <;> rfl

theorem vqdq_run (hdirs : checkDirs [a] [d] (wordOf (.vqdq d a b k 0)) (started s) = .ok () (started s))
    (hx : srcV a (wordOf (.vqdq d a b k 0)) (started s) = .ok x w1) (hold : oldV d w1 = .ok old w1)
    (hl : lanes 32 (s.curCtx.kreg k) old v (fun i => (roundFp .f32 0 0 (q4Value (elemOf x 4 (16 * ((s.curCtx.sreg b).extractLsb' 8 3).toNat + i))
      ((s.curCtx.sreg b).extractLsb' 0 8).toNat)).val)) (hd : dstV d v w1 = .ok () w2) :
    ∃ m, exec (.vqdq d a b k 0) s = runM m s ∧ m (started s) = .ok () w2 := by
  refine ⟨_, rfl, ?_⟩
  obtain ⟨hquarter, hsub⟩ := quarter_fields (s.curCtx.sreg b)
  rw [← hquarter, ← hsub] at hl
  simp only [M_bind, onlyF32_ok, hdirs, pred_run, kreg_started, hx, regS_run, sreg_after_srcV hx, hold, mergeElems_of_lanes (w := 32) rfl hl, hd]

theorem qscale_run (hdirs : checkDirs [a] [d] (wordOf (.qscale d a b k 0)) (started s) = .ok () (started s))
    (hx : srcV a (wordOf (.qscale d a b k 0)) (started s) = .ok x w1) (hold : oldV d w1 = .ok old w1)
    (hsc : badScale ((s.curCtx.sreg b).setWidth 32) = false)
    (hl : lanes 32 (s.curCtx.kreg k) old v (fun j => (superScale (decodeFp .f32 (elemOf x 32 j)) (decodeFp .f32 ((s.curCtx.sreg b).setWidth 32 : BitVec 32).toNat)).val))
    (hd : dstV d v w1 = .ok () w2) :
    ∃ m, exec (.qscale d a b k 0) s = runM m s ∧ m (started s) = .ok () (raised false 0 (flagsOf 32 (s.curCtx.kreg k)
      (fun j => superScale (decodeFp .f32 (elemOf x 32 j)) (decodeFp .f32 ((s.curCtx.sreg b).setWidth 32 : BitVec 32).toNat))) w2) := by
  refine ⟨_, rfl, ?_⟩
  simp only [M_bind, onlyF32_ok, hdirs, pred_run, kreg_started, hx, regS_run, sreg_after_srcV hx, hsc, Bool.false_eq_true, if_false]
  rw [putElems_ok rfl hold hl hd]
  rfl

theorem qscale_bad (hdirs : checkDirs [a] [d] (wordOf (.qscale d a b k 0)) (started s) = .ok () (started s))
    (hx : srcV a (wordOf (.qscale d a b k 0)) (started s) = .ok x w1) (hsc : badScale ((s.curCtx.sreg b).setWidth 32) = true) :
    exec (.qscale d a b k 0) s = .next (takeTrap (settled w1.s) .scale (((s.curCtx.sreg b).setWidth 32 : BitVec 32).setWidth 64)) := by
  refine runM_trap (w := w1) ?_ (by decide)
  simp only [M_bind, onlyF32_ok, hdirs, pred_run, kreg_started, hx, regS_run, sreg_after_srcV hx, hsc, if_true, trapM_run]

end

theorem superScale_fin (n ns : Bool) {m : Nat} (ms : Nat) (e es : Int) (hm : m ≠ 0) :
    superScale (.fin n m e) (.fin ns ms es) = roundMag .f32 0 false n (m * ms) 255 (e + es) 0 := if_neg hm

theorem quantisationResults : QuantisationResults := by
  refine ⟨fun s d a b k x old v w1 w2 => ⟨fun hdirs hx hold hl hd => ?_, fun hdirs hx hold => ⟨fun hsc hl hd => ?_, qscale_bad hdirs hx⟩, ?_⟩,
    fun c _ y hy z hz => q4_exact hy hz, badScale_iff, fun n ns m ms e es hm => superScale_fin n ns ms e es hm, fun _ _ _ _ _ => rfl, fun _ _ => ⟨rfl, rfl⟩⟩
  · obtain ⟨m, hm, hrun⟩ := vqdq_run hdirs hx hold hl hd
    exact hm ▸ ends_of_run hrun
  · obtain ⟨m, hm, hrun⟩ := qscale_run hdirs hx hold hsc hl hd
    exact hm ▸ ends_of_run hrun
  · intro t h0 h15 i hi
    simp only [List.mem_cons, List.not_mem_nil, or_false] at hi
    rcases hi with rfl | rfl <;> refine runM_trap (w := started s) ?_ (by decide) <;> rw [M_bind, onlyF32_other h0 h15]

/-! ### TINTERP (R153, R156) -/

section
variable {s : State} {d a b : BitVec 5} {k : BitVec 3} {t : BitVec 4}

theorem tinterp_illegal (h : 4 ≤ b.toNat ∨ t = 15) :
    exec (.tinterp d a b k t) s = .next (takeTrap (settled (started s).s) .illegal ((wordOf (.tinterp d a b k t)).setWidth 64)) := by
  refine runM_illegal ?_
  by_cases hb : b.toNat < 4
  · obtain rfl : t = 15 := h.resolve_left (by omega)
    rw [M_bind, decide_eq_true hb, require_true]
    simp only [M_bind, typeOf_none (show elemTy 15 = none from rfl)]
  · rw [M_bind, decide_eq_false hb, require_false]

theorem tinterp_unimpl (hb : b.toNat < 4) (h3 : 3 ≤ t.toNat) (h15 : t ≠ 15) :
    exec (.tinterp d a b k t) s = .next (takeTrap (settled (started s).s) .unimpl (0xFF#32 ++ wordOf (.tinterp d a b k t))) := by
  obtain ⟨ty, hty, hnone⟩ : ∃ ty, elemTy t = some ty ∧ ty.arith? = none := by
    revert t
    decide
  refine runM_trap (w := started s) ?_ (by decide)
  simp only [M_bind, decide_eq_true hb, require_true, typeOf_some hty, arithTy, hnone]
  rfl

section
variable {f : FloatFmt} (hb : b.toNat < 4) (hf : (t, f) ∈ [(0#4, FloatFmt.f32), (1#4, .bf16), (2#4, .f16)]) (hh : s.curCtx.handle = none)
  (hdirs : checkDirs [a] [d] (wordOf (.tinterp d a b k t)) (started s) = .ok () (started s))
include hb hf hh hdirs

/-- What a TINTERP does once its fields are found good. -/
def tinterpBody (s : State) (d a b : BitVec 5) (k : BitVec 3) (t : BitVec 4) (f : FloatFmt) : M Unit := do
  if loading s b.toNat ≠ [] then throw .retry
  require (s.curTile.table b.toNat).valid (wordOf (.tinterp d a b k t))
  let p ← pred k
  let x ← srcV a (wordOf (.tinterp d a b k t))
  putElems d f.width p (fun j =>
    interp (s.curTile.table b.toNat) f s.curCtx.rm (drawsOf s s.curKey s.cur.ctx j) (elemOf x f.width j))
  countDraw s.curCtx.rm

theorem tinterp_issues : ∃ m, exec (.tinterp d a b k t) s = runM m s ∧ m (started s) = tinterpBody s d a b k t f (started s) := by
  obtain ⟨hty, harith⟩ := float_type hf
  have hfree : liftA (needResource (self (started s).s) 1) (started s) = .ok () (started s) :=
    liftA_ok (needResource_unbooked 1 (show (started s).s.curCtx.handle = none by rw [started_curCtx, hh]))
  refine ⟨_, rfl, ?_⟩
  simp only [M_bind, decide_eq_true hb, require_true, typeOf_some hty, arithTy_ok harith, hdirs, requester_run, hfree]
  rfl

theorem tinterp_waits (hl : loading s b.toNat ≠ []) : exec (.tinterp d a b k t) s = .next (enterWait (started s).s .issue) := by
  obtain ⟨m, hm, hrun⟩ := tinterp_issues hb hf hh hdirs
  have hwait := runM_retry (hrun.trans (congrFun (if_pos hl) _))
  rw [hm, hwait, keepSlots_none ((plain_started s).slots false)]

variable (hl : loading s b.toNat = [])
include hl

theorem tinterp_invalid (hv : (s.curTile.table b.toNat).valid = false) :
    exec (.tinterp d a b k t) s = .next (takeTrap (settled (started s).s) .illegal ((wordOf (.tinterp d a b k t)).setWidth 64)) := by
  obtain ⟨m, hm, hrun⟩ := tinterp_issues hb hf hh hdirs
  rw [hm]
  refine runM_illegal (hrun.trans ((congrFun (if_neg (not_not.mpr hl)) _).trans ?_))
  rw [hv]
  rfl

theorem tinterp_run {x old v : Vec} {w1 w2 : Work} (hv : (s.curTile.table b.toNat).valid = true)
    (hx : srcV a (wordOf (.tinterp d a b k t)) (started s) = .ok x w1) (hold : oldV d w1 = .ok old w1)
    (hlanes : lanes f.width (s.curCtx.kreg k) old v (fun j =>
      (interp (s.curTile.table b.toNat) f s.curCtx.rm (drawsOf s s.curKey s.cur.ctx j) (elemOf x f.width j)).val)) (hd : dstV d v w1 = .ok () w2) :
    ∃ m, exec (.tinterp d a b k t) s = runM m s ∧ m (started s) = .ok () (raised true s.curCtx.rm (flagsOf f.width (s.curCtx.kreg k) (fun j =>
      interp (s.curTile.table b.toNat) f s.curCtx.rm (drawsOf s s.curKey s.cur.ctx j) (elemOf x f.width j))) w2) := by
  obtain ⟨m, hm, hrun⟩ := tinterp_issues hb hf hh hdirs
  refine ⟨m, hm, hrun.trans ((congrFun (if_neg (not_not.mpr hl)) _).trans ?_)⟩
  rw [hv]
  refine (bind_run (require_true _ _)).trans ((bind_run (pred_run k _)).trans ((bind_run hx).trans ?_))
  rw [kreg_started]
  exact putElems_raised true s.curCtx.rm (fmt_width_divides f) hold hlanes hd

end

theorem float_type_of_lt (h : t.toNat < 3) : ∃ f, (t, f) ∈ [(0#4, FloatFmt.f32), (1#4, .bf16), (2#4, .f16)] := by
  have hcases : t = 0 ∨ t = 1 ∨ t = 2 := by
    revert t
    decide
  rcases hcases with rfl | rfl | rfl
  · exact ⟨.f32, by simp⟩
  · exact ⟨.bf16, by simp⟩
  · exact ⟨.f16, by simp⟩

end

theorem tableInterpolation : TableInterpolation := by
  intro s d a b k t
  refine ⟨tinterp_illegal, tinterp_unimpl, fun hb ht hh hdirs => ?_⟩
  obtain ⟨g, hg⟩ := float_type_of_lt ht
  refine ⟨tinterp_waits hb hg hh hdirs, fun hl hv => tinterp_invalid hb hg hh hdirs hl hv, fun f x old v w1 w2 hf hl hv hx hold hlanes hd => ?_⟩
  obtain ⟨m, hm, hrun⟩ := tinterp_run hb hf hh hdirs hl hv hx hold hlanes hd
  exact hm ▸ ends_of_run hrun

/-! ### On registers that are not bound -/

theorem plain_raised {w : Work} (b : Bool) (rm : BitVec 3) (fl : Flags) (h : Plain w) : Plain (raised b rm fl w) := by
  unfold raised
  split <;> exact h

theorem tableFormsComplete : TableFormsComplete := by
  intro s d a b k ha hd out y
  have ha' : boundTo (started s).s.curCtx a = none := by rw [started_curCtx, ha]
  have hd' : boundTo (started s).s.curCtx d = none := by rw [started_curCtx, hd]
  have hdirs : ∀ iw, checkDirs [a] [d] iw (started s) = .ok () (started s) := fun iw => checkDirs_unbound ha' hd'
  have hx : ∀ iw, srcV a iw (started s) = .ok (s.curCtx.vreg a) (started s) := fun iw => by rw [srcV_unbound ha', started_curCtx]
  have hold : oldV d (started s) = .ok (s.curCtx.vreg d) (started s) := by rw [oldV_unbound hd', started_curCtx]
  have hwrite : ∀ v, dstV d v (started s) = .ok () { started s with s := (out v).s } := fun v => dstV_unbound hd' v
  have hplain : ∀ v, Plain { started s with s := (out v).s } := fun v => plain_started s
  refine ⟨⟨_, lanes_mergeElems rfl _ _ _, ?_⟩, fun hsc => ⟨_, lanes_mergeElems rfl _ _ _, ?_⟩,
    fun t f hf hb hh hl hv => ⟨_, lanes_mergeElems (fmt_width_divides f) _ _ _, ?_⟩⟩
  · obtain ⟨m, hm, hrun⟩ := vqdq_run (b := b) (hdirs _) (hx _) hold (lanes_mergeElems rfl _ _ _) (hwrite _)
    exact hm.trans (runM_plain hrun (hplain _))
  · obtain ⟨m, hm, hrun⟩ := qscale_run (hdirs _) (hx _) hold hsc (lanes_mergeElems rfl _ _ _) (hwrite _)
    exact hm.trans (runM_plain hrun (plain_raised false 0 _ (hplain (mergeElems 32 _ _ _))))
  · obtain ⟨m, hm, hrun⟩ := tinterp_run hb hf hh (hdirs _) hl hv (hx _) hold (lanes_mergeElems (fmt_width_divides f) _ _ _) (hwrite _)
    exact hm.trans (runM_plain hrun (plain_raised true s.curCtx.rm _ (hplain _)))

/-- Settles O29: the five parts by the instructions' own steps; the exactness of VQDQ because a product of at most 24 bits rounds to itself. -/
theorem tableResults : Obligations.TableResults := ⟨tableLoads, interpolationStep, tableInterpolation, quantisationResults, tableFormsComplete⟩

end Sys2Proof.Proofs
end

section
/-! The engines of a tile under an update, and the products of the matrix unit (R62, R208 to R211). -/
namespace Sys2Proof.Proofs
open Sys2Proof Sys2Proof.Machine Sys2Proof.Claims

/-! ### Engines under an update -/

@[simp] theorem tile_modEng (s : State) (k : Nat) (f : Engines → Engines) :
    (s.modEng k f).tile k = { s.tile k with eng := f (s.tile k).eng } := tile_modTile _ _ _

theorem eng_modEng (s : State) (k : Nat) (f : Engines → Engines) : ((s.modEng k f).tile k).eng = f (s.tile k).eng := by rw [tile_modEng]

theorem eng_modCtx (s : State) (k j c : Nat) (f : Ctx → Ctx) : ((s.modCtx j c f).tile k).eng = (s.tile k).eng := by
  by_cases h : k = j
  · subst h
    rw [tile_modCtx]
    rfl
  · rw [tile_modCtx_other _ _ _ h]

theorem slot_setSlot_same (e : Engines) {i : Nat} (x : AccSlot) (h : i < 8) : (e.setSlot i x).slot i = x := by
  simp [Engines.slot, Engines.setSlot, h]

theorem slot_setSlot_other (e : Engines) {i j : Nat} (x : AccSlot) (h : j ≠ i) : (e.setSlot i x).slot j = e.slot j := by
  simp [Engines.slot, Engines.setSlot, Ne.symm h]

/-! ### Elements of an accumulator slot (R22) -/

theorem get?_erase_other {α : Type} (m : Map α) {k j : Nat} (h : j ≠ k) : Map.get? (Map.erase m k) j = Map.get? m j := by
  induction m with
  | nil => rfl
  | cons e m ih =>
    obtain ⟨i, a⟩ := e
    by_cases hi : i = k
    · subst hi
      rw [Map.erase, List.filter_cons_of_neg (by simp), Map.get?, if_neg (Ne.symm h)]
      exact ih
    · rw [Map.erase, List.filter_cons_of_pos (by simpa using hi), Map.get?, Map.get?]
      exact if_congr Iff.rfl rfl ih

theorem get?_erase_same {α : Type} (m : Map α) (k : Nat) : Map.get? (Map.erase m k) k = none := by
  induction m with
  | nil => rfl
  | cons e m ih =>
    obtain ⟨i, a⟩ := e
    by_cases hi : i = k
    · rw [Map.erase, List.filter_cons_of_neg (by simpa using hi)]
      exact ih
    · rw [Map.erase, List.filter_cons_of_pos (by simpa using hi), Map.get?, if_neg hi]
      exact ih

theorem elem_setElem (x : AccSlot) (v : BitVec 32) {m n i j : Nat} (hn : n < 16) (hj : j < 16) :
    (x.setElem m n v).elem i j = if (i, j) = (m, n) then v else x.elem i j := by
  have hkey : 16 * i + j = 16 * m + n ↔ (i, j) = (m, n) := by
    rw [Prod.mk.injEq]
    omega
  by_cases h : (i, j) = (m, n)
  · rw [if_pos h, AccSlot.elem, AccSlot.setElem, hkey.mpr h]
    split
    next hv => rw [Map.getD, get?_erase_same, hv]; rfl
    next hv => exact Map.getD_set_same _ _ _ _
  · have hne := mt hkey.mp h
    rw [if_neg h, AccSlot.elem, AccSlot.setElem]
    split
    · rw [Map.getD, get?_erase_other _ hne]
      rfl
    · exact Map.getD_set_other _ _ _ _ _ hne

/-! ### The rows of an MMA -/

/-- The product that an MMA adds to an element of its slot (R62, R211). -/
def mmaProduct (o : MmaOp) (c : BitVec 32) (p : Nat × Nat) : FRes :=
  mmaElem o.ta.toNat o.tb.toNat (if o.overwrite then 0 else c) ((o.a[p.1]?).getD []) ((o.b[p.2]?).getD [])

/-- One element of an MMA is added to its slot. -/
def mmaStep (o : MmaOp) (acc : AccSlot × Flags) (p : Nat × Nat) : AccSlot × Flags :=
  let r := mmaProduct o (acc.1.elem p.1 p.2) p
  (acc.1.setElem p.1 p.2 (BitVec.ofNat 32 r.val), acc.2 ||| r.flags)

/-- The elements that an MMA writes, in order. -/
def mmaPlaces (o : MmaOp) : List (Nat × Nat) := (List.range 16).filter (fun m => decide (o.row0 ≤ m ∧ m < o.row1)) ×ˢ List.range 16

theorem mmaApply_eq (o : MmaOp) (x : AccSlot) : mmaApply o x = (mmaPlaces o).foldl (mmaStep o) (x, 0) := by
  rw [mmaPlaces, show ∀ l : List Nat, l ×ˢ List.range 16 = l.flatMap (fun m => (List.range 16).map (Prod.mk m)) from fun _ => rfl, List.foldl_flatMap]
  simp only [List.foldl_map]
  rfl

theorem mem_mmaPlaces {o : MmaOp} {m n : Nat} (hm : m < 16) (hn : n < 16) : (m, n) ∈ mmaPlaces o ↔ o.row0 ≤ m ∧ m < o.row1 := by
  simp [mmaPlaces, hm, hn]

theorem nodup_mmaPlaces (o : MmaOp) : (mmaPlaces o).Nodup := (List.nodup_range.filter _).product List.nodup_range

/-- Each element is written once, from what it was; the state of the slot stays. -/
theorem foldl_mmaStep (o : MmaOp) : ∀ (l : List (Nat × Nat)) (acc : AccSlot × Flags), l.Nodup → (∀ p ∈ l, p.2 < 16) →
    (l.foldl (mmaStep o) acc).1.st = acc.1.st ∧ ∀ i j, j < 16 → (l.foldl (mmaStep o) acc).1.elem i j =
      if (i, j) ∈ l then BitVec.ofNat 32 (mmaProduct o (acc.1.elem i j) (i, j)).val else acc.1.elem i j := by
  intro l
  induction l with
  | nil => exact fun acc _ _ => ⟨rfl, fun i j _ => by simp⟩
  | cons p l ih =>
    intro acc hnodup hlt
    obtain ⟨hp, hl⟩ := List.nodup_cons.mp hnodup
    obtain ⟨hst, helem⟩ := ih (mmaStep o acc p) hl fun q hq => hlt q (List.mem_cons_of_mem _ hq)
    refine ⟨hst, fun i j hj => ?_⟩
    have hstep : (mmaStep o acc p).1.elem i j = if (i, j) = p then BitVec.ofNat 32 (mmaProduct o (acc.1.elem p.1 p.2) p).val else acc.1.elem i j :=
      elem_setElem acc.1 _ (hlt p List.mem_cons_self) hj
    rw [List.foldl_cons, helem i j hj, hstep]
    by_cases hip : (i, j) = p
    · subst hip
      rw [if_neg hp, if_pos rfl, if_pos List.mem_cons_self]
    · rw [if_neg hip]
      exact if_congr (by simp [hip]) rfl rfl

/-- The rows of an MMA have its products added, and the other elements stay (R211). -/
theorem mmaApply_slot (o : MmaOp) (x : AccSlot) : (mmaApply o x).1.st = x.st ∧ ∀ m < 16, ∀ n < 16, (mmaApply o x).1.elem m n =
    if o.row0 ≤ m ∧ m < o.row1 then BitVec.ofNat 32 (mmaProduct o (x.elem m n) (m, n)).val else x.elem m n := by
  obtain ⟨hst, helem⟩ := foldl_mmaStep o (mmaPlaces o) (x, 0) (nodup_mmaPlaces o) fun p hp => by
    simpa using (List.mem_product.mp hp).2
  rw [mmaApply_eq]
  exact ⟨hst, fun m hm n hn => (helem m n hn).trans (if_congr (mem_mmaPlaces hm hn) rfl rfl)⟩

/-! ### The end of an MMA -/

theorem orFlags_wait (x : Ctx) (f : Flags) : (x.orFlags f).wait = x.wait := rfl

/-- An MMA whose operands are there completes, where its context waits for no page. -/
theorem completeMma_fetched {s : State} {k : Nat} {o : MmaOp} {l : List MmaOp} (h : (s.tile k).eng.mmas = o :: l) (hf : o.fetched = true)
    (hc : o.ctx < 11) (hw : ∀ ws d p, (s.ctx k o.ctx).wait ≠ some (.pages ws d p)) :
    completeMma k s = ((s.modEng k (fun e => { e.setSlot o.slot (mmaApply o ((s.tile k).eng.slot o.slot)).1 with mmas := l })).modCtx k o.ctx
      (fun x => x.orFlags (mmaApply o ((s.tile k).eng.slot o.slot)).2)) := by
  simp only [completeMma, h, hf, Bool.true_eq_false, if_false]
  split
  next ws d p hpages =>
    rw [ctx_modCtx _ _ _ hc, ctx_modEng, orFlags_wait] at hpages
    exact absurd hpages (hw ws d p)
  next => rfl

theorem mmaCompletes : MmaCompletes := by
  intro s die tile o l k x h
  refine ⟨fun hf => ?_, fun hf hslot hc hw => ⟨_, congrArg Host.Outcome.next (completeMma_fetched h hf hc hw), ?_, rfl, ?_, ?_, ?_, ?_⟩⟩
  · show Host.Outcome.next (completeMma k s) = _
    simp only [completeMma, h, hf, if_true]
  · rw [eng_modCtx, eng_modEng]
  · rw [ctx_modCtx _ _ _ hc, ctx_modEng]
  · rw [eng_modCtx, eng_modEng]
    exact (congrArg AccSlot.st (slot_setSlot_same _ _ hslot)).trans (mmaApply_slot o x).1
  · intro j hj
    rw [eng_modCtx, eng_modEng]
    exact slot_setSlot_other _ _ hj
  · intro m hm n hn
    rw [eng_modCtx, eng_modEng]
    exact (congrArg (fun y => AccSlot.elem y m n) (slot_setSlot_same _ _ hslot)).trans ((mmaApply_slot o x).2 m hm n hn)

end Sys2Proof.Proofs
end

section
/-! The epilogue engine: its jobs from start to end (R214, R219). -/
namespace Sys2Proof.Proofs
open Sys2Proof Sys2Proof.Machine Sys2Proof.Claims

/-! ### Start and end of a job -/

theorem drainReady_iff {e : Engines} {j : EpiJob} {l : List EpiJob} (h : e.epiq = j :: l) :
    drainReady e = true ↔ (e.slot j.slot).st = .epiq ∧ e.mmaTo j.slot = none ∧ j.behind = [] := by
  simp [drainReady, h, and_assoc]

theorem startDrain_ready {s : State} {k : Nat} {j : EpiJob} {l : List EpiJob} (h : (s.tile k).eng.epiq = j :: l) (hr : drainReady (s.tile k).eng = true) :
    startDrain k s = (s.modEng k (fun e => e.setSlot j.slot { (s.tile k).eng.slot j.slot with st := .epi })).post (.epiDrainEnd (tileDie k) (tileId k)) := by
  simp only [startDrain, h, hr, if_true]
  rfl

theorem startDrain_waits {s : State} {k : Nat} {j : EpiJob} {l : List EpiJob} (h : (s.tile k).eng.epiq = j :: l) (hr : drainReady (s.tile k).eng = false) :
    startDrain k s = s := by
  simp [startDrain, h, hr]

theorem endDrain_untold {s : State} {k : Nat} {j : EpiJob} {l : List EpiJob} (h : (s.tile k).eng.epiq = j :: l) (ht : j.tok = none) :
    endDrain k s = endJob s k j := by
  simp [endDrain, h, ht]

section
variable {s s1 : State} {k w : Nat} {j : EpiJob} {l : List EpiJob} (h : (s.tile k).eng.epiq = j :: l) (ht : j.tok = some w)
include h ht

theorem endDrain_ok {j1 : EpiJob} {l1 : List EpiJob} (hrun : epiRun k s = .ok () s1) (h1 : (s1.tile k).eng.epiq = j1 :: l1) :
    endDrain k s = (endJob s1 k j).modCtx k j.ctx (fun x => x.orFlags j1.flags) := by
  simp only [endDrain, h, ht, hrun, h1, reduceCtorEq, if_false]

theorem endDrain_trap {c : Cause} {v : Word} (hrun : epiRun k s = .error (.trap c v) s1) :
    endDrain k s = opFault (endJob s1 k j) k j.ctx j.pc 0 c.code (ptrOff v) := by
  simp only [endDrain, h, ht, hrun, reduceCtorEq, if_false]

theorem endDrain_refer {p : PageWait} (hrun : epiRun k s = .error (.refer p) s1) :
    endDrain k s = s1.modEng k (fun e => { e with epiq := match e.epiq with
      | [] => []
      | j :: l => { j with waits := [p] } :: l }) := by
  simp only [endDrain, h, ht, hrun, reduceCtorEq, if_false] <;> rfl

end

/-! ### Steps of an engine -/

theorem A_bind_error {α β : Type} {x : A α} {f : α → A β} {s t : State} {e : AccErr} (h : x s = .error e t) : (x >>= f) s = .error e t := by
  rw [A_bind, h]

theorem twinStep_congr {α : Type} {k key : Nat} {x y : A α} {s : State} (h : x (rewindTwin s k) = y (rewindTwin s k)) :
    twinStep k key x s = twinStep k key y s := by
  simp only [twinStep, h]

theorem bind_congr_run {α β : Type} {x : A α} {f g : α → A β} {s : State} (h : ∀ a t, x s = .ok a t → f a t = g a t) : (x >>= f) s = (x >>= g) s := by
  rw [A_bind, A_bind]
  cases hx : x s with
  | ok a t => exact h a t hx
  | error e t => rfl

theorem modEng_congr {s : State} {k : Nat} {f g : Engines → Engines} (h : f (s.tile k).eng = g (s.tile k).eng) : s.modEng k f = s.modEng k g := by
  simp only [State.modEng, State.modTile, h]

theorem modJob_run {s : State} {k : Nat} {j : EpiJob} {l : List EpiJob} (f : EpiJob → EpiJob) (h : (s.tile k).eng.epiq = j :: l) :
    modJob k f s = .ok () (s.modEng k (fun e => { e with epiq := f j :: l })) :=
  congrArg (EStateM.Result.ok ()) (modEng_congr (by simp only [h]))

theorem twinStep_ok {α : Type} {k key : Nat} {x : A α} {s t : State} {a : α} (h : twinStep k key x s = .ok a t) :
    ∃ u, x (rewindTwin s k) = .ok a u ∧ t = forgetTwin u k key := by
  rw [twinStep] at h
  split at h
  next a u hx =>
    cases h
    exact ⟨u, hx, rfl⟩
  next => cases h

theorem twinStep_run {α : Type} {k key : Nat} {x : A α} {s u : State} {a : α} (h : x (rewindTwin s k) = .ok a u) :
    twinStep k key x s = .ok a (forgetTwin u k key) := by
  simp only [twinStep, h]

theorem writesAll_append (write : Nat → A Unit) : ∀ (a b : List Nat) {s t : State},
    writesAll write (a ++ b) s t ↔ ∃ u, writesAll write a s u ∧ writesAll write b u t := by
  intro a
  induction a with
  | nil => exact fun b s t => ⟨fun h => ⟨s, rfl, h⟩, fun ⟨u, hu, h⟩ => hu ▸ h⟩
  | cons i a ih =>
    intro b s t
    constructor
    · intro ⟨v, hv, h⟩
      obtain ⟨u, hu, ht⟩ := (ih b).mp h
      exact ⟨u, ⟨v, hv, hu⟩, ht⟩
    · intro ⟨u, ⟨v, hv, hu⟩, ht⟩
      exact ⟨v, hv, (ih b).mpr ⟨u, hu, ht⟩⟩

theorem eachA_nil {α : Type} (f : α → A Unit) (s : State) : eachA [] f s = .ok () s := rfl

theorem eachA_cons {α : Type} (a : α) (l : List α) (f : α → A Unit) : eachA (a :: l) f = (f a >>= fun _ => eachA l f) := by
  simp [eachA]

/-! ### The rows of a job -/

/-- In state t the job at the head of the queue is j', and the rest of the tile's engines, and what a draw is made of, are those of s. -/
structure DrainsAs (s : State) (k : Nat) (j : EpiJob) (l : List EpiJob) (t : State) : Prop where
  eng : (t.tile k).eng = { (s.tile k).eng with epiq := j :: l }
  work : (t.tile k).work = (s.tile k).work
  ssn : (t.tile k).step.ssn = (s.tile k).step.ssn
  dieId : t.dieId k = s.dieId k
  idKey : t.idKey k = s.idKey k

theorem DrainsAs.keeps {s t u : State} {k : Nat} {j : EpiJob} {l : List EpiJob} (h : DrainsAs s k j l t) (g : KeepsAgents t u) : DrainsAs s k j l u :=
  ⟨(g.eng k).trans h.eng, (g.work k).trans h.work, (g.tile k).ssn.trans h.ssn, (g.dieId k).trans h.dieId, (g.idKey k).trans h.idKey⟩

theorem idKey_modEng (s : State) (k : Nat) (f : Engines → Engines) : (s.modEng k f).idKey k = s.idKey k := by
  simp only [State.idKey, tile_modEng]

theorem dieId_modEng (s : State) (k : Nat) (f : Engines → Engines) : (s.modEng k f).dieId k = s.dieId k := by
  simp only [State.dieId, idKey_modEng, tile_modEng]
  rfl

theorem DrainsAs.modEng {s t : State} {k : Nat} {j : EpiJob} {l : List EpiJob} (h : DrainsAs s k j l t) (j' : EpiJob) :
    DrainsAs s k j' l (t.modEng k (fun e => { e with epiq := j' :: l })) := by
  refine ⟨?_, ?_, ?_, (dieId_modEng t k _).trans h.dieId, (idKey_modEng t k _).trans h.idKey⟩
  · rw [eng_modEng, h.eng]
  · rw [tile_modEng]
    exact h.work
  · rw [tile_modEng]
    exact h.ssn

theorem DrainsAs.epiDraw {s t : State} {k : Nat} {j : EpiJob} {l : List EpiJob} (h : DrainsAs s k j l t) (j' : EpiJob) (n : Nat) :
    epiDraw t k j' n = Machine.epiDraw s k j' n := by
  simp only [Machine.epiDraw, h.work, h.ssn, h.dieId, h.idKey]

/-- The rows from `first` on that are below `n`. -/
def rowsFrom (first n : Nat) : List Nat := (List.range n).filter (fun i => decide (first ≤ i))

theorem rowsFrom_succ {first n : Nat} (h : first ≤ n) : rowsFrom first (n + 1) = rowsFrom first n ++ [n] := by
  simp [rowsFrom, List.range_succ, h]

theorem rowsFrom_succ_below {first n : Nat} (h : n < first) : rowsFrom first (n + 1) = rowsFrom first n := by
  simp [rowsFrom, List.range_succ, h]

/-- The access of row m of a job, and what it leaves, of the elements `one`. -/
def rowWrite (k : Nat) (r : Requester) (j : EpiJob) (rd : BitVec 32 × BitVec 512) (l : List EpiJob) (one : Nat → Nat → Nat × Flags)
    (f : Nat → Flags) (m : Nat) : A Unit := do
  writeAcc r (epiRow j.dst j.stride (epOut j.cfg) m .store) ((List.range 16).flatMap (fun n => bytesOfNat (outSize (epOut j.cfg)) (one m n).1))
  modA (fun t => t.modEng k (fun e => { e with epiq := { j with reads := some rd, row := m + 1, flags := f (m + 1) } :: l }))

section
variable (s : State) (k : Nat) (j : EpiJob) (l : List EpiJob) (rd : BitVec 32 × BitVec 512)

/-- What a job has read, as values. -/
def readData (rd : BitVec 32 × BitVec 512) : EpiData :=
  { scale := decodeFp .f32 rd.1.toNat, bias := (List.range 16).map (fun n => decodeFp .f32 (bits rd.2.toNat (32 * n) 32)) }

/-- Element (m, n) of a job, as it is written, with its flags (R219). -/
def jobElem (m n : Nat) : Nat × Flags :=
  epiElem j ((epTable j.cfg).map (fun i => (s.tile k).table i)) (readData rd) (epiDraw s k j (16 * m + n)) n (((s.tile k).eng.slot j.slot).elem m n)

/-- The flags of a job before row m. -/
def jobFlags (m : Nat) : Flags :=
  (rowsFrom j.row m).foldl (fun (f : Flags) i => (List.range 16).foldl (fun (f : Flags) n => f ||| (jobElem s k j rd i n).2) f) j.flags

/-- The job as it stands when its rows before m are written; `r` is the row that it notes. -/
def jobAt (m r : Nat) : EpiJob := { j with reads := some rd, row := r, flags := jobFlags s k j rd m }

variable {s k j l rd} {t : State} {m r : Nat}

theorem epiRowOut_run (q : Requester) (hm : j.row ≤ m) (h : DrainsAs s k (jobAt s k j rd m r) l t) :
    epiRowOut q k m (jobAt s k j rd m r) t = rowWrite k q j rd l (jobElem s k j rd) (jobFlags s k j rd) m t := by
  have helems : (List.range 16).map (fun n => epiElem (jobAt s k j rd m r) ((epTable (jobAt s k j rd m r).cfg).map (fun i => (t.tile k).table i)) (jobAt s k j rd m r).data
      (epiDraw t k (jobAt s k j rd m r) (16 * m + n)) n (((t.tile k).eng.slot (jobAt s k j rd m r).slot).elem m n)) = (List.range 16).map (jobElem s k j rd m) := by
    refine List.map_congr_left fun n _ => ?_
    rw [h.epiDraw]
    simp only [Tile.table, Engines.slot, h.eng]
    rfl
  have hflags : jobFlags s k j rd (m + 1) = ((List.range 16).map (jobElem s k j rd m)).foldl (fun (f : Flags) e => f ||| e.2) (jobFlags s k j rd m) := by
    rw [jobFlags, rowsFrom_succ hm, List.foldl_append, List.foldl_map]
    rfl
  rw [epiRowOut, rowWrite, A_bind_ok (getA_run t)]
  simp only [helems, List.flatMap_map]
  refine bind_congr_run fun _ u hu => ?_
  have hnow := h.keeps ((leaves_writeAcc _ _ _).ok hu)
  rw [modJob_run _ (by rw [hnow.eng])]
  show EStateM.Result.ok () (u.modEng k _) = EStateM.Result.ok () (u.modEng k _)
  rw [hflags]
  rfl

/-- The job that drains writes its row m. -/
def drainRow (r : Requester) (k m : Nat) : A Unit := do
  match ((← getA).tile k).eng.epiq with
  | [] => pure ()
  | j :: _ => twinStep k epiKey (epiRowOut r k m j)

theorem drainRow_run (q : Requester) (hm : j.row ≤ m) (h : DrainsAs s k (jobAt s k j rd m r) l t) :
    drainRow q k m t = twinStep k 64 (rowWrite k q j rd l (jobElem s k j rd) (jobFlags s k j rd) m) t := by
  rw [drainRow, A_bind_ok (getA_run t), h.eng]
  exact twinStep_congr (epiRowOut_run q hm (h.keeps (keepsAgents_rewindTwin t k)))

theorem drainRow_ok {q : Requester} {u : State} (h : DrainsAs s k (jobAt s k j rd m r) l t)
    (hu : twinStep k 64 (rowWrite k q j rd l (jobElem s k j rd) (jobFlags s k j rd) m) t = .ok () u) : DrainsAs s k (jobAt s k j rd (m + 1) (m + 1)) l u := by
  obtain ⟨v, hv, rfl⟩ := twinStep_ok hu
  rw [rowWrite, A_bind] at hv
  cases hw : writeAcc q (epiRow j.dst j.stride (epOut j.cfg) m .store) ((List.range 16).flatMap (fun n => bytesOfNat (outSize (epOut j.cfg)) (jobElem s k j rd m n).1)) (rewindTwin t k) with
  | ok a x =>
    rw [hw] at hv
    cases hv
    exact (((h.keeps (keepsAgents_rewindTwin t k)).keeps ((leaves_writeAcc _ _ _).ok hw)).modEng _).keeps (keepsAgents_forgetTwin _ _ _)
  | error e x =>
    rw [hw] at hv
    cases hv

/-- The rows before m are written one after the other, and the job goes on behind them. -/
theorem eachA_drainRow (q : Requester) {s0 : State} (h0 : DrainsAs s k (jobAt s k j rd 0 j.row) l s0) : ∀ (m : Nat) {s1 : State},
    writesAll (fun m => twinStep k 64 (rowWrite k q j rd l (jobElem s k j rd) (jobFlags s k j rd) m)) (rowsFrom j.row m) s0 s1 →
    (∃ r, DrainsAs s k (jobAt s k j rd m r) l s1) ∧ ∀ rest, eachA (rowsFrom j.row m ++ rest) (drainRow q k) s0 = eachA rest (drainRow q k) s1 := by
  intro m
  induction m with
  | zero =>
    intro s1 h
    cases h
    exact ⟨⟨_, h0⟩, fun rest => rfl⟩
  | succ m ih =>
    intro s1 h
    by_cases hm : j.row ≤ m
    · rw [rowsFrom_succ hm, writesAll_append] at h
      obtain ⟨u, hu, v, hv, rfl⟩ := h
      obtain ⟨⟨r, hr⟩, hrun⟩ := ih hu
      refine ⟨⟨_, drainRow_ok hr hv⟩, fun rest => ?_⟩
      rw [rowsFrom_succ hm, List.append_assoc, hrun, List.singleton_append, eachA_cons, A_bind_ok ((drainRow_run q hm hr).trans hv)]
    · have hrows := rowsFrom_succ_below (not_le.mp hm)
      have hflags : ∀ r, jobAt s k j rd (m + 1) r = jobAt s k j rd m r := fun r => by rw [jobAt, jobAt, jobFlags, jobFlags, hrows]
      rw [hrows] at h ⊢
      simp only [hflags]
      exact ih h

/-- Row m of a job waits for a page. -/
theorem eachA_drainRow_error (q : Requester) {s0 s1 s2 : State} {e : AccErr} (h0 : DrainsAs s k (jobAt s k j rd 0 j.row) l s0) (hm : j.row ≤ m) (h16 : m < 16)
    (h : writesAll (fun m => twinStep k 64 (rowWrite k q j rd l (jobElem s k j rd) (jobFlags s k j rd) m)) (rowsFrom j.row m) s0 s1)
    (he : twinStep k 64 (rowWrite k q j rd l (jobElem s k j rd) (jobFlags s k j rd) m) s1 = .error e s2) :
    eachA (rowsFrom j.row 16) (drainRow q k) s0 = .error e s2 := by
  obtain ⟨⟨r, hr⟩, hrun⟩ := eachA_drainRow q h0 m h
  have hsplit : ∃ rest, rowsFrom j.row 16 = rowsFrom j.row m ++ m :: rest := by
    obtain ⟨n, hn⟩ : ∃ n, 16 = m + 1 + n := ⟨16 - (m + 1), by omega⟩
    refine ⟨((List.range n).map (m + 1 + ·)).filter (fun i => decide (j.row ≤ i)), ?_⟩
    rw [hn, rowsFrom, List.range_add, List.filter_append]
    exact (congrArg (· ++ _) (rowsFrom_succ hm)).trans (List.append_assoc _ _ _)
  obtain ⟨rest, hrest⟩ := hsplit
  rw [hrest, hrun, eachA_cons, A_bind_error ((drainRow_run q hm hr).trans he)]

end

/-! ### A job from its reads on -/

theorem leaves_epiReads (r : Requester) (c : BitVec 512) : Leaves (epiReads r c) := by
  have hbias : ∀ x : BitVec 32, Leaves (if epBI c then do
      let bs ← readAcc r { accAt (epBIAS c) 0 64 4 .load with declared := some 1 }
      let bias ← pure (BitVec.ofNat 512 (natOfBytes bs))
      pure (x, bias)
    else do
      let bias ← pure 0
      pure (x, bias)) := fun x => leaves_ite (leaves_bind (leaves_readAcc _ _) fun _ => leaves_bind (leaves_pure _) fun _ => leaves_pure _)
        (leaves_bind (leaves_pure _) fun _ => leaves_pure _)
  exact leaves_ite (leaves_bind (leaves_readAcc _ _) fun _ => leaves_ite (leaves_bind (leaves_trapA _ _) hbias) (leaves_bind (leaves_pure _) hbias))
    (leaves_bind (leaves_pure _) hbias)

section
variable {r : Requester} {cfg : BitVec 512} {s s1 : State} (hb : epBI cfg = false)
include hb

theorem epiReads_none (hq : epQS cfg = false) : epiReads r cfg s = .ok (0, 0) s := by
  simp only [epiReads, hq, hb, Bool.false_eq_true, if_false]
  rfl

theorem epiReads_scale (hq : epQS cfg = true) {bs : List Byte} (h : readAcc r { accAt (epQSB cfg) 0 64 64 .load with declared := some 8 } s = .ok bs s1) :
    epiReads r cfg s = if badScale (BitVec.ofNat 32 (natOfBytes (bs.take 4))) = true ∨ natOfBytes (bs.drop 4) ≠ 0 then .error (.trap .scale (epQSB cfg)) s1
      else .ok (BitVec.ofNat 32 (natOfBytes (bs.take 4)), 0) s1 := by
  simp only [epiReads, hq, hb, Bool.false_eq_true, if_false, if_true]
  rw [A_bind_ok h]
  split
  · rfl
  · rfl

end

theorem epiElem_i32 {j : EpiJob} (x : EpiData) (draw : BitVec 16) (n : Nat) (v : BitVec 32) (ho : epOut j.cfg = 7) (hq : epQS j.cfg = false)
    (hs : epSC j.cfg = false) (hb : epBI j.cfg = false) : epiElem j none x draw n v = (v.toNat, 0) := by
  simp only [epiElem, ho, hq, hs, hb, epiStep, epiOut, ne_eq, not_true, decide_false, Bool.and_false, Option.isSome_none, Bool.false_eq_true, if_false, if_true]
  rfl

/-- Who makes the accesses of a job. -/
def jobRequester (k : Nat) (j : EpiJob) : Requester := { tile := k, ctx := j.ctx, engine := true, unit := 64, subreg := some j.subreg }

section
variable {s s0 u : State} {k : Nat} {j : EpiJob} {l : List EpiJob} {rd : BitVec 32 × BitVec 512} (h : (s.tile k).eng.epiq = j :: l)
include h

/-- A job that has read goes on with its rows. -/
theorem epiRun_read (hr : j.reads = some rd) : epiRun k s = eachA (rowsFrom j.row 16) (drainRow (jobRequester k j) k) s := by
  rw [epiRun, A_bind_ok (getA_run s), h]
  simp only [hr, reduceCtorEq, if_false]
  rfl

theorem epiRun_unread (hr : j.reads = none) :
    epiRun k s = (do
      let x ← twinStep k 64 (epiReads (jobRequester k j) j.cfg)
      modJob k (fun j => { j with reads := some x })
      eachA (rowsFrom j.row 16) (drainRow (jobRequester k j) k)) s := by
  rw [epiRun, A_bind_ok (getA_run s), h]
  simp only [hr, if_true]
  rfl

theorem epiRun_reads_error {e : AccErr} (hr : j.reads = none) (he : twinStep k 64 (epiReads (jobRequester k j) j.cfg) s = .error e u) :
    epiRun k s = .error e u := by
  rw [epiRun_unread h hr, A_bind_error he]

/-- The job has read what it needs in s0, now or before. -/
def HasRead (s : State) (k : Nat) (j : EpiJob) (l : List EpiJob) (rd : BitVec 32 × BitVec 512) (s0 : State) : Prop :=
  j.reads = some rd ∧ s0 = s ∨ j.reads = none ∧ ∃ u, twinStep k 64 (epiReads (jobRequester k j) j.cfg) s = .ok rd u ∧
    s0 = u.modEng k (fun e => { e with epiq := { j with reads := some rd } :: l })

theorem drainsAs_start : DrainsAs s k j l s := by
  refine ⟨?_, rfl, rfl, rfl, rfl⟩
  rw [← h]

omit h in
theorem jobAt_start (hr : j.reads = some rd) : jobAt s k j rd 0 j.row = j := by
  rw [jobAt, ← hr]
  rfl

theorem hasRead_runs (hread : HasRead s k j l rd s0) :
    epiRun k s = eachA (rowsFrom j.row 16) (drainRow (jobRequester k j) k) s0 ∧ DrainsAs s k (jobAt s k j rd 0 j.row) l s0 := by
  rcases hread with ⟨hr, rfl⟩ | ⟨hr, u, hu, rfl⟩
  · rw [jobAt_start hr]
    exact ⟨epiRun_read h hr, drainsAs_start h⟩
  · have hkeep := (drainsAs_start h).keeps ((leaves_twinStep _ _ (leaves_epiReads _ _)).ok hu)
    refine ⟨?_, hkeep.modEng _⟩
    rw [epiRun_unread h hr, A_bind_ok hu, A_bind_ok (modJob_run _ (by rw [hkeep.eng]))]

end

theorem epilogueDrains : EpilogueDrains := by
  refine ⟨?_, fun r cfg s s1 hb => ⟨epiReads_none hb, fun hq bs => epiReads_scale hb hq⟩, fun j x draw n v => epiElem_i32 x draw n v⟩
  intro s die tile j l k x free draining h
  refine ⟨fun hst hmma hb => ?_, fun hwait => ?_, fun ht => ?_, fun w c v u ht hr hu => ?_, fun w rd s0 ht hread => ⟨fun s1 hw => ?_, fun m s1 s2 pw hm h16 hw he => ?_⟩⟩
  · exact congrArg Host.Outcome.next (startDrain_ready h ((drainReady_iff h).mpr ⟨hst, hmma, hb⟩))
  · refine congrArg Host.Outcome.next (startDrain_waits h ?_)
    rw [← Bool.not_eq_true, drainReady_iff h]
    tauto
  · refine congrArg Host.Outcome.next ((endDrain_untold h ht).trans ?_)
    rw [endJob, ht]
    rfl
  · refine congrArg Host.Outcome.next ((endDrain_trap h ht (epiRun_reads_error h hr hu)).trans ?_)
    rw [endJob, ht]
    rfl
  · obtain ⟨hrun, hstart⟩ := hasRead_runs h hread
    obtain ⟨⟨row, hend⟩, hrows⟩ := eachA_drainRow (jobRequester k j) hstart 16 hw
    have hdone : epiRun k s = .ok () s1 := by rw [hrun, ← List.append_nil (rowsFrom j.row 16), hrows, eachA_nil]
    refine congrArg Host.Outcome.next ((endDrain_ok h ht hdone (congrArg Engines.epiq hend.eng)).trans ?_)
    rw [endJob, ht]
    rfl
  · obtain ⟨hrun, hstart⟩ := hasRead_runs h hread
    exact congrArg Host.Outcome.next (endDrain_refer h ht (hrun.trans (eachA_drainRow_error (jobRequester k j) hstart hm h16 hw he)))

end Sys2Proof.Proofs
end

section
/-! Operations of the copy engine: how they stand in their tile, and how they end (R205, R224, R399). -/
namespace Sys2Proof.Proofs
open Sys2Proof Sys2Proof.Machine Sys2Proof.Claims

/-! ### Notices and tokens -/

/-- A tile that has room takes a notice into its inbox at once (R25). -/
theorem notify_room {s : State} {k : Nat} (hroom : (s.tile k).io.inbox.length < 32) (hheld : (s.tile k).io.heldIn = []) (payload : Word)
    (tag : BitVec 16) (cls : BitVec 2) (type : BitVec 8) : notify s k payload tag cls type =
      s.modIo k (fun io => { io with inbox := io.inbox ++ [inboxEntry payload (s.tile k).step.ssn tag cls type] }) := if_pos ⟨hroom, hheld⟩

theorem notify_tile (s : State) (k : Nat) (payload : Word) (tag : BitVec 16) (cls : BitVec 2) (type : BitVec 8) :
    ((notify s k payload tag cls type).tile k).eng = (s.tile k).eng ∧ ((notify s k payload tag cls type).tile k).ctxs = (s.tile k).ctxs := by
  rw [notify, postInbox_tile]
  exact ⟨rfl, rfl⟩

theorem opPayload_bits (cause : BitVec 8) (off : BitVec 40) : opPayload 2 cause off.toNat = 0#8 ++ off ++ cause ++ 2#8 := by
  apply BitVec.eq_of_toNat_eq
  have hoff := off.isLt
  have hcause := cause.isLt
  rw [opPayload, BitVec.toNat_append, BitVec.toNat_append, BitVec.toNat_append, ← Nat.shiftLeft_add_eq_or_of_lt (by decide),
    ← Nat.shiftLeft_add_eq_or_of_lt cause.isLt, ← Nat.shiftLeft_add_eq_or_of_lt off.isLt, toNat_ofNat_of_lt (by omega)]
  simp only [Nat.shiftLeft_eq, BitVec.toNat_ofNat]
  omega

/-! ### An operation that ends -/

/-- The engines of a tile after operation `o` has ended. -/
def opGone (o : EngineOp) (e : Engines) : Engines :=
  { e with ops := e.ops.filter (fun x => x.id != o.id), tok := e.tok.setIfInBounds o.tok (e.count o.tok - 1) }

theorem endOp_tile (s : State) (k : Nat) (o : EngineOp) : (endOp s k o).tile k = { s.tile k with eng := opGone o (s.tile k).eng } := by
  rw [endOp, dropToken, tile_modEng, tile_modEng]
  rfl

theorem count_opGone (o : EngineOp) (e : Engines) (h : o.tok < 8) : (opGone o e).count o.tok = e.count o.tok - 1 := by
  simp [opGone, Engines.count, h]

theorem op?_id {e : Engines} {id : Nat} {o : EngineOp} (h : e.op? id = some o) : o.id = id := by
  simpa using List.find?_some h

/-! ### Faults of operations (R205) -/

/-- A fault of an operation, before its notice. -/
def faultRaised (s : State) (k c : Nat) (pc : Word) (cause : BitVec 8) (off : Nat) : State :=
  raiseEvent (recordFault s k c cause (opPayload 2 cause off) pc) k cause

theorem opFault_eq (s : State) (k c : Nat) (pc : Word) (tag : BitVec 16) (cause : BitVec 8) (off : Nat) :
    opFault s k c pc tag cause off = notify (faultRaised s k c pc cause off) k (opPayload 2 cause off) tag 0 0x01 := rfl

theorem faultRaised_tile (s : State) (k c : Nat) (pc : Word) (cause : BitVec 8) (off : Nat) :
    (faultRaised s k c pc cause off).tile k = { s.tile k with step := ((faultRaised s k c pc cause off).tile k).step } := by
  rw [faultRaised, raiseEvent, step_modStep, recordFault_tile]

theorem faultRaised_step {s : State} {k : Nat} (c : Nat) (pc : Word) (cause : BitVec 8) (off : Nat)
    (h : (s.tile k).step.bound = false ∨ (s.tile k).step.settled = true) :
    ((faultRaised s k c pc cause off).tile k).step = (s.tile k).step.pendFor cause := by
  rw [faultRaised, raiseEvent, step_modStep, recordFault_tile]
  rcases h with h | h <;> simp [h]

theorem faultRaised_pending (s : State) (k c : Nat) (pc : Word) (cause : BitVec 8) (off : Nat) : (faultRaised s k c pc cause off).pending = s.pending := by
  rw [faultRaised, recordFault_rest]
  rfl

theorem faultRaised_mem (s : State) (k c : Nat) (pc : Word) (cause : BitVec 8) (off : Nat) : (faultRaised s k c pc cause off).mem = s.mem := by
  rw [faultRaised, recordFault_rest]
  rfl

theorem opFault_room {s : State} {k : Nat} (hroom : (s.tile k).io.inbox.length < 32) (hheld : (s.tile k).io.heldIn = []) (c : Nat) (pc : Word)
    (tag : BitVec 16) (cause : BitVec 8) (off : Nat) : opFault s k c pc tag cause off = (faultRaised s k c pc cause off).modIo k (fun io => { io with
      inbox := io.inbox ++ [inboxEntry (opPayload 2 cause off) ((faultRaised s k c pc cause off).tile k).step.ssn tag 0 0x01] }) := by
  have hio : ((faultRaised s k c pc cause off).tile k).io = (s.tile k).io := by rw [faultRaised_tile]
  rw [opFault_eq, notify_room (by rw [hio]; exact hroom) (by rw [hio]; exact hheld)]

/-- The state without the events of an operation. -/
def withoutEvents (s : State) (k id : Nat) : State := { s with pending := s.pending.filter (fun e => !opEvent (tileDie k) (tileId k) id e) }

theorem stopOp_some {s : State} {k id : Nat} {o : EngineOp} (h : (s.tile k).eng.op? id = some o) (cause : BitVec 8) (off : BitVec 40) :
    stopOp k id cause off s = opFault (endOp (withoutEvents s k id) k o) k o.ctx o.pc o.tag cause off.toNat := by
  rw [stopOp, h]
  rfl

theorem engineFaults : EngineFaults := by
  intro s die tile id o cause off k io st h hroom hheld hstep
  have hend : (endOp (withoutEvents s k id) k o).tile k = { s.tile k with eng := opGone o (s.tile k).eng } := endOp_tile _ _ _
  have hraised := faultRaised_tile (endOp (withoutEvents s k id) k o) k o.ctx o.pc cause off.toNat
  have hstep' := faultRaised_step (s := endOp (withoutEvents s k id) k o) (k := k) o.ctx o.pc cause off.toNat (by rw [hend]; exact hstep)
  rw [hend] at hraised hstep'
  have hrun : exec (.engineFault die tile id cause off) s = .next _ := congrArg Host.Outcome.next ((stopOp_some h cause off).trans
    (opFault_room (by rw [hend]; exact hroom) (by rw [hend]; exact hheld) _ _ _ _ _))
  have hgone : ∀ e, opEvent (tileDie k) (tileId k) id e = true → e ∉ (faultRaised (endOp (withoutEvents s k id) k o) k o.ctx o.pc cause off.toNat).pending := by
    intro e he hmem
    rw [faultRaised_pending] at hmem
    have := (List.mem_filter.mp hmem).2
    rw [he] at this
    exact absurd this (by decide)
  refine ⟨_, hrun, faultRaised_mem _ _ _ _ _ _, ?_, ?_, ?_, fun ht => ?_, fun row => hgone _ ?_, hgone _ ?_⟩
  · rw [tile_modIo, hraised, hstep', opPayload_bits]
    rfl
  · rw [tile_modIo, hraised, hstep']
    rfl
  · rw [tile_modIo, hraised, ← op?_id h]
    rfl
  · rw [tile_modIo, hraised]
    exact count_opGone o _ ht
  · simp [opEvent]
  · simp [opEvent]

/-- A COPYG that is complete (R224). -/
theorem copyg_completes {s : State} {die tile id : Nat} {o : EngineOp} (h : (s.tile (tileKey die tile)).eng.op? id = some o)
    (hroom : (s.tile (tileKey die tile)).io.inbox.length < 32) (hheld : (s.tile (tileKey die tile)).io.heldIn = []) :
    let k := tileKey die tile
    ∃ t, exec (.copygComplete die tile id) s = .next t ∧
      (t.tile k).io.inbox = (s.tile k).io.inbox ++ [0#64 ++ (s.tile k).step.ssn ++ o.tag ++ 0#6 ++ 0#2 ++ 0x02#8] ∧
      (t.tile k).eng.ops = (s.tile k).eng.ops.filter (fun x => x.id != id) ∧
      (o.tok < 8 → (t.tile k).eng.count o.tok = (s.tile k).eng.count o.tok - 1) ∧ t.mem = s.mem := by
  intro k
  have hend : (endOp s k o).tile k = { s.tile k with eng := opGone o (s.tile k).eng } := endOp_tile _ _ _
  have hdone : completeCopyg k id s = notify (endOp s k o) k (opPayload 0 0 0) o.tag 0 0x02 := by rw [completeCopyg, h]
  refine ⟨_, congrArg Host.Outcome.next (hdone.trans (notify_room (by rw [hend]; exact hroom) (by rw [hend]; exact hheld) _ _ _ _)), ?_, ?_, fun ht => ?_, rfl⟩
  · rw [tile_modIo, hend]
    rfl
  · rw [tile_modIo, hend, ← op?_id h]
    rfl
  · rw [tile_modIo, hend]
    exact count_opGone o _ ht

end Sys2Proof.Proofs
end

section
/-! One step of an engine operation (R222 to R225, R236, R315). -/
namespace Sys2Proof.Proofs
open Sys2Proof Sys2Proof.Machine Sys2Proof.Claims

/-! ### What an operation's accesses leave of the operations in flight -/

/-- An operation but for what it has read and not written (R399). -/
def opShell (o : EngineOp) : EngineOp := { o with got := [] }

/-- The operations of a tile are the same ones; what they have read may differ. -/
def KeepsOps (k : Nat) (s t : State) : Prop := (t.tile k).eng.ops.map opShell = (s.tile k).eng.ops.map opShell

def LeavesOps {α : Type} (k : Nat) (m : A α) : Prop := ∀ s, KeepsOps k s (endState (m s))

theorem Leaves.ops {α : Type} {m : A α} (h : Leaves m) (k : Nat) : LeavesOps k m := fun s => by rw [KeepsOps, (h s).eng]

theorem leavesOps_bind {α β : Type} {k : Nat} {m : A α} {f : α → A β} (hm : LeavesOps k m) (hf : ∀ a, LeavesOps k (f a)) : LeavesOps k (m >>= f) := by
  intro s
  have hs := hm s
  rw [A_bind]
  cases h : m s with
  | ok a t =>
    rw [h] at hs
    exact (hf a t).trans hs
  | error e t =>
    rw [h] at hs
    exact hs

theorem leavesOps_ite {α : Type} {k : Nat} {c : Prop} [Decidable c] {m n : A α} (hm : LeavesOps k m) (hn : LeavesOps k n) : LeavesOps k (if c then m else n) := by
  split
  · exact hm
  · exact hn

/-- What an operation has read changes. -/
theorem leavesOps_modOp {k id : Nat} {f : EngineOp → EngineOp} (hf : ∀ o, opShell (f o) = opShell o) : LeavesOps k (modOp k id f) := by
  intro s
  have heng : ((s.modEng k (fun e => { e with ops := e.ops.map (fun x => if x.id = id then f x else x) })).tile k).eng.ops
      = (s.tile k).eng.ops.map (fun x => if x.id = id then f x else x) := congrArg Engines.ops (eng_modEng s k _)
  refine (congrArg (List.map opShell) heng).trans ?_
  rw [List.map_map]
  refine List.map_congr_left fun x _ => ?_
  rw [Function.comp_apply]
  split
  · exact hf x
  · rfl

theorem op?_keepsOps {k id : Nat} {s t : State} (h : KeepsOps k s t) {o : EngineOp} (ho : (s.tile k).eng.op? id = some o) :
    ∃ o', (t.tile k).eng.op? id = some o' ∧ opShell o' = opShell o := by
  have hfind : ∀ e : Engines, (e.ops.map opShell).find? (fun o => decide (o.id = id)) = (e.op? id).map opShell := fun e => List.find?_map
  have hmap : ((t.tile k).eng.op? id).map opShell = ((s.tile k).eng.op? id).map opShell := by rw [← hfind, ← hfind, h]
  rw [ho, Option.map_some] at hmap
  exact Option.map_eq_some_iff.mp hmap

theorem leaves_readRows (r : Requester) (l : List (Word × Nat)) : Leaves (readRows r l) := by
  induction l with
  | nil => exact leaves_pure _
  | cons p l ih => exact leaves_bind (leaves_readAcc _ _) fun _ => leaves_bind ih fun _ => leaves_pure _

theorem leavesOps_readUnit (k : Nat) (o : EngineOp) (i : Nat) {read : Requester → A (List Byte)} (h : ∀ r, Leaves (read r)) :
    LeavesOps k (readUnit k o i read) := by
  unfold readUnit
  split
  · exact (leaves_pure _).ops k
  · exact leavesOps_bind ((leaves_twinStep _ _ (h _)).ops k) fun _ => leavesOps_bind (leavesOps_modOp fun _ => rfl) fun _ => (leaves_pure _).ops k

theorem leavesOps_writeUnit (k : Nat) (o : EngineOp) (i : Nat) (all : List Byte) (l : List (Word × Nat)) :
    ∀ n bs, LeavesOps k (writeUnit k o i all n l bs) := by
  induction l with
  | nil => exact fun n bs => leavesOps_modOp fun _ => rfl
  | cons p l ih =>
    intro n bs
    refine leavesOps_ite (ih _ _) (leavesOps_bind ((leaves_twinStep _ _ (leaves_writeAcc _ _ _)).ops k) fun _ => ?_)
    exact leavesOps_bind (leavesOps_modOp fun _ => rfl) fun _ => ih _ _

theorem leavesOps_copyGroup (k : Nat) (o : EngineOp) (g : Nat) : LeavesOps k (copyGroup k o g) := by
  refine leavesOps_bind (leavesOps_readUnit k o g fun r => leaves_readRows r _) fun bs => leavesOps_ite ?_ ?_
  · exact leavesOps_bind (leavesOps_modOp fun _ => rfl) fun _ => (leaves_pure _).ops k
  · exact leavesOps_bind (leavesOps_writeUnit k o g bs _ _ _) fun _ => (leaves_pure _).ops k

/-! ### Containment (R413) -/

theorem keepsAgents_held (s : State) (k : Nat) (f : Partition → Partition) : KeepsAgents s (match (s.tile k).work with
    | some u => s.modPart u.barKey f
    | none => s) := by
  split
  · exact keepsAgents_of_eq rfl rfl rfl
  · exact KeepsAgents.refl s

/-- Containment freezes its context; no other context changes, and no engine (R413). -/
theorem containCtx_froze (s : State) (k c : Nat) (cause : Cause) (tval : Word) (mm : Bool) :
    ∃ x : Ctx, KeepsAgents (s.setCtx k c x) (containCtx s k c cause tval mm) ∧ x.st = .frozen ∧ x.tcause = cause.code ∧ x.tval = tval := by
  refine ⟨_, (keepsAgents_held _ k _).trans (keepsAgents_raiseForced _ k 0x24 1), ?_, ?_, ?_⟩ <;> rfl

theorem containCtx_leaves (s : State) (k : Nat) {c : Nat} (cause : Cause) (tval : Word) (mm : Bool) (hc : c < 11) :
    ((containCtx s k c cause tval mm).tile k).eng = (s.tile k).eng ∧ ((containCtx s k c cause tval mm).ctx k c).st = .frozen ∧
      ((containCtx s k c cause tval mm).ctx k c).tcause = cause.code ∧ ((containCtx s k c cause tval mm).ctx k c).tval = tval := by
  obtain ⟨x, hkeep, hst, hcause, htval⟩ := containCtx_froze s k c cause tval mm
  rw [hkeep.ctx, State.ctx_setCtx _ _ _ _ hc]
  refine ⟨(hkeep.eng k).trans ?_, hst, hcause, htval⟩
  rw [State.setCtx, State.tile_setTile]
  rfl

/-- A containment event of an operation leaves its context frozen, with the operation's place of issue. -/
theorem containOp_leaves (s : State) (k : Nat) {c : Nat} (handle : Option Nat) (pc : Word) (cause : Cause) (tval : Word) (hc : c < 11) :
    let t := containOp s k c handle pc cause tval
    (t.tile k).eng = (s.tile k).eng ∧ (t.ctx k c).st = .frozen ∧ (t.ctx k c).tcause = cause.code ∧ (t.ctx k c).tval = tval ∧ (t.ctx k c).tpc = pc := by
  obtain ⟨heng, hst, hcause, htval⟩ := containCtx_leaves s k cause tval false hc
  refine ⟨(eng_modCtx _ _ _ _ _).trans heng, ?_, ?_, ?_, ?_⟩ <;> rw [containOp, ctx_modCtx _ _ _ hc]
  · exact hst
  · exact hcause
  · exact htval

theorem opFault_eng (s : State) (k c : Nat) (pc : Word) (tag : BitVec 16) (cause : BitVec 8) (off : Nat) :
    ((opFault s k c pc tag cause off).tile k).eng = (s.tile k).eng := by
  rw [opFault_eq, (notify_tile _ _ _ _ _ _).1, faultRaised_tile]

/-! ### A step of a copy -/

section
variable {s s1 : State} {k id : Nat} {o : EngineOp} (h : (s.tile k).eng.op? id = some o)
include h

/-- An operation after one of its groups or elements: it goes on, or it is complete (R222, R225). -/
def copyNext (k id total : Nat) (o : EngineOp) (u : State) : State :=
  if o.done + 1 < total then (setOp u k { o with done := o.done + 1, waits := [] }).post (.copyComplete (tileDie k) (tileId k) id)
  else (endOp u k { o with done := o.done + 1, waits := [] }).modCtx k o.ctx (fun x => x.orFlags o.flags)

theorem advanceCopy_group {bs : List Byte} (hk : o.kind ≠ .copyr) (hroom : portRoom (s.tile k) o = true) (hrun : copyGroup k o o.done s = .ok bs s1) :
    advanceCopy k id s = copyNext k id (groups64 o.shape.len) (opNow s1 k o) (deliver s1 k o bs) := by
  simp only [advanceCopy, h, hk, hroom, hrun, if_false, if_true]
  rfl

theorem advanceCopy_full (hk : o.kind ≠ .copyr) (hroom : portRoom (s.tile k) o = false) :
    advanceCopy k id s = s.post (.copyComplete (tileDie k) (tileId k) id) := by
  simp only [advanceCopy, h, hk, hroom, if_false, Bool.false_eq_true]

theorem advanceCopy_elem {f : Flags} (hk : o.kind = .copyr) (hrun : copyrElem k o o.done s = .ok f s1) :
    advanceCopy k id s = copyNext k id o.sb.toNat { opNow s1 k o with flags := o.flags ||| f } s1 := by
  simp only [advanceCopy, h, hk, hrun, if_true]
  rfl

theorem advanceCopy_stopped {e : AccErr} (hk : o.kind ≠ .copyr) (hroom : portRoom (s.tile k) o = true) (hrun : copyGroup k o o.done s = .error e s1) :
    advanceCopy k id s = opStopped s1 k (opNow s1 k o) 0 e := by
  simp only [advanceCopy, h, hk, hroom, hrun, if_false, if_true]

/-- An operation that meets a containment event is gone, and its context frozen (R413). -/
theorem copy_contained {c : Cause} {v : Word} (hk : o.kind ≠ .copyr) (hroom : portRoom (s.tile k) o = true)
    (hrun : copyGroup k o o.done s = .error (.contain c v) s1) (hc : o.ctx < 11) :
    let t := advanceCopy k id s
    (t.tile k).eng.ops = (s1.tile k).eng.ops.filter (fun x => x.id != id) ∧
      (t.ctx k o.ctx).st = .frozen ∧ (t.ctx k o.ctx).tcause = c.code ∧ (t.ctx k o.ctx).tval = v ∧ (t.ctx k o.ctx).tpc = o.pc := by
  have hkeep : KeepsOps k s s1 := by
    have hleave := leavesOps_copyGroup k o o.done s
    rwa [hrun] at hleave
  obtain ⟨o1, h1, hshell⟩ := op?_keepsOps hkeep h
  have hctx : o1.ctx = o.ctx := (congrArg EngineOp.ctx hshell :)
  have hpc : o1.pc = o.pc := (congrArg EngineOp.pc hshell :)
  have hnow : opNow s1 k o = o1 := by rw [opNow, op?_id h, h1]; rfl
  have hend : advanceCopy k id s = containOp (stopOp k o1.id c.code (BitVec.ofNat 40 (ptrOff v)) s1) k o1.ctx o1.handle o1.pc c v := by
    rw [advanceCopy_stopped h hk hroom hrun, hnow]
    rfl
  obtain ⟨heng, hst, hcause, htval, htpc⟩ := containOp_leaves (stopOp k o1.id c.code (BitVec.ofNat 40 (ptrOff v)) s1) k o1.handle o1.pc c v (hctx ▸ hc)
  intro t
  rw [show t = _ from hend, heng, ← hctx, ← hpc]
  refine ⟨?_, hst, hcause, htval, htpc⟩
  rw [op?_id h1, stopOp_some h1, opFault_eng, endOp_tile, ← op?_id h1]
  rfl

end

/-! ### Units that are read and written in one piece (R222, R315) -/

theorem Map.set_set {α : Type} (m : Map α) (k : Nat) (a b : α) : Map.set (Map.set m k a) k b = Map.set m k b := by
  induction m with
  | nil => simp [Map.set]
  | cons e m ih =>
    obtain ⟨j, c⟩ := e
    by_cases hlt : k < j
    · simp [Map.set, hlt]
    · by_cases heq : k = j
      · simp [Map.set, heq]
      · simp [Map.set, hlt, heq, ih]

theorem modEng_modEng (s : State) (k : Nat) (f g : Engines → Engines) : (s.modEng k f).modEng k g = s.modEng k (fun e => g (f e)) := by
  have htile := eng_modEng s k f
  simp only [State.modEng, State.modTile] at htile ⊢
  rw [State.tile_setTile]
  simp only [State.setTile, Map.set_set]

/-- An operation of a tile, by its number, changes. -/
def opsMap (k id : Nat) (f : EngineOp → EngineOp) (t : State) : State :=
  t.modEng k (fun e => { e with ops := e.ops.map (fun x => if x.id = id then f x else x) })

/-- A unit that is kept and then performed leaves nothing of it. -/
theorem opsMap_drop_keep (k id i n : Nat) (bs : List Byte) (t : State) :
    opsMap k id (EngineOp.drop i) (opsMap k id (EngineOp.keep i bs n) t) = opsMap k id (EngineOp.drop i) t := by
  have hop : ∀ x : EngineOp, (fun x : EngineOp => if x.id = id then x.drop i else x) (if x.id = id then x.keep i bs n else x) = if x.id = id then x.drop i else x := by
    intro x
    by_cases hx : x.id = id
    · simp [hx, EngineOp.drop, EngineOp.keep]
    · simp [hx]
  rw [opsMap, opsMap, opsMap, modEng_modEng]
  simp only [List.map_map, Function.comp_def, hop]

section
variable {s u : State} {k i : Nat} {o : EngineOp} {bs : List Byte}

theorem readUnit_fresh {read : Requester → A (List Byte)} (h : o.got.find? (fun e => decide (e.1 = i)) = none)
    (hr : twinStep k (o.key i) (read (o.self k i)) s = .ok bs u) : readUnit k o i read s = .ok bs (opsMap k o.id (EngineOp.keep i bs 0) u) := by
  rw [readUnit, EngineOp.read?, h]
  exact A_bind_ok hr

theorem readUnit_had {read : Requester → A (List Byte)} {n : Nat} (h : o.got.find? (fun e => decide (e.1 = i)) = some (i, bs, n)) :
    readUnit k o i read s = .ok bs s := by
  rw [readUnit, EngineOp.read?, h]
  rfl

theorem writeUnit_whole {all : List Byte} {p : Word} {m : Nat} (h : ((o.read? i).map (fun e => e.2)).getD 0 = 0)
    (hw : twinStep k (o.key i) (writeAcc (o.self k i) (engAcc p m .store) (bs.take m)) s = .ok () u) :
    writeUnit k o i all 0 [(p, m)] bs s = .ok () (opsMap k o.id (EngineOp.drop i) u) := by
  have hfirst : ¬ 0 < ((o.read? i).map (fun e => e.2)).getD 0 := by rw [h]; decide
  rw [writeUnit, writeUnit]
  refine (congrFun (if_neg hfirst) s).trans ((A_bind_ok hw).trans ?_)
  exact congrArg (EStateM.Result.ok ()) (opsMap_drop_keep k o.id i 1 all u)

end

/-! ### A group of a copy -/

/-- A group of a contiguous copy is one piece. -/
theorem rowPieces_group (base : Word) {len g : Nat} (h : 64 * g < len) :
    rowPieces base (max 1 len) 0 65 (64 * g) (min 64 (len - 64 * g)) = [((formPtr base (64 * g : Nat)).1, min 64 (len - 64 * g))] := by
  have hmax : max 1 len = len := by omega
  have hn : min 64 (len - 64 * g) ≠ 0 := by omega
  have hmin : min (min 64 (len - 64 * g)) (len - 64 * g) = min 64 (len - 64 * g) := by omega
  rw [hmax, rowPieces, if_neg hn]
  simp only [Nat.mod_eq_of_lt h, hmin, Nat.sub_self, mul_zero, zero_add]
  rfl

theorem readRows_one (r : Requester) (p : Word) (n : Nat) (s : State) : readRows r [(p, n)] s = readAcc r (engAcc p n .load) s := by
  rw [readRows, A_bind]
  cases readAcc r (engAcc p n .load) s with
  | ok a t => simp [readRows, A_bind, A_pure]
  | error e t => rfl

theorem self_contiguous {o : EngineOp} (hg : o.kind ≠ .copyg) (k i : Nat) : o.self k i = { tile := k, ctx := o.ctx, engine := true, unit := opKey o.id 0, subreg := some o.subreg } := by
  rw [EngineOp.self, EngineOp.key, if_neg hg]

theorem key_contiguous {o : EngineOp} (hg : o.kind ≠ .copyg) (i : Nat) : o.key i = opKey o.id 0 := by rw [EngineOp.key, if_neg hg]

section
variable {s s1 s2 : State} {k g : Nat} {o : EngineOp} {bs : List Byte} (h2d : o.kind ≠ .copy2d) (hg : o.kind ≠ .copyg)
include h2d

theorem shape_contiguous : o.shape = { len := o.sb.toNat, rowb := max 1 o.sb.toNat, sstr := 0, dstr := 0 } := by
  unfold EngineOp.shape
  split
  next h => exact absurd h h2d
  next => rfl

include hg

/-- A group of a contiguous copy that has been read, now or before. -/
theorem copyGroup_written (hs : o.stream = false) (hlt : 64 * g < o.sb.toNat) (hlen : bs.length = min 64 (o.sb.toNat - 64 * g))
    (hread : readUnit k o g (fun r => readRows r [((formPtr o.sa (64 * g : Nat)).1, min 64 (o.sb.toNat - 64 * g))]) s = .ok bs s1)
    (hhad : ((o.read? g).map (fun e => e.2)).getD 0 = 0)
    (hw : writeAcc (o.self k g) (accAt (formPtr o.sd (64 * g : Nat)).1 0 (min 64 (o.sb.toNat - 64 * g)) 1 .store) bs (rewindTwin s1 k) = .ok () s2) :
    copyGroup k o g s = .ok bs (opsMap k o.id (EngineOp.drop g) (forgetTwin s2 k (opKey o.id 0))) := by
  have hpieces : ∀ base, rowPieces base o.shape.rowb 0 65 (64 * g) (min 64 (o.shape.len - 64 * g)) = [((formPtr base (64 * g : Nat)).1, min 64 (o.sb.toNat - 64 * g))] := by
    rw [shape_contiguous h2d]
    exact fun base => rowPieces_group base hlt
  have htarget : o.target g = [((formPtr o.sd (64 * g : Nat)).1, min 64 (o.sb.toNat - 64 * g))] := by
    rw [EngineOp.target, ← hpieces, shape_contiguous h2d]
  have hread' : readUnit k o g (fun r => readRows r (rowPieces o.sa o.shape.rowb o.shape.sstr 65 (64 * g) (min 64 (o.shape.len - 64 * g)))) s = .ok bs s1 := by
    rw [show o.shape.sstr = 0 by rw [shape_contiguous h2d], hpieces]
    exact hread
  have hwrite : twinStep k (o.key g) (writeAcc (o.self k g) (engAcc (formPtr o.sd (64 * g : Nat)).1 (min 64 (o.sb.toNat - 64 * g)) .store)
      (bs.take (min 64 (o.sb.toNat - 64 * g)))) s1 = .ok () (forgetTwin s2 k (o.key g)) := twinStep_run (by rw [← hlen, List.take_length, hlen]; exact hw)
  rw [key_contiguous hg] at hwrite
  rw [copyGroup, A_bind_ok hread', hs, htarget]
  exact A_bind_ok (writeUnit_whole hhad ((key_contiguous hg g).symm ▸ hwrite))

end

theorem copyGroup_single {s s1 s2 : State} {k g : Nat} {o : EngineOp} {bs : List Byte} (h2d : o.kind ≠ .copy2d) (hg : o.kind ≠ .copyg) (hs : o.stream = false)
    (hlt : 64 * g < o.sb.toNat) (hlen : bs.length = min 64 (o.sb.toNat - 64 * g))
    (hread : o.got.find? (fun e => decide (e.1 = g)) = none ∧ (∃ u, readAcc (o.self k g) (accAt (formPtr o.sa (64 * g : Nat)).1 0 (min 64 (o.sb.toNat - 64 * g)) 1 .load)
        (rewindTwin s k) = .ok bs u ∧ s1 = opsMap k o.id (EngineOp.keep g bs 0) (forgetTwin u k (opKey o.id 0))) ∨
      o.got.find? (fun e => decide (e.1 = g)) = some (g, bs, 0) ∧ s1 = s)
    (hw : writeAcc (o.self k g) (accAt (formPtr o.sd (64 * g : Nat)).1 0 (min 64 (o.sb.toNat - 64 * g)) 1 .store) bs (rewindTwin s1 k) = .ok () s2) :
    copyGroup k o g s = .ok bs (opsMap k o.id (EngineOp.drop g) (forgetTwin s2 k (opKey o.id 0))) := by
  rcases hread with ⟨hnone, u, hu, rfl⟩ | ⟨hsome, rfl⟩
  · refine copyGroup_written h2d hg hs hlt hlen (readUnit_fresh hnone ?_) (by rw [EngineOp.read?, hnone]; rfl) hw
    rw [key_contiguous hg]
    exact twinStep_run ((readRows_one _ _ _ _).trans hu)
  · exact copyGroup_written h2d hg hs hlt hlen (readUnit_had hsome) (by rw [EngineOp.read?, hsome]; rfl) hw

/-! ### Reductions of integers (R225) -/

theorem reduceElem_int {a b : Nat} (ha : a < 2 ^ 32) (hb : b < 2 ^ 32) : (reduceElem 0 3 a b).val = (a + b) % 2 ^ 32 ∧
    ((reduceElem 1 3 a b).val : Int) = (if (BitVec.ofNat 32 a).toInt ≤ (BitVec.ofNat 32 b).toInt then a else b) ∧
    ((reduceElem 2 3 a b).val : Int) = (if (BitVec.ofNat 32 a).toInt ≤ (BitVec.ofNat 32 b).toInt then b else a) := by
  have hadd : (reduceElem 0 3 a b).val = intAdd 32 a b := rfl
  have hmin : (reduceElem 1 3 a b).val = intMinS 32 a b := rfl
  have hmax : (reduceElem 2 3 a b).val = intMaxS 32 a b := rfl
  have hsame : (BitVec.ofNat 32 a).toInt = (BitVec.ofNat 32 b).toInt → a = b := fun h => by
    have hnat := congrArg BitVec.toNat (BitVec.eq_of_toInt_eq h)
    rwa [toNat_ofNat_of_lt ha, toNat_ofNat_of_lt hb] at hnat
  rw [hadd, hmin, hmax, intAdd, intMinS, intMaxS, readInt_eq_toInt (by decide), readInt_eq_toInt (by decide), Nat.mod_eq_of_lt hb]
  rcases lt_trichotomy (BitVec.ofNat 32 a).toInt (BitVec.ofNat 32 b).toInt with h | h | h
  · simp [h, h.le]
  · simp [hsame h]
  · simp [h.not_ge, h.not_gt]

theorem copySteps : CopySteps := by
  refine ⟨?_, ?_, fun a b => reduceElem_int⟩
  · intro s s1 die tile id o k next h
    refine ⟨fun bs hk hroom hrun => congrArg Host.Outcome.next (advanceCopy_group h hk hroom hrun),
      fun hk hroom => congrArg Host.Outcome.next (advanceCopy_full h hk hroom), fun f hk hrun => congrArg Host.Outcome.next (advanceCopy_elem h hk hrun), ?_⟩
    exact fun c v hk hroom hrun _ hc => ⟨_, rfl, copy_contained h hk hroom hrun hc⟩
  · intro s s2 k o g bs n key r ops had h2d hg hs hlt hlen s1 hread hw
    have hself : o.self k g = r := self_contiguous hg k g
    rw [← hself] at hread hw
    refine copyGroup_single h2d hg hs hlt hlen ?_ hw
    obtain ⟨hnone, u, hfresh | ⟨hsome, -⟩⟩ := hread
    · exact .inl ⟨hnone, u, hfresh⟩
    · exact absurd (hnone.symm.trans hsome) (by simp)

end Sys2Proof.Proofs
end

section
/-! Rows of a COPYG (R224, R315), and the engines' steps together. -/
namespace Sys2Proof.Proofs
open Sys2Proof Sys2Proof.Machine Sys2Proof.Claims

theorem accAt_p (base : Word) (n : Int) (size align : Nat) (kind : AccKind) : (accAt base n size align kind).p = (formPtr base n).1 := rfl

section
variable {o : EngineOp} (hk : o.kind = .copyg)
include hk

theorem key_gather (i : Nat) : o.key i = opKey o.id (i + 1) := by rw [EngineOp.key, if_pos hk]

theorem self_gather (k i : Nat) : o.self k i = { tile := k, ctx := o.ctx, engine := true, unit := opKey o.id (i + 1), subreg := some o.subreg } := by
  rw [EngineOp.self, key_gather hk]

/-! ### A row that is read and placed -/

variable {s s1 s2 : State} {k i x : Nat} {bs : List Byte} (hnone : o.got.find? (fun e => decide (e.1 = i)) = none)
  (hread : twinStep k (opKey o.id (i + 1)) (readAcc (o.self k i) (rowSource o x)) s = .ok bs s1)
include hnone hread

/-- After a fault a row is read, and no longer written (R315). -/
theorem gatherRow_failed (hf : o.failed ≠ none) : gatherRow k o i x s = .ok () (opsMap k o.id (EngineOp.keep i bs 0) s1) := by
  rw [← key_gather hk] at hread
  have hbad : ¬ o.failed.isNone = true := by rwa [Option.isNone_iff_eq_none]
  rw [gatherRow, A_bind_ok (readUnit_fresh hnone hread), if_neg hbad]
  rfl

theorem gatherRow_placed (hf : o.failed = none) (hlen : bs.length = gRowb o.desc)
    (hw : twinStep k (opKey o.id (i + 1)) (writeAcc (o.self k i) (accAt (formPtr o.sd (i * gRowb o.desc : Nat)).1 0 (gRowb o.desc) 1 .store) bs)
      (opsMap k o.id (EngineOp.keep i bs 0) s1) = .ok () s2) : gatherRow k o i x s = .ok () (opsMap k o.id (EngineOp.drop i) s2) := by
  rw [← key_gather hk] at hread hw
  have htarget : rowTarget o i = ((formPtr o.sd (i * gRowb o.desc : Nat)).1, gRowb o.desc) := by rw [rowTarget, accAt_p]
  rw [gatherRow, A_bind_ok (readUnit_fresh hnone hread), if_pos (by rw [hf]; rfl), htarget]
  refine writeUnit_whole (by rw [EngineOp.read?, hnone]; rfl) ?_
  rw [show bs.take (gRowb o.desc) = bs from hlen ▸ List.take_length]
  exact hw

end

/-! ### Indices, in batches of 64 (R315) -/

theorem readBatches_done {r : Requester} {idx : Word} {z n i : Nat} {l : List (Nat × Nat)} (u : State) (h : l.length = min n (i / 64 * 64 + 64)) :
    readBatches r idx z n i l u = .ok [] u := by
  rw [readBatches, h, List.drop_eq_nil_of_le (by rw [List.length_range])]
  rfl

theorem readBatches_last {r : Requester} {idx : Word} {z n i : Nat} {l : List (Nat × Nat)} {u t : State} {xs : List Byte}
    (h : l.length + 1 = min n (i / 64 * 64 + 64)) (hx : readAcc r (accAt idx (z * l.length : Nat) z z .load) u = .ok xs t) :
    readBatches r idx z n i l u = .ok [(l.length, natOfBytes xs)] t := by
  have hlast : (List.range (l.length + 1)).drop l.length = [l.length] := by
    rw [List.range_succ, List.drop_left' List.length_range]
  rw [readBatches, ← h, hlast]
  simp only [List.mapM_cons, List.mapM_nil, A_bind, hx, A_pure]

/-! ### A row that arrives -/

section
variable {s s1 s2 : State} {k id row : Nat} {o : EngineOp} {l : List (Nat × Nat)} (h : (s.tile k).eng.op? id = some o) (hk : o.kind = .copyg)
  (hnew : o.rows.contains row = false)
  (hl : twinStep k (opKey o.id (row + 1)) (readBatches (o.self k row) (BitVec.ofNat 64 (cfgField o.desc 16 8)) (if gPtrs o.desc then 8 else 4)
    (gRows o.desc) row o.batch) s = .ok l s1)
include h hk hnew hl

/-- The operation with the indices that it has read. -/
def withBatch (o : EngineOp) (l : List (Nat × Nat)) : EngineOp := { o with batch := o.batch ++ l }

/-- The row's own access, as it is made. -/
def rowStep (k row : Nat) (o : EngineOp) (l : List (Nat × Nat)) (s1 : State) : EStateM.Result AccErr State Unit :=
  gatherRow k (withBatch o l) row (batchIndex (withBatch o l).batch row) (setOp s1 k (withBatch o l))

theorem arriveRow_error {e : AccErr} (hrun : rowStep k row o l s1 = .error e s2) :
    arriveRow k id row s = opStopped s2 k (opNow s2 k (withBatch o l)) row e := by
  rw [← key_gather hk] at hl
  simp only [arriveRow, h, hnew, Bool.false_eq_true, if_false, hl]
  split
  next hx => cases hrun.symm.trans hx
  next hx =>
    cases hrun.symm.trans hx
    rfl

theorem arriveRow_failed (hrun : rowStep k row o l s1 = .ok () s2) (hf : (opNow s2 k (withBatch o l)).failed ≠ none) : arriveRow k id row s = s2 := by
  rw [← key_gather hk] at hl
  simp only [arriveRow, h, hnew, Bool.false_eq_true, if_false, hl]
  split
  next hx =>
    cases hrun.symm.trans hx
    exact if_pos (Option.isSome_iff_ne_none.mpr hf)
  next hx => cases hrun.symm.trans hx

/-- The operation with row `row` placed. -/
def withRow (o : EngineOp) (row : Nat) : EngineOp := { o with rows := insertNat o.rows row }

theorem arriveRow_placed (hrun : rowStep k row o l s1 = .ok () s2) (hf : (opNow s2 k (withBatch o l)).failed = none) :
    arriveRow k id row s = if (insertNat (opNow s2 k (withBatch o l)).rows row).length = gRows (opNow s2 k (withBatch o l)).desc
      then (setOp s2 k (withRow (opNow s2 k (withBatch o l)) row)).post (.copygComplete (tileDie k) (tileId k) id)
      else setOp s2 k (withRow (opNow s2 k (withBatch o l)) row) := by
  rw [← key_gather hk] at hl
  simp only [arriveRow, h, hnew, Bool.false_eq_true, if_false, hl]
  split
  next hx =>
    cases hrun.symm.trans hx
    refine (if_neg ?_).trans rfl
    rw [Option.isSome_iff_ne_none, not_not]
    exact hf
  next hx => cases hrun.symm.trans hx

end

/-! ### The operation as it stands after a step -/

theorem op?_setOp {s : State} {k : Nat} {o x : EngineOp} (h : ((setOp s k o).tile k).eng.op? o.id = some x) : x = o := by
  have hid := op?_id h
  rw [setOp, eng_modEng] at h
  obtain ⟨y, -, hy⟩ := List.mem_map.mp (List.mem_of_find?_eq_some h)
  by_cases hsame : y.id = o.id
  · rw [if_pos hsame] at hy
    exact hy.symm
  · rw [if_neg hsame] at hy
    exact absurd (hy ▸ hid) hsame

theorem leavesOps_gatherRow (k : Nat) (o : EngineOp) (i x : Nat) : LeavesOps k (gatherRow k o i x) := by
  refine leavesOps_bind (leavesOps_readUnit k o i fun r => leaves_readAcc r _) fun bs => leavesOps_ite ?_ ((leaves_pure _).ops k)
  exact leavesOps_writeUnit k o i bs _ _ _

/-- A row's own access leaves the operation but for what it has read. -/
theorem opNow_shell {s t : State} {k : Nat} {o : EngineOp} (h : KeepsOps k (setOp s k o) t) : opShell (opNow t k o) = opShell o := by
  unfold opNow
  cases hop : (t.tile k).eng.op? o.id with
  | none => rfl
  | some x =>
    obtain ⟨y, hy, hshell⟩ := op?_keepsOps h.symm hop
    rw [op?_setOp hy] at hshell
    exact hshell.symm

theorem opStopped_later {s : State} {k row : Nat} {o : EngineOp} {c : Cause} {v : Word} (h : ∃ e, o.failed = some e ∧ e.1 ≤ row) :
    opStopped s k o row (.trap c v) = s := by
  obtain ⟨e, he, hle⟩ := h
  simp [opStopped, he, hle]

/-- Of the rows that fault the lowest stays as the one that is reported (R315). -/
theorem opStopped_lowest {s : State} {k row : Nat} {o : EngineOp} {c : Cause} {v : Word} (h : ∀ e, o.failed = some e → row < e.1) :
    let off := BitVec.ofNat 40 (ptrOff v)
    let t := opStopped s k o row (.trap c v)
    t.tiles = (setOp s k { o with failed := some (row, c.code, off) }).tiles ∧ .engineFault (tileDie k) (tileId k) o.id c.code off ∈ t.pending ∧
      ∀ c' off', .engineFault (tileDie k) (tileId k) o.id c' off' ∈ t.pending → c' = c.code ∧ off' = off := by
  have hfirst : o.failed.any (fun e => decide (e.1 ≤ row)) = false := by
    cases hf : o.failed with
    | none => rfl
    | some e => simpa using h e hf
  simp only [opStopped, hfirst, Bool.false_eq_true, if_false]
  refine ⟨rfl, ?_, fun c' off' hmem => ?_⟩
  · simp [State.post]
  · simpa [State.post] using hmem

/-- A row of a COPYG that arrives: what it leaves by the end of its own access (R315). -/
theorem gather_arrives {s s1 : State} {die tile id row : Nat} {o : EngineOp} {l : List (Nat × Nat)} (h : (s.tile (tileKey die tile)).eng.op? id = some o)
    (hk : o.kind = .copyg) (hnew : o.rows.contains row = false)
    (hl : twinStep (tileKey die tile) (opKey o.id (row + 1)) (readBatches (o.self (tileKey die tile) row) (BitVec.ofNat 64 (cfgField o.desc 16 8))
      (if gPtrs o.desc then 8 else 4) (gRows o.desc) row o.batch) s = .ok l s1) :
    let k := tileKey die tile
    let runs (t : State) : Prop := exec (.gatherRowArrive die tile id row) s = .next t
    (∀ s2, rowStep k row o l s1 = .ok () s2 → let o2 := opNow s2 k (withBatch o l)
      let u := setOp s2 k (withRow o2 row)
      (o2.failed ≠ none → runs s2) ∧
      (o2.failed = none → runs (if (insertNat o2.rows row).length = gRows o.desc then u.post (.copygComplete (tileDie k) (tileId k) id) else u))) ∧
    (∀ c v s2, rowStep k row o l s1 = .error (.trap c v) s2 → let o2 := opNow s2 k (withBatch o l)
      let off : BitVec 40 := BitVec.ofNat 40 (ptrOff v)
      ((∃ e, o2.failed = some e ∧ e.1 ≤ row) → runs s2) ∧
      ((∀ e, o2.failed = some e → row < e.1) → ∃ t, runs t ∧ t.tiles = (setOp s2 k { o2 with failed := some (row, c.code, off) }).tiles ∧
        .engineFault (tileDie k) (tileId k) o2.id c.code off ∈ t.pending ∧
        ∀ c' off', .engineFault (tileDie k) (tileId k) o2.id c' off' ∈ t.pending → c' = c.code ∧ off' = off)) ∧
    (∀ w s2, rowStep k row o l s1 = .error (.refer w) s2 → let o2 := opNow s2 k (withBatch o l)
      runs (setOp s2 k { o2 with waits := o2.waits ++ [{ w with elem := row }] })) := by
  intro k runs
  refine ⟨fun s2 hrun => ⟨fun hf => ?_, fun hf => ?_⟩, fun c v s2 hrun => ⟨fun hlow => ?_, fun hhigh => ?_⟩, fun w s2 hrun => ?_⟩
  · exact congrArg Host.Outcome.next (arriveRow_failed h hk hnew hl hrun hf)
  · have hkeep : KeepsOps k (setOp s1 k (withBatch o l)) s2 := by
      have hleave := leavesOps_gatherRow k (withBatch o l) row (batchIndex (withBatch o l).batch row) (setOp s1 k (withBatch o l))
      rwa [show gatherRow k _ row _ _ = _ from hrun] at hleave
    have hdesc : (opNow s2 k (withBatch o l)).desc = o.desc := (congrArg EngineOp.desc (opNow_shell hkeep) :)
    have hplaced := arriveRow_placed h hk hnew hl hrun hf
    rw [hdesc] at hplaced
    exact congrArg Host.Outcome.next hplaced
  · exact congrArg Host.Outcome.next ((arriveRow_error h hk hnew hl hrun).trans (opStopped_later hlow))
  · exact ⟨_, congrArg Host.Outcome.next (arriveRow_error h hk hnew hl hrun), opStopped_lowest hhigh⟩
  · exact congrArg Host.Outcome.next (arriveRow_error h hk hnew hl hrun)

theorem gatherSteps : GatherSteps := by
  intro s die tile id row o k key r z idx io runs h hk
  have hself : o.self k row = r := self_gather hk k row
  refine ⟨fun l s1 hnew hl => gather_arrives h hk hnew (hself ▸ hl), fun x bs s1 s2 hnone hlen hread => ?_, fun n i l u t hl => ?_,
    fun hroom hheld => copyg_completes h hroom hheld⟩
  · have hread' : twinStep k (opKey o.id (row + 1)) (readAcc (o.self k row) (rowSource o x)) s = .ok bs s1 := hself ▸ hread
    exact ⟨gatherRow_failed hk hnone hread', fun hf hw => gatherRow_placed hk hnone hread' hf hlen (hself ▸ hw)⟩
  · refine ⟨readBatches_done u hl, fun j e hje _ xs hx => readBatches_last ?_ hx⟩
    rw [← hl, hje, List.length_append, List.length_singleton]

/-- Settles O54: the matrix unit by the elements that an MMA writes, the epilogue engine by its rows in order, and the engine's operations by what an access
leaves of the operations in flight. -/
theorem engineEvents : Obligations.EngineEvents := ⟨mmaCompletes, epilogueDrains, copySteps, gatherSteps, engineFaults⟩

end Sys2Proof.Proofs
end
